-- ==== Sys2Proof/Word.lean ====
section
/-! DEFINITION. The word types: register words, bytes and 64-bit quantities (R3, R4). -/

namespace Sys2Proof

/-- A 32-bit register word (R3). -/
abbrev Word := BitVec 32

/-- One byte of memory (R4). -/
abbrev Byte := BitVec 8

end Sys2Proof
end

