-- ==== Sys2Proof/Machine/Types.lean ====
section
/-! DEFINITION. The operand types of the commands (Syntax.lean) and the instruction types of the engines and
sequencers. Times called "stamp" count sixteenths of a tb (R47); `tb` operands count tb. -/

namespace Sys2Proof

/-- The masters of an access (Table 11-2). `secure` is the security of a host transaction (R373). -/
inductive Master where
  | host (secure : Bool)
  | engine (t : Fin 64)
  | spill
  | contact
  | safelight
  | recordCtl
  | copy (k : Fin 8)
  | bgTest
  deriving DecidableEq, Repr

/-- Access sizes (R337, R363). -/
inductive Size where
  | b1 | b2 | b4
  deriving DecidableEq, Repr

/-- The operations of OP 0x01 (Table 5-7). -/
inductive AluOp where
  | add | sub | and | or | xor | sll | srl | sra | slt | sltu
  | min | max | minu | maxu | mul | mulh | mulhu
  deriving DecidableEq, Repr

/-- The divide operations of Table 5-7 (R183). -/
inductive DivOp where
  | div | divu | rem | remu
  deriving DecidableEq, Repr

/-- The I-format operations of Table 5-8 but for the shifts. -/
inductive ImmOp where
  | addi | cmpi | andi | ori | xori | lui
  deriving DecidableEq, Repr

/-- The immediate shifts of Table 5-8. -/
inductive ShiftOp where
  | slli | srli | srai
  deriving DecidableEq, Repr

/-- The load forms of Table 5-9. -/
inductive LoadOp where
  | w | h | hu | b | bu
  deriving DecidableEq, Repr

/-- The store forms of Table 5-9. -/
inductive StoreOp where
  | w | h | b
  deriving DecidableEq, Repr

abbrev Reg5 := Fin 32
abbrev Unit3 := Fin 8

/-- The instructions of an Enlarger engine (Tables 5-4 to 5-10). -/
inductive EngIns where
  | alu (op : AluOp) (rd ra rb : Reg5)
  | divide (op : DivOp) (rd ra rb : Reg5)
  | imm (op : ImmOp) (rd ra : Reg5) (i : BitVec 16)
  | shift (op : ShiftOp) (rd ra : Reg5) (sh : Fin 32)
  | trayLoad (op : LoadOp) (rd ra : Reg5) (off : BitVec 16)
  | trayStore (op : StoreOp) (rd ra : Reg5) (off : BitVec 16)
  | load (op : LoadOp) (rd ra : Reg5) (off : BitVec 16)
  | store (op : StoreOp) (rd ra : Reg5) (off : BitVec 16)
  | bcond (cond : Fin 16) (off : BitVec 16)
  | jal (rd : Reg5) (tgt : BitVec 12)
  | jalr (rd ra : Reg5)
  | wait (rd : Reg5) (mask : BitVec 16)
  | carm (rd ra : Reg5)
  | ccan (rd ra : Reg5)
  | pos (rd : Reg5) (n : Unit3)
  | spkr (rd : Reg5) (n : Unit3) (sel : Fin 16)
  | p2t (rd ra : Reg5) (n : Unit3)
  | t2p (rd ra : Reg5) (n : Unit3)
  | pdist (rd ra rb : Reg5) (n : Unit3)
  | cap (rd : Reg5) (ch : Fin 128)
  | snap (rd ra : Reg5) (mode k : Fin 4)
  | snrel
  | fixsel (k : Fin 4) (s : Bool)
  | fixarm (rd ra : Reg5) (k kind : Fin 4) (u : Unit3)
  | send (rd ra rb : Reg5)
  | recv (rd : Reg5)
  | record (ra : Reg5) (kind : Fin 64)
  | mfs (rd : Reg5) (sel : Fin 16)
  | mts (sel : Fin 16) (ra : Reg5)
  | fence
  | halt
  deriving DecidableEq, Repr

/-- The instructions of a Shutter sequencer (Table 8-2). -/
inductive SeqIns where
  | br (cond : Fin 16) (pin : Fin 32) (addr : Fin 64)
  | dec (cy : Bool) (addr : Fin 64)
  | await (lvl : Bool) (src : Fin 4) (n : Fin 128)
  | emit (dst : Fin 8) (bits : Fin 32)
  | gather (src : Fin 8) (bits : Fin 32)
  | xfer (dst src : Fin 8) (op : Fin 4)
  | take (wait ifx : Bool)
  | give (wait iff : Bool)
  | drv (first : Fin 32) (cnt : Fin 8) (data : BitVec 7)
  | dirs (first : Fin 32) (cnt : Fin 8) (data : BitVec 7)
  | ldc (cy : Bool) (imm : BitVec 14)
  | flag (k : Fin 4)
  | stop
  deriving DecidableEq, Repr

/-- What acts on a sequencer at a core edge after the writes of that edge (R286): SHIFT_CLEAR, a start (at SHQn_START.ADDR, or at the
address of a calendar entry), HALT, RESUME, the tick, the instruction of a row (log entry 12), DIV_RST. -/
inductive ShqAct where
  | clear
  | start (addr : Option Nat)
  | halt
  | resume
  | tick
  | ins (i : SeqIns) (hold : Nat)
  | divRst
  deriving DecidableEq, Repr

/-- The inputs of a sprocket unit (R42). -/
inductive SpkInput where
  | a | b | z
  deriving DecidableEq, Repr

/-- When a level outside changes, and when it goes back, where it has: stamps in sixteenths of a tb (R122, R257). -/
structure InEdge where
  stamp : Nat
  back  : Option Nat
  deriving DecidableEq, Repr

/-- A change of trip input `i` to level `lvl` (R257). -/
structure TripEdge where
  i    : Fin 16
  lvl  : Bool
  edge : InEdge
  deriving DecidableEq, Repr

/-- An edge at an input of a unit: which input, the level after it, its TDC stamp in sixteenths, and the stamp of the input's
next transition where one has followed, by which the glitch filter judges whether the level held (R43). -/
structure SpkEdge where
  input : SpkInput
  rise  : Bool
  stamp : Nat
  back  : Option Nat
  deriving DecidableEq, Repr

/-- Where a mark of phase measurement comes from is the unit's SRC; the command carries the polarity, the stamp and `back` of
the transition, and the level that the input's filter had accepted before it (R43, R79). -/
structure Mark where
  rise  : Bool
  was   : Bool
  stamp : Nat
  back  : Option Nat
  deriving DecidableEq, Repr

/-- A status frame as received on a strip link (Table 6-3). -/
structure StatusFrame where
  crcOk : Bool
  seq   : BitVec 8
  dstat : BitVec 8
  fault : BitVec 128
  temp  : BitVec 8
  rxerr : BitVec 8
  /-- Code and disparity violations and control characters that no link admits, among the characters received (R230). -/
  codeErrs : BitVec 8
  deriving DecidableEq, Repr

/-- A driver's answer to a training request (R236), with the measured round trip in tb. -/
structure TrainAnswer where
  crcOk   : Bool
  version : BitVec 8
  cap     : BitVec 8
  turn    : BitVec 8
  drvRef  : BitVec 16
  ident   : Word
  rtt     : Nat
  codeErrs : BitVec 8
  deriving DecidableEq, Repr

/-- A unit record of a down frame (Table 14-2). -/
structure UnitRec where
  stampLo : Word
  stampFr : Fin 16
  gapMiss : Fin 8
  state   : Fin 8
  dirRev  : Bool
  guardOk : Bool
  inGap   : Bool
  tValid  : Bool
  lastSyn : Bool
  k       : BitVec 16
  pos     : Word
  cyc     : Word
  tPred   : Word
  deriving DecidableEq, Repr

/-- The command field of a down frame (Table 14-3). -/
structure CasCommand where
  code  : BitVec 8
  fixCh : Fin 4
  kind  : Fin 4
  spk   : Fin 8
  cseq  : BitVec 8
  newFmt : Fin 16
  lo    : Word
  hi    : Word
  deriving DecidableEq, Repr

/-- A down frame as received on link 7 (Table 14-1), with the TDC stamp of its K28.5. -/
structure DownFrame where
  crcOk : Bool
  cv    : BitVec 8
  seq   : BitVec 8
  tbW   : Nat
  dly   : Nat
  units : List UnitRec
  cmd   : CasCommand
  stamp : Nat
  codeErrs : BitVec 8
  deriving DecidableEq, Repr

/-- A member's record in an up frame (Table 14-4). -/
structure MemberRec where
  negVer   : Word
  pverMax  : Fin 16
  activeFmt : Fin 16
  present  : Bool
  tbLock   : Bool
  joinWait : Bool
  nack     : Bool
  lateFix  : Bool
  mirErr   : Bool
  cseq     : BitVec 8
  cause    : BitVec 8
  deriving DecidableEq, Repr

/-- An up frame (Table 14-4): the record of role r, r = 1–7, at index r − 1. -/
structure UpFrame where
  crcOk   : Bool
  seq     : BitVec 8
  records : List MemberRec
  codeErrs : BitVec 8
  deriving DecidableEq, Repr

/-- What the SFDP tables of the attached flash give (R377), with its program and erase suspend (R431). -/
structure NvmFacts where
  answers : Bool
  sfdp    : Bool
  log2    : Nat
  addr4   : Bool
  addr4Table : Bool
  readInstr : BitVec 8
  suspend : Bool
  deriving DecidableEq, Repr

/-- The attached flash: what it reports and the bytes it holds, by offset. -/
structure FlashChip where
  facts : NvmFacts
  bytes : List (Nat × Byte)
  deriving DecidableEq, Repr

/-- The monitored clocks of Table 15-3. -/
inductive ClockId where
  | refclk | pllA | pllB | sltOsc
  deriving DecidableEq, Repr

end Sys2Proof
end

