-- ==== Sys2Proof/Syntax.lean ====
section
/-! DEFINITION. `Instr`: the commands and events of the SQN9648, one constructor per row of spec/opcode_table.json.
A register-write command carries the writing master and the word written; an event carries what it brings from outside. -/

namespace Sys2Proof

/-- The commands of the block. Each docstring names the row's rule. -/
inductive Instr where
  /-- POWER_ON_RESET (R451). -/
  | powerOnReset (hostMode : Bool) (role : Fin 8)
  /-- PIN_RESET (R452). -/
  | pinReset (hostMode : Bool) (role : Fin 8)
  /-- CORE_RESET (R17). -/
  | coreReset (m : Master) (key : BitVec 16)
  /-- FULL_RESET (R17). -/
  | fullReset (m : Master) (key : BitVec 16)
  /-- PLL_LOCK (R20). -/
  | pllLock
  /-- TB_LO_READ (R21). -/
  | tbLoRead (m : Master)
  /-- ID_SERIAL_LO_READ (R367). -/
  | idSerialLoRead (m : Master)
  /-- CLEAR_ON_READ (R370). -/
  | clearOnRead (m : Master) (addr : Nat) (sz : Size)
  /-- REGISTER_WRITE (R371). -/
  | registerWrite (m : Master) (addr : Nat) (w : Word)
  /-- STAGED_WRITE (R32). -/
  | stagedWrite (m : Master) (addr : Nat) (w : Word)
  /-- CS_TAKE (R28). -/
  | csTake (m : Master) (mode fx : Fin 4)
  /-- CS_RELEASE (R28). -/
  | csRelease (m : Master)
  /-- CONTACT_SHEET_FREEZE (R26). -/
  | contactSheetFreeze
  /-- CS_READY (R27). -/
  | csReady
  /-- SNAPSHOT_READ (R27). -/
  | snapshotRead (m : Master) (off : Fin 4096)
  /-- FIX_CHANNEL_ARM (R37). -/
  | fixChannelArm (m : Master) (k : Fin 4)
  /-- FIX_CHANNEL_CANCEL (R38). -/
  | fixChannelCancel (m : Master) (k : Fin 4)
  /-- FIX_CHANNEL_DISCARD (R38). -/
  | fixChannelDiscard (m : Master) (k : Fin 4)
  /-- FIX_COMMIT (R34). -/
  | fixCommit (k : Fin 4)
  /-- SPK_ENABLE (R85). -/
  | spkEnable (m : Master) (n : Unit3) (w : Word)
  /-- SPK_DISABLE (R65). -/
  | spkDisable (m : Master) (n : Unit3) (w : Word)
  /-- SPK_TOOTH_EDGE (R63). -/
  | spkToothEdge (n : Unit3) (e : SpkEdge)
  /-- SPK_INDEX_EDGE (R61). -/
  | spkIndexEdge (n : Unit3) (e : SpkEdge)
  /-- INPUT_FAULT (R46). -/
  | inputFault (n : Unit3) (input : SpkInput)
  /-- MISSED_TOOTH (R57). -/
  | missedTooth (n : Unit3)
  /-- VIRTUAL_TOOTH (R52). -/
  | virtualTooth (n : Unit3)
  /-- STOP_DETECT (R74). -/
  | stopDetect (n : Unit3)
  /-- RESYNC (R66). -/
  | resync (m : Master) (n : Unit3)
  /-- SPK_CLR_CNT (R84). -/
  | spkClrCnt (m : Master) (n : Unit3)
  /-- DROP_JOURNAL (R75). -/
  | dropJournal (m : Master) (n : Unit3)
  /-- SPK_POS_READ (R51). -/
  | spkPosRead (m : Master) (n : Unit3)
  /-- SPK_TS_LO_READ (R47). -/
  | spkTsLoRead (m : Master) (n : Unit3)
  /-- PHASE_ENABLE (R82). -/
  | phaseEnable (m : Master) (n : Unit3) (w : Word)
  /-- PHASE_MARK (R79). -/
  | phaseMark (n : Unit3) (mark : Mark)
  /-- PH_POS_READ (R81). -/
  | phPosRead (m : Master) (n : Unit3)
  /-- CHANNEL_CTL_WRITE (R93). -/
  | channelCtlWrite (m : Master) (ch : Fin 128) (w : Word)
  /-- COUNTER_WRITE (R94). -/
  | counterWrite (m : Master) (ch : Fin 128) (w : Word)
  /-- COMPARE_WRITE (R100). -/
  | compareWrite (m : Master) (ch : Fin 128) (slot : Fin 4) (w : Word)
  /-- COMPARE_FIRE (R97). -/
  | compareFire (ch : Fin 128) (slot : Fin 4)
  /-- COMPARE_FIRE_WRAP (R104). -/
  | compareFireWrap (ch : Fin 128) (slot : Fin 4)
  /-- COMPARE_FIRE_UPDOWN (R105). -/
  | compareFireUpdown (ch : Fin 128) (slot : Fin 4)
  /-- PULSE_END (R108). -/
  | pulseEnd (ch : Fin 128)
  /-- FORCE (R107). -/
  | force (m : Master) (ch : Fin 128) (f : Fin 4)
  /-- FLUSH (R117). -/
  | flush (m : Master) (ch : Fin 128)
  /-- CAPNOW (R113). -/
  | capnow (m : Master) (ch : Fin 128)
  /-- DISARM (R102). -/
  | disarm (m : Master) (ch : Fin 128) (slots : BitVec 4)
  /-- TIO_INPUT_CHANGE (R122). -/
  | tioInputChange (pin : Fin 128) (lvl : Bool) (e : InEdge)
  /-- CAPTURE_READ (R116). -/
  | captureRead (m : Master) (ch : Fin 128)
  /-- VCAL_ROUND (R119). -/
  | vcalRound (bank : Fin 5) (fails : Word)
  /-- BANK_SUPPLY_MISMATCH (R123). -/
  | bankSupplyMismatch (bank : Fin 4) (vdet : Bool)
  /-- CAL_ARM (R159). -/
  | calArm (m : Master) (bank : Fin 2)
  /-- CAL_CANCEL (R159). -/
  | calCancel (m : Master) (bank : Fin 2) (handle : Word)
  /-- CAL_INSERT (R133). -/
  | calInsert
  /-- ENTRY_CANCEL (R135). -/
  | entryCancel
  /-- CAL_FLUSH (R136). -/
  | calFlush (m : Master) (w : Word)
  /-- FLUSH_COMPLETE (R136). -/
  | flushComplete
  /-- CAL_CLR_CNT (R158). -/
  | calClrCnt (m : Master)
  /-- ENTRY_LOAD (R150). -/
  | entryLoad
  /-- ENTRY_DISPATCH (R151). -/
  | entryDispatch
  /-- SPILL_ENABLE (R153). -/
  | spillEnable (m : Master) (w : Word)
  /-- SPILL_MOVE (R155). -/
  | spillMove
  /-- ADD (R182). -/
  | add (t : Fin 64) (rd ra rb : Reg5)
  /-- SUB (R182). -/
  | sub (t : Fin 64) (rd ra rb : Reg5)
  /-- AND (R182). -/
  | engAnd (t : Fin 64) (rd ra rb : Reg5)
  /-- OR (R182). -/
  | engOr (t : Fin 64) (rd ra rb : Reg5)
  /-- XOR (R182). -/
  | engXor (t : Fin 64) (rd ra rb : Reg5)
  /-- SLL (R182). -/
  | sll (t : Fin 64) (rd ra rb : Reg5)
  /-- SRL (R182). -/
  | srl (t : Fin 64) (rd ra rb : Reg5)
  /-- SRA (R182). -/
  | sra (t : Fin 64) (rd ra rb : Reg5)
  /-- SLT (R182). -/
  | slt (t : Fin 64) (rd ra rb : Reg5)
  /-- SLTU (R182). -/
  | sltu (t : Fin 64) (rd ra rb : Reg5)
  /-- MIN (R182). -/
  | min (t : Fin 64) (rd ra rb : Reg5)
  /-- MAX (R182). -/
  | max (t : Fin 64) (rd ra rb : Reg5)
  /-- MINU (R182). -/
  | minu (t : Fin 64) (rd ra rb : Reg5)
  /-- MAXU (R182). -/
  | maxu (t : Fin 64) (rd ra rb : Reg5)
  /-- MUL (R182). -/
  | mul (t : Fin 64) (rd ra rb : Reg5)
  /-- MULH (R182). -/
  | mulh (t : Fin 64) (rd ra rb : Reg5)
  /-- MULHU (R182). -/
  | mulhu (t : Fin 64) (rd ra rb : Reg5)
  /-- DIV (R183). -/
  | div (t : Fin 64) (rd ra rb : Reg5)
  /-- DIVU (R183). -/
  | divu (t : Fin 64) (rd ra rb : Reg5)
  /-- REM (R183). -/
  | rem (t : Fin 64) (rd ra rb : Reg5)
  /-- REMU (R183). -/
  | remu (t : Fin 64) (rd ra rb : Reg5)
  /-- ADDI (R184). -/
  | addi (t : Fin 64) (rd ra : Reg5) (i : BitVec 16)
  /-- CMPI (R184). -/
  | cmpi (t : Fin 64) (ra : Reg5) (i : BitVec 16)
  /-- ANDI (R184). -/
  | andi (t : Fin 64) (rd ra : Reg5) (i : BitVec 16)
  /-- ORI (R184). -/
  | ori (t : Fin 64) (rd ra : Reg5) (i : BitVec 16)
  /-- XORI (R184). -/
  | xori (t : Fin 64) (rd ra : Reg5) (i : BitVec 16)
  /-- LUI (R184). -/
  | lui (t : Fin 64) (rd : Reg5) (i : BitVec 16)
  /-- SLLI (R184). -/
  | slli (t : Fin 64) (rd ra : Reg5) (sh : Fin 32)
  /-- SRLI (R184). -/
  | srli (t : Fin 64) (rd ra : Reg5) (sh : Fin 32)
  /-- SRAI (R184). -/
  | srai (t : Fin 64) (rd ra : Reg5) (sh : Fin 32)
  /-- LDT (R171). -/
  | ldt (t : Fin 64) (rd ra : Reg5) (off : BitVec 16)
  /-- LDTH (R171). -/
  | ldth (t : Fin 64) (rd ra : Reg5) (off : BitVec 16)
  /-- LDTHU (R171). -/
  | ldthu (t : Fin 64) (rd ra : Reg5) (off : BitVec 16)
  /-- LDTB (R171). -/
  | ldtb (t : Fin 64) (rd ra : Reg5) (off : BitVec 16)
  /-- LDTBU (R171). -/
  | ldtbu (t : Fin 64) (rd ra : Reg5) (off : BitVec 16)
  /-- STT (R171). -/
  | stt (t : Fin 64) (rd ra : Reg5) (off : BitVec 16)
  /-- STTH (R171). -/
  | stth (t : Fin 64) (rd ra : Reg5) (off : BitVec 16)
  /-- STTB (R171). -/
  | sttb (t : Fin 64) (rd ra : Reg5) (off : BitVec 16)
  /-- LD (R172). -/
  | ld (t : Fin 64) (rd ra : Reg5) (off : BitVec 16)
  /-- LDH (R172). -/
  | ldh (t : Fin 64) (rd ra : Reg5) (off : BitVec 16)
  /-- LDHU (R172). -/
  | ldhu (t : Fin 64) (rd ra : Reg5) (off : BitVec 16)
  /-- LDB (R172). -/
  | ldb (t : Fin 64) (rd ra : Reg5) (off : BitVec 16)
  /-- LDBU (R172). -/
  | ldbu (t : Fin 64) (rd ra : Reg5) (off : BitVec 16)
  /-- ST (R172). -/
  | st (t : Fin 64) (rd ra : Reg5) (off : BitVec 16)
  /-- STH (R172). -/
  | sth (t : Fin 64) (rd ra : Reg5) (off : BitVec 16)
  /-- STB (R172). -/
  | stb (t : Fin 64) (rd ra : Reg5) (off : BitVec 16)
  /-- FABRIC_ACCESS_COMPLETE (R173). -/
  | fabricAccessComplete (t : Fin 64)
  /-- B_COND (R180). -/
  | bCond (t : Fin 64) (cond : Fin 16) (off : BitVec 16)
  /-- JAL (R186). -/
  | jal (t : Fin 64) (rd : Reg5) (tgt : BitVec 12)
  /-- JALR (R186). -/
  | jalr (t : Fin 64) (rd ra : Reg5)
  /-- WAIT (R168). -/
  | wait (t : Fin 64) (rd : Reg5) (mask : BitVec 16)
  /-- THREAD_WAKE (R168). -/
  | threadWake (t : Fin 64)
  /-- CARM (R188). -/
  | carm (t : Fin 64) (rd ra : Reg5)
  /-- CCAN (R188). -/
  | ccan (t : Fin 64) (rd ra : Reg5)
  /-- POS (R190). -/
  | pos (t : Fin 64) (rd : Reg5) (n : Unit3)
  /-- SPKR (R190). -/
  | spkr (t : Fin 64) (rd : Reg5) (n : Unit3) (sel : Fin 16)
  /-- P2T (R191). -/
  | p2t (t : Fin 64) (rd ra : Reg5) (n : Unit3)
  /-- T2P (R192). -/
  | t2p (t : Fin 64) (rd ra : Reg5) (n : Unit3)
  /-- PDIST (R193). -/
  | pdist (t : Fin 64) (rd ra rb : Reg5) (n : Unit3)
  /-- CAP (R194). -/
  | cap (t : Fin 64) (rd : Reg5) (ch : Fin 128)
  /-- SNAP (R195). -/
  | snap (t : Fin 64) (rd ra : Reg5) (mode k : Fin 4)
  /-- SNREL (R195). -/
  | snrel (t : Fin 64)
  /-- FIXSEL (R196). -/
  | fixsel (t : Fin 64) (k : Fin 4) (st : Bool)
  /-- FIXARM (R197). -/
  | fixarm (t : Fin 64) (rd ra : Reg5) (k kind : Fin 4) (u : Unit3)
  /-- SEND (R170). -/
  | send (t : Fin 64) (rd ra rb : Reg5)
  /-- RECV (R170). -/
  | recv (t : Fin 64) (rd : Reg5)
  /-- REC (R198). -/
  | engRec (t : Fin 64) (ra : Reg5) (kind : Fin 64)
  /-- MFS (R199). -/
  | mfs (t : Fin 64) (rd : Reg5) (sel : Fin 16)
  /-- MTS (R199). -/
  | mts (t : Fin 64) (sel : Fin 16) (ra : Reg5)
  /-- FENCE (R174). -/
  | fence (t : Fin 64)
  /-- HALT (R200). -/
  | halt (t : Fin 64)
  /-- THREAD_WATCHDOG (R203). -/
  | threadWatchdog (t : Fin 64)
  /-- BREAKPOINT (R204). -/
  | breakpoint (t : Fin 64)
  /-- THREAD_START (R164). -/
  | threadStart (m : Master) (t : Fin 64)
  /-- THREAD_STOP (R164). -/
  | threadStop (m : Master) (t : Fin 64)
  /-- STEP (R205). -/
  | step (m : Master) (t : Fin 64)
  /-- CLR_EV (R167). -/
  | clrEv (m : Master) (t : Fin 64)
  /-- DBELL (R167). -/
  | dbell (m : Master) (t : Fin 64)
  /-- CLR_ECC (R162). -/
  | clrEcc (m : Master) (e : Fin 16)
  /-- ENGINE_DISABLE (R207). -/
  | engineDisable (m : Master) (e : Fin 16) (w : Word)
  /-- TMSG_WRITE (R170). -/
  | tmsgWrite (m : Master) (t : Fin 64) (w : Word)
  /-- WINDOW_ACCESS (R175). -/
  | windowAccess (m : Master) (e : Fin 16) (off : Fin 512) (wr : Option Word)
  /-- WORK_REGISTER_WRITE (R206). -/
  | workRegisterWrite (m : Master) (t : Fin 64) (r : Option Reg5) (w : Word)
  /-- CT_ENABLE (R211). -/
  | ctEnable (m : Master) (w : Word)
  /-- CT_GO (R216). -/
  | ctGo (m : Master)
  /-- CT_HALT (R219). -/
  | ctHalt (m : Master)
  /-- CT_BLANK (R219). -/
  | ctBlank (m : Master)
  /-- CT_JUMP (R214). -/
  | ctJump (m : Master)
  /-- CT_CLR_CNT (R240). -/
  | ctClrCnt (m : Master)
  /-- COLUMN_FETCH (R220). -/
  | columnFetch
  /-- FRAME_SAMPLE (R233). -/
  | frameSample (n : Unit3)
  /-- STATUS_FRAME (R234). -/
  | statusFrame (n : Unit3) (f : StatusFrame)
  /-- LINK_MODE_WRITE (R235). -/
  | linkModeWrite (m : Master) (n : Unit3) (w : Word)
  /-- LINK_ALIGN (R235). -/
  | linkAlign (n : Unit3)
  /-- TRAINING_REQUEST (R236). -/
  | trainingRequest (n : Unit3)
  /-- TRAINING_ANSWER (R236). -/
  | trainingAnswer (n : Unit3) (ans : TrainAnswer)
  /-- LINK_LOSS (R239). -/
  | linkLoss (n : Unit3) (lockLost : Bool)
  /-- AUTO_RETRAIN (R235). -/
  | autoRetrain (n : Unit3)
  /-- RETRAIN (R235). -/
  | retrain (m : Master) (n : Unit3)
  /-- LINK_CLR_CNT (R235). -/
  | linkClrCnt (m : Master) (n : Unit3)
  /-- EXG_ENABLE (R246). -/
  | exgEnable (m : Master) (g : Fin 16) (w : Word)
  /-- EXG_DISABLE (R246). -/
  | exgDisable (m : Master) (g : Fin 16) (w : Word)
  /-- EXG_GO (R246). -/
  | exgGo (m : Master) (w : Word)
  /-- EXG_STAGED_WRITE (R247). -/
  | exgStagedWrite (m : Master) (g : Fin 16) (off : Nat) (w : Word)
  /-- EXG_FIX (R252). -/
  | exgFix (m : Master) (g : Fin 16)
  /-- FIX_FORCE (R252). -/
  | fixForce (m : Master) (g : Fin 16)
  /-- EXG_DISCARD (R252). -/
  | exgDiscard (m : Master) (g : Fin 16)
  /-- COMM_SET (R255). -/
  | commSet (m : Master) (g : Fin 16) (mp : Fin 8)
  /-- TRIP_CLR (R263). -/
  | tripClr (m : Master) (g : Fin 16)
  /-- PERIOD_START (R243). -/
  | periodStart (g : Fin 16)
  /-- RELOAD (R250). -/
  | reload (g : Fin 16)
  /-- TRIGGER_FIRE (R253). -/
  | triggerFire (g : Fin 16) (k : Fin 4)
  /-- TRG_PULSE_END (R254). -/
  | trgPulseEnd (p : Fin 8)
  /-- COMMUTATION_EVENT (R255): an event of source `src` (Table 7-5). -/
  | commutationEvent (g : Fin 16) (src : Fin 4)
  /-- TRIP_ASSERT (R257). -/
  | tripAssert (c : TripEdge)
  /-- SHQ_ENABLE (R268). -/
  | shqEnable (m : Master) (n : Fin 32) (w : Word)
  /-- SHQ_DISABLE (R273). -/
  | shqDisable (m : Master) (n : Fin 32) (w : Word)
  /-- SEQUENCER_TICK (R275). -/
  | sequencerTick (n : Fin 32)
  /-- BR (R278). -/
  | br (n : Fin 32) (cond : Fin 16) (pin : Fin 32) (addr : Fin 64) (hold : Fin 32)
  /-- DEC (R278). -/
  | dec (n : Fin 32) (cy : Bool) (addr : Fin 64) (hold : Fin 32)
  /-- AWAIT (R280). -/
  | await (n : Fin 32) (lvl : Bool) (src : Fin 4) (p : Fin 128) (hold : Fin 32)
  /-- EMIT (R279). -/
  | emit (n : Fin 32) (code : Fin 8) (bits : Fin 32) (hold : Fin 32)
  /-- GATHER (R279). -/
  | gather (n : Fin 32) (code : Fin 8) (bits : Fin 32) (hold : Fin 32)
  /-- XFER (R277). -/
  | xfer (n : Fin 32) (dst src : Fin 8) (op : Fin 4) (hold : Fin 32)
  /-- TAKE (R280). -/
  | take (n : Fin 32) (wait ifx : Bool) (hold : Fin 32)
  /-- GIVE (R280). -/
  | give (n : Fin 32) (wait iff : Bool) (hold : Fin 32)
  /-- DRV (R277). -/
  | drv (n : Fin 32) (first : Fin 32) (cnt : Fin 8) (data : BitVec 7) (hold : Fin 32)
  /-- DIRS (R277). -/
  | dirs (n : Fin 32) (first : Fin 32) (cnt : Fin 8) (data : BitVec 7) (hold : Fin 32)
  /-- LDC (R277). -/
  | ldc (n : Fin 32) (cy : Bool) (imm : BitVec 14) (hold : Fin 32)
  /-- FLAG (R276). -/
  | flag (n : Fin 32) (k : Fin 4) (hold : Fin 32)
  /-- STOP (R273). -/
  | stop (n : Fin 32) (hold : Fin 32)
  /-- RESUME (R273). -/
  | resume (m : Master) (n : Fin 32)
  /-- SHQ_HALT (R283). -/
  | shqHalt (m : Master) (n : Fin 32)
  /-- SHQ_START (R282). -/
  | shqStart (m : Master) (n : Fin 32)
  /-- DIV_RST (R274). -/
  | divRst (m : Master) (n : Fin 32)
  /-- QCLR (R281). -/
  | qclr (m : Master) (n : Fin 32)
  /-- SHIFT_CLEAR (R284). -/
  | shiftClear (m : Master) (n : Fin 32)
  /-- TXQ_WRITE (R281). -/
  | txqWrite (m : Master) (n : Fin 32) (w : Word)
  /-- RXQ_READ (R281). -/
  | rxqRead (m : Master) (n : Fin 32)
  /-- INJECTION (R285). -/
  | injection (m : Master) (n : Fin 32) (w : Word)
  /-- PROG_WRITE (R284). -/
  | progWrite (m : Master) (n : Fin 32) (off : Nat) (w : Word)
  /-- METER_BOUNDARY (R290). -/
  | meterBoundary
  /-- MTR_RELEASE (R293). -/
  | mtrRelease (m : Master) (n : Fin 256)
  /-- CLR_E (R290). -/
  | clrE (m : Master) (n : Fin 256)
  /-- RELEASE_WINDOW_START (R296). -/
  | releaseWindowStart
  /-- DELAYED_EDGE (R296). -/
  | delayedEdge (pin : Fin 128)
  /-- GUARD_GATE_OPEN (R299). -/
  | guardGateOpen (pin : Fin 128)
  /-- SAFE_PIN_ASSERT (R301): the pin has been low for its filter time. -/
  | safePinAssert
  /-- STOP_PIN_ASSERT (R301): the pin has been low for its filter time. -/
  | stopPinAssert
  /-- SAFE_CMD_ENTER (R301). -/
  | safeCmdEnter (m : Master)
  /-- SAFE_CMD_EXIT (R305). -/
  | safeCmdExit (m : Master) (key : BitVec 16)
  /-- RUNDOWN_TIMEOUT (R303). -/
  | rundownTimeout
  /-- RD_DONE (R400). -/
  | rdDone (m : Master)
  /-- HWD_ENABLE (R306). -/
  | hwdEnable (m : Master) (w : Word)
  /-- HWD_KICK (R306). -/
  | hwdKick (m : Master) (v : BitVec 8)
  /-- HWD_REARM (R306). -/
  | hwdRearm (m : Master)
  /-- HWD_EXPIRY (R306). -/
  | hwdExpiry
  /-- RECORD_DELIVERY (R314). -/
  | recordDelivery
  /-- RECORD_WRITE_COMPLETE (R314). -/
  | recordWriteComplete
  /-- EVR_CLAIM (R323). -/
  | evrClaim (m : Master) (bank : Fin 3) (fast : Bool)
  /-- EVR_DONE (R323). -/
  | evrDone (m : Master) (bank : Fin 3) (fast : Bool) (idx : BitVec 12)
  /-- CLR_LOST_N (R319). -/
  | clrLostN (m : Master) (bank : Fin 3)
  /-- CLR_LOST_F (R319). -/
  | clrLostF (m : Master) (bank : Fin 3)
  /-- RING_CFG_WRITE (R321). -/
  | ringCfgWrite (m : Master) (bank : Fin 3) (fast isBase : Bool) (w : Word)
  /-- MASK_WRITE (R315). -/
  | maskWrite (m : Master) (bank : Fin 3) (k : Fin 16) (w : Word)
  /-- ROUTE_WRITE (R311). -/
  | routeWrite (m : Master) (src : Fin 512) (w : Word)
  /-- SPOOL_ACCESS (R337). -/
  | spoolAccess (m : Master) (addr : Nat) (sz : Size) (wr : Option Word)
  /-- HANDOVER (R332). -/
  | handover (m : Master) (n : Unit3) (w : Word)
  /-- POWER_REQUEST (R335). -/
  | powerRequest (m : Master) (n : Unit3) (w : Word)
  /-- POWER_CHANGE_DONE (R335). -/
  | powerChangeDone (n : Unit3)
  /-- SPOOL_INIT_DONE (R330). -/
  | spoolInitDone (n : Unit3)
  /-- TEST_REGION_BORROW (R344). -/
  | testRegionBorrow (n : Unit3)
  /-- TEST_REGION_RELEASE (R344). -/
  | testRegionRelease (n : Unit3) (fail : Option (Fin 64 × Fin 39))
  /-- RESTART (R348). -/
  | restart (m : Master) (n : Unit3)
  /-- SPL_CLR_CNT (R348). -/
  | splClrCnt (m : Master) (n : Unit3)
  /-- COPY_GO (R350). -/
  | copyGo (m : Master) (k : Unit3) (w : Word)
  /-- COPY_STOP (R351). -/
  | copyStop (m : Master) (k : Unit3)
  /-- COPY_WORD (R349). -/
  | copyWord (k : Unit3)
  /-- COPY_DONE (R351). -/
  | copyDone (k : Unit3)
  /-- READ4 (R355). -/
  | read4 (addr : Fin 16777216) (hsecChg abort : Bool)
  /-- READ2 (R355). -/
  | read2 (addr : Fin 16777216) (hsecChg abort : Bool)
  /-- READ1 (R355). -/
  | read1 (addr : Fin 16777216) (hsecChg abort : Bool)
  /-- WRITE4 (R355). -/
  | write4 (addr : Fin 16777216) (w : Word) (hsecChg abort : Bool)
  /-- WRITE2 (R355). -/
  | write2 (addr : Fin 16777216) (w : BitVec 16) (hsecChg abort : Bool)
  /-- WRITE1 (R355). -/
  | write1 (addr : Fin 16777216) (w : Byte) (hsecChg abort : Bool)
  /-- PROTO (R357). -/
  | proto
  /-- PARALLEL_READ_CYCLE (R361). -/
  | parallelReadCycle (addr : Fin 16777216) (be0 be1 hsecChg : Bool)
  /-- PARALLEL_WRITE_CYCLE (R360). -/
  | parallelWriteCycle (addr : Fin 16777216) (be0 be1 : Bool) (d : BitVec 16) (hsecChg : Bool)
  /-- HALF_ALONE (R360). -/
  | halfAlone
  /-- BOOT (R390). -/
  | boot (chip : Option FlashChip)
  /-- BOOT_DONE (R391). -/
  | bootDone
  /-- START_GATE (R391): the pin has been low for START_MS ms. -/
  | startGate
  /-- EXIT_RETRY (R391). -/
  | exitRetry
  /-- FMT_REQUEST (R394). -/
  | fmtRequest (m : Master) (w : Word)
  /-- FORMAT_PREP_DONE (R397). -/
  | formatPrepDone (err : Bool)
  /-- ABANDON (R399). -/
  | abandon (m : Master)
  /-- CASCADE_ENABLE (R402). -/
  | cascadeEnable (m : Master) (w : Word)
  /-- CASCADE_TRAINING (R404). -/
  | cascadeTraining (version role : BitVec 8) (crcOk : Bool) (rtt : Nat)
  /-- DOWN_FRAME_SEND (R405). -/
  | downFrameSend
  /-- DOWN_FRAME (R408). -/
  | downFrame (f : DownFrame)
  /-- UP_FRAME (R407). -/
  | upFrame (f : UpFrame)
  /-- FIX_PREP (R416). -/
  | fixPrep (c : CasCommand)
  /-- FIX_TIME (R418). -/
  | fixTime (c : CasCommand)
  /-- FIX_CANCEL (R417). -/
  | fixCancel (c : CasCommand)
  /-- FMT_PREP (R420). -/
  | fmtPrep (c : CasCommand)
  /-- FMT_ABANDON (R420). -/
  | fmtAbandon (c : CasCommand)
  /-- COMMAND_TIMEOUT (R415). -/
  | commandTimeout
  /-- SPLIT (R418). -/
  | split
  /-- MEMBER_LOST (R411). -/
  | memberLost (role : Fin 8)
  /-- CASCADE_LINK_LOSS (R421). -/
  | cascadeLinkLoss
  /-- FIRMWARE_LOAD (R424). -/
  | firmwareLoad
  /-- SAFELIGHT_WATCHDOG (R425). -/
  | safelightWatchdog
  /-- TEMPERATURE_SAMPLE (R426). -/
  | temperatureSample (readings : Vector (BitVec 16) 4)
  /-- VOLTAGE_SAMPLE (R426). -/
  | voltageSample (readings : Vector (BitVec 16) 6)
  /-- CLOCK_FAULT (R427). -/
  | clockFault (c : ClockId)
  /-- CLOCK_FAULT_RESET (R427). -/
  | clockFaultReset (c : ClockId)
  /-- WARN_RUNDOWN (R429). -/
  | warnRundown
  /-- LIFETIME_UPDATE (R433). -/
  | lifetimeUpdate
  /-- MBX_CLAIM (R434). -/
  | mbxClaim (m : Master)
  /-- MBX_RELEASE (R434). -/
  | mbxRelease (m : Master)
  /-- MBX_CLAIM_TIMEOUT (R434). -/
  | mbxClaimTimeout
  /-- MBX_GO (R435). -/
  | mbxGo (m : Master)
  /-- INFO (R435). -/
  | info
  /-- LOG_READ (R435). -/
  | logRead
  /-- LIFE_READ (R435). -/
  | lifeRead
  /-- CERT_READ (R435). -/
  | certRead
  /-- ATTEST (R444). -/
  | attest
  /-- POST (R438). -/
  | post (chPass : BitVec 128) (unitPass : BitVec 8) (firstFail : Word)
  /-- RUNDOWN (R437). -/
  | rundown
  /-- RESET (R437). -/
  | reset
  /-- UPD_ERASE (R439). -/
  | updErase (flashOk : Bool)
  /-- UPD_WRITE (R439). -/
  | updWrite (flashOk : Bool)
  /-- UPD_VERIFY (R440). -/
  | updVerify
  /-- UPD_ARM (R440). -/
  | updArm
  /-- UPD_ACTIVATE (R441). -/
  | updActivate
  /-- KEY_OWNER (R445). -/
  | keyOwner
  /-- TB_EVENT_TICK (R90). -/
  | tbEventTick (ch : Fin 128)
  /-- DIVIDER_FREE (R183). -/
  | dividerFree (e : Fin 16)
  /-- BLANKING_END (R260). -/
  | blankingEnd (g : Fin 16)
  /-- TRIP_DEASSERT (R257). -/
  | tripDeassert (i : Fin 16)
  /-- SAFE_PIN_RELEASE (R301). -/
  | safePinRelease
  /-- STOP_PIN_RELEASE (R301). -/
  | stopPinRelease
  /-- CASCADE_REQUEST_ANSWER (R404). -/
  | cascadeRequestAnswer (version role : BitVec 8) (crcOk : Bool)
  /-- UP_FRAME_REPEAT (R407). -/
  | upFrameRepeat (f : UpFrame)
  /-- CLOCK_FAULT_CLEARED (R427). -/
  | clockFaultCleared (c : ClockId)
  deriving DecidableEq, Repr

end Sys2Proof
end

