-- ==== Sys2Proof/Decode.lean ====
section
/-! DEFINITION. The commands of the block come from outside as commands; spec/opcode_table.json gives no row bits. -/

namespace Sys2Proof

/-- No row of the table has bits, so no word spells a command. -/
def decodeTableWord (_nbits _w : Nat) : Option Instr := none

end Sys2Proof
end

