-- ==== Sys2Proof/Config.lean ====
section
/-! DEFINITION. What the manual leaves free (log entry 2): constants without a body, so that no proof can lean on a value. The counter argument
is State.free at the draw, so that each draw is its own value. -/

namespace Sys2Proof

/-- A word the manual does not fix. -/
opaque Config.freeWord : Nat → Word

/-- A byte the manual does not fix. -/
opaque Config.freeByte : Nat → Byte

/-- The version of the ROM (SLT_VER). -/
opaque Config.romVersion : BitVec 8

/-- The unit's serial number (ID_SERIAL). -/
opaque Config.serial : BitVec 64

/-- SHA-256, as the published standard defines it (R383, R445). -/
opaque Config.sha256 : List Byte → Vector Byte 32

/-- ECDSA P-256 verification of a signature over a digest with a public key (R384, R440). -/
opaque Config.ecdsaVerify : List Byte → List Byte → List Byte → Bool

/-- ECDSA P-256 signing with the unit's key (R443): digest and draw. -/
opaque Config.ecdsaSign : List Byte → Nat → Vector Byte 64

/-- Whether the certificate of these DER bytes holds the unit's public key (R443). -/
opaque Config.certKeyOk : List Byte → Bool

/-- The value of Vuzaca's public key that signs firmware (R440). -/
opaque Config.vuzacaKey : List Byte

/-- Whether a pseudo-random delay or choice the manual leaves to the device falls one way. -/
opaque Config.freeBool : Nat → Bool

end Sys2Proof
end

