-- ==== Sys2Proof/Machine/RegMap.lean ====
section
/-! DEFINITION. The register map: the address of every register (the map of each chapter), and for every address the bits of
each access code (Table 0-4), the reset value of the hardware (letter H) and the default once the OTP and the negative are
loaded (letters F and N, R7, R8), and the bits staged under R32. Read-only fields that the model composes from the state have
no value here. -/

namespace Sys2Proof.Machine

/-- What the register map says of one word. `sth` is the staged bits, `otp` the writable bits whose
reset source is F or N. -/
structure RegDesc where
  rw  : Word
  rc  : Word
  wo  : Word
  rws : Word
  ro  : Word
  rst : Word
  dfl : Word
  sth : Word
  otp : Word
  deriving DecidableEq, Repr

/-- A reserved location (R366). -/
def RegDesc.none : RegDesc := ⟨0, 0, 0, 0, 0, 0, 0, 0, 0⟩

/-- Offset `off` is element `i < n` of an array of registers. -/
def inArr (off base stride n : Nat) : Bool := base ≤ off && off < base + stride * n && (off - base) % stride == 0

namespace Reg

def ID_DEV : Nat := 0x00800000
def ID_STEP : Nat := 0x00800004
def ID_ORDER : Nat := 0x00800008
def ID_SERIAL_LO : Nat := 0x0080000c
def ID_SERIAL_HI : Nat := 0x00800010
def RST_CAUSE : Nat := 0x00800020
def RST_CTL : Nat := 0x00800024
def CLK_STAT : Nat := 0x00800030
def CLK_EVT : Nat := 0x00800034
def TB_LO : Nat := 0x00800040
def TB_HI : Nat := 0x00800044
def CS_CTL : Nat := 0x00800080
def CS_STAT : Nat := 0x00800084
def CS_AT_LO : Nat := 0x00800088
def CS_AT_HI : Nat := 0x0080008c
def FIX_HSEL : Nat := 0x008000c0
def FIX_CTL (k : Nat) : Nat := 0x00800100 + 0x20 * k
def FIX_POINT_LO (k : Nat) : Nat := 0x00800104 + 0x20 * k
def FIX_POINT_HI (k : Nat) : Nat := 0x00800108 + 0x20 * k
def FIX_STAT (k : Nat) : Nat := 0x0080010c + 0x20 * k
def SPK_CTL (n : Nat) : Nat := 0x00810000 + 0x400 * n
def SPK_INCFG (n : Nat) : Nat := 0x00810004 + 0x400 * n
def SPK_WHEEL (n : Nat) : Nat := 0x00810008 + 0x400 * n
def SPK_CYCLE (n : Nat) : Nat := 0x0081000c + 0x400 * n
def SPK_WIN (n : Nat) : Nat := 0x00810010 + 0x400 * n
def SPK_GAPWIN (n : Nat) : Nat := 0x00810014 + 0x400 * n
def SPK_STOP (n : Nat) : Nat := 0x00810018 + 0x400 * n
def SPK_MISS (n : Nat) : Nat := 0x0081001c + 0x400 * n
def SPK_GUARD (n : Nat) : Nat := 0x00810020 + 0x400 * n
def SPK_CYC_INIT (n : Nat) : Nat := 0x00810024 + 0x400 * n
def SPK_PRESET (n : Nat) : Nat := 0x00810028 + 0x400 * n
def SPK_CMD (n : Nat) : Nat := 0x0081002c + 0x400 * n
def SPK_POS (n : Nat) : Nat := 0x00810040 + 0x400 * n
def SPK_CYC (n : Nat) : Nat := 0x00810044 + 0x400 * n
def SPK_STATE (n : Nat) : Nat := 0x00810048 + 0x400 * n
def SPK_EVT (n : Nat) : Nat := 0x0081004c + 0x400 * n
def SPK_PHYS (n : Nat) : Nat := 0x00810050 + 0x400 * n
def SPK_TPRED (n : Nat) : Nat := 0x00810054 + 0x400 * n
def SPK_TLAST (n : Nat) : Nat := 0x00810058 + 0x400 * n
def SPK_TPREV (n : Nat) : Nat := 0x0081005c + 0x400 * n
def SPK_TS_LO (n : Nat) : Nat := 0x00810060 + 0x400 * n
def SPK_TS_HI (n : Nat) : Nat := 0x00810064 + 0x400 * n
def SPK_TS_FR (n : Nat) : Nat := 0x00810068 + 0x400 * n
def SPK_ERRCNT0 (n : Nat) : Nat := 0x00810070 + 0x400 * n
def SPK_ERRCNT1 (n : Nat) : Nat := 0x00810074 + 0x400 * n
def SPK_PH_CTL (n : Nat) : Nat := 0x00810080 + 0x400 * n
def SPK_PH_WLO (n : Nat) : Nat := 0x00810084 + 0x400 * n
def SPK_PH_WHI (n : Nat) : Nat := 0x00810088 + 0x400 * n
def SPK_PH_TGT (n : Nat) : Nat := 0x0081008c + 0x400 * n
def SPK_PH_POS (n : Nat) : Nat := 0x00810090 + 0x400 * n
def SPK_PH_CYC (n : Nat) : Nat := 0x00810094 + 0x400 * n
def SPK_PH_ERR (n : Nat) : Nat := 0x00810098 + 0x400 * n
def SPK_PH_STAT (n : Nat) : Nat := 0x0081009c + 0x400 * n
def CH_CTL (n : Nat) : Nat := 0x00820000 + 0x40 * n
def CH_CNT (n : Nat) : Nat := 0x00820004 + 0x40 * n
def CH_TOP (n : Nat) : Nat := 0x00820008 + 0x40 * n
def CH_ADD (n : Nat) : Nat := 0x0082000c + 0x40 * n
def CH_CMP (n k : Nat) : Nat := 0x00820010 + 0x40 * n + 0x4 * k
def CH_SLOT (n k : Nat) : Nat := 0x00820020 + 0x40 * n + 0x4 * k
def CH_PULSE (n : Nat) : Nat := 0x00820028 + 0x40 * n
def CH_CAP (n : Nat) : Nat := 0x0082002c + 0x40 * n
def CH_CAPX (n : Nat) : Nat := 0x00820030 + 0x40 * n
def CH_CMD (n : Nat) : Nat := 0x00820034 + 0x40 * n
def CH_EVTEN (n : Nat) : Nat := 0x00820038 + 0x40 * n
def CH_STAT (n : Nat) : Nat := 0x0082003c + 0x40 * n
def TIO_CFG (k : Nat) : Nat := 0x00822000 + 0x4 * k
def TIO_IN (k : Nat) : Nat := 0x00822200 + 0x4 * k
def TIO_BANK (k : Nat) : Nat := 0x00822210 + 0x4 * k
def VCAL_CTL : Nat := 0x00822300
def VCAL_STAT : Nat := 0x00822304
def VCAL_FAIL (k : Nat) : Nat := 0x00822310 + 0x4 * k
def EXG_CTL (n : Nat) : Nat := 0x00830000 + 0x100 * n
def EXG_STAT (n : Nat) : Nat := 0x00830004 + 0x100 * n
def EXG_EVT (n : Nat) : Nat := 0x00830008 + 0x100 * n
def EXG_CMD (n : Nat) : Nat := 0x0083000c + 0x100 * n
def EXG_PER (n : Nat) : Nat := 0x00830010 + 0x100 * n
def EXG_RELOAD (n : Nat) : Nat := 0x00830014 + 0x100 * n
def EXG_BLKLO (n : Nat) : Nat := 0x00830018 + 0x100 * n
def EXG_BLKHI (n : Nat) : Nat := 0x0083001c + 0x100 * n
def EXG_DUTY (n k : Nat) : Nat := 0x00830020 + 0x100 * n + 0x4 * k
def EXG_TRIG (n k : Nat) : Nat := 0x00830040 + 0x100 * n + 0x4 * k
def EXG_TRGCFG (n : Nat) : Nat := 0x00830050 + 0x100 * n
def EXG_BLANK (n : Nat) : Nat := 0x00830054 + 0x100 * n
def EXG_TRIPMAP (n : Nat) : Nat := 0x00830058 + 0x100 * n
def EXG_CBCLIM (n : Nat) : Nat := 0x0083005c + 0x100 * n
def EXG_LVL (n : Nat) : Nat := 0x00830060 + 0x100 * n
def EXG_COMM (n : Nat) : Nat := 0x00830064 + 0x100 * n
def EXG_EVTEN (n : Nat) : Nat := 0x00830068 + 0x100 * n
def EXG_CNT (n : Nat) : Nat := 0x0083006c + 0x100 * n
def EXG_MTAB (n k : Nat) : Nat := 0x00830070 + 0x100 * n + 0x4 * k
def EXG_ACT (n k : Nat) : Nat := 0x00830090 + 0x100 * n + 0x4 * k
def EXG_GO : Nat := 0x00831000
def TRIP_IN : Nat := 0x00831004
def TRIP_CFG (k : Nat) : Nat := 0x00831100 + 0x4 * k
def TRG_CFG (k : Nat) : Nat := 0x00831200 + 0x4 * k
def CAL_CTL : Nat := 0x00840000
def CAL_STAT : Nat := 0x00840004
def CAL_OCC : Nat := 0x00840008
def CAL_SPOCC : Nat := 0x0084000c
def CAL_EVT : Nat := 0x00840010
def CAL_EVTEN : Nat := 0x00840014
def CAL_FLUSH : Nat := 0x00840020
def CAL_CMD : Nat := 0x00840024
def CAL_SPILL_BASE : Nat := 0x00840030
def CAL_SPILL_CTL : Nat := 0x00840034
def CAL_UNIT (k : Nat) : Nat := 0x00840040 + 0x4 * k
def CAL_UCNT (k : Nat) : Nat := 0x00840060 + 0x4 * k
def CAL_REFCNT : Nat := 0x00840080
def CAL_D0 (n : Nat) : Nat := 0x00840100 + 0x40 * n
def CAL_D1 (n : Nat) : Nat := 0x00840104 + 0x40 * n
def CAL_D2 (n : Nat) : Nat := 0x00840108 + 0x40 * n
def CAL_D3 (n : Nat) : Nat := 0x0084010c + 0x40 * n
def CAL_D4 (n : Nat) : Nat := 0x00840110 + 0x40 * n
def CAL_ARM (n : Nat) : Nat := 0x00840114 + 0x40 * n
def CAL_CANCEL (n : Nat) : Nat := 0x00840118 + 0x40 * n
def CAL_RES (n : Nat) : Nat := 0x0084011c + 0x40 * n
def ENL_CTL (n : Nat) : Nat := 0x00850000 + 0x1000 * n
def ENL_STAT (n : Nat) : Nat := 0x00850004 + 0x1000 * n
def ENL_WIN (n : Nat) : Nat := 0x00850008 + 0x1000 * n
def ENL_TCTL (n k : Nat) : Nat := 0x00850100 + 0x1000 * n + 0x40 * k
def ENL_TSTAT (n k : Nat) : Nat := 0x00850104 + 0x1000 * n + 0x40 * k
def ENL_TPC (n k : Nat) : Nat := 0x00850108 + 0x1000 * n + 0x40 * k
def ENL_TBKPT (n k : Nat) : Nat := 0x0085010c + 0x1000 * n + 0x40 * k
def ENL_TEVP (n k : Nat) : Nat := 0x00850110 + 0x1000 * n + 0x40 * k
def ENL_TCAPSEL (n k : Nat) : Nat := 0x00850114 + 0x1000 * n + 0x40 * k
def ENL_TMSG (n k : Nat) : Nat := 0x00850118 + 0x1000 * n + 0x40 * k
def ENL_TFLT (n k : Nat) : Nat := 0x0085011c + 0x1000 * n + 0x40 * k
def ENL_TICNT (n k : Nat) : Nat := 0x00850120 + 0x1000 * n + 0x40 * k
def ENL_W (n k : Nat) : Nat := 0x00850400 + 0x1000 * n + 0x4 * k
def CT_CTL : Nat := 0x00860000
def CT_STAT : Nat := 0x00860004
def CT_EVT : Nat := 0x00860008
def CT_CMD : Nat := 0x0086000c
def CT_BASE : Nat := 0x00860010
def CT_GEOM : Nat := 0x00860014
def CT_STEP : Nat := 0x00860018
def CT_LOOP : Nat := 0x0086001c
def CT_ORG : Nat := 0x00860020
def CT_START_CYC : Nat := 0x00860024
def CT_JUMP : Nat := 0x00860028
def CT_COL : Nat := 0x00860030
def CT_CNT : Nat := 0x00860034
def CT_LANE_ROWS (k : Nat) : Nat := 0x00860100 + 0x8 * k
def CT_LANE_OFS (k : Nat) : Nat := 0x00860104 + 0x8 * k
def CT_LROW (k : Nat) : Nat := 0x00860400 + 0x4 * k
def LINK_CTL (n : Nat) : Nat := 0x00868000 + 0x200 * n
def LINK_STAT (n : Nat) : Nat := 0x00868004 + 0x200 * n
def LINK_EVT (n : Nat) : Nat := 0x00868008 + 0x200 * n
def LINK_CMD (n : Nat) : Nat := 0x0086800c + 0x200 * n
def LINK_PARAM (n : Nat) : Nat := 0x00868010 + 0x200 * n
def LINK_RTT (n : Nat) : Nat := 0x00868014 + 0x200 * n
def LINK_LEAD (n : Nat) : Nat := 0x00868018 + 0x200 * n
def LINK_DRV (n : Nat) : Nat := 0x0086801c + 0x200 * n
def LINK_DRVID (n : Nat) : Nat := 0x00868020 + 0x200 * n
def LINK_RSTAT (n : Nat) : Nat := 0x00868024 + 0x200 * n
def LINK_ERRCNT (n k : Nat) : Nat := 0x00868028 + 0x200 * n + 0x4 * k
def LINK_OWN (n k : Nat) : Nat := 0x00868040 + 0x200 * n + 0x4 * k
def LINK_FAULT (n k : Nat) : Nat := 0x00868050 + 0x200 * n + 0x4 * k
def SHQ_CTL (n : Nat) : Nat := 0x00870000 + 0x200 * n
def SHQ_STAT (n : Nat) : Nat := 0x00870004 + 0x200 * n
def SHQ_EVT (n : Nat) : Nat := 0x00870008 + 0x200 * n
def SHQ_CMD (n : Nat) : Nat := 0x0087000c + 0x200 * n
def SHQ_DIV (n : Nat) : Nat := 0x00870010 + 0x200 * n
def SHQ_PINS (n : Nat) : Nat := 0x00870014 + 0x200 * n
def SHQ_SHIFT (n : Nat) : Nat := 0x00870018 + 0x200 * n
def SHQ_PC (n : Nat) : Nat := 0x0087001c + 0x200 * n
def SHQ_CX (n : Nat) : Nat := 0x00870020 + 0x200 * n
def SHQ_CY (n : Nat) : Nat := 0x00870024 + 0x200 * n
def SHQ_OSR (n : Nat) : Nat := 0x00870028 + 0x200 * n
def SHQ_ISR (n : Nat) : Nat := 0x0087002c + 0x200 * n
def SHQ_DIRS (n : Nat) : Nat := 0x00870030 + 0x200 * n
def SHQ_PINOUT (n : Nat) : Nat := 0x00870034 + 0x200 * n
def SHQ_TXQ (n : Nat) : Nat := 0x00870038 + 0x200 * n
def SHQ_RXQ (n : Nat) : Nat := 0x0087003c + 0x200 * n
def SHQ_INJ (n : Nat) : Nat := 0x00870040 + 0x200 * n
def SHQ_EVTEN (n : Nat) : Nat := 0x00870044 + 0x200 * n
def SHQ_START (n : Nat) : Nat := 0x00870048 + 0x200 * n
def SHQ_PROG (n k : Nat) : Nat := 0x00870100 + 0x200 * n + 0x4 * k
def SAFE_STAT : Nat := 0x00880000
def SAFE_EVT : Nat := 0x00880004
def SAFE_CFG : Nat := 0x00880008
def SAFE_CMD : Nat := 0x0088000c
def SAFE_ESC : Nat := 0x00880010
def HWD_CTL : Nat := 0x00880020
def HWD_KICK : Nat := 0x00880024
def HWD_STAT : Nat := 0x00880028
def SAFE_TLVL (k : Nat) : Nat := 0x00880040 + 0x4 * k
def SAFE_TRG : Nat := 0x00880060
def SAFE_RLVL (k : Nat) : Nat := 0x00880080 + 0x4 * k
def GUARD_CH (k : Nat) : Nat := 0x00880100 + 0x4 * k
def GUARD_RG (k : Nat) : Nat := 0x00880110 + 0x4 * k
def GUARD_SEL (k : Nat) : Nat := 0x00880120 + 0x4 * k
def GUARD_RCFG : Nat := 0x00880160
def GUARD_HIT (k : Nat) : Nat := 0x00880170 + 0x4 * k
def REL_CTL : Nat := 0x00880180
def REL_EVT : Nat := 0x00880184
def REL_CNT (k : Nat) : Nat := 0x00880190 + 0x4 * k
def MTR_HIT (k : Nat) : Nat := 0x00880200 + 0x4 * k
def MTR_CMD : Nat := 0x00880220
def MTR_CFG (n : Nat) : Nat := 0x00881000 + 0x20 * n
def MTR_BUD (n : Nat) : Nat := 0x00881004 + 0x20 * n
def MTR_REL (n : Nat) : Nat := 0x00881008 + 0x20 * n
def MTR_E (n : Nat) : Nat := 0x0088100c + 0x20 * n
def MTR_STAT (n : Nat) : Nat := 0x00881010 + 0x20 * n
def EVR_ROUTE (k : Nat) : Nat := 0x00890000 + 0x4 * k
def EVR_GSTAT : Nat := 0x00890800
def EVR_CTL (n : Nat) : Nat := 0x00891000 + 0x1000 * n
def EVR_STAT (n : Nat) : Nat := 0x00891004 + 0x1000 * n
def EVR_EVT (n : Nat) : Nat := 0x00891008 + 0x1000 * n
def EVR_RING_BASE (n k : Nat) : Nat := 0x00891040 + 0x1000 * n + 0x40 * k
def EVR_RING_CFG (n k : Nat) : Nat := 0x00891044 + 0x1000 * n + 0x40 * k
def EVR_WPTR (n k : Nat) : Nat := 0x00891048 + 0x1000 * n + 0x40 * k
def EVR_RPTR (n k : Nat) : Nat := 0x0089104c + 0x1000 * n + 0x40 * k
def EVR_CLAIM (n k : Nat) : Nat := 0x00891050 + 0x1000 * n + 0x40 * k
def EVR_DONE (n k : Nat) : Nat := 0x00891054 + 0x1000 * n + 0x40 * k
def EVR_LOST (n k : Nat) : Nat := 0x00891058 + 0x1000 * n + 0x40 * k
def EVR_MASK (n k : Nat) : Nat := 0x00891100 + 0x1000 * n + 0x4 * k
def EVR_PEND (n k : Nat) : Nat := 0x00891140 + 0x1000 * n + 0x4 * k
def SPL_OWN (n : Nat) : Nat := 0x008a0000 + 0x40 * n
def SPL_PWR (n : Nat) : Nat := 0x008a0004 + 0x40 * n
def SPL_EVT (n : Nat) : Nat := 0x008a0008 + 0x40 * n
def SPL_EVTEN (n : Nat) : Nat := 0x008a000c + 0x40 * n
def SPL_ECC (n : Nat) : Nat := 0x008a0010 + 0x40 * n
def SPL_ECCADDR (n : Nat) : Nat := 0x008a0014 + 0x40 * n
def SPL_VIOL (n : Nat) : Nat := 0x008a0018 + 0x40 * n
def SPL_TSTCTL (n : Nat) : Nat := 0x008a001c + 0x40 * n
def SPL_TSTAT (n : Nat) : Nat := 0x008a0020 + 0x40 * n
def SPL_TFAIL (n : Nat) : Nat := 0x008a0024 + 0x40 * n
def SPL_TABRT (n : Nat) : Nat := 0x008a0028 + 0x40 * n
def CPY_CTL (n : Nat) : Nat := 0x008a0400 + 0x20 * n
def CPY_STAT (n : Nat) : Nat := 0x008a0404 + 0x20 * n
def CPY_SRC (n : Nat) : Nat := 0x008a0408 + 0x20 * n
def CPY_DST (n : Nat) : Nat := 0x008a040c + 0x20 * n
def CPY_LEN (n : Nat) : Nat := 0x008a0410 + 0x20 * n
def CPY_FILL (n : Nat) : Nat := 0x008a0414 + 0x20 * n
def HP_CFG : Nat := 0x008b0000
def HP_SEC : Nat := 0x008b0004
def HP_EVT : Nat := 0x008b0008
def HP_EVTEN : Nat := 0x008b000c
def HP_ERRADDR : Nat := 0x008b0010
def HP_ERRINFO : Nat := 0x008b0014
def BOOT_STAT : Nat := 0x008c0000
def BOOT_EVT : Nat := 0x008c0004
def BOOT_CFG : Nat := 0x008c0008
def NVM_INFO : Nat := 0x008c000c
def NEG_VER : Nat := 0x008c0010
def NEG_CRC : Nat := 0x008c0014
def FMT_CTL : Nat := 0x008c0020
def FMT_REQ : Nat := 0x008c0024
def FMT_CYC : Nat := 0x008c0028
def FMT_STAT : Nat := 0x008c002c
def FMT_EVT : Nat := 0x008c0030
def FMT_CMD : Nat := 0x008c0034
def FMT_VER (k : Nat) : Nat := 0x008c0040 + 0x4 * k
def CAS_CTL : Nat := 0x008d0000
def CAS_STAT : Nat := 0x008d0004
def CAS_EVT : Nat := 0x008d0008
def CAS_EVTEN : Nat := 0x008d000c
def CAS_CFG : Nat := 0x008d0010
def CAS_HOP : Nat := 0x008d0014
def CAS_DL : Nat := 0x008d0018
def CAS_PHERR : Nat := 0x008d001c
def CAS_MIR (k : Nat) : Nat := 0x008d0040 + 0x4 * k
def CAS_MVER (k : Nat) : Nat := 0x008d0088 + 0x8 * k
def CAS_MSTAT (k : Nat) : Nat := 0x008d008c + 0x8 * k
def MBX_CLAIM : Nat := 0x008e0000
def MBX_CTL : Nat := 0x008e0004
def MBX_STAT : Nat := 0x008e0008
def SLT_VER : Nat := 0x008e000c
def SLT_STAT : Nat := 0x008e0010
def SLT_CFG : Nat := 0x008e0014
def SNS_TEMP (k : Nat) : Nat := 0x008e0020 + 0x4 * k
def SNS_TLIM : Nat := 0x008e0030
def SNS_VOLT (k : Nat) : Nat := 0x008e0040 + 0x4 * k
def SNS_VWIN0 : Nat := 0x008e0060
def SNS_VWIN1 : Nat := 0x008e0064
def SNS_VWIN2 (k : Nat) : Nat := 0x008e0068 + 0x4 * k
def MBX_REQ (k : Nat) : Nat := 0x008e0100 + 0x4 * k
def MBX_RSP (k : Nat) : Nat := 0x008e0200 + 0x4 * k

end Reg

def globalDesc (o : Nat) : RegDesc :=
  if o = 0x0 then ⟨0x0#32, 0x0#32, 0x0#32, 0x0#32, 0xffffff00#32, 0x96480100#32, 0x96480100#32, 0x0#32, 0x0#32⟩ -- ID_DEV
  else if o = 0x4 then ⟨0x0#32, 0x0#32, 0x0#32, 0x0#32, 0xff#32, 0x10#32, 0x10#32, 0x0#32, 0x0#32⟩ -- ID_STEP
  else if o = 0x8 then ⟨0x0#32, 0x0#32, 0x0#32, 0x0#32, 0x3#32, 0x0#32, 0x0#32, 0x0#32, 0x0#32⟩ -- ID_ORDER
  else if o = 0xc then ⟨0x0#32, 0x0#32, 0x0#32, 0x0#32, 0xffffffff#32, 0x0#32, 0x0#32, 0x0#32, 0x0#32⟩ -- ID_SERIAL_LO
  else if o = 0x10 then ⟨0x0#32, 0x0#32, 0x0#32, 0x0#32, 0xffffffff#32, 0x0#32, 0x0#32, 0x0#32, 0x0#32⟩ -- ID_SERIAL_HI
  else if o = 0x20 then ⟨0x0#32, 0x1f#32, 0x0#32, 0x0#32, 0x0#32, 0x0#32, 0x0#32, 0x0#32, 0x0#32⟩ -- RST_CAUSE
  else if o = 0x24 then ⟨0x0#32, 0x0#32, 0x0#32, 0xffff0003#32, 0x0#32, 0x0#32, 0x0#32, 0x0#32, 0x0#32⟩ -- RST_CTL
  else if o = 0x30 then ⟨0x0#32, 0x0#32, 0x0#32, 0x0#32, 0xff1d#32, 0x0#32, 0x0#32, 0x0#32, 0x0#32⟩ -- CLK_STAT
  else if o = 0x34 then ⟨0x0#32, 0xff1d#32, 0x0#32, 0x0#32, 0x0#32, 0x0#32, 0x0#32, 0x0#32, 0x0#32⟩ -- CLK_EVT
  else if o = 0x40 then ⟨0x0#32, 0x0#32, 0x0#32, 0x0#32, 0xffffffff#32, 0x0#32, 0x0#32, 0x0#32, 0x0#32⟩ -- TB_LO
  else if o = 0x44 then ⟨0x0#32, 0x0#32, 0x0#32, 0x0#32, 0xffffffff#32, 0x0#32, 0x0#32, 0x0#32, 0x0#32⟩ -- TB_HI
  else if o = 0x80 then ⟨0x3c#32, 0x0#32, 0x3#32, 0x0#32, 0x0#32, 0x0#32, 0x0#32, 0x0#32, 0x0#32⟩ -- CS_CTL
  else if o = 0x84 then ⟨0x0#32, 0x1c#32, 0x0#32, 0x0#32, 0x3f03ff03#32, 0x0#32, 0x0#32, 0x0#32, 0x0#32⟩ -- CS_STAT
  else if o = 0x88 then ⟨0xffffffff#32, 0x0#32, 0x0#32, 0x0#32, 0x0#32, 0x0#32, 0x0#32, 0x0#32, 0x0#32⟩ -- CS_AT_LO
  else if o = 0x8c then ⟨0xffffffff#32, 0x0#32, 0x0#32, 0x0#32, 0x0#32, 0x0#32, 0x0#32, 0x0#32, 0x0#32⟩ -- CS_AT_HI
  else if o = 0xc0 then ⟨0x7#32, 0x0#32, 0x0#32, 0x0#32, 0x0#32, 0x4#32, 0x4#32, 0x0#32, 0x0#32⟩ -- FIX_HSEL
  else if inArr o 0x100 0x20 4 then ⟨0x17730#32, 0x0#32, 0x7#32, 0x0#32, 0x0#32, 0x0#32, 0x0#32, 0x0#32, 0x0#32⟩ -- FIX_CTL
  else if inArr o 0x104 0x20 4 then ⟨0xffffffff#32, 0x0#32, 0x0#32, 0x0#32, 0x0#32, 0x0#32, 0x0#32, 0x0#32, 0x0#32⟩ -- FIX_POINT_LO
  else if inArr o 0x108 0x20 4 then ⟨0xffffffff#32, 0x0#32, 0x0#32, 0x0#32, 0x0#32, 0x0#32, 0x0#32, 0x0#32, 0x0#32⟩ -- FIX_POINT_HI
  else if inArr o 0x10c 0x20 4 then ⟨0x0#32, 0x7e#32, 0x0#32, 0x0#32, 0xffff01#32, 0x0#32, 0x0#32, 0x0#32, 0x0#32⟩ -- FIX_STAT
  else .none

def spkDesc (o : Nat) : RegDesc :=
  if o = 0x0 then ⟨0x1fcd#32, 0x0#32, 0x0#32, 0x0#32, 0x0#32, 0x0#32, 0x1240#32, 0x0#32, 0x1fcd#32⟩ -- SPK_CTL
  else if o = 0x4 then ⟨0x3ff0777#32, 0x0#32, 0x0#32, 0x0#32, 0x0#32, 0x0#32, 0x640001#32, 0x0#32, 0x3ff0777#32⟩ -- SPK_INCFG
  else if o = 0x8 then ⟨0x7ffff#32, 0x0#32, 0x0#32, 0x0#32, 0x0#32, 0x0#32, 0x0#32, 0x0#32, 0x7ffff#32⟩ -- SPK_WHEEL
  else if o = 0xc then ⟨0xffffffff#32, 0x0#32, 0x0#32, 0x0#32, 0x0#32, 0x0#32, 0x0#32, 0x0#32, 0xffffffff#32⟩ -- SPK_CYCLE
  else if o = 0x10 then ⟨0xf7f0f0f#32, 0x0#32, 0x0#32, 0x0#32, 0x0#32, 0x0#32, 0x1320c04#32, 0x0#32, 0xf7f0f0f#32⟩ -- SPK_WIN
  else if o = 0x14 then ⟨0xffff00ff#32, 0x0#32, 0x0#32, 0x0#32, 0x0#32, 0x0#32, 0x10380028#32, 0x0#32, 0xffff00ff#32⟩ -- SPK_GAPWIN
  else if o = 0x18 then ⟨0xffffffff#32, 0x0#32, 0x0#32, 0x0#32, 0x0#32, 0x0#32, 0x644e20#32, 0x0#32, 0xffffffff#32⟩ -- SPK_STOP
  else if o = 0x1c then ⟨0xffffffff#32, 0x0#32, 0x0#32, 0x0#32, 0x0#32, 0x0#32, 0x800007d0#32, 0x0#32, 0xffffffff#32⟩ -- SPK_MISS
  else if o = 0x20 then ⟨0x0#32, 0x0#32, 0x0#32, 0xff#32, 0x0#32, 0x0#32, 0x8#32, 0x0#32, 0xff#32⟩ -- SPK_GUARD
  else if o = 0x24 then ⟨0xffffffff#32, 0x0#32, 0x0#32, 0x0#32, 0x0#32, 0x0#32, 0x0#32, 0x0#32, 0xffffffff#32⟩ -- SPK_CYC_INIT
  else if o = 0x28 then ⟨0xffffffff#32, 0x0#32, 0x0#32, 0x0#32, 0x0#32, 0x0#32, 0x0#32, 0x0#32, 0xffffffff#32⟩ -- SPK_PRESET
  else if o = 0x2c then ⟨0x0#32, 0x0#32, 0x7#32, 0x0#32, 0x0#32, 0x0#32, 0x0#32, 0x0#32, 0x0#32⟩ -- SPK_CMD
  else if o = 0x40 then ⟨0x0#32, 0x0#32, 0x0#32, 0x0#32, 0xffffffff#32, 0x0#32, 0x0#32, 0x0#32, 0x0#32⟩ -- SPK_POS
  else if o = 0x44 then ⟨0x0#32, 0x0#32, 0x0#32, 0x0#32, 0xffffffff#32, 0x0#32, 0x0#32, 0x0#32, 0x0#32⟩ -- SPK_CYC
  else if o = 0x48 then ⟨0x0#32, 0x0#32, 0x0#32, 0x0#32, 0xfff0fe07#32, 0x0#32, 0x0#32, 0x0#32, 0x0#32⟩ -- SPK_STATE
  else if o = 0x4c then ⟨0x0#32, 0xfffd#32, 0x0#32, 0x0#32, 0x0#32, 0x0#32, 0x0#32, 0x0#32, 0x0#32⟩ -- SPK_EVT
  else if o = 0x50 then ⟨0x0#32, 0x0#32, 0x0#32, 0x0#32, 0xffff#32, 0x0#32, 0x0#32, 0x0#32, 0x0#32⟩ -- SPK_PHYS
  else if o = 0x54 then ⟨0x0#32, 0x0#32, 0x0#32, 0x0#32, 0xffffffff#32, 0x0#32, 0x0#32, 0x0#32, 0x0#32⟩ -- SPK_TPRED
  else if o = 0x58 then ⟨0x0#32, 0x0#32, 0x0#32, 0x0#32, 0xffffffff#32, 0x0#32, 0x0#32, 0x0#32, 0x0#32⟩ -- SPK_TLAST
  else if o = 0x5c then ⟨0x0#32, 0x0#32, 0x0#32, 0x0#32, 0xffffffff#32, 0x0#32, 0x0#32, 0x0#32, 0x0#32⟩ -- SPK_TPREV
  else if o = 0x60 then ⟨0x0#32, 0x0#32, 0x0#32, 0x0#32, 0xffffffff#32, 0x0#32, 0x0#32, 0x0#32, 0x0#32⟩ -- SPK_TS_LO
  else if o = 0x64 then ⟨0x0#32, 0x0#32, 0x0#32, 0x0#32, 0xffffffff#32, 0x0#32, 0x0#32, 0x0#32, 0x0#32⟩ -- SPK_TS_HI
  else if o = 0x68 then ⟨0x0#32, 0x0#32, 0x0#32, 0x0#32, 0xffffffff#32, 0x0#32, 0x0#32, 0x0#32, 0x0#32⟩ -- SPK_TS_FR
  else if o = 0x70 then ⟨0x0#32, 0x0#32, 0x0#32, 0x0#32, 0xffffffff#32, 0x0#32, 0x0#32, 0x0#32, 0x0#32⟩ -- SPK_ERRCNT0
  else if o = 0x74 then ⟨0x0#32, 0x0#32, 0x0#32, 0x0#32, 0xffffffff#32, 0x0#32, 0x0#32, 0x0#32, 0x0#32⟩ -- SPK_ERRCNT1
  else if o = 0x80 then ⟨0x777#32, 0x0#32, 0x0#32, 0x0#32, 0x0#32, 0x0#32, 0x0#32, 0x0#32, 0x777#32⟩ -- SPK_PH_CTL
  else if o = 0x84 then ⟨0xffffffff#32, 0x0#32, 0x0#32, 0x0#32, 0x0#32, 0x0#32, 0x0#32, 0x0#32, 0xffffffff#32⟩ -- SPK_PH_WLO
  else if o = 0x88 then ⟨0xffffffff#32, 0x0#32, 0x0#32, 0x0#32, 0x0#32, 0x0#32, 0x0#32, 0x0#32, 0xffffffff#32⟩ -- SPK_PH_WHI
  else if o = 0x8c then ⟨0xffffffff#32, 0x0#32, 0x0#32, 0x0#32, 0x0#32, 0x0#32, 0x0#32, 0x0#32, 0xffffffff#32⟩ -- SPK_PH_TGT
  else if o = 0x90 then ⟨0x0#32, 0x0#32, 0x0#32, 0x0#32, 0xffffffff#32, 0x0#32, 0x0#32, 0x0#32, 0x0#32⟩ -- SPK_PH_POS
  else if o = 0x94 then ⟨0x0#32, 0x0#32, 0x0#32, 0x0#32, 0xffffffff#32, 0x0#32, 0x0#32, 0x0#32, 0x0#32⟩ -- SPK_PH_CYC
  else if o = 0x98 then ⟨0x0#32, 0x0#32, 0x0#32, 0x0#32, 0xffffffff#32, 0x0#32, 0x0#32, 0x0#32, 0x0#32⟩ -- SPK_PH_ERR
  else if o = 0x9c then ⟨0x0#32, 0xc#32, 0x0#32, 0x0#32, 0xffff0003#32, 0x0#32, 0x0#32, 0x0#32, 0x0#32⟩ -- SPK_PH_STAT
  else .none

def chDesc (o : Nat) : RegDesc :=
  if o = 0x0 then ⟨0xff77000f#32, 0x0#32, 0x0#32, 0x0#32, 0x0#32, 0x0#32, 0x0#32, 0xff77000f#32, 0xff77000f#32⟩ -- CH_CTL
  else if o = 0x4 then ⟨0xffffffff#32, 0x0#32, 0x0#32, 0x0#32, 0x0#32, 0x0#32, 0x0#32, 0x0#32, 0x0#32⟩ -- CH_CNT
  else if o = 0x8 then ⟨0xffffffff#32, 0x0#32, 0x0#32, 0x0#32, 0x0#32, 0x0#32, 0x0#32, 0xffffffff#32, 0xffffffff#32⟩ -- CH_TOP
  else if o = 0xc then ⟨0xffffffff#32, 0x0#32, 0x0#32, 0x0#32, 0x0#32, 0x0#32, 0x0#32, 0xffffffff#32, 0xffffffff#32⟩ -- CH_ADD
  else if inArr o 0x10 0x4 4 then ⟨0xffffffff#32, 0x0#32, 0x0#32, 0x0#32, 0x0#32, 0x0#32, 0x0#32, 0xffffffff#32, 0xffffffff#32⟩ -- CH_CMP
  else if inArr o 0x20 0x4 2 then ⟨0xff73ff73#32, 0x0#32, 0x0#32, 0x0#32, 0x0#32, 0x0#32, 0x0#32, 0xff73ff73#32, 0xff73ff73#32⟩ -- CH_SLOT
  else if o = 0x28 then ⟨0xffffffff#32, 0x0#32, 0x0#32, 0x0#32, 0x0#32, 0x0#32, 0x0#32, 0xffffffff#32, 0xffffffff#32⟩ -- CH_PULSE
  else if o = 0x2c then ⟨0x0#32, 0x0#32, 0x0#32, 0x0#32, 0xffffffff#32, 0x0#32, 0x0#32, 0x0#32, 0x0#32⟩ -- CH_CAP
  else if o = 0x30 then ⟨0x0#32, 0x0#32, 0x0#32, 0x0#32, 0xf7ff#32, 0x0#32, 0x0#32, 0x0#32, 0x0#32⟩ -- CH_CAPX
  else if o = 0x34 then ⟨0x0#32, 0x0#32, 0xff#32, 0x0#32, 0x0#32, 0x0#32, 0x0#32, 0x0#32, 0x0#32⟩ -- CH_CMD
  else if o = 0x38 then ⟨0xffff#32, 0x0#32, 0x0#32, 0x0#32, 0x0#32, 0x0#32, 0x0#32, 0x0#32, 0xffff#32⟩ -- CH_EVTEN
  else if o = 0x3c then ⟨0x0#32, 0xffff#32, 0x0#32, 0x0#32, 0xf770000#32, 0x0#32, 0x0#32, 0x0#32, 0x0#32⟩ -- CH_STAT
  else .none

def tioDesc (o : Nat) : RegDesc :=
  if inArr o 0x0 0x4 128 then ⟨0x3ffffff7#32, 0x0#32, 0x0#32, 0x0#32, 0x0#32, 0x0#32, 0x0#32, 0x0#32, 0x3ffffff7#32⟩ -- TIO_CFG
  else if inArr o 0x200 0x4 4 then ⟨0x0#32, 0x0#32, 0x0#32, 0x0#32, 0xffffffff#32, 0x0#32, 0x0#32, 0x0#32, 0x0#32⟩ -- TIO_IN
  else if inArr o 0x210 0x4 4 then ⟨0x1#32, 0x0#32, 0x0#32, 0x0#32, 0x6#32, 0x0#32, 0x0#32, 0x0#32, 0x1#32⟩ -- TIO_BANK
  else if o = 0x300 then ⟨0x3#32, 0x0#32, 0x0#32, 0x0#32, 0x0#32, 0x1#32, 0x1#32, 0x0#32, 0x0#32⟩ -- VCAL_CTL
  else if o = 0x304 then ⟨0x0#32, 0x0#32, 0x0#32, 0x0#32, 0xffff001f#32, 0x0#32, 0x0#32, 0x0#32, 0x0#32⟩ -- VCAL_STAT
  else if inArr o 0x310 0x4 4 then ⟨0x0#32, 0x0#32, 0x0#32, 0x0#32, 0xffffffff#32, 0x0#32, 0x0#32, 0x0#32, 0x0#32⟩ -- VCAL_FAIL
  else .none

def exgDesc (o : Nat) : RegDesc :=
  if o = 0x0 then ⟨0xff078075#32, 0x0#32, 0x0#32, 0x4000#32, 0x0#32, 0x0#32, 0x8070#32, 0x0#32, 0xff07c075#32⟩ -- EXG_CTL
  else if o = 0x4 then ⟨0x0#32, 0x0#32, 0x0#32, 0x0#32, 0x77f03ff#32, 0x0#32, 0x0#32, 0x0#32, 0x0#32⟩ -- EXG_STAT
  else if o = 0x8 then ⟨0x0#32, 0x3ff#32, 0x0#32, 0x0#32, 0x0#32, 0x0#32, 0x0#32, 0x0#32, 0x0#32⟩ -- EXG_EVT
  else if o = 0xc then ⟨0x0#32, 0x0#32, 0x717#32, 0x8#32, 0x0#32, 0x0#32, 0x0#32, 0x0#32, 0x0#32⟩ -- EXG_CMD
  else if o = 0x10 then ⟨0xfffffff#32, 0x0#32, 0x0#32, 0x0#32, 0x0#32, 0x0#32, 0x3e8#32, 0x0#32, 0xfffffff#32⟩ -- EXG_PER
  else if o = 0x14 then ⟨0x1ff#32, 0x0#32, 0x0#32, 0x0#32, 0x1ff0000#32, 0x0#32, 0x1#32, 0x0#32, 0x1ff#32⟩ -- EXG_RELOAD
  else if o = 0x18 then ⟨0xfffffff#32, 0x0#32, 0x0#32, 0x0#32, 0x0#32, 0x0#32, 0x0#32, 0x0#32, 0xfffffff#32⟩ -- EXG_BLKLO
  else if o = 0x1c then ⟨0xfffffff#32, 0x0#32, 0x0#32, 0x0#32, 0x0#32, 0x0#32, 0x0#32, 0x0#32, 0xfffffff#32⟩ -- EXG_BLKHI
  else if inArr o 0x20 0x4 8 then ⟨0xffffffff#32, 0x0#32, 0x0#32, 0x0#32, 0x0#32, 0x0#32, 0x0#32, 0x0#32, 0xffffffff#32⟩ -- EXG_DUTY
  else if inArr o 0x40 0x4 4 then ⟨0xfffffff#32, 0x0#32, 0x0#32, 0x0#32, 0x0#32, 0x0#32, 0x0#32, 0x0#32, 0xfffffff#32⟩ -- EXG_TRIG
  else if o = 0x50 then ⟨0x0f0f0f0f#32, 0x0#32, 0x0#32, 0x0#32, 0x0#32, 0x0#32, 0x0#32, 0x0#32, 0x0f0f0f0f#32⟩ -- EXG_TRGCFG
  else if o = 0x54 then ⟨0x0#32, 0x0#32, 0x0#32, 0x37f#32, 0x0#32, 0x0#32, 0x0#32, 0x0#32, 0x37f#32⟩ -- EXG_BLANK
  else if o = 0x58 then ⟨0x0#32, 0x0#32, 0x0#32, 0xffffffff#32, 0x0#32, 0x0#32, 0x0#32, 0x0#32, 0xffffffff#32⟩ -- EXG_TRIPMAP
  else if o = 0x5c then ⟨0x0#32, 0x0#32, 0x0#32, 0x7f7fff#32, 0x0#32, 0x0#32, 0x803ff#32, 0x0#32, 0x7f7fff#32⟩ -- EXG_CBCLIM
  else if o = 0x60 then ⟨0xff#32, 0x0#32, 0x0#32, 0xff00#32, 0x0#32, 0x0#32, 0x0#32, 0x0#32, 0xffff#32⟩ -- EXG_LVL
  else if o = 0x64 then ⟨0x177f7b#32, 0x0#32, 0x0#32, 0x0#32, 0x0#32, 0x0#32, 0x50#32, 0x0#32, 0x177f7b#32⟩ -- EXG_COMM
  else if o = 0x68 then ⟨0x3ff#32, 0x0#32, 0x0#32, 0x0#32, 0x0#32, 0x0#32, 0x0#32, 0x0#32, 0x3ff#32⟩ -- EXG_EVTEN
  else if o = 0x6c then ⟨0x0#32, 0x0#32, 0x0#32, 0x0#32, 0xfffffff#32, 0x0#32, 0x0#32, 0x0#32, 0x0#32⟩ -- EXG_CNT
  else if inArr o 0x70 0x4 8 then ⟨0x1ffff#32, 0x0#32, 0x0#32, 0x0#32, 0x0#32, 0x0#32, 0xff#32, 0x0#32, 0x1ffff#32⟩ -- EXG_MTAB
  else if inArr o 0x90 0x4 16 then ⟨0x0#32, 0x0#32, 0x0#32, 0x0#32, 0xffffffff#32, 0x0#32, 0x0#32, 0x0#32, 0x0#32⟩ -- EXG_ACT
  else .none

def exgSharedDesc (o : Nat) : RegDesc :=
  if o = 0x0 then ⟨0x0#32, 0x0#32, 0xffff#32, 0x0#32, 0x0#32, 0x0#32, 0x0#32, 0x0#32, 0x0#32⟩ -- EXG_GO
  else if o = 0x4 then ⟨0x0#32, 0x0#32, 0x0#32, 0x0#32, 0xffff#32, 0x0#32, 0x0#32, 0x0#32, 0x0#32⟩ -- TRIP_IN
  else if inArr o 0x100 0x4 16 then ⟨0x0#32, 0x0#32, 0x0#32, 0x3ff#32, 0x0#32, 0x0#32, 0x14#32, 0x0#32, 0x3ff#32⟩ -- TRIP_CFG
  else if inArr o 0x200 0x4 8 then ⟨0x3ff#32, 0x0#32, 0x0#32, 0x0#32, 0x0#32, 0x0#32, 0x20#32, 0x0#32, 0x3ff#32⟩ -- TRG_CFG
  else .none

def calDesc (o : Nat) : RegDesc :=
  if o = 0x0 then ⟨0x17fff#32, 0x0#32, 0x0#32, 0x0#32, 0x0#32, 0x0#32, 0x3c00#32, 0x0#32, 0x17fff#32⟩ -- CAL_CTL
  else if o = 0x4 then ⟨0x0#32, 0x0#32, 0x0#32, 0x0#32, 0xf#32, 0x0#32, 0x0#32, 0x0#32, 0x0#32⟩ -- CAL_STAT
  else if o = 0x8 then ⟨0x0#32, 0x0#32, 0x0#32, 0x0#32, 0xffffffff#32, 0x0#32, 0x0#32, 0x0#32, 0x0#32⟩ -- CAL_OCC
  else if o = 0xc then ⟨0x0#32, 0x0#32, 0x0#32, 0x0#32, 0xffffffff#32, 0x0#32, 0x0#32, 0x0#32, 0x0#32⟩ -- CAL_SPOCC
  else if o = 0x10 then ⟨0x0#32, 0x3fff#32, 0x0#32, 0x0#32, 0x0#32, 0x0#32, 0x0#32, 0x0#32, 0x0#32⟩ -- CAL_EVT
  else if o = 0x14 then ⟨0x3fff#32, 0x0#32, 0x0#32, 0x0#32, 0x0#32, 0x0#32, 0x0#32, 0x0#32, 0x3fff#32⟩ -- CAL_EVTEN
  else if o = 0x20 then ⟨0x0#32, 0x0#32, 0xfffff001#32, 0x0#32, 0x0#32, 0x0#32, 0x0#32, 0x0#32, 0x0#32⟩ -- CAL_FLUSH
  else if o = 0x24 then ⟨0x0#32, 0x0#32, 0x1#32, 0x0#32, 0x0#32, 0x0#32, 0x0#32, 0x0#32, 0x0#32⟩ -- CAL_CMD
  else if o = 0x30 then ⟨0xfffffff0#32, 0x0#32, 0x0#32, 0x0#32, 0x0#32, 0x0#32, 0x0#32, 0x0#32, 0xfffffff0#32⟩ -- CAL_SPILL_BASE
  else if o = 0x34 then ⟨0xff01#32, 0x0#32, 0x0#32, 0x0#32, 0x0#32, 0x0#32, 0x0#32, 0x0#32, 0xff01#32⟩ -- CAL_SPILL_CTL
  else if inArr o 0x40 0x4 8 then ⟨0x17#32, 0x0#32, 0x0#32, 0x0#32, 0x0#32, 0x0#32, 0x1#32, 0x0#32, 0x17#32⟩ -- CAL_UNIT
  else if inArr o 0x60 0x4 8 then ⟨0x0#32, 0x0#32, 0x0#32, 0x0#32, 0xffffffff#32, 0x0#32, 0x0#32, 0x0#32, 0x0#32⟩ -- CAL_UCNT
  else if o = 0x80 then ⟨0x0#32, 0x0#32, 0x0#32, 0x0#32, 0xffffffff#32, 0x0#32, 0x0#32, 0x0#32, 0x0#32⟩ -- CAL_REFCNT
  else .none

def calBankDesc (o : Nat) : RegDesc :=
  if o = 0x0 then ⟨0xf0fffff7#32, 0x0#32, 0x0#32, 0x0#32, 0x0#32, 0x0#32, 0x0#32, 0x0#32, 0x0#32⟩ -- CAL_D0
  else if o = 0x4 then ⟨0xffffffff#32, 0x0#32, 0x0#32, 0x0#32, 0x0#32, 0x0#32, 0x0#32, 0x0#32, 0x0#32⟩ -- CAL_D1
  else if o = 0x8 then ⟨0xffffffff#32, 0x0#32, 0x0#32, 0x0#32, 0x0#32, 0x0#32, 0x0#32, 0x0#32, 0x0#32⟩ -- CAL_D2
  else if o = 0xc then ⟨0xffffffff#32, 0x0#32, 0x0#32, 0x0#32, 0x0#32, 0x0#32, 0x0#32, 0x0#32, 0x0#32⟩ -- CAL_D3
  else if o = 0x10 then ⟨0xffffffff#32, 0x0#32, 0x0#32, 0x0#32, 0x0#32, 0x0#32, 0x0#32, 0x0#32, 0x0#32⟩ -- CAL_D4
  else if o = 0x14 then ⟨0x0#32, 0x0#32, 0xffffffff#32, 0x0#32, 0x0#32, 0x0#32, 0x0#32, 0x0#32, 0x0#32⟩ -- CAL_ARM
  else if o = 0x18 then ⟨0x0#32, 0x0#32, 0xffffffff#32, 0x0#32, 0x0#32, 0x0#32, 0x0#32, 0x0#32, 0x0#32⟩ -- CAL_CANCEL
  else if o = 0x1c then ⟨0x0#32, 0x0#32, 0x0#32, 0x0#32, 0xffffffff#32, 0x0#32, 0x0#32, 0x0#32, 0x0#32⟩ -- CAL_RES
  else .none

def engDesc (o : Nat) : RegDesc :=
  if o = 0x0 then ⟨0x1#32, 0x0#32, 0x2#32, 0x1fff0000#32, 0x0#32, 0x0#32, 0x10000000#32, 0x0#32, 0x1fff0001#32⟩ -- ENL_CTL
  else if o = 0x4 then ⟨0x0#32, 0x7#32, 0x0#32, 0x0#32, 0xffff0000#32, 0x0#32, 0x0#32, 0x0#32, 0x0#32⟩ -- ENL_STAT
  else if o = 0x8 then ⟨0xf1#32, 0x0#32, 0x0#32, 0x0#32, 0x0#32, 0x0#32, 0x0#32, 0x0#32, 0x0#32⟩ -- ENL_WIN
  else if inArr o 0x100 0x40 4 then ⟨0x120#32, 0x0#32, 0x1f#32, 0xff010000#32, 0x0#32, 0x0#32, 0x0#32, 0x0#32, 0xff010100#32⟩ -- ENL_TCTL
  else if inArr o 0x104 0x40 4 then ⟨0x0#32, 0xe000#32, 0x0#32, 0x0#32, 0xff070f07#32, 0x0#32, 0x0#32, 0x0#32, 0x0#32⟩ -- ENL_TSTAT
  else if inArr o 0x108 0x40 4 then ⟨0xfff#32, 0x0#32, 0x0#32, 0x0#32, 0x0#32, 0x0#32, 0x0#32, 0x0#32, 0xfff#32⟩ -- ENL_TPC
  else if inArr o 0x10c 0x40 4 then ⟨0xfff#32, 0x0#32, 0x0#32, 0x0#32, 0x0#32, 0x0#32, 0x0#32, 0x0#32, 0x0#32⟩ -- ENL_TBKPT
  else if inArr o 0x110 0x40 4 then ⟨0x0#32, 0x0#32, 0x0#32, 0x0#32, 0xffff#32, 0x0#32, 0x0#32, 0x0#32, 0x0#32⟩ -- ENL_TEVP
  else if inArr o 0x114 0x40 4 then ⟨0xffff#32, 0x0#32, 0x0#32, 0x0#32, 0x0#32, 0x0#32, 0x0#32, 0x0#32, 0xffff#32⟩ -- ENL_TCAPSEL
  else if inArr o 0x118 0x40 4 then ⟨0x0#32, 0x0#32, 0xffffffff#32, 0x0#32, 0x0#32, 0x0#32, 0x0#32, 0x0#32, 0x0#32⟩ -- ENL_TMSG
  else if inArr o 0x11c 0x40 4 then ⟨0x0#32, 0x0#32, 0x0#32, 0x0#32, 0xffffffff#32, 0x0#32, 0x0#32, 0x0#32, 0x0#32⟩ -- ENL_TFLT
  else if inArr o 0x120 0x40 4 then ⟨0x0#32, 0x0#32, 0x0#32, 0x0#32, 0xffffffff#32, 0x0#32, 0x0#32, 0x0#32, 0x0#32⟩ -- ENL_TICNT
  else if inArr o 0x400 0x4 128 then ⟨0xffffffff#32, 0x0#32, 0x0#32, 0x0#32, 0x0#32, 0x0#32, 0x0#32, 0x0#32, 0x0#32⟩ -- ENL_W
  else .none

def ctDesc (o : Nat) : RegDesc :=
  if o = 0x0 then ⟨0xf7713#32, 0x0#32, 0x0#32, 0x0#32, 0x0#32, 0x0#32, 0x102#32, 0x0#32, 0xf7713#32⟩ -- CT_CTL
  else if o = 0x4 then ⟨0x0#32, 0x0#32, 0x0#32, 0x0#32, 0x1f#32, 0x0#32, 0x0#32, 0x0#32, 0x0#32⟩ -- CT_STAT
  else if o = 0x8 then ⟨0x0#32, 0x1fef#32, 0x0#32, 0x0#32, 0x0#32, 0x0#32, 0x0#32, 0x0#32, 0x0#32⟩ -- CT_EVT
  else if o = 0xc then ⟨0x0#32, 0x0#32, 0x1f#32, 0x0#32, 0x0#32, 0x0#32, 0x0#32, 0x0#32, 0x0#32⟩ -- CT_CMD
  else if o = 0x10 then ⟨0xfffffff0#32, 0x0#32, 0x0#32, 0x0#32, 0x0#32, 0x0#32, 0x0#32, 0xfffffff0#32, 0xfffffff0#32⟩ -- CT_BASE
  else if o = 0x14 then ⟨0x7fff000f#32, 0x0#32, 0x0#32, 0x0#32, 0x0#32, 0x0#32, 0x8#32, 0x7fff000f#32, 0x7fff000f#32⟩ -- CT_GEOM
  else if o = 0x18 then ⟨0xffffffff#32, 0x0#32, 0x0#32, 0x0#32, 0x0#32, 0x0#32, 0x0#32, 0xffffffff#32, 0xffffffff#32⟩ -- CT_STEP
  else if o = 0x1c then ⟨0x7fff7fff#32, 0x0#32, 0x0#32, 0x0#32, 0x0#32, 0x0#32, 0x7fff0000#32, 0x7fff7fff#32, 0x7fff7fff#32⟩ -- CT_LOOP
  else if o = 0x20 then ⟨0xffffffff#32, 0x0#32, 0x0#32, 0x0#32, 0x0#32, 0x0#32, 0x0#32, 0xffffffff#32, 0xffffffff#32⟩ -- CT_ORG
  else if o = 0x24 then ⟨0xffffffff#32, 0x0#32, 0x0#32, 0x0#32, 0x0#32, 0x0#32, 0x0#32, 0x0#32, 0xffffffff#32⟩ -- CT_START_CYC
  else if o = 0x28 then ⟨0x7fff#32, 0x0#32, 0x0#32, 0x0#32, 0x0#32, 0x0#32, 0x0#32, 0x0#32, 0x0#32⟩ -- CT_JUMP
  else if o = 0x30 then ⟨0x0#32, 0x0#32, 0x0#32, 0x0#32, 0xffffffff#32, 0x0#32, 0x0#32, 0x0#32, 0x0#32⟩ -- CT_COL
  else if o = 0x34 then ⟨0x0#32, 0x0#32, 0x0#32, 0x0#32, 0xffffffff#32, 0x0#32, 0x0#32, 0x0#32, 0x0#32⟩ -- CT_CNT
  else if inArr o 0x100 0x8 32 then ⟨0x83ff03ff#32, 0x0#32, 0x0#32, 0x0#32, 0x0#32, 0x0#32, 0x0#32, 0x0#32, 0x83ff03ff#32⟩ -- CT_LANE_ROWS
  else if inArr o 0x104 0x8 32 then ⟨0xffffffff#32, 0x0#32, 0x0#32, 0x0#32, 0x0#32, 0x0#32, 0x0#32, 0xffffffff#32, 0xffffffff#32⟩ -- CT_LANE_OFS
  else if inArr o 0x400 0x4 128 then ⟨0x3ff#32, 0x0#32, 0x0#32, 0x0#32, 0x0#32, 0x0#32, 0x0#32, 0x0#32, 0x3ff#32⟩ -- CT_LROW
  else .none

def linkDesc (o : Nat) : RegDesc :=
  if o = 0x0 then ⟨0x33#32, 0x0#32, 0x0#32, 0x0#32, 0x0#32, 0x0#32, 0x10#32, 0x0#32, 0x33#32⟩ -- LINK_CTL
  else if o = 0x4 then ⟨0x0#32, 0x0#32, 0x0#32, 0x0#32, 0xf#32, 0x0#32, 0x0#32, 0x0#32, 0x0#32⟩ -- LINK_STAT
  else if o = 0x8 then ⟨0x0#32, 0x1fff#32, 0x0#32, 0x0#32, 0x0#32, 0x0#32, 0x0#32, 0x0#32, 0x0#32⟩ -- LINK_EVT
  else if o = 0xc then ⟨0x0#32, 0x0#32, 0x3#32, 0x0#32, 0x0#32, 0x0#32, 0x0#32, 0x0#32, 0x0#32⟩ -- LINK_CMD
  else if o = 0x10 then ⟨0xffff#32, 0x0#32, 0x0#32, 0x0#32, 0x0#32, 0x0#32, 0x40a#32, 0x0#32, 0xffff#32⟩ -- LINK_PARAM
  else if o = 0x14 then ⟨0x0#32, 0x0#32, 0x0#32, 0x0#32, 0xffffffff#32, 0x0#32, 0x0#32, 0x0#32, 0x0#32⟩ -- LINK_RTT
  else if o = 0x18 then ⟨0x0#32, 0x0#32, 0x0#32, 0x0#32, 0xffffffff#32, 0x0#32, 0x0#32, 0x0#32, 0x0#32⟩ -- LINK_LEAD
  else if o = 0x1c then ⟨0x0#32, 0x0#32, 0x0#32, 0x0#32, 0xffffffff#32, 0x0#32, 0x0#32, 0x0#32, 0x0#32⟩ -- LINK_DRV
  else if o = 0x20 then ⟨0x0#32, 0x0#32, 0x0#32, 0x0#32, 0xffffffff#32, 0x0#32, 0x0#32, 0x0#32, 0x0#32⟩ -- LINK_DRVID
  else if o = 0x24 then ⟨0x0#32, 0x0#32, 0x0#32, 0x0#32, 0xffffffff#32, 0x0#32, 0x0#32, 0x0#32, 0x0#32⟩ -- LINK_RSTAT
  else if inArr o 0x28 0x4 3 then ⟨0x0#32, 0x0#32, 0x0#32, 0x0#32, 0xffffffff#32, 0x0#32, 0x0#32, 0x0#32, 0x0#32⟩ -- LINK_ERRCNT
  else if inArr o 0x40 0x4 4 then ⟨0xffffffff#32, 0x0#32, 0x0#32, 0x0#32, 0x0#32, 0x0#32, 0x0#32, 0x0#32, 0xffffffff#32⟩ -- LINK_OWN
  else if inArr o 0x50 0x4 4 then ⟨0x0#32, 0x0#32, 0x0#32, 0x0#32, 0xffffffff#32, 0x0#32, 0x0#32, 0x0#32, 0x0#32⟩ -- LINK_FAULT
  else .none

def shqDesc (o : Nat) : RegDesc :=
  if o = 0x0 then ⟨0x13101#32, 0x0#32, 0x0#32, 0x0#32, 0x0#32, 0x0#32, 0x0#32, 0x0#32, 0x13101#32⟩ -- SHQ_CTL
  else if o = 0x4 then ⟨0x0#32, 0x0#32, 0x0#32, 0x0#32, 0xffffff03#32, 0x0#32, 0x0#32, 0x0#32, 0x0#32⟩ -- SHQ_STAT
  else if o = 0x8 then ⟨0x0#32, 0xffff#32, 0x0#32, 0x0#32, 0x0#32, 0x0#32, 0x0#32, 0x0#32, 0x0#32⟩ -- SHQ_EVT
  else if o = 0xc then ⟨0x0#32, 0x0#32, 0x3f#32, 0x0#32, 0x0#32, 0x0#32, 0x0#32, 0x0#32, 0x0#32⟩ -- SHQ_CMD
  else if o = 0x10 then ⟨0xffffff00#32, 0x0#32, 0x0#32, 0x0#32, 0x0#32, 0x0#32, 0x10000#32, 0x0#32, 0xffffff00#32⟩ -- SHQ_DIV
  else if o = 0x14 then ⟨0x7f3f1f1f#32, 0x0#32, 0x0#32, 0x0#32, 0x0#32, 0x0#32, 0x0#32, 0x0#32, 0x7f3f1f1f#32⟩ -- SHQ_PINS
  else if o = 0x18 then ⟨0x1f1f0f33#32, 0x0#32, 0x0#32, 0x0#32, 0x0#32, 0x0#32, 0x0#32, 0x0#32, 0x1f1f0f33#32⟩ -- SHQ_SHIFT
  else if o = 0x1c then ⟨0x3f#32, 0x0#32, 0x0#32, 0x0#32, 0x0#32, 0x0#32, 0x0#32, 0x0#32, 0x3f#32⟩ -- SHQ_PC
  else if o = 0x20 then ⟨0xffffffff#32, 0x0#32, 0x0#32, 0x0#32, 0x0#32, 0x0#32, 0x0#32, 0x0#32, 0x0#32⟩ -- SHQ_CX
  else if o = 0x24 then ⟨0xffffffff#32, 0x0#32, 0x0#32, 0x0#32, 0x0#32, 0x0#32, 0x0#32, 0x0#32, 0x0#32⟩ -- SHQ_CY
  else if o = 0x28 then ⟨0xffffffff#32, 0x0#32, 0x0#32, 0x0#32, 0x0#32, 0x0#32, 0x0#32, 0x0#32, 0x0#32⟩ -- SHQ_OSR
  else if o = 0x2c then ⟨0xffffffff#32, 0x0#32, 0x0#32, 0x0#32, 0x0#32, 0x0#32, 0x0#32, 0x0#32, 0x0#32⟩ -- SHQ_ISR
  else if o = 0x30 then ⟨0xffffffff#32, 0x0#32, 0x0#32, 0x0#32, 0x0#32, 0x0#32, 0x0#32, 0x0#32, 0x0#32⟩ -- SHQ_DIRS
  else if o = 0x34 then ⟨0xffffffff#32, 0x0#32, 0x0#32, 0x0#32, 0x0#32, 0x0#32, 0x0#32, 0x0#32, 0x0#32⟩ -- SHQ_PINOUT
  else if o = 0x38 then ⟨0x0#32, 0x0#32, 0xffffffff#32, 0x0#32, 0x0#32, 0x0#32, 0x0#32, 0x0#32, 0x0#32⟩ -- SHQ_TXQ
  else if o = 0x3c then ⟨0x0#32, 0x0#32, 0x0#32, 0x0#32, 0xffffffff#32, 0x0#32, 0x0#32, 0x0#32, 0x0#32⟩ -- SHQ_RXQ
  else if o = 0x40 then ⟨0x0#32, 0x0#32, 0xffffff#32, 0x0#32, 0x0#32, 0x0#32, 0x0#32, 0x0#32, 0x0#32⟩ -- SHQ_INJ
  else if o = 0x44 then ⟨0xffff#32, 0x0#32, 0x0#32, 0x0#32, 0x0#32, 0x0#32, 0x0#32, 0x0#32, 0xffff#32⟩ -- SHQ_EVTEN
  else if o = 0x48 then ⟨0x3f#32, 0x0#32, 0x0#32, 0x0#32, 0x0#32, 0x0#32, 0x0#32, 0x0#32, 0x3f#32⟩ -- SHQ_START
  else if inArr o 0x100 0x4 64 then ⟨0xffffff#32, 0x0#32, 0x0#32, 0x0#32, 0x0#32, 0x0#32, 0x0#32, 0x0#32, 0xffffff#32⟩ -- SHQ_PROG
  else .none

def safeDesc (o : Nat) : RegDesc :=
  if o = 0x0 then ⟨0x0#32, 0x0#32, 0x0#32, 0x0#32, 0x30f7f03#32, 0x0#32, 0x0#32, 0x0#32, 0x0#32⟩ -- SAFE_STAT
  else if o = 0x4 then ⟨0x0#32, 0x1f#32, 0x0#32, 0x0#32, 0x0#32, 0x0#32, 0x0#32, 0x0#32, 0x0#32⟩ -- SAFE_EVT
  else if o = 0x8 then ⟨0x0#32, 0x0#32, 0x0#32, 0xffffffff#32, 0x0#32, 0x0#32, 0x141401f4#32, 0x0#32, 0xffffffff#32⟩ -- SAFE_CFG
  else if o = 0xc then ⟨0x0#32, 0x0#32, 0x0#32, 0xffff0003#32, 0x0#32, 0x0#32, 0x0#32, 0x0#32, 0x0#32⟩ -- SAFE_CMD
  else if o = 0x10 then ⟨0x0#32, 0x0#32, 0x0#32, 0xffff3f#32, 0x0#32, 0x0#32, 0x3f#32, 0x0#32, 0xffff3f#32⟩ -- SAFE_ESC
  else if o = 0x20 then ⟨0x0#32, 0x0#32, 0x0#32, 0xe000ffff#32, 0x0#32, 0x0#32, 0x3e8#32, 0x0#32, 0xc000ffff#32⟩ -- HWD_CTL
  else if o = 0x24 then ⟨0x0#32, 0x0#32, 0xff#32, 0x0#32, 0x0#32, 0x0#32, 0x0#32, 0x0#32, 0x0#32⟩ -- HWD_KICK
  else if o = 0x28 then ⟨0x0#32, 0x2#32, 0x0#32, 0x0#32, 0xffff0005#32, 0x0#32, 0x0#32, 0x0#32, 0x0#32⟩ -- HWD_STAT
  else if inArr o 0x40 0x4 8 then ⟨0x0#32, 0x0#32, 0x0#32, 0xffffffff#32, 0x0#32, 0x0#32, 0xaaaaaaaa#32, 0x0#32, 0xffffffff#32⟩ -- SAFE_TLVL
  else if o = 0x60 then ⟨0x0#32, 0x0#32, 0x0#32, 0xffff#32, 0x0#32, 0x0#32, 0x0#32, 0x0#32, 0xffff#32⟩ -- SAFE_TRG
  else if inArr o 0x80 0x4 32 then ⟨0x0#32, 0x0#32, 0x0#32, 0xffffffff#32, 0x0#32, 0x0#32, 0x0#32, 0x0#32, 0xffffffff#32⟩ -- SAFE_RLVL
  else if inArr o 0x100 0x4 4 then ⟨0x0#32, 0x0#32, 0x0#32, 0xffffffff#32, 0x0#32, 0x0#32, 0x0#32, 0x0#32, 0xffffffff#32⟩ -- GUARD_CH
  else if inArr o 0x110 0x4 4 then ⟨0x0#32, 0x0#32, 0x0#32, 0xffffffff#32, 0x0#32, 0x0#32, 0x0#32, 0x0#32, 0xffffffff#32⟩ -- GUARD_RG
  else if inArr o 0x120 0x4 16 then ⟨0x0#32, 0x0#32, 0x0#32, 0x77777777#32, 0x0#32, 0x0#32, 0x0#32, 0x0#32, 0x77777777#32⟩ -- GUARD_SEL
  else if o = 0x160 then ⟨0x0#32, 0x0#32, 0x0#32, 0x7#32, 0x0#32, 0x0#32, 0x0#32, 0x0#32, 0x7#32⟩ -- GUARD_RCFG
  else if inArr o 0x170 0x4 4 then ⟨0x0#32, 0xffffffff#32, 0x0#32, 0x0#32, 0x0#32, 0x0#32, 0x0#32, 0x0#32, 0x0#32⟩ -- GUARD_HIT
  else if o = 0x180 then ⟨0x0#32, 0x0#32, 0x0#32, 0xffffffff#32, 0x0#32, 0x0#32, 0x0#32, 0x0#32, 0xffffffff#32⟩ -- REL_CTL
  else if o = 0x184 then ⟨0x0#32, 0xff#32, 0x0#32, 0x0#32, 0x0#32, 0x0#32, 0x0#32, 0x0#32, 0x0#32⟩ -- REL_EVT
  else if inArr o 0x190 0x4 4 then ⟨0x0#32, 0x0#32, 0x0#32, 0x0#32, 0xffffffff#32, 0x0#32, 0x0#32, 0x0#32, 0x0#32⟩ -- REL_CNT
  else if inArr o 0x200 0x4 8 then ⟨0x0#32, 0xffffffff#32, 0x0#32, 0x0#32, 0x0#32, 0x0#32, 0x0#32, 0x0#32, 0x0#32⟩ -- MTR_HIT
  else if o = 0x220 then ⟨0x0#32, 0x0#32, 0x0#32, 0x3ff#32, 0x0#32, 0x0#32, 0x0#32, 0x0#32, 0x0#32⟩ -- MTR_CMD
  else .none

def mtrDesc (o : Nat) : RegDesc :=
  if o = 0x0 then ⟨0x0#32, 0x0#32, 0x0#32, 0x31fff#32, 0x0#32, 0x0#32, 0x1000#32, 0x0#32, 0x31fff#32⟩ -- MTR_CFG
  else if o = 0x4 then ⟨0x0#32, 0x0#32, 0x0#32, 0xffffffff#32, 0x0#32, 0x0#32, 0xffffffff#32, 0x0#32, 0xffffffff#32⟩ -- MTR_BUD
  else if o = 0x8 then ⟨0x0#32, 0x0#32, 0x0#32, 0xffffffff#32, 0x0#32, 0x0#32, 0x0#32, 0x0#32, 0xffffffff#32⟩ -- MTR_REL
  else if o = 0xc then ⟨0x0#32, 0x0#32, 0x0#32, 0x0#32, 0xffffffff#32, 0x0#32, 0x0#32, 0x0#32, 0x0#32⟩ -- MTR_E
  else if o = 0x10 then ⟨0x0#32, 0x0#32, 0x0#32, 0x0#32, 0x1#32, 0x0#32, 0x0#32, 0x0#32, 0x0#32⟩ -- MTR_STAT
  else .none

def evrDesc (o : Nat) : RegDesc :=
  if inArr o 0x0 0x4 512 then ⟨0x0#32, 0x0#32, 0x0#32, 0x113#32, 0x0#32, 0x0#32, 0x0#32, 0x0#32, 0x113#32⟩ -- EVR_ROUTE
  else if o = 0x800 then ⟨0x0#32, 0x0#32, 0x0#32, 0x0#32, 0x3ff0000#32, 0x0#32, 0x0#32, 0x0#32, 0x0#32⟩ -- EVR_GSTAT
  else .none

def evrBankDesc (o : Nat) : RegDesc :=
  if o = 0x0 then ⟨0x1#32, 0x0#32, 0x6#32, 0x0#32, 0x0#32, 0x0#32, 0x0#32, 0x0#32, 0x1#32⟩ -- EVR_CTL
  else if o = 0x4 then ⟨0x0#32, 0x0#32, 0x0#32, 0x0#32, 0x93#32, 0x0#32, 0x0#32, 0x0#32, 0x0#32⟩ -- EVR_STAT
  else if o = 0x8 then ⟨0x0#32, 0x7f#32, 0x0#32, 0x0#32, 0x0#32, 0x0#32, 0x0#32, 0x0#32, 0x0#32⟩ -- EVR_EVT
  else if inArr o 0x40 0x40 2 then ⟨0xfffffff0#32, 0x0#32, 0x0#32, 0x0#32, 0x0#32, 0x0#32, 0x0#32, 0x0#32, 0xfffffff0#32⟩ -- EVR_RING_BASE
  else if inArr o 0x44 0x40 2 then ⟨0x10f#32, 0x0#32, 0x0#32, 0x0#32, 0x0#32, 0x0#32, 0x8#32, 0x0#32, 0x10f#32⟩ -- EVR_RING_CFG
  else if inArr o 0x48 0x40 2 then ⟨0x0#32, 0x0#32, 0x0#32, 0x0#32, 0xffffff#32, 0x0#32, 0x0#32, 0x0#32, 0x0#32⟩ -- EVR_WPTR
  else if inArr o 0x4c 0x40 2 then ⟨0x0#32, 0x0#32, 0x0#32, 0x0#32, 0xffffff#32, 0x0#32, 0x0#32, 0x0#32, 0x0#32⟩ -- EVR_RPTR
  else if inArr o 0x50 0x40 2 then ⟨0x0#32, 0x0#32, 0x0#32, 0x0#32, 0xc1ff0fff#32, 0x0#32, 0x0#32, 0x0#32, 0x0#32⟩ -- EVR_CLAIM
  else if inArr o 0x54 0x40 2 then ⟨0x0#32, 0x0#32, 0xfff#32, 0x0#32, 0x0#32, 0x0#32, 0x0#32, 0x0#32, 0x0#32⟩ -- EVR_DONE
  else if inArr o 0x58 0x40 2 then ⟨0x0#32, 0x0#32, 0x0#32, 0x0#32, 0xffff#32, 0x0#32, 0x0#32, 0x0#32, 0x0#32⟩ -- EVR_LOST
  else if inArr o 0x100 0x4 16 then ⟨0xffffffff#32, 0x0#32, 0x0#32, 0x0#32, 0x0#32, 0x0#32, 0xffffffff#32, 0x0#32, 0xffffffff#32⟩ -- EVR_MASK
  else if inArr o 0x140 0x4 16 then ⟨0x0#32, 0x0#32, 0x0#32, 0x0#32, 0xffffffff#32, 0x0#32, 0x0#32, 0x0#32, 0x0#32⟩ -- EVR_PEND
  else .none

def splDesc (o : Nat) : RegDesc :=
  if o = 0x0 then ⟨0x7#32, 0x0#32, 0x0#32, 0x0#32, 0x0#32, 0x0#32, 0x0#32, 0x0#32, 0x7#32⟩ -- SPL_OWN
  else if o = 0x4 then ⟨0x3#32, 0x0#32, 0x0#32, 0x0#32, 0x300#32, 0x0#32, 0x0#32, 0x0#32, 0x3#32⟩ -- SPL_PWR
  else if o = 0x8 then ⟨0x0#32, 0x3f#32, 0x0#32, 0x0#32, 0x0#32, 0x0#32, 0x0#32, 0x0#32, 0x0#32⟩ -- SPL_EVT
  else if o = 0xc then ⟨0x3f#32, 0x0#32, 0x0#32, 0x0#32, 0x0#32, 0x0#32, 0x0#32, 0x0#32, 0x3f#32⟩ -- SPL_EVTEN
  else if o = 0x10 then ⟨0x0#32, 0x0#32, 0x0#32, 0x0#32, 0xffffffff#32, 0x0#32, 0x0#32, 0x0#32, 0x0#32⟩ -- SPL_ECC
  else if o = 0x14 then ⟨0x0#32, 0x0#32, 0x0#32, 0x0#32, 0xffffffff#32, 0x0#32, 0x0#32, 0x0#32, 0x0#32⟩ -- SPL_ECCADDR
  else if o = 0x18 then ⟨0x0#32, 0x0#32, 0x0#32, 0x0#32, 0xf0fffff#32, 0x0#32, 0x0#32, 0x0#32, 0x0#32⟩ -- SPL_VIOL
  else if o = 0x1c then ⟨0xffff0003#32, 0x0#32, 0xc#32, 0x0#32, 0x0#32, 0x0#32, 0xf40001#32, 0x0#32, 0xffff0003#32⟩ -- SPL_TSTCTL
  else if o = 0x20 then ⟨0x0#32, 0x0#32, 0x0#32, 0x0#32, 0xffffffff#32, 0x0#32, 0x0#32, 0x0#32, 0x0#32⟩ -- SPL_TSTAT
  else if o = 0x24 then ⟨0x0#32, 0x0#32, 0x0#32, 0x0#32, 0xffffffff#32, 0x0#32, 0x0#32, 0x0#32, 0x0#32⟩ -- SPL_TFAIL
  else if o = 0x28 then ⟨0x0#32, 0x0#32, 0x0#32, 0x0#32, 0xffffffff#32, 0x0#32, 0x0#32, 0x0#32, 0x0#32⟩ -- SPL_TABRT
  else .none

def cpyDesc (o : Nat) : RegDesc :=
  if o = 0x0 then ⟨0xf10#32, 0x0#32, 0x3#32, 0x0#32, 0x0#32, 0x0#32, 0x0#32, 0x0#32, 0x0#32⟩ -- CPY_CTL
  else if o = 0x4 then ⟨0x0#32, 0x6#32, 0x0#32, 0x0#32, 0xffffe371#32, 0x0#32, 0x0#32, 0x0#32, 0x0#32⟩ -- CPY_STAT
  else if o = 0x8 then ⟨0x7ffffc#32, 0x0#32, 0x0#32, 0x0#32, 0x0#32, 0x0#32, 0x0#32, 0x0#32, 0x0#32⟩ -- CPY_SRC
  else if o = 0xc then ⟨0x7ffffc#32, 0x0#32, 0x0#32, 0x0#32, 0x0#32, 0x0#32, 0x0#32, 0x0#32, 0x0#32⟩ -- CPY_DST
  else if o = 0x10 then ⟨0xffffffff#32, 0x0#32, 0x0#32, 0x0#32, 0x0#32, 0x0#32, 0x0#32, 0x0#32, 0x0#32⟩ -- CPY_LEN
  else if o = 0x14 then ⟨0xffffffff#32, 0x0#32, 0x0#32, 0x0#32, 0x0#32, 0x0#32, 0x0#32, 0x0#32, 0x0#32⟩ -- CPY_FILL
  else .none

def hpDesc (o : Nat) : RegDesc :=
  if o = 0x0 then ⟨0x0#32, 0x0#32, 0x0#32, 0x0#32, 0x1#32, 0x0#32, 0x0#32, 0x0#32, 0x0#32⟩ -- HP_CFG
  else if o = 0x4 then ⟨0x0#32, 0x0#32, 0x0#32, 0x0#32, 0x7#32, 0x0#32, 0x0#32, 0x0#32, 0x0#32⟩ -- HP_SEC
  else if o = 0x8 then ⟨0x0#32, 0xff#32, 0x0#32, 0x0#32, 0x0#32, 0x0#32, 0x0#32, 0x0#32, 0x0#32⟩ -- HP_EVT
  else if o = 0xc then ⟨0xff#32, 0x0#32, 0x0#32, 0x0#32, 0x0#32, 0x0#32, 0x0#32, 0x0#32, 0xff#32⟩ -- HP_EVTEN
  else if o = 0x10 then ⟨0x0#32, 0x0#32, 0x0#32, 0x0#32, 0xffffffff#32, 0x0#32, 0x0#32, 0x0#32, 0x0#32⟩ -- HP_ERRADDR
  else if o = 0x14 then ⟨0x0#32, 0x0#32, 0x0#32, 0x0#32, 0x3f030f03#32, 0x0#32, 0x0#32, 0x0#32, 0x0#32⟩ -- HP_ERRINFO
  else .none

def bootDesc (o : Nat) : RegDesc :=
  if o = 0x0 then ⟨0x0#32, 0x0#32, 0x0#32, 0x0#32, 0xf0fffe7#32, 0x0#32, 0x0#32, 0x0#32, 0x0#32⟩ -- BOOT_STAT
  else if o = 0x4 then ⟨0x0#32, 0xf#32, 0x0#32, 0x0#32, 0x0#32, 0x0#32, 0x0#32, 0x0#32, 0x0#32⟩ -- BOOT_EVT
  else if o = 0x8 then ⟨0x0#32, 0x0#32, 0x0#32, 0xff00#32, 0x6#32, 0x0#32, 0xa00#32, 0x0#32, 0xff00#32⟩ -- BOOT_CFG
  else if o = 0xc then ⟨0x0#32, 0x0#32, 0x0#32, 0x0#32, 0xffffffff#32, 0x0#32, 0x0#32, 0x0#32, 0x0#32⟩ -- NVM_INFO
  else if o = 0x10 then ⟨0x0#32, 0x0#32, 0x0#32, 0x0#32, 0xffffffff#32, 0x0#32, 0x0#32, 0x0#32, 0x0#32⟩ -- NEG_VER
  else if o = 0x14 then ⟨0x0#32, 0x0#32, 0x0#32, 0x0#32, 0xffffffff#32, 0x0#32, 0x0#32, 0x0#32, 0x0#32⟩ -- NEG_CRC
  else if o = 0x20 then ⟨0x0#32, 0x0#32, 0x0#32, 0x3#32, 0x0#32, 0x0#32, 0x3#32, 0x0#32, 0x3#32⟩ -- FMT_CTL
  else if o = 0x24 then ⟨0x6000000f#32, 0x0#32, 0x80000000#32, 0x0#32, 0x0#32, 0x0#32, 0x0#32, 0x0#32, 0x0#32⟩ -- FMT_REQ
  else if o = 0x28 then ⟨0xffffffff#32, 0x0#32, 0x0#32, 0x0#32, 0x0#32, 0x0#32, 0x0#32, 0x0#32, 0x0#32⟩ -- FMT_CYC
  else if o = 0x2c then ⟨0x0#32, 0x0#32, 0x0#32, 0x0#32, 0xfff00007#32, 0x0#32, 0x0#32, 0x0#32, 0x0#32⟩ -- FMT_STAT
  else if o = 0x30 then ⟨0x0#32, 0x7f#32, 0x0#32, 0x0#32, 0x0#32, 0x0#32, 0x0#32, 0x0#32, 0x0#32⟩ -- FMT_EVT
  else if o = 0x34 then ⟨0x0#32, 0x0#32, 0x3#32, 0x0#32, 0x0#32, 0x0#32, 0x0#32, 0x0#32, 0x0#32⟩ -- FMT_CMD
  else if inArr o 0x40 0x4 16 then ⟨0x0#32, 0x0#32, 0x0#32, 0x0#32, 0xffffffff#32, 0x0#32, 0x0#32, 0x0#32, 0x0#32⟩ -- FMT_VER
  else .none

def casDesc (o : Nat) : RegDesc :=
  if o = 0x0 then ⟨0x0#32, 0x0#32, 0x0#32, 0x3#32, 0x0#32, 0x0#32, 0x0#32, 0x0#32, 0x3#32⟩ -- CAS_CTL
  else if o = 0x4 then ⟨0x0#32, 0x0#32, 0x0#32, 0x0#32, 0x17f1ff7#32, 0x0#32, 0x0#32, 0x0#32, 0x0#32⟩ -- CAS_STAT
  else if o = 0x8 then ⟨0x0#32, 0x3fff#32, 0x0#32, 0x0#32, 0x0#32, 0x0#32, 0x0#32, 0x0#32, 0x0#32⟩ -- CAS_EVT
  else if o = 0xc then ⟨0x3fff#32, 0x0#32, 0x0#32, 0x0#32, 0x0#32, 0x0#32, 0x0#32, 0x0#32, 0x3fff#32⟩ -- CAS_EVTEN
  else if o = 0x10 then ⟨0x0#32, 0x0#32, 0x0#32, 0xffff7f0f#32, 0x0#32, 0x0#32, 0x640002#32, 0x0#32, 0xffff7f0f#32⟩ -- CAS_CFG
  else if o = 0x14 then ⟨0x0#32, 0x0#32, 0x0#32, 0x0#32, 0xffffffff#32, 0x0#32, 0x0#32, 0x0#32, 0x0#32⟩ -- CAS_HOP
  else if o = 0x18 then ⟨0x0#32, 0x0#32, 0x0#32, 0x0#32, 0xffffffff#32, 0x0#32, 0x0#32, 0x0#32, 0x0#32⟩ -- CAS_DL
  else if o = 0x1c then ⟨0x0#32, 0x0#32, 0x0#32, 0x0#32, 0xffffffff#32, 0x0#32, 0x0#32, 0x0#32, 0x0#32⟩ -- CAS_PHERR
  else if inArr o 0x40 0x4 8 then ⟨0x0#32, 0x0#32, 0x0#32, 0xf#32, 0x0#32, 0x0#32, 0x0#32, 0x0#32, 0xf#32⟩ -- CAS_MIR
  else if inArr o 0x88 0x8 7 then ⟨0x0#32, 0x0#32, 0x0#32, 0x0#32, 0xffffffff#32, 0x0#32, 0x0#32, 0x0#32, 0x0#32⟩ -- CAS_MVER
  else if inArr o 0x8c 0x8 7 then ⟨0x0#32, 0x0#32, 0x0#32, 0x0#32, 0xffffffff#32, 0x0#32, 0x0#32, 0x0#32, 0x0#32⟩ -- CAS_MSTAT
  else .none

def sltDesc (o : Nat) : RegDesc :=
  if o = 0x0 then ⟨0x0#32, 0x0#32, 0x0#32, 0x0#32, 0xff070000#32, 0x0#32, 0x0#32, 0x0#32, 0x0#32⟩ -- MBX_CLAIM
  else if o = 0x4 then ⟨0x0#32, 0x0#32, 0x3#32, 0x0#32, 0x0#32, 0x0#32, 0x0#32, 0x0#32, 0x0#32⟩ -- MBX_CTL
  else if o = 0x8 then ⟨0x0#32, 0x0#32, 0x0#32, 0x0#32, 0xff03#32, 0x0#32, 0x0#32, 0x0#32, 0x0#32⟩ -- MBX_STAT
  else if o = 0xc then ⟨0x0#32, 0x0#32, 0x0#32, 0x0#32, 0xffffff00#32, 0x0#32, 0x0#32, 0x0#32, 0x0#32⟩ -- SLT_VER
  else if o = 0x10 then ⟨0x0#32, 0x0#32, 0x0#32, 0x0#32, 0x7fff07f7#32, 0x0#32, 0x0#32, 0x0#32, 0x0#32⟩ -- SLT_STAT
  else if o = 0x14 then ⟨0x0#32, 0x0#32, 0x0#32, 0xff01#32, 0x0#32, 0x0#32, 0xa00#32, 0x0#32, 0xff01#32⟩ -- SLT_CFG
  else if inArr o 0x20 0x4 4 then ⟨0x0#32, 0x0#32, 0x0#32, 0x0#32, 0xffffffff#32, 0x0#32, 0x0#32, 0x0#32, 0x0#32⟩ -- SNS_TEMP
  else if o = 0x30 then ⟨0x0#32, 0x0#32, 0x0#32, 0xffff#32, 0x0#32, 0x0#32, 0x877d#32, 0x0#32, 0xffff#32⟩ -- SNS_TLIM
  else if inArr o 0x40 0x4 6 then ⟨0x0#32, 0x0#32, 0x0#32, 0x0#32, 0xffffffff#32, 0x0#32, 0x0#32, 0x0#32, 0x0#32⟩ -- SNS_VOLT
  else if o = 0x60 then ⟨0x0#32, 0x0#32, 0x0#32, 0xffffffff#32, 0x0#32, 0x0#32, 0x34802f8#32, 0x0#32, 0xffffffff#32⟩ -- SNS_VWIN0
  else if o = 0x64 then ⟨0x0#32, 0x0#32, 0x0#32, 0xffffffff#32, 0x0#32, 0x0#32, 0x76206ae#32, 0x0#32, 0xffffffff#32⟩ -- SNS_VWIN1
  else if inArr o 0x68 0x4 4 then ⟨0x0#32, 0x0#32, 0x0#32, 0xffffffff#32, 0x0#32, 0x0#32, 0xd890c3f#32, 0x0#32, 0xffffffff#32⟩ -- SNS_VWIN2
  else if inArr o 0x100 0x4 64 then ⟨0xffffffff#32, 0x0#32, 0x0#32, 0x0#32, 0x0#32, 0x0#32, 0x0#32, 0x0#32, 0x0#32⟩ -- MBX_REQ
  else if inArr o 0x200 0x4 64 then ⟨0x0#32, 0x0#32, 0x0#32, 0x0#32, 0xffffffff#32, 0x0#32, 0x0#32, 0x0#32, 0x0#32⟩ -- MBX_RSP
  else .none

/-- The description of the word at address `a` (a multiple of 4). -/
def regDesc (a : Nat) : RegDesc :=
  if 0x800000 ≤ a ∧ a < 0x800170 then globalDesc (a - 0x800000)
  else if 0x810000 ≤ a ∧ a < 0x812000 then spkDesc ((a - 0x810000) % 0x400)
  else if 0x820000 ≤ a ∧ a < 0x822000 then chDesc ((a - 0x820000) % 0x40)
  else if 0x822000 ≤ a ∧ a < 0x822320 then tioDesc (a - 0x822000)
  else if 0x830000 ≤ a ∧ a < 0x831000 then exgDesc ((a - 0x830000) % 0x100)
  else if 0x831000 ≤ a ∧ a < 0x831220 then exgSharedDesc (a - 0x831000)
  else if 0x840000 ≤ a ∧ a < 0x840084 then calDesc (a - 0x840000)
  else if 0x840100 ≤ a ∧ a < 0x840180 then calBankDesc ((a - 0x840100) % 0x40)
  else if 0x850000 ≤ a ∧ a < 0x860000 then engDesc ((a - 0x850000) % 0x1000)
  else if 0x860000 ≤ a ∧ a < 0x860600 then ctDesc (a - 0x860000)
  else if 0x868000 ≤ a ∧ a < 0x869000 then linkDesc ((a - 0x868000) % 0x200)
  else if 0x870000 ≤ a ∧ a < 0x874000 then shqDesc ((a - 0x870000) % 0x200)
  else if 0x880000 ≤ a ∧ a < 0x880224 then safeDesc (a - 0x880000)
  else if 0x881000 ≤ a ∧ a < 0x883000 then mtrDesc ((a - 0x881000) % 0x20)
  else if 0x890000 ≤ a ∧ a < 0x890804 then evrDesc (a - 0x890000)
  else if 0x891000 ≤ a ∧ a < 0x894000 then evrBankDesc ((a - 0x891000) % 0x1000)
  else if 0x8a0000 ≤ a ∧ a < 0x8a0200 then splDesc ((a - 0x8a0000) % 0x40)
  else if 0x8a0400 ≤ a ∧ a < 0x8a0500 then cpyDesc ((a - 0x8a0400) % 0x20)
  else if 0x8b0000 ≤ a ∧ a < 0x8b0018 then hpDesc (a - 0x8b0000)
  else if 0x8c0000 ≤ a ∧ a < 0x8c0080 then bootDesc (a - 0x8c0000)
  else if 0x8d0000 ≤ a ∧ a < 0x8d00c0 then casDesc (a - 0x8d0000)
  else if 0x8e0000 ≤ a ∧ a < 0x8e0300 then sltDesc (a - 0x8e0000)
  else .none

end Sys2Proof.Machine
end

