-- ==== Sys2Proof/Machine/Bits.lean ====
section
/-! DEFINITION. Bit fields, sign extension, saturation and byte order (R3, R4). -/

namespace Sys2Proof.Machine

/-- Field `hi:lo` of a word (R3). -/
def fld (w : Word) (hi lo : Nat) : Nat := (w.toNat >>> lo) % 2 ^ (hi - lo + 1)

/-- Bit `i` of a word. -/
def bitAt (w : Word) (i : Nat) : Bool := w.getLsbD i

/-- The word whose field at `lo` is `v`. -/
def mkw (v lo : Nat) : Word := BitVec.ofNat 32 (v <<< lo)

def ofBool (b : Bool) : Nat := if b then 1 else 0

/-- The word whose bit `i` is `b`. -/
def mkb (b : Bool) (i : Nat) : Word := if b then mkw 1 i else 0

/-- `w` with the bits of `m` taken from `v`. -/
def mergeBits (w v m : Word) : Word := (w &&& ~~~m) ||| (v &&& m)

/-- `w` with field `hi:lo` set to `v`. -/
def setFld (w : Word) (hi lo v : Nat) : Word := mergeBits w (mkw v lo) (mkw (2 ^ (hi - lo + 1) - 1) lo)

def setBit (w : Word) (i : Nat) : Word := w ||| mkw 1 i

def clearBit (w : Word) (i : Nat) : Word := w &&& ~~~ (mkw 1 i)

/-- Two's complement reading of an `n`-bit quantity. -/
def toInt (n v : Nat) : Int := if v % 2 ^ n < 2 ^ (n - 1) then (v % 2 ^ n : Int) else (v % 2 ^ n : Int) - 2 ^ n

/-- An integer as a word, modulo 2³². -/
def word (i : Int) : Word := BitVec.ofInt 32 i

def wordN (n : Nat) : Word := BitVec.ofNat 32 n

/-- The 64-bit value of a low and a high word (R4). -/
def join64 (lo hi : Word) : Nat := lo.toNat + hi.toNat * 2 ^ 32

def lo32 (n : Nat) : Word := BitVec.ofNat 32 n

def hi32 (n : Nat) : Word := BitVec.ofNat 32 (n / 2 ^ 32)

/-- A count that saturates at `2^n − 1`. -/
def satInc (n v : Nat) : Nat := if v + 1 < 2 ^ n then v + 1 else 2 ^ n - 1

def satN (n v : Nat) : Nat := if v < 2 ^ n then v else 2 ^ n - 1

/-- Clamp to a signed 32-bit range. -/
def clampS32 (i : Int) : Int := if i < -(2 ^ 31) then -(2 ^ 31) else if i ≥ 2 ^ 31 then 2 ^ 31 - 1 else i

/-- Rounded toward zero. -/
def tdiv (a b : Int) : Int := Int.tdiv a b

/-- Ceiling of a quotient of naturals. -/
def cdiv (a b : Nat) : Nat := (a + b - 1) / b

/-- Byte `i` of a word, little-endian (R4). -/
def byteOf (w : Word) (i : Nat) : Byte := BitVec.ofNat 8 (w.toNat >>> (8 * i))

/-- The word of four bytes, lowest address first (R4). -/
def ofBytes (b0 b1 b2 b3 : Byte) : Word :=
  BitVec.ofNat 32 (b0.toNat + b1.toNat * 2 ^ 8 + b2.toNat * 2 ^ 16 + b3.toNat * 2 ^ 24)

/-- A point has passed at `l` (R37). -/
def passed (l p : Nat) : Bool := (l + 2 ^ 64 - p % 2 ^ 64) % 2 ^ 64 < 2 ^ 63

/-- The positions of the bits that are 1, ascending. -/
def bitsOf (n : Nat) (w : Nat) : List Nat := (List.range n).filter fun i => w.testBit i

def popCount (n : Nat) (w : Nat) : Nat := (bitsOf n w).length

/-- Element `i` of a vector changed by `f`. -/
def vmod {α : Type} {n : Nat} (v : Vector α n) (i : Fin n) (f : α → α) : Vector α n := v.set i (f v[i])

/-- Element `i` of a vector changed by `f`; nothing where there is no element `i`. -/
def vmodN {α : Type} {n : Nat} (v : Vector α n) (i : Nat) (f : α → α) : Vector α n :=
  if h : i < n then v.set i (f v[i]) else v

/-- `f` over a list, left to right. -/
def forEach {σ α : Type} (xs : List α) (s : σ) (f : σ → α → σ) : σ := xs.foldl f s

/-- Little-endian number of a byte list. -/
def leNat : List Byte → Nat
  | [] => 0
  | b :: bs => b.toNat + 256 * leNat bs

/-- Remainder of the CCITT CRC-16 over `n` more message bits of value `v`, most significant first (R76, R230). -/
def crcBits : Nat → Nat → Nat → Nat
  | 0, _, r => r
  | n + 1, v, r =>
    let t := (r >>> 15) % 2
    let b := (v >>> n) % 2
    let r' := (r <<< 1) % 65536
    crcBits n v (if t != b then r' ^^^ 0x1021 else r')

/-- The CCITT CRC-16 of a byte list, initial value 0xFFFF, no final inversion (R76, R230). -/
def crc16 (bs : List Byte) : Nat := bs.foldl (fun r b => crcBits 8 b.toNat r) 0xFFFF

/-- The four bytes of a word, lowest address first. -/
def wordBytes (w : Word) : List Byte := [byteOf w 0, byteOf w 1, byteOf w 2, byteOf w 3]

/-- Control characters (R230), named by their code. -/
def ctrl (b : Byte) : Bool × Byte := (true, b)
def K28_5 : Bool × Byte := ctrl 0xBC
def K28_0 : Bool × Byte := ctrl 0x1C
def K27_7 : Bool × Byte := ctrl 0xFB
def K23_7 : Bool × Byte := ctrl 0xF7

end Sys2Proof.Machine
end

