-- ==== Sys2Proof/Machine/Sparse.lean ====
section
/-! DEFINITION. Sparse maps in one canonical form: keys strictly rising, no entry equal to what an unlisted key reads as. -/

namespace Sys2Proof.Machine

/-- The entry at `k`, if listed. -/
def sparseGet {α : Type} (m : List (Nat × α)) (k : Nat) : Option α :=
  match m with
  | [] => none
  | (k', v) :: r => if k = k' then some v else sparseGet r k

/-- The map with `k` at `v`. -/
def sparsePut {α : Type} (m : List (Nat × α)) (k : Nat) (v : α) : List (Nat × α) :=
  match m with
  | [] => [(k, v)]
  | (k', v') :: r =>
    if k < k' then (k, v) :: (k', v') :: r else if k = k' then (k, v) :: r else (k', v') :: sparsePut r k v

/-- The map with `k` unlisted. -/
def sparseDrop {α : Type} (m : List (Nat × α)) (k : Nat) : List (Nat × α) := m.filter fun p => p.1 != k

/-- The value at `k`, `d k` where it is not listed. -/
def sparseRead {α : Type} (d : Nat → α) (m : List (Nat × α)) (k : Nat) : α := (sparseGet m k).getD (d k)

/-- A write that keeps the canonical form. -/
def sparseWrite {α : Type} [DecidableEq α] (d : Nat → α) (m : List (Nat × α)) (k : Nat) (v : α) : List (Nat × α) :=
  if v = d k then sparseDrop m k else sparsePut m k v

/-- The canonical form, with every key above `lo`. -/
def sparseWfFrom {α : Type} [DecidableEq α] (d : Nat → α) (lo : Option Nat) : List (Nat × α) → Bool
  | [] => true
  | (k, v) :: r => (match lo with | none => true | some l => decide (l < k)) && decide (v ≠ d k) && sparseWfFrom d (some k) r

/-- The canonical form of a sparse map with defaults `d`. -/
def sparseWf {α : Type} [DecidableEq α] (d : Nat → α) (m : List (Nat × α)) : Bool := sparseWfFrom d none m

/-- Unlisted bytes read 0: spool memory after initialisation (R330), tray RAM, keep store. -/
def zeroByte (_ : Nat) : Byte := 0

def byteAt (m : List (Nat × Byte)) (a : Nat) : Byte := sparseRead zeroByte m a

def setByte (m : List (Nat × Byte)) (a : Nat) (b : Byte) : List (Nat × Byte) := sparseWrite zeroByte m a b

/-- Little-endian word at `a` (R4). -/
def memWord (m : List (Nat × Byte)) (a : Nat) : Word :=
  ofBytes (byteAt m a) (byteAt m (a + 1)) (byteAt m (a + 2)) (byteAt m (a + 3))

/-- A run of bytes stored from `a`. -/
def setBytes (m : List (Nat × Byte)) (a : Nat) : List Byte → List (Nat × Byte)
  | [] => m
  | b :: bs => setBytes (setByte m a b) (a + 1) bs

def setMemWord (m : List (Nat × Byte)) (a : Nat) (w : Word) : List (Nat × Byte) := setBytes m a (wordBytes w)

/-- The canonical form of a byte memory. -/
abbrev Memory.wf (m : List (Nat × Byte)) : Bool := sparseWf zeroByte m

def zeroWord (_ : Nat) : Word := 0

def wordAt (m : List (Nat × Word)) (a : Nat) : Word := sparseRead zeroWord m a

def setWordAt (m : List (Nat × Word)) (a : Nat) (w : Word) : List (Nat × Word) := sparseWrite zeroWord m a w

def zeroNat (_ : Nat) : Nat := 0

/-- Cleared of every byte in `lo ≤ a < hi`. -/
def clearRange {α : Type} (m : List (Nat × α)) (lo hi : Nat) : List (Nat × α) :=
  m.filter fun p => !(decide (lo ≤ p.1) && decide (p.1 < hi))

end Sys2Proof.Machine
end

