-- ==== Sys2Proof/Machine/State.lean ====
section
/-! DEFINITION. The state of the SQN9648 as plain data, the reasons a step can stop, and the state after power-on reset.
Register words live in `regs`, keyed by address; a register whose value the hardware holds in another form (a counter, a
queue level, a state number) is composed from the records below by Machine/RegRead.lean and has no word of its own.
Times: `tb` operands and fields named tb count tb; stamps, fire times and placements count sixteenths of a tb (R47). -/

namespace Sys2Proof.Machine

/-- The block has no stop of its own in the manual; the one fault is the model's. -/
inductive Fault where
  /-- Raised by no meaning: every command of the manual leaves the block running. Safe. -/
  | none
  deriving DecidableEq, Repr

/-- Why a command has no meaning in the model. -/
inductive Refusal where
  /-- Raised by `exec` for a command without a meaning yet. Safe. -/
  | notModelled (mnemonic : String)
  deriving DecidableEq, Repr

/-- The level of a ball: driven 0, driven 1, or high impedance. -/
inductive Lvl where
  | lo | hi | z
  deriving DecidableEq, Repr

/-- What the last register or memory access returned (R356, Table 12-2). -/
inductive BusStatus where
  | idle | ok | discarded | buserr | held
  deriving DecidableEq, Repr

/-- The answer of the last access by any master: the model's view of the read data and the status. -/
structure BusAnswer where
  status : BusStatus
  data   : Word
  deriving DecidableEq, Repr

/-- One latch shadow (R367): the reading master, the address of the shadowed register and the word. -/
structure Shadow where
  master : Master
  addr   : Nat
  word   : Word
  deriving DecidableEq, Repr

/-- A staged value (R32): register address, value, fix channel tag, and the tb in which it landed (R34, R35). -/
structure Staged where
  addr : Nat
  word : Word
  tag  : Fin 4
  tb   : Nat
  deriving DecidableEq, Repr

/-- Same-cycle bookkeeping of R370: the register as it stood at the start of the cycle and the bits hardware set in it. -/
structure Fresh where
  addr  : Nat
  start : Word
  set   : Word
  /-- Software wrote or cleared the register in this cycle (R371). -/
  wr    : Bool
  deriving DecidableEq, Repr

/-- Sync states (Table 2-4). -/
inductive SyncState where
  | off | acquire | quick | synced | suspect | lost
  deriving DecidableEq, Repr

/-- A tooth of the history that t2p searches (R192). `tPred` counts 1/4,096 tb (R54). -/
structure Tooth where
  stamp : Nat
  pos   : Word
  cyc   : Word
  span  : Nat
  tPred : Nat
  deriving DecidableEq, Repr

/-- An entry of the phase FIFO (R79–R81). -/
structure PhEntry where
  pos : Word
  cyc : Word
  err : Word
  deriving DecidableEq, Repr

/-- What a unit has published: the values that registers, engines, the calendar and contact sheets see, from F + 10 or
D + 6 of the last accepted tooth on (Table 1-2, R59). `hold` is the position and cycle count held since a reversal until
the next tooth (R70). -/
structure SpkView where
  pos    : Word
  cyc    : Word
  stamp  : Nat
  span   : Nat
  tPred  : Nat
  tValid : Bool
  tLast  : Option Nat
  tPrior : Option Nat
  phys   : Nat
  hold   : Option (Word × Word)
  deriving DecidableEq, Repr

/-- The live estimator and window fields as a unit uses them: those of its registers at its last accepted tooth (R84). -/
structure SpkCfg where
  alpha : Nat
  win   : Word
  recov : Nat
  floor : Nat
  deriving DecidableEq, Repr

/-- A sprocket unit's hardware state (chapter 2): the values that its decisions use, and `vis`, those it has published.
Periods count 1/4,096 tb (R54), stamps 1/16 tb. -/
structure Spk where
  st       : SyncState
  dirRev   : Bool
  /-- Position and cycle count of the last accepted tooth, or held (R51, R67, R70). -/
  pos      : Word
  cyc      : Word
  stamp    : Nat
  lastSyn  : Bool
  /-- An accepted tooth has been stamped since EN set. -/
  haveTooth : Bool
  /-- A real tooth has been accepted since EN set (R74). -/
  haveReal : Bool
  /-- Stamp of the last accepted real tooth (R74). -/
  realStamp : Nat
  haveRef  : Bool
  tRef     : Nat
  sRef     : Nat
  tValid   : Bool
  /-- T_VALID set at the last real tooth: the next real tooth is not checked (R60). -/
  tFresh   : Bool
  tPred    : Nat
  tPrev    : Nat
  /-- T_last and T_prev of R53: the last interval that the update used, and the one before it. -/
  tLast    : Option Nat
  tPrior   : Option Nat
  holds    : Nat
  phys     : Nat
  missn    : Nat
  fwd      : Nat
  stopped  : Bool
  /-- The tb in which EN = 1 landed (R74). -/
  enTb     : Nat
  /-- Measured intervals since ACQUIRE began (Table 2-5). -/
  measured : Nat
  /-- DIR at the last accepted tooth (R75). -/
  toothRev : Bool
  /-- Consecutive real teeth for R62. -/
  recover  : Nat
  heldCyc  : Word
  everSync : Bool
  /-- An index edge waits for the next real tooth (R61). -/
  index    : Bool
  /-- Virtual teeth still to be issued: nominal time in 1/4,096 tb, and the tooth (R52). -/
  virtq    : List (Nat × Tooth)
  /-- The last tooth event of any kind, for arming and p2t (R139, R191). -/
  ev       : Option Tooth
  /-- The position and cycle count held since a reversal until the next tooth edge (R70). -/
  revHold  : Option (Word × Word)
  hist     : List Tooth
  fifo     : List PhEntry
  /-- The accepted levels of A, B and Z at the inputs, before INV (R43). -/
  lvlA     : Bool
  lvlB     : Bool
  lvlZ     : Bool
  /-- The unit mirrors a master unit and takes GUARD_OK and IN_GAP from it (R413). -/
  mirGuard : Bool
  mirInGap : Bool
  mirGap   : Nat
  mirStampLo : Word
  mirStampFr : Nat
  vis      : SpkView
  cfg      : SpkCfg
  /-- The tb of the last change of state, and the state at the start of that tb (R65). -/
  chg      : Option (Nat × SyncState)
  /-- RESYNC has been commanded in this cc and is applied at its end (Table 2-5). -/
  resync   : Bool
  /-- The tb from which the stop condition has held, as a write of STOP_PER found it (R74). -/
  stopFrom : Option Nat
  /-- Stamps of the last accepted real teeth at physical position 0, newest first (R79). -/
  zeros    : List Nat
  /-- The tb of the last publication of a real or synthetic tooth, and whether travel was reverse (Table 7-5). -/
  pub      : Option (Nat × Bool)
  /-- Phase entries appended in the tb given, and the entry dropped for a full FIFO in the tb given, with PH_STAT.OVF as it
  stood before (R81). -/
  phNew    : Nat × Nat
  phLost   : Option (Nat × PhEntry × Bool)
  deriving DecidableEq, Repr

/-- What the calendar loaded into a slot (R111, R140). -/
structure CalLoad where
  id    : Nat
  act   : Nat
  frac  : Nat
  width : Word
  /-- The tb of the load; the first evaluation is the next one (Table 4-4). -/
  tb    : Nat
  /-- A local contact edge's lane group and boundary (R215, R224). -/
  bnd   : Nat × Nat
  deriving DecidableEq, Repr

/-- A channel slot's hardware state (R95–R105). CHn_CMPx is `pend` while a pending copy waits (R103), else `cmp`. -/
structure Slot where
  armed : Bool
  cmp   : Word
  pend  : Option Word
  q     : Bool
  load  : Option CalLoad
  /-- The tb of the last fire with auto-add, and {CMP, FRAC} before it (R372). -/
  fire  : Option (Nat × Word × Nat)
  /-- The tb in which software last wrote CMP (R95, R372). -/
  wrTb  : Option Nat
  /-- The compare value and fraction before a software write of the tb given, and whether it changed FRAC alone: a fire of that tb
  with auto-add goes by them (R372). -/
  xfire : Option (Nat × Word × Nat × Bool)
  /-- The tb of the last fire (Table 7-5); for a member, the period start in which it fired (R245). -/
  lastFire : Option Nat
  /-- WRAP and UPDOWN: the tb of the change on which the slot fires, and q at the evaluation before it (R104, R105). -/
  due   : Option (Nat × Bool)
  deriving DecidableEq, Repr

/-- A capture entry: count and tag bits 10:0 of the CHn_CAPX layout (R113). -/
structure CapEntry where
  count : Word
  tag   : Word
  deriving DecidableEq, Repr

/-- An action on an output (R107): its place in the order of the tb (0 the pulse end, 1 to 4 the slots, 5 FORCE), the level it
sets or none for an inversion, and its placement. -/
structure OutAct where
  key   : Nat
  lvl   : Option Bool
  place : Nat
  deriving DecidableEq, Repr

/-- The output within one tb (R107, R109): the tb, the level and the last edge before it, and the actions in their order. -/
structure EdgeNow where
  tb    : Nat
  lvl   : Bool
  prev  : Option Nat
  acts  : List OutAct
  deriving DecidableEq, Repr

/-- A channel's hardware state (chapter 3). -/
structure Chan where
  cnt      : Word
  down     : Bool
  /-- Source events counted by the prescaler (R90). -/
  presc    : Nat
  /-- The tb of the last TB event taken (Table 3-3). -/
  tickTb   : Option Nat
  /-- Changes of the counter in the last 300 tb, newest first: tb and the count before (R90, R114). -/
  hist     : List (Nat × Word)
  top      : Word
  topPend  : Option Word
  slots    : Vector Slot 4
  out      : Bool
  /-- Placement of the last edge on the output (R109). -/
  lastEdge : Option Nat
  edgeNow  : Option EdgeNow
  /-- The pending pulse end: its placement on a channel that counts tb, the counts left on another, and what is left
  of it while EN is 0 (R92, R108). -/
  pulseEnd : Option Nat
  pulseCnt : Option Nat
  pulseHold : Option Nat
  fifo     : List CapEntry
  /-- CHn_CTL as it stood when membership of a group began: what acts until it ends (R242). -/
  ctlIn    : Word
  /-- Entries that have left the FIFO, by reads and flushes (R116, R117). -/
  capOut   : Nat
  /-- The tb in which software last wrote CHn_CNT or the prescaler last restarted (R90, R371). -/
  cntTb    : Option Nat
  /-- The tb of the last SET, CLEAR, TOGGLE or PULSE by a slot (COLLIDE, R107). -/
  actTb    : Option Nat
  deriving DecidableEq, Repr

/-- The output stages and the input of TIO pin n (R110, R122, R289). -/
structure Pin where
  /-- The level at the ball that the outside drives. -/
  ext     : Bool
  /-- The level the input filter last accepted, before IINV, and the tb of the acceptance (R122). -/
  acc     : Bool
  accTb   : Nat
  /-- The last acceptances, newest first: the tb and the level before (R271). -/
  accHist : List (Nat × Bool)
  /-- The level before the limiter, after the meter. -/
  pre     : Lvl
  delayed : Bool
  /-- Delayed edges still to be placed: time in tb and level (R296). -/
  queue   : List (Nat × Lvl)
  /-- A delayed pulse was dropped and its fall is awaited (R296). -/
  dropping : Bool
  /-- The level after the limiter. -/
  post    : Lvl
  gateClosed : Bool
  /-- The levels held for code 3: when the gate closed, and at entry to safe state (R298, R300). -/
  gateHold   : Lvl
  safeHold   : Lvl
  ball    : Lvl
  /-- The ball carries level 1 before OINV (R291). -/
  lit     : Bool
  deriving DecidableEq, Repr

/-- Entry states (Table 4-2); SPILLED entries stand in `spill`. -/
inductive CalState where
  | pending | armed | waiting | loaded
  deriving DecidableEq, Repr

/-- A calendar entry (R125, R129). `fire` is meaningful from ARMED on (sixteenths). -/
structure CalEntry where
  id    : Nat
  gen   : Nat
  d0    : Word
  d1    : Word
  d2    : Word
  d3    : Word
  d4    : Word
  st    : CalState
  fire  : Nat
  /-- The tb at which the entry was armed or moved into the table (R143). -/
  armTb : Nat
  /-- The tb from which the load stage can take the armed entry (Table 4-4). -/
  readyTb : Nat
  /-- A spilled entry that is due has found the table full (R156). -/
  waited : Bool
  /-- Re-timed by R142 and not yet loaded again: the stamp of the tooth, rounded up to a tb. -/
  retimed : Option Nat
  /-- The slot the entry is loaded in (KIND 0); a spilled entry's place in the region (R153). -/
  slot  : Nat
  /-- A spilled entry that a re-synchronisation left behind expires when next examined: 1, and 2 when the record of that
  re-synchronisation has been raised (R147). -/
  doomed : Nat
  deriving DecidableEq, Repr

/-- Who asked for a calendar operation (R130, R158). -/
inductive CalReqer where
  | thread (t : Fin 64)
  | bank (b : Fin 2)
  /-- The fix unit, for the point of a channel (R130, R152). -/
  | fix (k : Fin 4)
  deriving DecidableEq, Repr

/-- A request waiting at the calendar (R130): an insert of a descriptor, or a cancel of a handle. -/
structure CalReq where
  who    : CalReqer
  cancel : Bool
  d0     : Word
  d1     : Word
  d2     : Word
  d3     : Word
  d4     : Word
  /-- The cc in which the request was made (R130). -/
  tb     : Nat
  deriving DecidableEq, Repr

/-- A local contact edge waiting at the load stage (R224), with the boundary it comes from. -/
structure LocalEdge where
  ch   : Nat
  row  : Nat
  lvl  : Bool
  time : Nat
  lane : Nat
  q    : Nat
  deriving DecidableEq, Repr

/-- The spill placement (`put`) or move under way (R130, R153, R155): its place in the region, and the words done. -/
structure SpillOp where
  put   : Bool
  place : Nat
  done  : List Nat
  deriving DecidableEq, Repr

/-- The calendar (chapter 4). -/
structure Cal where
  tab    : List CalEntry
  spill  : List CalEntry
  /-- Identifiers below `next` have been issued; `freed` queues those free again (R132). -/
  next   : Nat
  freed  : List Nat
  gens   : List (Nat × Nat)
  /-- Identifiers whose last entry fired (R135). -/
  fired  : List Nat
  reqs   : List CalReq
  /-- The requester last served (R130): 0–15 engine ports, 16 host, 17 Safelight, 18 the fix unit, 19 the spill mover. -/
  rr     : Nat
  /-- The cc in which the stage's last operation completed (R130), and the tb of the load stage's last turn (R150). -/
  opTb   : Option Nat
  loadTb : Option Nat
  /-- The thread last served at each engine's port (R189). -/
  rrThr  : Vector Nat 16
  locals : List LocalEdge
  flushing : Bool
  spillBad : Bool
  spillAt  : Option SpillOp
  deriving DecidableEq, Repr

/-- Thread states (Table 5-1). -/
inductive ThrState where
  | stopped | ready | sleep | stall | fault | debug
  deriving DecidableEq, Repr

/-- Why a thread is in STALL. -/
inductive Stall where
  | none
  | calendar (rd : Reg5) (cancel : Bool)
  | retry (i : EngIns)
  deriving DecidableEq, Repr

/-- What an outstanding fabric access is (R172, R194, R195). -/
inductive FabKind where
  | load | store | cap | snrel
  deriving DecidableEq, Repr

/-- An outstanding fabric access of a thread, in program order (R173). -/
structure FabAcc where
  kind   : FabKind
  op     : LoadOp
  rd     : Reg5
  addr   : Word
  size   : Size
  data   : Word
  /-- The fix selection at the store's issue (R196). -/
  fk     : Fin 4
  fs     : Bool
  /-- The channel that a cap reads (R194). -/
  ch     : Fin 128
  /-- The address of the instruction: a fault leaves TPC there (R164). -/
  pc     : BitVec 12
  deriving DecidableEq, Repr

/-- A thread of an engine (R160–R209). -/
structure Thr where
  st    : ThrState
  w     : Vector Word 32
  z     : Bool
  n     : Bool
  c     : Bool
  v     : Bool
  pc    : BitVec 12
  fk    : Fin 4
  fs    : Bool
  /-- Latched bits of EVP; bits 8 and 11 are levels and are composed (R167). -/
  evp   : BitVec 16
  /-- The cc in which events last reached the thread, the bits they set, and the latched bits as that cc began (R168, R371). -/
  evpNew : Nat × BitVec 16 × BitVec 16
  wq    : List (BitVec 16)
  mq    : List Word
  /-- Pushes in the tb given to the wake queue and the message FIFO (R371). -/
  wqNew : Nat × Nat
  mqNew : Nat × Nat
  fault : Nat
  fltW  : Word
  icnt  : Word
  tbHi  : Word
  wait  : Option (Reg5 × BitVec 16)
  stall : Stall
  /-- A STOP waits for the stalled instruction (R164). -/
  stopPend : Bool
  /-- A STEP returns to DEBUG when its instruction completes (R205); the instruction has issued and its fabric access (true)
  or unit result (false) is outstanding. -/
  stepping : Bool
  stepOut  : Option Bool
  fab   : List FabAcc
  /-- Unit instructions whose results are taken at their T, with their operands (R190). -/
  out   : List (EngIns × Word × Word)
  /-- Time in READY or STALL since the last wait, in tb, up to `wdTb` (R203). -/
  wdCount : Nat
  wdTb    : Nat
  /-- TCTL.WDOG is not 0 (R203). -/
  wdOn    : Bool
  deriving DecidableEq, Repr

/-- An engine (R160–R162). ECC upsets are held per word: 1 = correctable, 2 = uncorrectable. -/
structure Eng where
  iram   : List (Nat × Word)
  tray   : List Host.Cell
  iecc   : List (Nat × Nat)
  tecc   : List (Nat × Nat)
  /-- The tb at which the divider's 18 cc occupation ends (R183). -/
  divTb  : Nat
  thr    : Vector Thr 4
  /-- The thread that last issued at PRIO 0 and at PRIO 1 (R165). -/
  lastIss : Nat × Nat
  /-- The instruction word that a window write replaced in the cc given: its address, word and SECDED state (R175). -/
  winOld : Option (Nat × Nat × Word × Nat)
  deriving DecidableEq, Repr

/-- The contact engine's staged fields as playback uses them (R223). -/
structure CtGeo where
  base : Nat
  cols : Nat
  rb   : Nat
  step : Nat
  fin  : Nat
  loop : Nat
  org  : Nat
  deriving DecidableEq, Repr

/-- A global boundary (R213, R214): its place `q` in the series, cycle, index, position, and column (none = blank). -/
structure CtBnd where
  q   : Nat
  c   : Nat
  j   : Nat
  p   : Int
  col : Option Nat
  geo : CtGeo
  deriving DecidableEq, Repr

/-- A converted boundary of one lane group (R215, R220): position, time, and whether its column has been fetched. -/
structure CtConv where
  lane : Nat
  b    : CtBnd
  x    : Int
  t    : Nat
  fetched : Bool
  /-- The words of the column read so far, none for one in error (R220). -/
  got  : List (Nat × Option Word)
  deriving DecidableEq, Repr

/-- A row's edge passed to its link (R212), with the row's level before it. -/
structure RowEdge where
  row  : Nat
  lvl  : Bool
  was  : Bool
  time : Nat
  lane : Nat
  q    : Nat
  deriving DecidableEq, Repr

/-- The contact engine (chapter 6). Lane group 32 holds the rows that no lane covers (R221). -/
structure Ct where
  run       : Bool
  waitStart : Bool
  held      : Bool
  blanked   : Bool
  jump      : Option Nat
  /-- The cycle of P_0 in FREE mode, as it stood at GO (R213). -/
  c0        : Nat
  /-- The next boundary that no row has converted: its place, cycle, index and column. -/
  nextQ     : Nat
  nextC     : Nat
  nextJ     : Nat
  nextCol   : Option Nat
  geo       : CtGeo
  geoNew    : Option CtGeo
  /-- Per lane group, the next boundary to convert. -/
  laneQ     : Vector Nat 33
  /-- Boundaries some lane group has converted, until every group has and the unit has passed them. -/
  bnds      : List CtBnd
  conv      : List CtConv
  /-- Rows ahead of their lane group after a reversal: the first boundary they still have to play (R217). -/
  rowQ      : List (Nat × Nat)
  /-- The level each row takes once every edge passed on is played. -/
  rows      : BitVec 1024
  lastJ     : Nat
  lastCol   : Option Nat
  deriving DecidableEq, Repr

/-- Link states (Table 6-4). -/
inductive LinkState where
  | off | align | train | up | loss
  deriving DecidableEq, Repr

/-- An edge or action waiting for a frame (R227, R232): KIND 1 entries carry their identifier. -/
structure CellAct where
  cell  : Nat
  /-- 0 set, 1 clear, 2 toggle, 3 pulse. -/
  op    : Nat
  time  : Nat
  width : Nat
  id    : Option Nat
  deriving DecidableEq, Repr

/-- A Korok link (R226–R240, R404). -/
structure Link where
  st       : LinkState
  cells    : BitVec 128
  /-- Edges of rows, and the cell-action queue of KIND 1 entries. -/
  edges    : List RowEdge
  queue    : List CellAct
  ends     : List (Nat × Nat)
  /-- The next window to sample. -/
  nextW    : Nat
  sentSeq  : List Nat
  /-- The last frame's cell bytes and its SEQ (R231). -/
  frame    : List Byte
  frameSeq : Nat
  /-- The cell bytes of the frame before (R291). -/
  was      : List Byte
  /-- Steps at level 1 per remote row group in the last frames, newest first, each with its window (R291). -/
  steps    : List (Nat × List Nat)
  /-- The cells that the calendar owns, as the last frame sampling took their owners (R226). -/
  own      : BitVec 128
  /-- The next frame is the first since training (R236). -/
  first    : Bool
  /-- The characters last sent as a unit, each with its mark of a control character: a strip frame, a training request, or the
  set of R238. The idle K28.5 follow (R231, R235). -/
  tx       : List (Bool × Byte)
  missed   : Nat
  rtts     : List Nat
  tries    : Nat
  reqs     : Nat
  reqTb    : Nat
  anyCrcOk : Bool
  lossTb   : Nat
  safeSent : Bool
  lastAns  : Option TrainAnswer
  deriving DecidableEq, Repr

/-- An exposure group's hardware state (chapter 7). Staged and active registers stand in `regs`. -/
structure Exg where
  /-- The tb of the current period start (R243). -/
  startTb : Nat
  phase   : Nat
  wPer    : Bool
  wDuty   : Bool
  /-- The tb in which the pending FIX landed (R250). -/
  fixTb   : Option Nat
  /-- The tb in which a further FIX landed while one was pending (R250). -/
  fixMore : Option (Nat × Bool)
  deferred : Bool
  /-- The tb of the last reload, and whether it committed (R251). -/
  reloadTb : Option Nat
  reloadDone : Bool
  /-- Staged registers as they stood at the start of the current tb, for writes of this tb (R250). -/
  late    : List (Nat × Word × Nat)
  mp      : Nat
  /-- A new mask pointer and the tb from which it may be applied (R256). -/
  mpNext  : Option (Nat × Nat)
  cut     : Bool
  cutTb   : Nat
  /-- A cut has started in this period (R262). -/
  counted : Bool
  tripped : Bool
  cause   : Nat
  tripTb  : Nat
  /-- TRIP_CLR accepted: trip levels hold until the next period start (R263). -/
  clearing : Bool
  /-- Counting periods before the current one, newest first, at most 63 (R262). -/
  hist    : List Bool
  deriving DecidableEq, Repr

/-- A sequencer's states (Table 8-1). -/
inductive SeqState where
  | disabled | halted | running
  deriving DecidableEq, Repr

/-- A sequencer's hardware state (chapter 8). PC, cx, cy, OSR, ISR and the latches are register words. -/
structure Shq where
  st     : SeqState
  cause  : Nat
  ocount : Nat
  icount : Nat
  txq    : List Word
  rxq    : List Word
  /-- Pushes in the tb given (R371). -/
  txNew  : Nat × Nat
  rxNew  : Nat × Nat
  acc    : Nat
  /-- The tb of the next tick (R274). -/
  nextTb : Nat
  hold   : Nat
  inj    : Option Word
  stall  : Bool
  /-- The pin and direction latches as they stand at the ball (R271). -/
  bOut   : Word
  bDir   : Word
  /-- Pops in the tb given (R281). -/
  txPop  : Nat × Nat
  rxPop  : Nat × Nat
  /-- Entries that a clear in the cc given has emptied, which that core edge still sees (R281). -/
  txClr  : Nat × List Word
  rxClr  : Nat × List Word
  /-- What waits for the writes of its core edge (R286). -/
  owed   : List ShqAct
  /-- The present await execution has seen the opposite level (Table 8-5): of the program, and of the injection. -/
  seen   : Bool
  injSeen : Bool
  /-- The pending injection has been attempted and stalled (R285). -/
  injTried : Bool
  deriving DecidableEq, Repr

/-- An exposure meter (R290–R293). `on` is the on-time of the running window, up to `onTb`. -/
structure Mtr where
  e      : Nat
  forced : Bool
  /-- The output is held at 0 (R292, R293). -/
  out    : Bool
  on     : Nat
  onTb   : Nat
  /-- Configuration words of the meter before a write, with the offset and the tb of the write (R292). -/
  late   : List (Nat × Word × Nat)
  /-- The tb of the last CLR_E (R371). -/
  clrTb  : Option Nat
  deriving DecidableEq, Repr

/-- The bank release limiter of one bank (R295, R296). -/
structure Lim where
  direct   : Nat
  reserved : Nat
  admitted : Nat
  deriving DecidableEq, Repr

/-- Why a run-down runs, which decides what its end does (R301, R400, R437, R441). -/
inductive RdWhy where
  | stopPin | hwd | slt | activate
  deriving DecidableEq, Repr

/-- Safe state, the pins that command it, and the host watchdog (R300–R306). -/
structure Safe where
  safe     : Bool
  /-- The override acts at the outputs (R302, R305). -/
  sover    : Bool
  cause    : BitVec 7
  first    : Nat
  /-- Levels of the TRG pins at entry to safe state, for code 3 (R300). -/
  trgHold  : Vector Lvl 8
  safePin  : Bool
  stopPin  : Bool
  startPin : Bool
  /-- The tb at which the SAFE and the STOP pin last went high (R301). -/
  safeUp   : Nat
  stopUp   : Nat
  /-- The run-down in progress and the tb it began (R303). -/
  rundown  : Option (RdWhy × Nat)
  expired  : Bool
  next92   : Bool
  /-- The tb at which the watchdog's count last restarted (R306). -/
  hwdTb    : Nat
  /-- The tb in which a source of Table 9-3 last acted (R305). -/
  srcTb    : Option Nat
  /-- Cause bits of sources with run-down that came during a run-down and act at its end (R303). -/
  rdAlso   : BitVec 7
  /-- The last meter boundary and the last limiter window taken (R290, R296). -/
  mtrTb    : Option Nat
  winTb    : Option Nat
  deriving DecidableEq, Repr

/-- Where a record's detail word comes from (R309): taken at the raise, or a register read at delivery. -/
inductive Detail where
  | word (w : Word)
  | reg (addr : Nat) (mask : Word)
  deriving DecidableEq, Repr

/-- A pending state (R313). -/
structure Pend where
  src    : Nat
  kind   : Nat
  detail : Detail
  /-- TB at the core edge of the latch (R313). -/
  tb     : Nat
  rep    : Nat
  safety : Bool
  /-- The cc of the latch, as the timebase counts it now (R314, R408). -/
  at_    : Nat
  deriving DecidableEq, Repr

/-- A raise presented at the core edge `tb` and not yet latched; raises of one source in one cc form one (R309). -/
structure Raised where
  src    : Nat
  kind   : Nat
  detail : Detail
  tb     : Nat
  safety : Bool
  /-- A safety raise that has not escalated under SAFE_ESC: it escalates under R325 where that rule says so. -/
  esc    : Bool
  deriving DecidableEq, Repr

/-- An open record (R320): its ring, its pointer value, and its repeat count. -/
structure OpenRec where
  src    : Nat
  kind   : Nat
  bank   : Fin 3
  fast   : Bool
  ptr    : Nat
  rep    : Nat
  safety : Bool
  /-- The delivery cc (R314, R317). -/
  at_    : Nat
  deriving DecidableEq, Repr

/-- A record write under way (R314). -/
structure RecWrite where
  bank : Fin 3
  fast : Bool
  ptr  : Nat
  src  : Nat
  kind : Nat
  w0   : Word
  w1   : Word
  w2   : Word
  w3   : Word
  /-- The words of the record that have been written (R321). -/
  done : List Nat
  deriving DecidableEq, Repr

/-- One ring's counters (R319). `res` counts slots reserved by deliveries (R314). -/
structure Ring where
  wptr : Nat
  rptr : Nat
  seq  : Nat
  res  : Nat
  deriving DecidableEq, Repr

/-- One bank of the record controller: normal and fast ring, claim stack (true = fast, top first). -/
structure Bank where
  norm  : Ring
  fast  : Ring
  stack : List Bool
  deriving DecidableEq, Repr

/-- The event record controller (chapter 10). Bank 0 = HA, 1 = HB, 2 = S. -/
structure Evr where
  cur    : List Raised
  pend   : List Pend
  opens  : List OpenRec
  writes : List RecWrite
  banks  : Vector Bank 3
  /-- LEVEL sources: the latest raise since the last completion, and whether a safety raise was among them (R312). -/
  spans  : List (Nat × Detail × Bool)
  /-- The cc of the last delivery (R314). -/
  lastTb : Option Nat
  /-- The state whose delivery a full ring has lost: its cc, source, kind, and whether it was safety-class (R317, R319). -/
  lost   : Option (Nat × Nat × Nat × Bool)
  /-- Open records whose repeat count is still to be written, by bank, class and pointer value (R320). -/
  reps   : List (Fin 3 × Bool × Nat)
  deriving DecidableEq, Repr

/-- Power states of a spool (Table 11-3). -/
inductive PwrState where
  | on | ret | off | changing
  deriving DecidableEq, Repr

/-- Phases of the background test (SPL_TSTATn.PHASE) that a command can see: waiting, or a region borrowed. -/
structure SplTest where
  region   : Nat
  borrowed : Bool
  /-- The tb at which the last region was released (R344). -/
  freeTb   : Nat
  first    : Bool
  /-- RESTART came while the last region was still borrowed (R348). -/
  restart  : Bool
  /-- The bank cycles that the region in test has had on each bank, up to 192 (R344). -/
  cyc      : Vector Nat 4
  /-- The tb at which an aborted region is released (R346). -/
  till     : Option Nat
  deriving DecidableEq, Repr

/-- A spool (chapter 11). -/
structure Spl where
  st     : PwrState
  target : PwrState
  init   : Bool
  /-- The tb before which the change or the initialisation under way does not end (R330, Table 11-4). -/
  ready  : Nat
  /-- The cc in which the change under way began, and the state before it (Table 11-4). -/
  was    : Option (Nat × PwrState)
  test   : SplTest
  deriving DecidableEq, Repr

/-- A copy channel (R349–R351). -/
structure Cpy where
  busy   : Bool
  cls    : Nat
  remain : Nat
  cause  : Nat
  stop   : Bool
  finish : Bool
  /-- The word read that is still to be written (R349). -/
  got    : Option Word
  deriving DecidableEq, Repr

/-- The host port (chapter 12): straps, HSEC, and the half-word buffers of the parallel bus. -/
structure HostPort where
  parallel : Bool
  hsec     : Bool
  half     : Option (Nat × BitVec 16 × Bool)
  kept     : Option (Nat × BitVec 16)
  /-- The tb in which the held half-word came (R360). -/
  halfTb   : Nat
  /-- The tb that are left until the port accepts transactions (R353). -/
  openIn   : Nat
  /-- The levels of the HOSTMODE and CAS_ROLE straps (R353, R402). -/
  modePin  : Bool
  rolePin  : Fin 8
  /-- The answer byte that the QSPI slave drove last (R356). -/
  byte     : Byte
  deriving DecidableEq, Repr

/-- A section of the loaded negative (Table 13-4), with its payload's place in the flash. -/
structure Section where
  typ   : Nat
  flags : Nat
  fmask : Nat
  addr  : Nat
  len   : Nat
  ofs   : Nat
  deriving DecidableEq, Repr

/-- A format directory entry (Table 13-3). -/
structure Format where
  reqVer : Word
  fly    : Bool
  chgSpk : Fin 8
  flushTag  : BitVec 8
  flushMask : BitVec 8
  rdThr  : Nat
  swThr  : Nat
  rdPc   : BitVec 12
  swPc   : BitVec 12
  deriving DecidableEq, Repr

/-- Boot, the loaded negative, and format changes (chapter 13). -/
structure Boot where
  step     : Nat
  done     : Bool
  image    : Nat
  failA    : Nat
  failB    : Nat
  startFmt : Nat
  noSfdp   : Bool
  unsigned : Bool
  exitWait : Bool
  autoExit : Bool
  startGate : Bool
  /-- The tb at which the reset was released (R301, R391). -/
  startTb  : Nat
  /-- Safelight's exit request was refused: the tb at which it repeats it (R391). -/
  exitDue  : Option Nat
  nfmt     : Nat
  formats  : List Format
  sections : List Section
  imgOfs   : Nat
  imgLen   : Nat
  active   : Nat
  target   : Nat
  /-- The format last requested (FMT_STAT.TARGET while no change is in progress). -/
  reqFmt   : Nat
  cause    : Nat
  phase    : Nat
  /-- NOW, NEXT of the change in progress; chained; the groups noted for FIX_FORCE; spools to hand over (R396, R398). -/
  now      : Bool
  next     : Bool
  chained  : Bool
  fixCh    : Fin 4
  groups   : List Nat
  hand     : List (Nat × Nat)
  prepDone : Bool
  /-- A switch was performed before this boot (R442). -/
  switched : Bool
  /-- A power-on boot performs an armed switch (R441). -/
  powerOn  : Bool
  /-- The flush of the change in progress has landed (R398). -/
  flushed  : Bool
  /-- A run-down has begun in the tb of the change's fix point, too late to abandon it (R399). -/
  tooLate  : Bool
  /-- This boot follows a core reset, which keeps what Table 1-6 says (log entry 53). -/
  core     : Bool
  deriving DecidableEq, Repr

/-- Chain states (Table 14-5). -/
inductive CasState where
  | off | link | joinWait | run | loss
  deriving DecidableEq, Repr

/-- The cascade (chapter 14). -/
structure Cas where
  role     : Nat
  st       : CasState
  tbLock   : Bool
  good     : Nat
  bad      : Nat
  cv       : Nat
  present  : BitVec 7
  /-- Per role, the tb of the last accepted up frame that carried PRESENT (R411). -/
  seenTb   : Vector Nat 8
  /-- The tb of the last accepted down frame, or of the link's coming up (R421). -/
  frameTb  : Nat
  /-- The command outstanding (master), the tb it was first sent, and who acknowledged (R415). -/
  cmd      : Option CasCommand
  cmdTb    : Nat
  /-- Commands that wait for the outstanding one (R415). -/
  queue    : List CasCommand
  acks     : BitVec 7
  cseq     : Nat
  lastCseq : Option Nat
  /-- The member's answer in its up-frame record: CSEQ, NACK, cause, LATE_FIX (R407). -/
  ackCseq  : Nat
  nack     : Bool
  nackCause : Nat
  lateFix  : Bool
  mirErr   : Bool
  roleDup  : Bool
  /-- FIX_TIME's T, for SPLIT (R418). -/
  splitT   : Option Nat
  /-- A fix channel that a member has marked pending and that awaits FIX_TIME (R416). -/
  await    : Option (Fin 4)
  /-- The last down frame sent (master) or received, and its SEQ. -/
  lastSeq  : Nat
  lastDown : Option DownFrame
  lastUp   : Option UpFrame
  /-- Training requests answered on link 6 (R404). -/
  answered : Nat
  /-- Link 6 has come UP since it entered MODE CASCADE (R402). -/
  downUp   : Bool
  /-- The slew applied so far, in sixteenths of a tb (R408). -/
  slew     : Int
  /-- The tb at which the last accepted down frame is published (R413). -/
  pubTb    : Nat
  deriving DecidableEq, Repr

/-- Sensor judgement counters (Table 15-2). -/
structure Sensor where
  warn   : Bool
  alarm  : Bool
  warnN  : Nat
  alarmN : Nat
  /-- A reading has been taken since reset (SNS_TEMPk.EXT, SNS_VOLTk.EXT). -/
  seen   : Bool
  /-- The tb at which WARN last set (R429). -/
  since  : Nat
  deriving DecidableEq, Repr

/-- Safelight and its mailbox (chapter 15). -/
structure Slt where
  claim    : Option Master
  claimTb  : Nat
  busy     : Bool
  done     : Bool
  status   : Nat
  /-- The request in progress was issued by a secure transaction (R435), and by which master. -/
  goSec    : Bool
  goMaster : Option Master
  /-- The spools that SAFELIGHT owned at the GO (R439). -/
  goOwn    : List Nat
  fwRun    : Bool
  /-- The boot ROM has tried to load firmware since the last reset (R424). -/
  fwTried  : Bool
  fwSlot   : Nat
  armNeg   : Nat
  armFw    : Nat
  /-- Slots whose last UPD_VERIFY returned 0 (R440): negative A, B, firmware A, B. -/
  verified : Vector Bool 4
  logOk    : Bool
  certOk   : Bool
  temps    : Vector Sensor 4
  volts    : Vector Sensor 6
  clkBad   : List ClockId
  /-- The tb at which each clock fault began (R427). -/
  clkTb    : List (ClockId × Nat)
  /-- Log entries waiting to be programmed, and those lost since the last (R431). -/
  log      : List (List Byte)
  logLost  : Nat
  /-- The addresses of claimed records that Safelight is still to read for the log (R431). -/
  ringReads : List Nat
  wdExpired : Bool
  /-- A watchdog expiry's full reset is due at this tb (R425). -/
  resetTb  : Option Nat
  /-- The run-down of UPD_ACTIVATE has ended: the switch and the reset follow (R441). -/
  activate : Bool
  /-- Counts since the last update of the lifetime counters (R433): safe-state entries, resets by cause, format changes,
  log sectors erased, slots erased. -/
  lifeSafe : Nat
  lifeRst  : Vector Nat 5
  lifeFmt  : Nat
  lifeSec  : Nat
  lifeSlot : Nat
  /-- The lifetime update last made, in minutes of TB (R433). -/
  lifeMin  : Nat
  deriving DecidableEq, Repr

/-- The take request that stands first in the fabric priority order of its cc (R29): the cc, its rank, whether it was accepted,
and the register in which an engine thread awaits the result. -/
structure SheetReq where
  cc   : Nat
  rank : Nat
  ok   : Bool
  rd   : Option (Fin 64 × Reg5)
  /-- OWNER and THREAD before it, and whether it set LATE from 0: what is restored where it is refused after all. -/
  owner  : Nat
  thread : Nat
  late   : Bool
  deriving DecidableEq, Repr

/-- The first word of an access that spans two has been made (R337): by which requester, where, of how many bytes, and what it
read. -/
structure Part where
  rank : Nat
  who  : Nat
  addr : Nat
  len  : Nat
  lo   : Nat
  deriving DecidableEq, Repr

/-- The arbitration of spool banks and register blocks (R39) and of the engines' issue (R165): what has been granted in this
cc; per place, the engine requester last granted, and 1 where the record controller goes before Safelight; and the copy
channel last granted. -/
structure Fabric where
  used : List Nat
  /-- The places that narrow writes hold in the next cc (R338). -/
  next : List Nat
  /-- The requests of Safelight and of the record controller in this cc: the place, which of them, and whether it was granted. -/
  asked : List (Nat × Nat × Bool)
  parts : List Part
  /-- The grants of the contact engine in the last 16 cc: the place and the cc (R340). -/
  contact : List (Nat × Nat)
  last : List (Nat × Nat)
  alt  : List (Nat × Nat)
  copy : Nat
  /-- Places at which a host request, or an access of a memory window to a tray, waits, with the cc of its first and of its latest
  presentation (R176, R340). -/
  host : List (Nat × Nat × Nat)
  /-- Words read with a single-bit error that are still to be written back (R329). -/
  wb   : List Nat
  deriving DecidableEq, Repr

/-- The contact-sheet unit (R26–R31). -/
structure Sheet where
  busy   : Bool
  ready  : Bool
  /-- The armed take: none, at a tb, or at the fix point of a channel (R30). -/
  at_    : Option Nat
  atFix  : Option (Fin 4)
  filling : Bool
  seq    : Nat
  owner  : Nat
  thread : Nat
  /-- The frozen contents by offset (Table 1-7), non-zero words only. -/
  snap   : List (Nat × Word)
  /-- The timing state at the start of T_cs, until CONTACT_SHEET_FREEZE takes it (R26). -/
  held   : Option (List (Nat × Word))
  /-- The last tb at whose start a fix point stood reached, and the timing state then (R30). -/
  point  : Option (Nat × List (Nat × Word))
  req    : Option SheetReq
  deriving DecidableEq, Repr

/-- A fix channel's point (R36–R38): none, a tb, or waiting in the calendar. -/
inductive Point where
  | none
  | at (tb : Nat)
  | calendar
  | chain
  deriving DecidableEq, Repr

/-- A fix channel. `lastT` is the tb of its last commit (R35); `chained` marks a point that the master orders across the
cascade, and `hzn` its horizon as it stood when ARM landed (R36, R416). -/
structure FixCh where
  point : Point
  lastT : Option Nat
  chained : Bool
  hzn   : Nat
  /-- The tb in which the point was handed to the fix unit (R398). -/
  handTb  : Nat
  deriving DecidableEq, Repr

/-- Effects that the manual places a fixed number of tb after the event that causes them. -/
inductive Due where
  /-- A core write of a TB-domain register lands (R14). -/
  | land (m : Master) (sel : Option (Fin 4)) (a : Nat) (w : Word)
  /-- Committed fields of the contact engine take effect at the first core edge after an odd fix point (R34). -/
  | ctCommit (ws : List (Nat × Word))
  /-- The level of TIO pin n is formed again. -/
  | pin (n : Nat)
  /-- The output of meter n takes what FORCED then was (R292, R293). -/
  | meter (n : Nat) (forced : Bool)
  /-- The safe override ends (R305). -/
  | safeExit
  /-- GUARD_OK of a unit reaches the gates (R73). -/
  | guard (u : Nat) (ok : Bool)
  /-- FIXk_STAT.DONE sets and PENDING clears (Table 1-8). -/
  | fixDone (k : Nat)
  /-- EXGn_EVT.FIXDONE sets (Table 7-4). -/
  | exgDone (g : Nat)
  /-- The mask entry of a new MP governs (R256). -/
  | mask (g : Nat)
  /-- A FIX lands at a group (Table 7-3). -/
  | exgFix (g : Nat)
  | judge (g : Nat)
  /-- An input edge's capture entry is pushed (R114). -/
  | cap (ch : Nat) (e : CapEntry)
  /-- A sequencer's latches reach the ball (R271). -/
  | shq (n : Nat) (out dir : Word)
  /-- A tooth of unit n is published (Table 1-2, R59). -/
  | spkPub (n : Nat) (v : SpkView) (t : Tooth) (rev : Bool)
  /-- A tooth of unit n reaches the calendar and the engines (Table 4-4, R59). -/
  | spkTooth (n : Nat) (t : Tooth) (real : Bool) (prev : Option Tooth)
  /-- An event reaches a thread (Table 5-2). -/
  | evp (t bit : Nat)
  /-- The result of a thread's oldest unit instruction is taken (R190). -/
  | unitRes (t : Nat)
  /-- The answer to a cascade training request leaves link 6 (R404). -/
  | casAnswer
  /-- SW_THR of a format starts at the core edge after an odd fix point (R398). -/
  | swThr (f : Nat)
  /-- A down frame is published to the mirrored units (R413). -/
  | mirror (f : DownFrame)
  deriving DecidableEq, Repr

/-- What the registers of the TB domain show, as it stood at the start of a tb; and the RC bits that hardware set in that tb
(Table 1-4, R370). -/
structure TbView where
  tb     : Nat
  regs   : List (Nat × Word)
  due    : List (Nat × Due)
  ch     : Vector Chan 128
  pin    : Vector Pin 128
  vdet   : Vector Bool 4
  exg    : Vector Exg 16
  trip   : BitVec 16
  sets   : List (Nat × Word)
  deriving DecidableEq, Repr

/-- What register reads look back at (R13, R22, R116, R370). -/
structure Seen where
  /-- The TB domain at the starts of the last tb, newest first. -/
  views  : List TbView
  /-- Registers of the core domain that the state composes, as the cc began, for those with RC fields. -/
  begun  : List (Nat × Word)
  /-- Capture entries that met a full FIFO and whose acceptance rests on reads sampled by their tb: the tb, the channel and the
  entry. -/
  waits  : List (Nat × Nat × CapEntry)
  deriving DecidableEq, Repr

/-- The state of the SQN9648. -/
structure State where
  tb     : Nat
  tbRun  : Bool
  /-- The OTP step of boot has run (R8, R385). -/
  otp    : Bool
  regs   : List (Nat × Word)
  shadows : List Shadow
  staged : List Staged
  fresh  : List Fresh
  /-- Past words that reads still return. -/
  seen   : Seen
  /-- Effects due at a later tb. -/
  due    : List (Nat × Due)
  answer : BusAnswer
  fabric : Fabric
  sheet  : Sheet
  fix    : Vector FixCh 4
  spk    : Vector Spk 8
  ch     : Vector Chan 128
  /-- Capture entries pushed in this tb, by channel, in the order of R115: they enter the FIFOs at its end. -/
  capIn  : List (Nat × CapEntry)
  /-- Channels whose fractions are taken as 0 (R120). -/
  vcalOff : BitVec 128
  pin    : Vector Pin 128
  vdet   : Vector Bool 4
  trgEnd : Vector (Option Nat) 8
  trip   : BitVec 16
  cal    : Cal
  eng    : Vector Eng 16
  ct     : Ct
  link   : Vector Link 8
  exg    : Vector Exg 16
  shq    : Vector Shq 32
  mtr    : Vector Mtr 256
  /-- GUARD_OK of each unit as it has reached the gates (R73, R298). -/
  guard  : Vector Bool 8
  /-- Remote row groups' gates (R299): closed. -/
  rgClosed : BitVec 128
  lim    : Vector Lim 4
  safe   : Safe
  evr    : Evr
  mem    : List Host.Cell
  ecc    : List (Nat × Nat)
  spl    : Vector Spl 8
  cpy    : Vector Cpy 8
  host   : HostPort
  keep   : List Host.Cell
  flash  : FlashChip
  boot   : Boot
  cas    : Cas
  slt    : Slt
  /-- Safelight RAM (R423). -/
  sram   : List Host.Cell
  /-- OTP: ordering code, serial, owner-key hash (R2, R445). -/
  order  : Nat
  ownerKey : Option (List Byte)
  /-- The model's own field: free values drawn so far. -/
  free   : Nat
  pending : List Instr
  deriving DecidableEq, Repr

def SpkView.reset : SpkView :=
  { pos := 0, cyc := 0, stamp := 0, span := 1, tPred := 0, tValid := false, tLast := none, tPrior := none, phys := 0, hold := none }

def Spk.reset : Spk :=
  { st := .off, dirRev := false, pos := 0, cyc := 0, stamp := 0, lastSyn := false, haveTooth := false,
    haveReal := false, realStamp := 0, haveRef := false, tRef := 0, sRef := 0, tValid := false, tFresh := false, tPred := 0,
    tPrev := 0, tLast := none, tPrior := none, holds := 0, phys := 0, missn := 0, fwd := 0, stopped := false, enTb := 0,
    measured := 0, toothRev := false, recover := 0, heldCyc := 0, everSync := false, index := false, virtq := [], ev := none, revHold := none, hist := [], fifo := [], lvlA := false, lvlB := false, lvlZ := false, mirGuard := false,
    mirInGap := false, mirGap := 0, mirStampLo := 0, mirStampFr := 0, vis := SpkView.reset,
    cfg := { alpha := 0, win := 0, recov := 0, floor := 0 }, chg := none, resync := false, stopFrom := none, zeros := [],
    pub := none, phNew := (0, 0), phLost := none }

def Slot.reset : Slot :=
  { armed := false, cmp := 0, pend := none, q := false, load := none, fire := none, wrTb := none, xfire := none, lastFire := none,
    due := none }

def Chan.reset : Chan :=
  { cnt := 0, down := false, presc := 0, tickTb := none, hist := [], top := 0, topPend := none,
    slots := Vector.replicate 4 Slot.reset, out := false, lastEdge := none, edgeNow := none, pulseEnd := none, pulseCnt := none,
    pulseHold := none, fifo := [], ctlIn := 0, capOut := 0, cntTb := none, actTb := none }

/-- The gate is closed at every reset (R298), and every pin is direct and at high impedance (R300). -/
def Pin.reset : Pin :=
  { ext := false, acc := false, accTb := 0, accHist := [], pre := .z, delayed := false, queue := [], dropping := false,
    post := .z, gateClosed := true, gateHold := .z, safeHold := .z, ball := .z, lit := false }

/-- The free list holds every identifier in ascending order (R132). -/
def Cal.reset : Cal :=
  { tab := [], spill := [], next := 0, freed := [], gens := [], fired := [], reqs := [], rr := 19, opTb := none, loadTb := none, rrThr := Vector.replicate 16 3, locals := [],
    flushing := false, spillBad := false, spillAt := none }

/-- R161, R164, R196. -/
def Thr.reset : Thr :=
  { st := .stopped, w := Vector.replicate 32 0, z := false, n := false, c := false, v := false, pc := 0, fk := 0, fs := true,
    evp := 0, evpNew := (1, 0, 0), wq := [], mq := [], wqNew := (0, 0), mqNew := (0, 0), fault := 0, fltW := 0, icnt := 0, tbHi := 0, wait := none, stall := .none, stopPend := false,
    stepping := false, stepOut := none, fab := [], out := [], wdCount := 0, wdTb := 0, wdOn := false }

def Eng.reset : Eng :=
  { iram := [], tray := [], iecc := [], tecc := [], divTb := 0, thr := Vector.replicate 4 Thr.reset,
    lastIss := (3, 3), winOld := none }

def CtGeo.reset : CtGeo := { base := 0, cols := 1, rb := 8, step := 0, fin := 0, loop := 0, org := 0 }

def Ct.reset : Ct :=
  { run := false, waitStart := false, held := false, blanked := false, jump := none, c0 := 0, nextQ := 0, nextC := 0,
    nextJ := 0, nextCol := some 0, geo := CtGeo.reset, geoNew := none, laneQ := Vector.replicate 33 0, bnds := [], conv := [],
    rowQ := [], rows := 0, lastJ := 0, lastCol := some 0 }

def Link.reset : Link :=
  { st := .off, cells := 0, edges := [], queue := [], ends := [], nextW := 0, sentSeq := [], frame := [], frameSeq := 0, was := [],
    steps := [], own := 0, first := false, tx := [], missed := 0, rtts := [], tries := 0, reqs := 0, reqTb := 0, anyCrcOk := false, lossTb := 0, safeSent := false,
    lastAns := none }

def Exg.reset : Exg :=
  { startTb := 0, phase := 0, wPer := false, wDuty := false, fixTb := none, fixMore := none, deferred := false, reloadTb := none,
    reloadDone := false, late := [], mp := 0, mpNext := none, cut := false, cutTb := 0, counted := false, tripped := false,
    cause := 0, tripTb := 0, clearing := false, hist := [] }

/-- OCOUNT resets to 32 (SHQn_STAT). -/
def Shq.reset : Shq :=
  { st := .disabled, cause := 0, ocount := 32, icount := 0, txq := [], rxq := [], txNew := (0, 0), rxNew := (0, 0), acc := 0, nextTb := 0, hold := 0, inj := none,
    stall := false, bOut := 0, bDir := 0, txPop := (0, 0), rxPop := (0, 0), txClr := (0, []), rxClr := (0, []), owed := [], seen := false,
    injSeen := false, injTried := false }

def Mtr.reset : Mtr := { e := 0, forced := false, out := false, on := 0, onTb := 0, late := [], clrTb := none }

def Lim.reset : Lim := { direct := 0, reserved := 0, admitted := 0 }

/-- SAFE_STAT after reset: SAFE 1, CAUSE 0x40 = RESET (R301, SAFE_STAT). The pins read high, not asserted
(DESIGN CHOICE, log entry 6). -/
def Safe.reset : Safe :=
  { safe := true, sover := true, cause := 0x40, first := 0, trgHold := Vector.replicate 8 .lo, safePin := false, stopPin := false, startPin := false, safeUp := 0, stopUp := 0, rundown := none,
    expired := false, next92 := false, hwdTb := 0, srcTb := none, rdAlso := 0, mtrTb := none, winTb := none }

def Ring.reset : Ring := { wptr := 0, rptr := 0, seq := 0, res := 0 }

def Bank.reset : Bank := { norm := Ring.reset, fast := Ring.reset, stack := [] }

def Evr.reset : Evr := { cur := [], pend := [], opens := [], writes := [], banks := Vector.replicate 3 Bank.reset, spans := [], lastTb := none, lost := none, reps := [] }

def SplTest.reset : SplTest := { region := 0, borrowed := false, freeTb := 0, first := true, restart := false, cyc := Vector.replicate 4 0, till := none }

/-- STATE reads CHANGING until initialisation completes (SPL_PWRn, R330). -/
def Spl.reset : Spl := { st := .changing, target := .on, init := true, ready := 131072, was := none, test := SplTest.reset }

def Cpy.reset : Cpy := { busy := false, cls := 0, remain := 0, cause := 0, stop := false, finish := false, got := none }

def HostPort.reset : HostPort := { parallel := false, hsec := false, half := none, kept := none, halfTb := 0, openIn := 10000, modePin := false, rolePin := 0, byte := 0 }

/-- STEP resets to 1 (BOOT_STAT). -/
def Boot.reset : Boot :=
  { step := 1, done := false, image := 0, failA := 0, failB := 0, startFmt := 0, noSfdp := false, unsigned := false,
    exitWait := false, autoExit := false, startGate := false, startTb := 0, exitDue := none, nfmt := 0, formats := [], sections := [], imgOfs := 0,
    imgLen := 0, active := 0, target := 0, reqFmt := 0, cause := 0, phase := 0, now := false, next := false, chained := false, fixCh := 3,
    groups := [], hand := [], prepDone := false, switched := false, powerOn := true, flushed := false, tooLate := false, core := false }

def Cas.reset : Cas :=
  { role := 0, st := .off, tbLock := false, good := 0, bad := 0, cv := 0, present := 0, seenTb := Vector.replicate 8 0,
    frameTb := 0, cmd := none, cmdTb := 0, queue := [], acks := 0, cseq := 0, lastCseq := none, ackCseq := 0, nack := false, nackCause := 0,
    lateFix := false, mirErr := false, roleDup := false, splitT := none, await := none, lastSeq := 0,
    lastDown := none, lastUp := none, answered := 0, downUp := false, slew := 0, pubTb := 0 }

def Sensor.reset : Sensor := { warn := false, alarm := false, warnN := 0, alarmN := 0, seen := false, since := 0 }

def Slt.reset : Slt :=
  { claim := none, claimTb := 0, busy := false, done := false, status := 0, goSec := false, goMaster := none, goOwn := [], fwRun := false, fwTried := false,
    fwSlot := 0, armNeg := 0, armFw := 0, verified := Vector.replicate 4 false, logOk := false, certOk := false,
    temps := Vector.replicate 4 Sensor.reset, volts := Vector.replicate 6 Sensor.reset, clkBad := [], clkTb := [],
    log := [], logLost := 0, ringReads := [], wdExpired := false, resetTb := none, activate := false,
    lifeSafe := 0, lifeRst := Vector.replicate 5 0, lifeFmt := 0, lifeSec := 0, lifeSlot := 0, lifeMin := 0 }

/-- The manual gives no grant or issue before the first: each starts at the lowest number (DESIGN CHOICE, log entry 64). -/
def Fabric.reset : Fabric := { used := [], next := [], asked := [], parts := [], contact := [], last := [], alt := [], copy := 7, host := [], wb := [] }

def Sheet.reset : Sheet :=
  { busy := false, ready := false, at_ := none, atFix := none, filling := false, seq := 0, owner := 0, thread := 0, snap := [],
    held := none, point := none, req := none }

def Seen.reset : Seen := { views := [], begun := [], waits := [] }

def FixCh.reset : FixCh := { point := .none, lastT := none, chained := false, hzn := 0, handTb := 0 }

/-- No flash answers until a boot finds one (DESIGN CHOICE, log entry 7). -/
def FlashChip.reset : FlashChip :=
  { facts := { answers := false, sfdp := false, log2 := 0, addr4 := false, addr4Table := false, readInstr := 0, suspend := false },
    bytes := [] }

/-- The machine right after the release of a power-on reset (R451): TB 0 and not counting (R20), every H field at its
reset value and every F and N field 0 (R8, by `regs` empty and `otp` false), safe state held (R302). -/
def State.reset : State :=
  { tb := 0, tbRun := false, otp := false, regs := [(0x00800020, 1)], shadows := [], staged := [], fresh := [], seen := Seen.reset, due := [],
    answer := { status := .idle, data := 0 }, fabric := Fabric.reset, sheet := Sheet.reset, fix := Vector.replicate 4 FixCh.reset,
    spk := Vector.replicate 8 Spk.reset, ch := Vector.replicate 128 Chan.reset, capIn := [], vcalOff := 0, pin := Vector.replicate 128 Pin.reset,
    vdet := Vector.replicate 4 false, trgEnd := Vector.replicate 8 none, trip := 0, cal := Cal.reset,
    eng := Vector.replicate 16 Eng.reset, ct := Ct.reset, link := Vector.replicate 8 Link.reset,
    exg := Vector.replicate 16 Exg.reset, shq := Vector.replicate 32 Shq.reset, mtr := Vector.replicate 256 Mtr.reset,
    guard := Vector.replicate 8 false, rgClosed := BitVec.allOnes 128, lim := Vector.replicate 4 Lim.reset, safe := Safe.reset, evr := Evr.reset, mem := [], ecc := [],
    spl := Vector.replicate 8 Spl.reset, cpy := Vector.replicate 8 Cpy.reset, host := HostPort.reset, keep := [],
    flash := FlashChip.reset, boot := Boot.reset, cas := Cas.reset, slt := Slt.reset, sram := [], order := 0, ownerKey := none,
    free := 0, pending := [] }

end Sys2Proof.Machine
end

