-- ==== Sys2Proof/Machine/Ops.lean ====
section
/-! DEFINITION. The named operations over the state that every family uses: register words, event bits and the rules of one
cycle (R370, R371), parts of the state by index, and draws of free values. -/

namespace Sys2Proof.Machine

/-- What an unlisted register reads as: its hardware reset value before the OTP step of boot, its default after (R7, R8). -/
def regDefault (otp : Bool) (a : Nat) : Word := if otp then (regDesc a).dfl else (regDesc a).rst

/-- The stored word of a register. -/
def State.reg (s : State) (a : Nat) : Word := sparseRead (regDefault s.otp) s.regs a

def State.setReg (s : State) (a : Nat) (w : Word) : State := { s with regs := sparseWrite (regDefault s.otp) s.regs a w }

def State.rf (s : State) (a hi lo : Nat) : Nat := fld (s.reg a) hi lo

def State.rb (s : State) (a i : Nat) : Bool := bitAt (s.reg a) i

def State.setRf (s : State) (a hi lo v : Nat) : State := s.setReg a (setFld (s.reg a) hi lo v)

def vget {α : Type} {n : Nat} (v : Vector α n) (i : Nat) (d : α) : α := if h : i < n then v[i] else d

def State.spkAt (s : State) (n : Nat) : Spk := vget s.spk n Spk.reset
def State.chAt (s : State) (n : Nat) : Chan := vget s.ch n Chan.reset
def State.pinAt (s : State) (n : Nat) : Pin := vget s.pin n Pin.reset
def State.engAt (s : State) (e : Nat) : Eng := vget s.eng e Eng.reset
def State.thrAt (s : State) (t : Nat) : Thr := vget (s.engAt (t / 4)).thr (t % 4) Thr.reset
def State.linkAt (s : State) (n : Nat) : Link := vget s.link n Link.reset
def State.exgAt (s : State) (g : Nat) : Exg := vget s.exg g Exg.reset
def State.shqAt (s : State) (n : Nat) : Shq := vget s.shq n Shq.reset
def State.mtrAt (s : State) (n : Nat) : Mtr := vget s.mtr n Mtr.reset
def State.limAt (s : State) (k : Nat) : Lim := vget s.lim k Lim.reset
def State.splAt (s : State) (n : Nat) : Spl := vget s.spl n Spl.reset
def State.cpyAt (s : State) (k : Nat) : Cpy := vget s.cpy k Cpy.reset
def State.fixAt (s : State) (k : Nat) : FixCh := vget s.fix k FixCh.reset
def State.bankAt (s : State) (b : Nat) : Bank := vget s.evr.banks b Bank.reset

def State.modSpk (s : State) (n : Nat) (f : Spk → Spk) : State := { s with spk := vmodN s.spk n f }
def State.modCh (s : State) (n : Nat) (f : Chan → Chan) : State := { s with ch := vmodN s.ch n f }
def State.modPin (s : State) (n : Nat) (f : Pin → Pin) : State := { s with pin := vmodN s.pin n f }
def State.modEng (s : State) (e : Nat) (f : Eng → Eng) : State := { s with eng := vmodN s.eng e f }
def State.modThr (s : State) (t : Nat) (f : Thr → Thr) : State :=
  s.modEng (t / 4) fun e => { e with thr := vmodN e.thr (t % 4) f }
def State.modLink (s : State) (n : Nat) (f : Link → Link) : State := { s with link := vmodN s.link n f }
def State.modExg (s : State) (g : Nat) (f : Exg → Exg) : State := { s with exg := vmodN s.exg g f }
def State.modShq (s : State) (n : Nat) (f : Shq → Shq) : State := { s with shq := vmodN s.shq n f }
def State.modMtr (s : State) (n : Nat) (f : Mtr → Mtr) : State := { s with mtr := vmodN s.mtr n f }
def State.modLim (s : State) (k : Nat) (f : Lim → Lim) : State := { s with lim := vmodN s.lim k f }
def State.modSpl (s : State) (n : Nat) (f : Spl → Spl) : State := { s with spl := vmodN s.spl n f }
def State.modCpy (s : State) (k : Nat) (f : Cpy → Cpy) : State := { s with cpy := vmodN s.cpy k f }
def State.modFix (s : State) (k : Nat) (f : FixCh → FixCh) : State := { s with fix := vmodN s.fix k f }
def State.modBank (s : State) (b : Nat) (f : Bank → Bank) : State :=
  { s with evr := { s.evr with banks := vmodN s.evr.banks b f } }
def State.modSlot (s : State) (n x : Nat) (f : Slot → Slot) : State := s.modCh n fun c => { c with slots := vmodN c.slots x f }

def Chan.slotAt (c : Chan) (x : Nat) : Slot := vget c.slots x Slot.reset

/-- A free value, a new one at each draw (log entry 2). -/
def State.drawWord (s : State) : Word × State := (Config.freeWord s.free, { s with free := s.free + 1 })

def State.drawBool (s : State) : Bool × State := (Config.freeBool s.free, { s with free := s.free + 1 })

/-- The block's registers lie in the TB domain (Table 1-5); every other block is taken in cc (R370). -/
def tbDomain (a : Nat) : Bool := 0x00820000 ≤ a && a < 0x00840000

/-- The cc of the current tb, by the tb at which it began (R13). -/
def State.cc (s : State) : Nat := s.tb - s.tb % 2

/-- The cycle in which a register access is sampled (R370, R371). -/
def State.cycleOf (s : State) (a : Nat) : Nat := if tbDomain a then s.tb else s.cc

def State.freshAt (s : State) (a : Nat) : Option Fresh := s.fresh.find? fun f => f.addr == a

def State.putFresh (s : State) (f : Fresh) : State := { s with fresh := f :: s.fresh.filter fun g => g.addr != f.addr }

/-- The register as it stood at the start of the cycle: what a write of this cycle does not change yet (R317). -/
def State.startReg (s : State) (a : Nat) : Word := match s.freshAt a with | some f => f.start | none => s.reg a

/-- Software wrote or cleared the register in this cycle (R371). -/
def State.wroteNow (s : State) (a : Nat) : Bool := match s.freshAt a with | some f => f.wr | none => false

/-- Marks a software write or clear of this cycle (R371). -/
def State.markWr (s : State) (a : Nat) : State :=
  match s.freshAt a with
  | some f => s.putFresh { f with wr := true }
  | none => s.putFresh { addr := a, start := s.reg a, set := 0, wr := true }

/-- Hardware sets RC bits (R371: the flag stays 1 for the next read when a read of the cycle returned it). -/
def State.hwSet (s : State) (a : Nat) (bits : Word) : State :=
  let s1 := match s.freshAt a with
    | some f => s.putFresh { f with set := f.set ||| bits }
    | none => s.putFresh { addr := a, start := s.reg a, set := bits, wr := false }
  s1.setReg a (s1.reg a ||| bits)

/-- Takes back RC bits that hardware set in this cycle: what set them did not come about after all. -/
def State.hwUnset (s : State) (a : Nat) (bits : Word) : State :=
  let s1 := match s.freshAt a with
    | some f => s.putFresh { f with set := f.set &&& ~~~bits }
    | none => s
  s1.setReg a (s1.reg a &&& ~~~bits)

def State.hwSetBit (s : State) (a i : Nat) : State := s.hwSet a (mkw 1 i)

/-- How many tb ago the tb began in which a read of the TB domain by the core edge of this cc is sampled (R13, R116). -/
def State.sampleAgo (s : State) : Nat := s.tb - s.cc + 1

/-- The TB domain at the start of the tb in which a core read of this cc is sampled: the tb before its core edge (Table 1-4, R116).
None while TB does not count and in the first cc after. -/
def State.view (s : State) : Option TbView := if s.tbRun then s.seen.views[s.sampleAgo]? else none

/-- The state in which the registers of the TB domain show what they held at the sampled tb. -/
def State.sampled (s : State) : State :=
  match s.view with
  | some v => { s with tb := v.tb, regs := v.regs, due := v.due, ch := v.ch, pin := v.pin, vdet := v.vdet, exg := v.exg, trip := v.trip }
  | none => s

/-- The first `k` views changed: those of the tb that began after the sampled one, for `k` its place. -/
def State.mapViews (s : State) (k : Nat) (f : TbView → TbView) : State :=
  { s with seen := { s.seen with views := (s.seen.views.take k).map f ++ s.seen.views.drop k } }

/-- The RC bits of `a` that hardware has set since the sampled tb began. -/
def State.setSince (s : State) (a : Nat) : Word :=
  (s.seen.views.take (s.sampleAgo + 1)).foldl (fun w v => v.sets.foldl (fun w p => if p.1 = a then w ||| p.2 else w) w)
    (match s.freshAt a with | some f => f.set | none => 0)

/-- A read of a TB-domain register that shows `shown`, as of its sampled tb: the RC bits among `ret` that it returns as 1 clear in
that tb, but for those that hardware has set from then on (R370, R371). -/
def State.rcReadTb (s : State) (a : Nat) (ret shown : Word) : Word × State :=
  let gone := shown &&& (regDesc a).rc &&& ret &&& ~~~ s.setSince a
  let clear (regs : List (Nat × Word)) : List (Nat × Word) :=
    sparseWrite (regDefault s.otp) regs a (sparseRead (regDefault s.otp) regs a &&& ~~~ gone)
  (shown, (s.setReg a (s.reg a &&& ~~~ gone)).mapViews s.sampleAgo fun v => { v with regs := clear v.regs })

/-- A read of a register with RC fields that shows `live` now: the word as the cycle began; the RC bits among `ret`
that it returns as 1 clear, but for those that hardware sets in the cycle (R370, R371). -/
def State.rcRead (s : State) (a : Nat) (ret live : Word) : Word × State :=
  let rc := (regDesc a).rc
  if rc = 0 then (live, s) else
  if tbDomain a && s.view.isSome then s.rcReadTb a ret live else
  let f : Fresh := (s.freshAt a).getD { addr := a, start := s.reg a, set := 0, wr := false }
  let cur := s.reg a
  let shown := (sparseGet s.seen.begun a).getD (mergeBits live f.start rc)
  let gone := shown &&& rc &&& ret &&& ~~~ f.set
  (shown, (s.putFresh f).setReg a (cur &&& ~~~ gone))

/-- A saturating count in field `hi:lo`; lost when software cleared the register in this cycle (R371). -/
def State.bump (s : State) (a hi lo : Nat) : State :=
  if s.wroteNow a then s else s.setRf a hi lo (satInc (hi - lo + 1) (s.rf a hi lo))

/-- A counter register is cleared by command (R371). -/
def State.clearCnt (s : State) (a : Nat) : State := (s.setReg a 0).markWr a

/-- An effect at `d` tb from now. -/
def State.after (s : State) (d : Nat) (e : Due) : State := { s with due := s.due ++ [(s.tb + d, e)] }

/-- Table 11-2: the codes of the masters. -/
def masterCode : Master → Nat
  | .host _ => 0
  | .engine _ => 1
  | .spill => 2
  | .contact => 3
  | .safelight => 4
  | .recordCtl => 5
  | .copy _ => 6
  | .bgTest => 7

/-- Secure masters (R373). -/
def masterSecure : Master → Bool
  | .host b => b
  | .safelight => true
  | _ => false

/-- Thread number of an engine thread, else 0. -/
def masterThread : Master → Nat
  | .engine t => t.val
  | _ => 0

/-- Shadows are kept per master; every engine thread is one, and the host is one whatever its security (R367). -/
def shadowKey : Master → Master
  | .host _ => .host false
  | m => m

def sizeBytes : Size → Nat
  | .b1 => 1
  | .b2 => 2
  | .b4 => 4

def sizeCode : Size → Nat
  | .b1 => 0
  | .b2 => 1
  | .b4 => 2

/-- The shadow of the register at `a` for a master; 0 before its first fill (R367). -/
def State.shadow (s : State) (m : Master) (a : Nat) : Word :=
  match s.shadows.find? fun h => h.master == shadowKey m && h.addr == a with
  | some h => h.word
  | none => 0

def State.putShadow (s : State) (m : Master) (a : Nat) (w : Word) : State :=
  { s with shadows := { master := shadowKey m, addr := a, word := w } ::
      s.shadows.filter fun h => !(h.master == shadowKey m && h.addr == a) }

/-- TB bits 63:0 plus n. -/
def tbAdd (tb n : Nat) : Nat := (tb + n) % 2 ^ 64

/-- The pushes of this tb among the last entries of a queue: what a flush or clear keeps (R371). -/
def keepNew {α : Type} (cycle : Nat) (q : List α) (nw : Nat × Nat) : List α :=
  if nw.1 = cycle then q.drop (q.length - nw.2) else []

/-- A push noted for `keepNew`. -/
def noteNew (cycle : Nat) (nw : Nat × Nat) : Nat × Nat := if nw.1 = cycle then (cycle, nw.2 + 1) else (cycle, 1)

/-- A filter of `gf` tb accepts a change at stamp `s16`: the new level, left at `back` if at all, has held to the start of the tb
that lies `gf` tb after the change, rounded up (R43, R122, R257). -/
def gfHolds (gf s16 : Nat) (back : Option Nat) : Bool :=
  match back with
  | none => true
  | some b => decide (((s16 + 15) / 16 + gf) * 16 ≤ b)

/-- The masters that reach registers (R41). -/
def reachesRegs : Master → Bool
  | .host _ => true
  | .engine _ => true
  | .safelight => true
  | _ => false

end Sys2Proof.Machine
end

