-- ==== Sys2Proof/Machine/Records.lean ====
section
/-! DEFINITION. Raising event records: routes, the raise of one source in one cc, and the safety-class states in handling
(R308–R313, R325, R326). The latch, delivery and claims follow in Machine/Evr.lean. -/

namespace Sys2Proof.Machine

/-- Source numbers (Table 10-1). -/
def srcExg (g : Nat) : Nat := 128 + g
def srcSpk (n i : Nat) : Nat := 144 + 4 * n + i
def srcThr (t : Nat) : Nat := 176 + t
def srcShq (n : Nat) : Nat := 240 + n
def srcLink (n : Nat) : Nat := 272 + n
def srcCal (i : Nat) : Nat := 280 + i

/-- A source's route (R311). -/
structure Route where
  level  : Bool
  fast   : Bool
  target : Nat
  deriving DecidableEq, Repr

/-- A route change governs from the next cc. Sources 328–335 are Safelight's; sources 336–511 have no route;
297, 303 and 328–334 are taken as EDGE (R307, R311, R446). -/
def State.route (s : State) (src : Nat) : Route :=
  if src ≥ 336 then { level := false, fast := false, target := 0 } else
  let w := s.startReg (Reg.EVR_ROUTE src)
  { level := bitAt w 8 && src != 297 && src != 303 && !(328 ≤ src && src ≤ 334), fast := bitAt w 4,
    target := if src ≥ 328 then 3 else fld w 1 0 }

/-- The bank a raise goes to: 0 HA, 1 HB, 2 S; a safety raise without a target goes to Safelight (R311). -/
def State.bankOf (s : State) (src : Nat) (safety : Bool) : Option Nat :=
  match (s.route src).target with
  | 0 => if safety then some 2 else none
  | t + 1 => some t

/-- Sources that only TB-domain events raise, which the core sees at the first core edge at or after tb + 2 (Table 1-4). -/
def tbSource (src : Nat) : Bool := src < 144 || src == 298

/-- The core edge at which a raise of this tb is presented: the first one at or after it, or at or after tb + 2 for an
event of the TB domain (R309); the present tb while TB does not count (R20). -/
def State.edgeOf (s : State) (ofTb : Bool) : Nat :=
  if !s.tbRun then s.tb else if ofTb then (s.tb + 3) / 2 * 2 else (s.tb + 1) / 2 * 2

/-- Raises on one source at one core edge form one: the lowest kind with its detail, safety if any is (R309). -/
def joinRaise (r : Raised) : List Raised → List Raised
  | [] => [r]
  | q :: rest =>
    if q.src = r.src ∧ q.tb = r.tb then
      { (if r.kind < q.kind then r else q) with safety := r.safety || q.safety, esc := r.esc || q.esc } :: rest
    else q :: joinRaise r rest

/-- A raise presented by a block, for an event of the TB domain or not (R309, R473). -/
def State.raiseIn (s : State) (ofTb : Bool) (src kind : Nat) (d : Detail) (safety esc : Bool) : State :=
  { s with evr := { s.evr with
      cur := joinRaise { src := src, kind := kind, detail := d, tb := s.edgeOf ofTb, safety := safety, esc := esc } s.evr.cur } }

/-- A raise in the domain of its source. -/
def State.raiseAs (s : State) (src kind : Nat) (d : Detail) (safety esc : Bool) : State :=
  s.raiseIn (tbSource src) src kind d safety esc

/-- A raise that is no safety raise. -/
def State.raise0 (s : State) (src kind : Nat) (d : Detail) : State := s.raiseAs src kind d false false

/-- EVR_GSTAT.SAFE_OPEN (R325). -/
def Evr.safeCount (e : Evr) : Nat :=
  satN 10 ((e.pend.filter fun p => p.safety).length + (e.opens.filter fun o => o.safety).length)

/-- A safety-class record or pending state of another source than `src` is in handling (R325). -/
def Evr.otherSafety (e : Evr) (src : Nat) : Bool :=
  e.pend.any (fun p => p.safety && p.src != src) || e.opens.any fun o => o.safety && o.src != src

/-- A safety-class record or pending state is in handling (R325). -/
def Evr.anySafety (e : Evr) : Bool := e.pend.any (fun p => p.safety) || e.opens.any fun o => o.safety

/-- An EVR_EVT bit of bank `b` sets; source 335 raises when it sets from 0, but not for the rings of Safelight (R326). -/
def State.evrEvt (s : State) (b bit kind cls idx : Nat) : State :=
  let was := s.rb (Reg.EVR_EVT b) bit
  let s1 := s.hwSetBit (Reg.EVR_EVT b) bit
  if was || (b == 2 && (kind == 2 || kind == 3)) then s1
  else s1.raise0 335 kind (.word (mkw (b + 1) 0 ||| mkw cls 4 ||| mkw idx 16))

/-- Event bit `b` of a block with an enable register: it sets, and raises kind `b + 1` while enabled or where the
chapter raises it whatever the enable holds, with the event bits 15:0 as the detail word (R266, R288). -/
def State.evtRaise (s : State) (evt en src b : Nat) (always : Bool) : State :=
  let s1 := s.hwSetBit evt b
  if always || s.rb en b then s1.raise0 src (b + 1) (.word (s1.reg evt &&& 0xFFFF)) else s1

end Sys2Proof.Machine
end

