-- ==== Sys2Proof/Machine/Pins.lean ====
section
/-! DEFINITION. From the function that drives a TIO pin to the level at its ball: meter, release limiter, OINV, guarded gate,
safe override (R110, R121, R289), and the on-time that the meters integrate (R291). -/

namespace Sys2Proof.Machine

def lvlOf (b : Bool) : Lvl := if b then .hi else .lo

/-- High impedance counts as 0 (R291, R295, R299). -/
def Lvl.high : Lvl → Bool
  | .hi => true
  | _ => false

def Lvl.inv (l : Lvl) (b : Bool) : Lvl :=
  match l with
  | .lo => lvlOf b
  | .hi => lvlOf (!b)
  | .z => .z

def tioFunc (s : State) (n : Nat) : Nat := s.rf (Reg.TIO_CFG n) 2 0

/-- The supply of the pin's bank is not the stated one: no output of the bank is driven (R123). -/
def bankMismatch (s : State) (k : Nat) : Bool := vget s.vdet k false != s.rb (Reg.TIO_BANK k) 0

def exgWidth (s : State) (g : Nat) : Nat := s.rf (Reg.EXG_CTL g) 6 4 + 1

def exgOn (s : State) (g : Nat) : Bool := s.rb (Reg.EXG_CTL g) 0

/-- Channel `ch` is a member of its group (R241). -/
def exgMember (s : State) (ch : Nat) : Bool := ch < 128 && exgOn s (ch / 8) && ch % 8 < exgWidth s (ch / 8)

/-- The mask entry that governs group `g` (R256). -/
def exgEntry (s : State) (g : Nat) : Word := s.reg (Reg.EXG_MTAB g (s.exgAt g).mp)

/-- Output `j` of group `g` (Table 7-6, R259, R261, R263). -/
def exgOut (s : State) (g j : Nat) : Bool :=
  let x := s.exgAt g
  let lvl := s.reg (Reg.EXG_LVL g)
  if !exgOn s g then bitAt lvl j else
  if (x.tripped || x.clearing) && x.tripTb + 3 ≤ s.tb then bitAt lvl (8 + j) else
  let m := exgEntry s g
  let l := if bitAt m j then (s.chAt (8 * g + j)).out else bitAt m (8 + j)
  if x.cut && x.cutTb + 3 ≤ s.tb && s.rb (Reg.EXG_CBCLIM g) j then false else l

/-- Sequencer `q` is enabled and its window covers pin `n` (R268, R269). -/
def shqCovers (s : State) (n q : Nat) : Bool :=
  let p := s.reg (Reg.SHQ_PINS q)
  s.rb (Reg.SHQ_CTL q) 0 && fld p 30 24 ≤ n && n < fld p 30 24 + fld p 21 16

/-- A SEQUENCER pin takes level and direction from the lowest-numbered sequencer that covers it (R269). -/
def shqLevel (s : State) (n : Nat) : Lvl :=
  match (List.range 32).find? fun q => shqCovers s n q with
  | none => .z
  | some q =>
    let i := n - s.rf (Reg.SHQ_PINS q) 30 24
    if bitAt (s.shqAt q).bDir i then lvlOf (bitAt (s.shqAt q).bOut i) else .z

/-- What drives the pin, before the protective stages (Table 3-10). -/
def rawLevel (s : State) (n : Nat) : Lvl :=
  let c := s.reg (Reg.TIO_CFG n)
  match fld c 2 0 with
  | 0 => if bitAt c 5 then lvlOf (bitAt c 4) else .z
  | 1 => if bitAt c 5 then lvlOf (s.chAt n).out else .z
  | 2 => if n % 8 < exgWidth s (n / 8) then lvlOf (exgOut s (n / 8) (n % 8)) else .lo
  | 3 => shqLevel s n
  | 4 => lvlOf (s.chAt n).out
  | _ => .z

/-- The level after the meter: a forced meter's output is 0 (R292). -/
def meteredLevel (s : State) (n : Nat) : Lvl :=
  match rawLevel s n with
  | .hi => if (s.mtrAt n).out then .lo else .hi
  | l => l

/-- The sprocket unit that guards pin `n` (GUARD_SELk). -/
def guardUnit (s : State) (n : Nat) : Nat := fld (s.reg (Reg.GUARD_SEL (n / 8))) (4 * (n % 8) + 2) (4 * (n % 8))

/-- The pin is guarded; SEQUENCER pins pass the gate unchanged (R298, Table 9-1). -/
def pinGuarded (s : State) (n : Nat) : Bool := s.rb (Reg.GUARD_CH (n / 32)) (n % 32) && tioFunc s n != 3

/-- The safe level of pin `n`; high impedance until the OTP step loads the codes (R300). -/
def safeLevel (s : State) (n : Nat) (hold : Lvl) : Lvl :=
  if !s.otp then .z else
  match fld (s.reg (Reg.SAFE_TLVL (n / 16))) (2 * (n % 16) + 1) (2 * (n % 16)) with
  | 0 => .lo
  | 1 => .hi
  | 2 => .z
  | _ => hold

/-- The level before the gate, at the ball: after OINV (R110). -/
def beforeGate (s : State) (n : Nat) (post : Lvl) : Lvl := post.inv (s.rb (Reg.TIO_CFG n) 6)

/-- The level at the ball (R110, R123, R298, R302). A bank mismatch prevails over the safe level (log entry 61). -/
def ballLevel (s : State) (n : Nat) (p : Pin) : Lvl :=
  if bankMismatch s (n / 32) then .z
  else if s.safe.sover then safeLevel s n p.safeHold
  else if pinGuarded s n && p.gateClosed then safeLevel s n p.gateHold
  else beforeGate s n p.post

/-- On-time up to the current tb: the tb at whose end the pin carried level 1 (R291). -/
def addOnTime (s : State) (n : Nat) : State :=
  let lit := (s.pinAt n).lit
  s.modMtr n fun m => { m with on := if lit then m.on + (s.tb - m.onTb) else m.on, onTb := s.tb }

/-- A change that a closed gate suppresses sets the pin's hit bit, with a record when it sets from 0 (R298). -/
def gateHit (s : State) (n : Nat) : State :=
  let a := Reg.GUARD_HIT (n / 32)
  let was := s.rb a (n % 32)
  let s1 := s.hwSetBit a (n % 32)
  if was then s1 else s1.raise0 299 1 (.word (mkw n 0))

/-- GUARD_OK has arrived and the level before the closed gate equals the gate level: the gate opens (R299). -/
def gateOpens (s : State) (n : Nat) : Bool :=
  let p := s.pinAt n
  pinGuarded s n && p.gateClosed && !s.safe.sover && vget s.guard (guardUnit s n) false
    && (beforeGate s n p.post).high == (safeLevel s n p.gateHold).high

/-- The ball follows the stages before it; `old` is the level before the gate until now. A change with which the gate
opens is not suppressed; the override after the gate takes nothing from its hits (R298, R299). -/
def settleBall (s : State) (n : Nat) (old : Lvl) : State :=
  let p := s.pinAt n
  let b := ballLevel s n p
  let hit := pinGuarded s n && p.gateClosed && beforeGate s n p.post != old && !gateOpens s n
  let s1 := if hit then gateHit s n else s
  if b = p.ball ∧ (b.inv (s.rb (Reg.TIO_CFG n) 6)).high = p.lit then s1 else
  (addOnTime s1 n).modPin n fun q => { q with ball := b, lit := (b.inv (s.rb (Reg.TIO_CFG n) 6)).high }

/-- A DEFERk or DROPk bit sets, with a record when it sets from 0 (R297). -/
def relEvent (s : State) (bit : Nat) : State :=
  let was := s.rb Reg.REL_EVT bit
  let s1 := s.hwSetBit Reg.REL_EVT bit
  if was then s1 else s1.raise0 298 1 (.word (s1.reg Reg.REL_EVT &&& 0xFF))

def relLimit (s : State) (k : Nat) : Nat := s.rf Reg.REL_CTL (8 * k + 7) (8 * k)

/-- A delayed pin changes between driven 0 and high impedance: no edge. The form of 0 changes at once, or with the fall that is
still to be placed (R295, R296). -/
def lowForm (p : Pin) (l : Lvl) : Pin :=
  match p.queue.getLast? with
  | some (t, _) => { p with queue := p.queue.dropLast ++ [(t, l)] }
  | none => { p with post := l }

/-- The undelayed level of the pin changes to `l`: the release limiter (R295, R296). -/
def limiterIn (s : State) (n : Nat) (l : Lvl) : State :=
  let p := s.pinAt n
  let k := n / 32
  if p.pre = l then s else
  let s1 := s.modPin n fun q => { q with pre := l }
  if p.delayed && l.high == p.pre.high then s1.modPin n fun q => lowForm q l
  else if p.delayed then s1.modPin n fun q => { q with queue := q.queue ++ [(s.tb + 1000, l)] }
  else if l.high && !p.pre.high && relLimit s k != 0 && !s.safe.safe then
    let m := s.limAt k
    if m.direct + m.reserved < relLimit s k then
      (s1.modLim k fun m => { m with direct := m.direct + 1 }).modPin n fun q => { q with post := l }
    else
      let s2 := s1.modPin n fun q => { q with delayed := true, queue := [(s.tb + 1000, l)] }
      relEvent (s2.bump (Reg.REL_CNT k) 15 0) k
  else s1.modPin n fun q => { q with post := l }

/-- The stages from OINV on follow a change of their own at once (R110). -/
def settlePin (s : State) (n : Nat) : State := settleBall s n (beforeGate s n (s.pinAt n).post)

/-- A closed gate opens where the level before it equals its gate level (R299). -/
def gateOpenOp (s : State) (n : Nat) : State :=
  if gateOpens s n then
    settleBall (s.modPin n fun p => { p with gateClosed := false }) n (beforeGate s n (s.pinAt n).post)
  else s

/-- What drives the pin reaches its stages: once a tb, with the level that all actions of the tb leave; a gate whose level is met
opens (R86, R107, R299). -/
def drivePin (s : State) (n : Nat) : State :=
  gateOpenOp (settleBall (limiterIn s n (meteredLevel s n)) n (beforeGate s n (s.pinAt n).post)) n

def settlePins (s : State) (ns : List Nat) : State := forEach ns s settlePin

def allPins : List Nat := List.range 128

/-- The end of a tb for the pins, in ascending order (R107, R295). -/
def drivePins (s : State) : State := forEach allPins s drivePin

/-- The pins of group `g`. -/
def groupPins (g : Nat) : List Nat := (List.range 8).map fun j => 8 * g + j

/-- The pins of a sequencer's window (R268). -/
def windowPins (s : State) (q : Nat) : List Nat :=
  let p := s.reg (Reg.SHQ_PINS q)
  (List.range (fld p 21 16)).map fun i => fld p 30 24 + i

/-- A pin whose delayed and undelayed levels are both 0, with no delayed edge left, is direct again (R296). -/
def directAgain (p : Pin) : Pin :=
  if p.delayed && p.queue.isEmpty && !p.pre.high && !p.post.high then { p with delayed := false, dropping := false } else p

/-- Safe state discards delayed edges and makes every pin direct (R302). -/
def directAll (s : State) : State :=
  settlePins { s with pin := s.pin.map fun p =>
    if p.delayed then { p with delayed := false, queue := [], dropping := false, post := p.pre } else p } allPins

/-- The level of TRG pin `m` at the ball (R254, R300). -/
def trgLevel (s : State) (m : Nat) : Lvl :=
  let c := s.reg (Reg.TRG_CFG m)
  let run := lvlOf ((bitAt c 9 && (match vget s.trgEnd m none with | some e => s.tb < e | none => false)) != bitAt c 8)
  if !s.otp then .lo
  else if s.safe.sover then
    match fld (s.reg Reg.SAFE_TRG) (2 * m + 1) (2 * m) with
    | 0 => .lo
    | 1 => .hi
    | 2 => .z
    | _ => vget s.safe.trgHold m .lo
  else run

/-- The accepted level of the TIOn input after IINV, as TIO_INk shows it (R122). -/
def tioIn (s : State) (n : Nat) : Bool := (s.pinAt n).acc != s.rb (Reg.TIO_CFG n) 7

/-- The level that a sequencer reads at this core edge: accepted two tb ago or earlier (R271). -/
def seqIn (s : State) (n : Nat) : Bool :=
  let p := s.pinAt n
  (match (p.accHist.filter fun a => !decide (a.1 + 2 ≤ s.cc)).getLast? with
    | some (_, before) => before
    | none => p.acc) != s.rb (Reg.TIO_CFG n) 7

end Sys2Proof.Machine
end

