-- ==== Sys2Proof/Machine/Strip.lean ====
section
/-! DEFINITION. The frames of a strip link: their characters, their sampling, the levels at their steps, and what entry to safe
state does to them (R230–R233, R238, R291). -/

namespace Sys2Proof.Machine

def linkMode (s : State) (n : Nat) : Nat := s.rf (Reg.LINK_CTL n) 1 0

/-- The sampling time S of window `w` (R233). -/
def sampleTb (s : State) (n w : Nat) : Nat := w * 1000 - s.rf (Reg.LINK_LEAD n) 15 0 - 80

/-- The CRC of a link's characters, high byte first (R230). -/
def crcBytes (bs : List Byte) : List Byte :=
  let c := crc16 bs
  [BitVec.ofNat 8 (c / 256), BitVec.ofNat 8 c]

/-- Data characters. -/
def chars (bs : List Byte) : List (Bool × Byte) := bs.map fun b => (false, b)

/-- CAP of the driver (R232). -/
def linkCap (s : State) (n : Nat) : Nat := s.rf (Reg.LINK_DRV n) 7 0

/-- The safe level of cell `c` of link `n` (SAFE_RLVLw). -/
def cellSafe (s : State) (n c : Nat) : Bool := s.rb (Reg.SAFE_RLVL (4 * n + c / 32)) (c % 32)

/-- Steps at level 1 of one cell in a frame: the level before until OFFSET, then LEVEL (R291). -/
def cellSteps (before now : Nat) : Nat := (before / 128) * (now % 128) + (now / 128) * (128 - now % 128)

/-- Steps at level 1 of each row group of a link in a frame that follows the frame `old` (R291). -/
def frameSteps (old sent : List Byte) : List Nat :=
  (List.range 16).map fun i =>
    ((List.range 8).map fun j => cellSteps (old.getD (8 * i + j) 0).toNat (sent.getD (8 * i + j) 0).toNat).foldl (· + ·) 0

/-- The characters of a strip frame (Table 6-1). -/
def stripFrame (seq : Byte) (cells : List Byte) : List (Bool × Byte) :=
  [K28_5, K27_7] ++ chars (seq :: cells ++ crcBytes (seq :: cells))

/-- The cell bytes of a frame at the safe levels, at OFFSET 0 (R238). -/
def safeCells (s : State) (n : Nat) : List Byte :=
  (List.range 128).map fun c => if c < linkCap s n && cellSafe s n c then 0x80 else 0

/-- What a link in UP sends as safe state is entered (R238). The last frame sampled is cut where it has not all left: it never takes
effect, and the safe levels do; one that has not begun to leave goes out with the safe levels. -/
def safeLink (s : State) (n : Nat) (l : Link) : Link :=
  let set_ : List (Bool × Byte) := [K28_5, K23_7, K23_7, K23_7]
  if l.st != .up then { l with safeSent := false }
  else if linkMode s n != 1 || l.frame.isEmpty then { l with safeSent := false, tx := set_ }
  else
    let w := l.nextW - 1
    let dep := sampleTb s n w + 80
    let cells := safeCells s n
    let tx := stripFrame (BitVec.ofNat 8 w) cells
    let ahead := decide (s.tb < dep)
    { l with
      frame := cells, tx := if ahead then set_ ++ tx else set_, safeSent := ahead
      steps := if s.tb < dep + 4 * tx.length then
          l.steps.map fun p => if p.1 = w then (w, frameSteps l.was cells) else p
        else l.steps }

end Sys2Proof.Machine
end

