-- ==== Sys2Proof/Machine/Safe.lean ====
section
/-! DEFINITION. Entering safe state, with everything that entry ends (R301–R304, R399), and safety-class raises (R304, R325). -/

namespace Sys2Proof.Machine

/-- Cause bits of SAFE_STAT, from bit 8 (Table 9-3). -/
def causeSafePin : Nat := 0
def causeStopPin : Nat := 1
def causeEsc : Nat := 2
def causeHwd : Nat := 3
def causeSlt : Nat := 4
def causeCmd : Nat := 5
def causeReset : Nat := 6

/-- SAFE_STAT as it reads. -/
def safeStat (s : State) : Word :=
  mkb s.safe.safe 0 ||| mkb s.safe.rundown.isSome 1 ||| mkw s.safe.cause.toNat 8 ||| mkw s.safe.first 16
  ||| mkb s.safe.safePin 24 ||| mkb s.safe.stopPin 25

/-- FMT_STAT as it reads. -/
def fmtStat (s : State) : Word :=
  mkw s.boot.phase 0 ||| mkw s.boot.cause 20 ||| mkw (if s.boot.phase = 1 || s.boot.phase = 2 then s.boot.target else s.boot.reqFmt) 24 ||| mkw s.boot.active 28

/-- The identifier of fix channel k's calendar entry: the four places beyond the table and the spill list (R152). -/
def fixEntryId (k : Nat) : Nat := 147456 + k

/-- A take that awaits the fix point of channel k ends: nothing is frozen (R30). -/
def sheetLosePoint (s : State) (k : Nat) : State :=
  if s.sheet.busy ∧ ¬ s.sheet.filling ∧ s.sheet.atFix.map Fin.val = some k then
    ({ s with sheet := { s.sheet with busy := false, at_ := none, atFix := none } }).hwSetBit Reg.CS_STAT 2
  else s

def FixCh.pending (f : FixCh) : Bool := f.point != .none

/-- The point of channel k has been reached (R34). -/
def fixReached (s : State) (k : Nat) : Option Nat :=
  match (s.fixAt k).point with
  | .at t => if passed s.tb t then some t else none
  | _ => none

/-- The pending point of channel k is disarmed, unless it has been reached (R30, R34, R36, R38). -/
def fixDisarm (s : State) (k : Nat) : State :=
  if (s.fixAt k).pending ∧ fixReached s k = none then
    let s1 := s.modFix k fun f => { f with point := .none }
    let s2 := { s1 with cal := { s1.cal with
      tab := s1.cal.tab.filter fun e => e.id != fixEntryId k
      reqs := s1.cal.reqs.filter fun q => match q.who with | .fix j => j.val != k | _ => true } }
    let s3 := if s2.cas.await.map Fin.val = some k then { s2 with cas := { s2.cas with await := none } } else s2
    sheetLosePoint s3 k
  else s

/-- FIXk_CTL.CANCEL: in the tb of the point and after, the commit takes place (R34, R38). -/
def fixCancel (s : State) (k : Nat) : State :=
  if (s.fixAt k).pending ∧ fixReached s k = none then (fixDisarm s k).hwSetBit (Reg.FIX_STAT k) 4 else s

/-- The shadow belongs to the commit of a point that has been reached (R34). -/
def commitDue (s : State) (g : Staged) : Bool :=
  match fixReached s g.tag.val with
  | some t => decide (g.tb < t) && decide (g.tb < s.tb)
  | none => false

/-- FIXk_CTL.DISCARD: every shadow tagged k is dropped, but for those of a commit that is due (R34, R38). -/
def fixDiscard (s : State) (k : Nat) : State := { s with staged := s.staged.filter fun g => g.tag.val != k || commitDue s g }

/-- The staged registers of a group, by offset (R247). -/
def exgStagedOffsets : List Nat :=
  [0x10, 0x14, 0x18, 0x1C, 0x20, 0x24, 0x28, 0x2C, 0x30, 0x34, 0x38, 0x3C, 0x40, 0x44, 0x48, 0x4C]

def exgBase (g : Nat) : Nat := 0x00830000 + 0x100 * g

/-- The active value of the staged register at offset `o` (R247). -/
def exgActive (s : State) (g o : Nat) : Word := s.reg (exgBase g + o + 0x80)

/-- EXGn_CMD.DISCARD (R252). -/
def exgDiscard (s : State) (g : Nat) : State :=
  (forEach exgStagedOffsets s fun s o => s.setReg (exgBase g + o) (exgActive s g o)).modExg g fun x =>
    { x with wPer := false, wDuty := false, fixTb := none, fixMore := none, deferred := false }

/-- A FMT_EVT bit sets and raises its source (R401). -/
def fmtEvent (s : State) (bit src kind : Nat) : State :=
  let s1 := s.hwSetBit Reg.FMT_EVT bit
  s1.raise0 src kind (.word (fmtStat s1))

/-- The fix point of the change in progress has been reached (R399). -/
def changePointReached (s : State) : Bool := (fixReached s s.boot.fixCh.val).isSome

/-- A change of format in progress is abandoned before its fix point (R399). -/
def abandonChange (s : State) : State :=
  if (s.boot.phase = 1 ∨ s.boot.phase = 2) ∧ ¬ changePointReached s then
    let k := s.boot.fixCh.val
    let s1 := fixDiscard (fixCancel s k) k
    let s2 := forEach s.boot.groups s1 exgDiscard
    fmtEvent { s2 with boot := { s2.boot with phase := 0, groups := [], hand := [], prepDone := false, chained := false } } 3 313 4
  else s

/-- The run-down in progress ends; what its end does to safe state is the caller's (R303, R400). -/
def rundownOver (s : State) : State :=
  if s.safe.rundown.isSome then
    fmtEvent { s with safe := { s.safe with rundown := none }, boot := { s.boot with phase := 0 } } 5 314 2
  else s

/-- The cause bit that the end of a run-down adds (Table 9-3). -/
def rundownCause : RdWhy → Nat
  | .stopPin => causeStopPin
  | .hwd => causeHwd
  | .slt => causeSlt
  | .activate => causeSlt

def addCause (s : State) (bit : Nat) : State :=
  { s with safe := { s.safe with cause := s.safe.cause ||| BitVec.ofNat 7 (2 ^ bit), srcTb := some s.tb } }

/-- Entry to safe state by the source with cause bit `bit`, for an event of the TB domain or not (R301, R302); an exit still under way no
longer ends the override (R305). -/
def enterSafeIn (s : State) (ofTb : Bool) (bit : Nat) : State :=
  if s.safe.safe then addCause s bit else
  let first := if s.safe.cause = 0 then bit else s.safe.first
  let s1 := addCause { s with
    safe := { s.safe with safe := true, sover := true, first := first,
                          trgHold := Vector.ofFn fun m => trgLevel s m.val },
    pin := s.pin.map fun p => { p with safeHold := p.ball },
    link := Vector.ofFn fun n => safeLink s n.val (s.linkAt n.val),
    due := s.due.filter fun p => p.2 != .safeExit,
    slt := { s.slt with lifeSafe := s.slt.lifeSafe + 1 } } bit
  let why := s1.safe.rundown
  let s2 := rundownOver s1
  let s3 := match why with
    | some (w, _) => { addCause s2 (rundownCause w) with
        safe := { (addCause s2 (rundownCause w)).safe with
          cause := (addCause s2 (rundownCause w)).safe.cause ||| s2.safe.rdAlso, rdAlso := 0 } }
    | none => s2
  let s4 := if s3.boot.now then s3 else abandonChange s3
  let s5 := s4.hwSetBit Reg.SAFE_EVT 0
  directAll (s5.raiseIn ofTb 300 1 (.word (safeStat s5)) false false)

def enterSafe (s : State) (bit : Nat) : State := enterSafeIn s false bit

/-- Escalation: safe state with cause ESC and a record on source 303 (R304). -/
def escalateIn (s : State) (ofTb : Bool) (cls src : Nat) : State :=
  (enterSafeIn s ofTb causeEsc).raiseIn ofTb 303 1 (.word (mkw cls 0 ||| mkw src 16)) false false

def escalate (s : State) (cls src : Nat) : State := escalateIn s false cls src

/-- A safety-class fault of class `cls` raises its own record, and escalates at once when its class bit is 1 (R304); else
R325 decides when the record controller takes the raise. -/
def raiseSafety (s : State) (cls src kind : Nat) (d : Detail) : State :=
  let esc := s.rb Reg.SAFE_ESC cls
  let s1 := s.raiseAs src kind d true (!esc)
  if esc then escalateIn s1 (tbSource src) cls src else s1

end Sys2Proof.Machine
end

