-- ==== Sys2Proof/Machine/EngBase.lean ====
section
/-! DEFINITION. What other blocks do to engine threads: events, wakes, results, and the end of an instruction (R161, R164,
R167–R169, R208, R209). -/

namespace Sys2Proof.Machine

def enlOn (s : State) (e : Nat) : Bool := s.rb (Reg.ENL_CTL e) 0

/-- The control register of thread number `t` (0–63). -/
def tctl (s : State) (t : Nat) : Word := s.reg (Reg.ENL_TCTL (t / 4) (t % 4))

/-- A thread's record (Table 5-14), a safety-class raise for a fault with TCTL.SAFETY (R202, class 0 of Table 9-4 is
chosen by the caller). -/
def thrRecord (s : State) (t kind : Nat) (d : Word) : State := s.raise0 (srcThr t) kind (.word d)

def Thr.setW (h : Thr) (r : Nat) (v : Word) : Thr := if r = 0 then h else { h with w := vmodN h.w r fun _ => v }

def Thr.getW (h : Thr) (r : Nat) : Word := if r = 0 then 0 else vget h.w r 0

/-- EVP: latched bits with the levels WAKE and MSG (Table 5-2). -/
def Thr.evpAll (h : Thr) : Word :=
  h.evp.setWidth 32 ||| mkb (!h.wq.isEmpty) 8 ||| mkb (!h.mq.isEmpty) 11

/-- The bits that events set in this cc, and the latched bits as it began (R168, R371). -/
def Thr.evpNow (h : Thr) (cc : Nat) : BitVec 16 × BitVec 16 := if h.evpNew.1 = cc then h.evpNew.2 else (0, h.evp)

/-- An event reaches the thread and latches in EVP, except while the engine's EN is 0 (R167). -/
def evpSet (s : State) (t bit : Nat) : State :=
  if enlOn s (t / 4) then s.modThr t fun h =>
    let (got, old) := h.evpNow s.cc
    let b := BitVec.ofNat 16 (2 ^ bit)
    { h with evp := h.evp ||| b, evpNew := (s.cc, got ||| b, old) }
  else s

/-- An event reaches the thread at the first core edge at or after `d` tb from now (Table 5-2). -/
def evpAt (s : State) (t bit d : Nat) : State :=
  let x := s.tb + d
  if x % 2 + d = 0 then evpSet s t bit else s.after (d + x % 2) (.evp t bit)

def allThreads : List Nat := List.range 64

/-- A tooth event of unit `n` reaches every thread (Table 5-2). -/
def evpTooth (s : State) (n : Nat) : State := forEach allThreads s fun s t => evpAt s t n 0

/-- An entry accepted into the capture FIFO of channel `ch` (Table 5-2, CAPA and CAPB). -/
def evpCap (s : State) (ch : Nat) : State :=
  forEach allThreads s fun s t =>
    let c := s.reg (Reg.ENL_TCAPSEL (t / 4) (t % 4))
    let s1 := if bitAt c 7 && fld c 6 0 == ch then evpAt s t 9 3 else s
    if bitAt c 15 && fld c 14 8 == ch then evpAt s1 t 10 3 else s1

/-- A commit of fix channel `k` (Table 5-2, FIXDONE). -/
def evpFix (s : State) (k : Nat) : State :=
  forEach allThreads s fun s t => if (s.thrAt t).fk.val == k then evpAt s t 14 1 else s

/-- A TSTAT overflow flag sets, with a record when it sets from 0 (R208). -/
def thrOvf (s : State) (t bit kind : Nat) : State :=
  let a := Reg.ENL_TSTAT (t / 4) (t % 4)
  let was := s.rb a bit
  let s1 := s.hwSetBit a bit
  if was then s1 else thrRecord s1 t kind ((s.thrAt t).pc.setWidth 32)

/-- A wake value is pushed, or dropped with WAKE_OVF (R169). -/
def wakePush (s : State) (t : Nat) (v : BitVec 16) : State :=
  if (s.thrAt t).wq.length < 4 then
    s.modThr t fun h => { h with wq := h.wq ++ [v], wqNew := noteNew s.cc h.wqNew }
  else thrOvf s t 14 2

/-- The watchdog's time: tb spent in READY or STALL since the last wait, with WDOG not 0 (R203). -/
def Thr.wdNow (h : Thr) (tb : Nat) : Nat :=
  if h.wdOn && (h.st == .ready || h.st == .stall) then h.wdCount + (tb - h.wdTb) else h.wdCount

/-- The thread changes state at `tb`. -/
def Thr.move (h : Thr) (tb : Nat) (st : ThrState) : Thr := { h with wdCount := h.wdNow tb, wdTb := tb, st := st }

/-- The state a thread takes when its instruction completes (R164, R205). -/
def Thr.stepOver (h : Thr) (tb : Nat) : Thr :=
  if h.stopPend then { h.move tb .stopped with stall := .none, stopPend := false, stepping := false, stepOut := none }
  else if h.stepping then { h.move tb .debug with stall := .none, stepping := false, stepOut := none }
  else { h.move tb .ready with stall := .none }

/-- STOP (R164). -/
def thrStop (s : State) (t : Nat) : State :=
  s.modThr t fun h =>
    match h.st with
    | .ready => { h.move s.tb .stopped with stepping := false, stepOut := none }
    | .sleep => { h.move s.tb .stopped with wait := none, stepping := false }
    | .stall => { h with stopPend := true }
    | .debug => h.move s.tb .stopped
    | _ => h

/-- START (R164). -/
def thrStart (s : State) (t : Nat) : State :=
  if !enlOn s (t / 4) then s.hwSetBit (Reg.ENL_STAT (t / 4)) 2 else
  s.modThr t fun h =>
    match h.st with
    | .stopped => h.move s.tb .ready
    | .debug => h.move s.tb .ready
    | .fault => { h.move s.tb .ready with fault := 0, fltW := 0 }
    | _ => h

/-- CLR_EV: latched events clear and both queues empty, but for events and pushes of the same cc (R167, R371). -/
def thrClrEv (s : State) (t : Nat) : State :=
  s.modThr t fun h => { h with evp := (h.evpNow s.cc).1, wq := keepNew s.cc h.wq h.wqNew, mq := keepNew s.cc h.mq h.mqNew }

/-- A request of the thread that the calendar has not served is withdrawn (R201). -/
def calForget (s : State) (t : Nat) : State :=
  { s with cal := { s.cal with reqs := s.cal.reqs.filter fun q => match q.who with | .thread u => u.val != t | _ => true } }

/-- A thread is stopped, set to `pc`, its events cleared, and started; an instruction it has in STALL is given up
(R398, R400; log entry 13). -/
def thrRestart (s : State) (t : Nat) (pc : BitVec 12) : State :=
  let s1 := (calForget s t).modThr t fun h =>
    { h.move s.tb .stopped with
      wait := none, stall := .none, stopPend := false, stepping := false, stepOut := none, fault := 0, fltW := 0, pc := pc }
  thrStart (thrClrEv s1 t) t

/-- The result of a calendar request reaches the thread: wd and the flags of R188. -/
def thrCalResult (s : State) (t : Nat) (res : Word) : State :=
  s.modThr t fun h =>
    match h.stall with
    | .calendar rd cancel =>
      let st := fld res 31 28
      let h1 := { (h.setW rd.val res).stepOver s.tb with pc := h.pc + 1 }
      if cancel then { h1 with z := st == 7, n := st == 8, c := st == 9, v := false }
      else { h1 with z := st == 0, v := st == 1, n := st == 2, c := 3 ≤ st && st ≤ 6 }
    | _ => h

end Sys2Proof.Machine
end

