-- ==== Sys2Proof/Machine/CalBase.lean ====
section
/-! DEFINITION. The calendar's entries, identifiers, events and records, below the blocks that it feeds (R126–R132, R158). -/

namespace Sys2Proof.Machine

def tableSize : Nat := 16384
def poolSize : Nat := 147456

/-- Fields of D0 (CAL_D0). -/
def dKind (d0 : Word) : Nat := fld d0 2 0
def dAct (d0 : Word) : Nat := fld d0 6 4
def dPos (d0 : Word) : Bool := bitAt d0 7
def dSpk (d0 : Word) : Nat := fld d0 10 8
def dRev (d0 : Word) : Bool := bitAt d0 11
def dHzn (d0 : Word) : Nat := fld d0 14 12
def dRec (d0 : Word) : Bool := bitAt d0 15
def dTag (d0 : Word) : Nat := fld d0 23 16
def dFrac (d0 : Word) : Nat := fld d0 31 28

/-- Table entries in use, without the KIND 6 entries (R152). -/
def Cal.used (c : Cal) : Nat := (c.tab.filter fun e => e.id < poolSize).length

/-- CAL_OCC.USED and the snapshot count the KIND 6 entries too (R152). -/
def Cal.occ (c : Cal) : Nat := c.tab.length

def Cal.armedN (c : Cal) : Nat := (c.tab.filter fun e => e.st != .pending).length

def Cal.find (c : Cal) (id : Nat) : Option CalEntry := c.tab.find? fun e => e.id == id

/-- An identifier's generation (R132): 1 at its first issue. -/
def Cal.gen (c : Cal) (id : Nat) : Nat := sparseRead zeroNat c.gens id

/-- The generation of the next issue (R132). -/
def nextGen (g : Nat) : Nat := if g ≥ 1023 then 1 else g + 1

/-- A freed identifier of the pool joins the tail of the free list (R132). -/
def Cal.freeId (c : Cal) (id : Nat) : Cal := if id < poolSize then { c with freed := c.freed ++ [id] } else c

/-- The identifier at the head of the free list is issued (R132). -/
def Cal.issue (c : Cal) : Nat × Cal :=
  let take (id : Nat) (c : Cal) : Nat × Cal :=
    (id, { c with gens := sparseWrite zeroNat c.gens id (nextGen (c.gen id)), fired := c.fired.filter fun f => f != id })
  if c.next < poolSize then take c.next { c with next := c.next + 1 }
  else match c.freed with
    | id :: r => take id { c with freed := r }
    | [] => take 0 c

/-- An entry leaves the table and its identifier is freed (R129). -/
def Cal.remove (c : Cal) (id : Nat) : Cal := { c with tab := c.tab.filter fun e => e.id != id }.freeId id

/-- An entry has fired: it leaves the table, and a cancel of its handle returns CAL_FIRED (R135). -/
def Cal.done (c : Cal) (id : Nat) : Cal := { c.remove id with fired := id :: c.fired }

def Cal.modEntry (c : Cal) (id : Nat) (f : CalEntry → CalEntry) : Cal :=
  { c with tab := c.tab.map fun e => if e.id = id then f e else e }

def State.modCal (s : State) (f : Cal → Cal) : State := { s with cal := f s.cal }

/-- CAL_EVT bits. -/
def evRefused : Nat := 0
def evLateTooth : Nat := 1
def evLateLoad : Nat := 2
def evSlotWait : Nat := 3
def evSlotUnusable : Nat := 4
def evSpillDue : Nat := 5
def evSpillErr : Nat := 6
def evExpired : Nat := 7
def evFlushed : Nat := 8
def evHwm : Nat := 9
def evDispLate : Nat := 10
def evBankErr : Nat := 11
def evFireRec : Nat := 12
def evIssueBusy : Nat := 13

/-- The source of a CAL_EVT bit (Table 4-6). -/
def calSource (bit : Nat) : Nat :=
  match bit with
  | 0 => 280
  | 1 | 2 => 281
  | 3 | 4 => 282
  | 5 | 6 => 283
  | 7 | 8 => 284
  | 9 => 285
  | 12 => 287
  | _ => 286

/-- A CAL_EVT bit sets; refusals, LATE_LOAD and recorded fires raise whatever CAL_EVTEN holds (R158). `ofTb` tells an event of the
TB domain (R309). -/
def calEventIn (s : State) (ofTb : Bool) (bit : Nat) (d : Word) : State :=
  let s1 := s.hwSetBit Reg.CAL_EVT bit
  let always := bit == evRefused || bit == evLateLoad || bit == evFireRec
  let on := always || s.rb Reg.CAL_EVTEN bit
  if on && (bit != evLateTooth || s.rb Reg.CAL_CTL 16) then s1.raiseIn ofTb (calSource bit) 1 (.word d) false false else s1

def calEventDetail (s : State) (bit : Nat) (d : Word) : State := calEventIn s false bit d

/-- The detail word of a record about an entry: its TAG, the event code and its identifier (R158). -/
def calDetail (tag code id : Nat) : Word := mkw tag 24 ||| mkw code 20 ||| mkw id 0

def calEvent (s : State) (bit tag id : Nat) : State := calEventDetail s bit (calDetail tag bit id)

/-- An entry is removed without firing as unusable (R149). -/
def calUnusable (s : State) (e : CalEntry) : State :=
  calEvent (s.modCal fun c => c.remove e.id) evSlotUnusable (dTag e.d0) e.id

def calUnusableId (s : State) (id : Nat) : State :=
  match s.cal.find id with
  | some e => calUnusable s e
  | none => s

/-- The entry has fired; REC = 1 raises source 287 (R158). -/
def calFiredIn (s : State) (ofTb : Bool) (id : Nat) : State :=
  match s.cal.find id with
  | some e =>
    let s1 := s.modCal fun c => c.done id
    if dRec e.d0 then calEventIn s1 ofTb evFireRec (calDetail (dTag e.d0) evFireRec id) else s1
  | none => s

def calFired (s : State) (id : Nat) : State := calFiredIn s false id

end Sys2Proof.Machine
end

