-- ==== Sys2Proof/Machine/LinkBase.lean ====
section
/-! DEFINITION. What other blocks do to a Korok link: its events and counters, and the hand-over of cell actions
(R226–R229, R232, R239, R240). -/

namespace Sys2Proof.Machine

/-- A LINKn_EVT bit sets; LATE_CELL (6) and DEFER (7) raise only with REC_LATE (R240). -/
def linkEvent (s : State) (n b : Nat) : State :=
  let s1 := s.hwSetBit (Reg.LINK_EVT n) b
  if (b == 6 || b == 7) && !s.rb (Reg.LINK_CTL n) 5 then s1
  else s1.raise0 (srcLink n) (b + 1) (.word (s1.reg (Reg.LINK_EVT n) &&& 0xFFFF))

/-- A count and its event bit: high or low half of an error counter. -/
def linkCount (s : State) (n cnt : Nat) (high : Bool) : State :=
  if high then s.bump (Reg.LINK_ERRCNT n cnt) 31 16 else s.bump (Reg.LINK_ERRCNT n cnt) 15 0

def linkLate (s : State) (n : Nat) : State := linkEvent (linkCount s n 2 true) n 6
def linkDefer (s : State) (n : Nat) : State := linkEvent (linkCount s n 2 false) n 7
def linkDrop (s : State) (n : Nat) : State := linkEvent (linkCount s n 1 false) n 5

/-- The grid place of a time in sixteenths: 7.8125 ns steps, halves up (R232). -/
def gridOf (t16 : Nat) : Nat := (2 * t16 + 125) / 250

/-- The window of a time (R232). -/
def windowOf (t16 : Nat) : Nat := gridOf t16 / 128

/-- Link `n` sends a unit of characters; what it was sending is cut short. -/
def State.send (s : State) (n : Nat) (cs : List (Bool × Byte)) : State := s.modLink n fun l => { l with tx := cs }

/-- Violations in what a link received count in CODE_ERR (R230). -/
def linkCodeErr (s : State) (n k : Nat) : State := forEach (List.range k) s fun s _ => linkCount s n 0 false

/-- LINKn_OWN gives the cell to the calendar (R226). -/
def calOwnsCell (s : State) (n cell : Nat) : Bool := s.rb (Reg.LINK_OWN n (cell / 32)) (cell % 32)

/-- The calendar owns the cell, as the last frame sampling took it; a link not in UP samples none (R226). -/
def calHolds (s : State) (n cell : Nat) : Bool :=
  if (s.linkAt n).st == .up then (s.linkAt n).own.getLsbD cell else calOwnsCell s n cell

/-- The owners of a link's cells as LINKn_OWNw gives them. -/
def ownerBits (s : State) (n : Nat) : BitVec 128 :=
  s.reg (Reg.LINK_OWN n 3) ++ s.reg (Reg.LINK_OWN n 2) ++ s.reg (Reg.LINK_OWN n 1) ++ s.reg (Reg.LINK_OWN n 0)

/-- Cell `c` of the device takes an action of the calendar: its link is in STRIP and UP, and the calendar holds the cell
(R226, R239). -/
def linkTakes (s : State) (c : Nat) : Bool :=
  linkMode s (c / 128) == 1 && (s.linkAt (c / 128)).st == .up && calHolds s (c / 128) (c % 128)

/-- The outcome of a hand-over of a KIND 1 entry (R226, R227). -/
inductive Offer where
  | gone | full | taken (late : Bool)
  deriving DecidableEq, Repr

/-- A KIND 1 entry is offered to its link (R226, R227, R229, R239). -/
def linkOffer (s : State) (e : CalEntry) : Offer × State :=
  let c := fld e.d1 9 0
  let n := c / 128
  let l := s.linkAt n
  if linkMode s n != 1 || l.st != .up then (.gone, linkDrop s n)
  else if !calHolds s n (c % 128) then (.gone, linkEvent (linkCount s n 1 false) n 8)
  else if l.queue.length ≥ 64 then (.full, linkEvent s n 4)
  else
    let late := decide (windowOf e.fire < l.nextW)
    let t := if late then l.nextW * 16000 else e.fire
    let a : CellAct := { cell := c % 128, op := dAct e.d0 - 1, time := t, width := e.d4.toNat, id := some e.id }
    let s1 := s.modLink n fun l => { l with queue := l.queue ++ [a] }
    (.taken late, if late then linkLate s1 n else s1)

/-- A queued action is withdrawn (R135). -/
def linkWithdraw (s : State) (n id : Nat) : State :=
  s.modLink n fun l => { l with queue := l.queue.filter fun a => a.id != some id }

end Sys2Proof.Machine
end

