-- ==== Sys2Proof/Machine/CasBase.lean ====
section
/-! DEFINITION. The cascade's status, events and outgoing commands, below the fix channels and format changes that use them
(R411, R415, R422). -/

namespace Sys2Proof.Machine

def ceRun : Nat := 0
def ceLoss : Nat := 1
def ceMemberLost : Nat := 2
def ceJoinWait : Nat := 3
def ceTbStep : Nat := 4
def ceLockLost : Nat := 5
def ceVerRefused : Nat := 6
def ceNack : Nat := 7
def ceTimeout : Nat := 8
def ceSplit : Nat := 9
def ceLateFix : Nat := 10
def ceMirErr : Nat := 11
def ceRoleDup : Nat := 12
def ceCfgErr : Nat := 13

def State.modCas (s : State) (f : Cas → Cas) : State := { s with cas := f s.cas }

def casOn (s : State) : Bool := s.rb Reg.CAS_CTL 0

def casMaster (s : State) : Bool := s.cas.role == 0

def CasState.code : CasState → Nat
  | .off => 0
  | .link => 1
  | .joinWait => 2
  | .run => 3
  | .loss => 4

/-- Role `i + 1` is present: its PRESENT bit is 1 in the last up frame accepted, and it is not lost (R411; log entry 95). -/
def presentNow (s : State) (i : Nat) : Bool := s.cas.present.getLsbD i && s.rb (Reg.CAS_MSTAT (i + 1)) 8

def presentMask (s : State) : Nat := ((List.range 7).filter (presentNow s)).foldl (fun w i => w + 2 ^ i) 0

/-- The last device of the chain: a member whose link 6 is not in MODE CASCADE, or has not come UP (R402). -/
def casLast (s : State) : Bool := s.cas.role != 0 && (linkMode s 6 != 2 || !s.cas.downUp)

/-- CAS_STAT. -/
def casStat (s : State) : Word :=
  let c := s.cas
  mkb (casOn s && casLast s) 24 ||| mkw c.present.toNat 16 ||| mkb c.cmd.isSome 12 ||| mkw c.cv 8 ||| mkb c.tbLock 7
  ||| mkw c.role 4 ||| mkw c.st.code 0

/-- The source of a CAS_EVT bit (Table 14-7). -/
def casSource (b : Nat) : Nat :=
  match b with
  | 4 | 5 => 322
  | 6 | 7 | 8 | 9 => 321
  | 10 => 324
  | 11 => 323
  | _ => 320

/-- A CAS_EVT bit sets (R422). -/
def casEventWith (s : State) (b : Nat) (d : Word) : State :=
  let s1 := s.hwSetBit Reg.CAS_EVT b
  if (6 ≤ b && b ≤ 9) || s.rb Reg.CAS_EVTEN b then s1.raise0 (casSource b) (b + 1) (.word d) else s1

def casEvent (s : State) (b : Nat) : State := casEventWith s b (casStat s)

/-- Entry to a chain state (Table 14-5). -/
def casTo (s : State) (st : CasState) : State :=
  if s.cas.st = st then s else
  let s1 := s.modCas fun c => { c with st := st }
  match st with
  | .run => casEvent s1 ceRun
  | .loss => casEvent s1 ceLoss
  | .joinWait => casEvent s1 ceJoinWait
  | _ => s1

/-- The master starts a command, or queues it behind the one outstanding (R415). -/
def casSend (s : State) (c : CasCommand) : State :=
  if s.cas.cmd.isSome then s.modCas fun x => { x with queue := x.queue ++ [c] }
  else
    let q := (s.cas.cseq + 1) % 256
    s.modCas fun x => { x with cseq := q, cmd := some { c with cseq := BitVec.ofNat 8 q }, cmdTb := s.tb, acks := 0 }

def noCommand : CasCommand := { code := 0, fixCh := 0, kind := 0, spk := 0, cseq := 0, newFmt := 0, lo := 0, hi := 0 }

end Sys2Proof.Machine
end

