-- ==== Sys2Proof/Machine/SpkPos.lean ====
section
/-! DEFINITION. What the rest of the device reads of a sprocket unit: position and cycle count at a time, the next expected
tooth, T_pred, GUARD_OK and the status word (R48–R51, R54, R55, R69, R72, R138). -/

namespace Sys2Proof.Machine

def spkMode (s : State) (n : Nat) : Nat := s.rf (Reg.SPK_CTL n) 3 2
def spkRef (s : State) (n : Nat) : Nat := s.rf (Reg.SPK_CTL n) 7 6
def spkEn (s : State) (n : Nat) : Bool := s.rb (Reg.SPK_CTL n) 0
def spkTeeth (s : State) (n : Nat) : Nat := max 1 (s.rf (Reg.SPK_WHEEL n) 15 0)

/-- g: 0 unless REF is GAP (R48). -/
def spkGap (s : State) (n : Nat) : Nat := if spkRef s n = 1 then s.rf (Reg.SPK_WHEEL n) 18 16 else 0

/-- K; a unit with K = 0 cannot be enabled (R85). -/
def spkK (s : State) (n : Nat) : Nat := max 1 (s.rf (Reg.SPK_CYCLE n) 15 0)

/-- GF as it acts (SPKn_INCFG). -/
def spkGf (s : State) (n : Nat) : Nat := min 1000 (max 10 (s.rf (Reg.SPK_INCFG n) 25 16))

/-- POS_VALID: QUICK, SYNCED and SUSPECT (Table 2-4). -/
def SyncState.valid : SyncState → Bool
  | .quick => true
  | .synced => true
  | .suspect => true
  | _ => false

def SyncState.code : SyncState → Nat
  | .off => 0
  | .acquire => 1
  | .quick => 2
  | .synced => 3
  | .suspect => 4
  | .lost => 5

def SyncState.ofCode : Nat → SyncState
  | 1 => .acquire
  | 2 => .quick
  | 3 => .synced
  | 4 => .suspect
  | 5 => .lost
  | _ => .off

/-- One pitch. -/
def pitch : Nat := 65536

/-- A position and cycle count moved by `d` in 1/65,536 pitch; the cycle count carries (R49, R51). -/
def movePos (k : Nat) (pos cyc : Word) (d : Int) : Word × Word :=
  let m : Int := k * pitch
  let p : Int := pos.toNat + d
  (word (p % m), word (cyc.toNat + p / m))

/-- The distance from position `p`, cycle `c` to a target (R138). -/
def posDist (k : Nat) (tp tc p c : Word) : Int :=
  toInt 32 (tc - c).toNat * (k * pitch) + (tp.toNat - p.toNat)

/-- T_pred in 1/4,096 tb as every consumer uses it (R55). -/
def tPredAll : Nat := 0xFFFFFFFF * 256

def Spk.pred (u : Spk) : Nat := if u.tValid then u.tPred else tPredAll

/-- The unit's last tooth event, with T_pred as its consumers use it now (R55). -/
def Spk.lastEv (u : Spk) : Option Tooth := u.ev.map fun t => if u.tValid then t else { t with tPred := tPredAll }

/-- The sync state at the start of tb `tb` (R65). -/
def Spk.stAt (u : Spk) (tb : Nat) : SyncState :=
  match u.chg with
  | some (t, st) => if t = tb then st else u.st
  | none => u.st

/-- The unit enters a state in tb `tb`. -/
def Spk.enter (u : Spk) (tb : Nat) (st : SyncState) : Spk := { u with st := st, chg := some (tb, u.stAt tb) }

/-- The phase entries that a read of tb `tb` finds (R81). -/
def Spk.phOld (u : Spk) (tb : Nat) : List PhEntry :=
  u.fifo.take (u.fifo.length - (if u.phNew.1 = tb then u.phNew.2 else 0))

def SpkView.pred (v : SpkView) : Nat := if v.tValid then v.tPred else tPredAll

/-- A period in 1/4,096 tb as a register shows it: rounded to 1/16 tb, halves up, saturating (R54). -/
def showPeriod (t : Nat) : Word := wordN (min 0xFFFFFFFF ((t + 128) / 256))

/-- Sixteenths of a tb, rounded to nearest with halves up, of a time in 1/4,096 tb (R140). -/
def round16 (t4096 : Nat) : Nat := (t4096 + 128) / 256

/-- d × T_pred / 65,536 in sixteenths of a tb, rounded to nearest with halves up (R140). -/
def travelTime (d tp : Nat) : Nat := (d * tp + 2 ^ 23) / 2 ^ 24

/-- The same for a distance of either sign. -/
def travelTimeI (d : Int) (tp : Nat) : Int := (d * tp + 2 ^ 23) / 2 ^ 24

/-- The position from which the unit takes its next tooth: as at a reversal, else the last accepted tooth's (R69, R70). -/
def Spk.held (u : Spk) : Word × Word := u.revHold.getD (u.pos, u.cyc)

/-- The position that the word holds: as at a reversal until the next tooth, else the last published tooth's (R70). -/
def Spk.shown (u : Spk) : Word × Word := u.vis.hold.getD (u.vis.pos, u.vis.cyc)

/-- REV_FLANK as it counts: 0 in QUAD4 (R69). -/
def revFlank (s : State) (n : Nat) : Nat := if spkMode s n = 3 then 0 else s.rf (Reg.SPK_MISS n) 31 16

/-- The next expected real tooth along travel: the change of position from the last accepted tooth, its physical
position, and whether it lies beyond the gap. Forward teeth lie at whole pitches, reverse ones at whole pitches plus
REV_FLANK; missing positions carry no tooth (R48, R49, R69; log entry 21). -/
def spkNext (s : State) (n : Nat) : Int × Nat × Bool :=
  let u := s.spkAt n
  let k := spkK s n
  let t := spkTeeth s n
  let g := spkGap s n
  let (hp, hc) := u.held
  let h : Int := u.pos.toNat + posDist k hp hc u.pos u.cyc
  let base : Int := u.pos.toNat / pitch
  if u.dirRev then
    let f := revFlank s n
    let i : Int := (h - f - (if u.revHold.isSome then 0 else 1)) / pitch
    let q := ((u.phys + (i - base)) % t).toNat
    let i' : Int := if q ≥ t - g then i - (q + 1 + g - t) else i
    let q' := ((u.phys + (i' - base)) % t).toNat
    (i' * pitch + f - u.pos.toNat, q', g != 0 && q' == t - g - 1 && u.phys != q')
  else
    let i : Int := if u.revHold.isSome then -((-h) / pitch) else h / pitch + 1
    let q := ((u.phys + (i - base)) % t).toNat
    let i' : Int := if q ≥ t - g then i + (t - q) else i
    let q' := ((u.phys + (i' - base)) % t).toNat
    (i' * pitch - u.pos.toNat, q', g != 0 && q' == 0 && u.phys != 0)

/-- SPKn_STATE.IN_GAP; a mirrored unit shows the carried bit (R413). -/
def spkInGap (s : State) (n : Nat) : Bool :=
  let u := s.spkAt n
  u.st.valid && (u.mirInGap || (spkNext s n).2.2)

/-- Pitches to the next expected real tooth (R51). -/
def spkSpan (s : State) (n : Nat) : Nat :=
  let u := s.spkAt n
  if u.mirInGap then u.mirGap + 1
  else if spkInGap s n then spkGap s n + 1 else 1

/-- R51 from a tooth with the values given, at a time in sixteenths. -/
def interp (k : Nat) (t : Tooth) (rev : Bool) (t16 : Nat) : Word × Word :=
  let d := min ((t16 - t.stamp) * 2 ^ 24 / max 1 t.tPred) (pitch * t.span - 1)
  movePos k t.pos t.cyc (if rev then -(d : Int) else d)

/-- Position word and cycle count of unit `n` at a time in sixteenths, from the last published tooth (R51, Table 1-2). -/
def spkPosAt (s : State) (n t16 : Nat) : Word × Word :=
  let u := s.spkAt n
  let v := u.vis
  if u.st.valid && v.tValid && v.hold.isNone then
    interp (spkK s n) { stamp := v.stamp, pos := v.pos, cyc := v.cyc, span := v.span, tPred := v.tPred } u.dirRev t16
  else u.shown

/-- What unit `n` publishes of its last accepted tooth. -/
def spkView (s : State) (n : Nat) : SpkView :=
  let u := s.spkAt n
  { pos := u.pos, cyc := u.cyc, stamp := u.stamp, span := spkSpan s n, tPred := u.tPred, tValid := u.tValid, tLast := u.tLast,
    tPrior := u.tPrior, phys := u.phys, hold := none }

/-- The tooth event of the last accepted tooth. -/
def lastTooth (s : State) (n : Nat) : Tooth :=
  let u := s.spkAt n
  { stamp := u.stamp, pos := u.pos, cyc := u.cyc, span := spkSpan s n, tPred := u.pred }

/-- At the current tb. -/
def spkPosNow (s : State) (n : Nat) : Word × Word := spkPosAt s n (s.tb * 16)

/-- FWD_CONF as it acts (SPKn_GUARD). -/
def fwdConf (s : State) (n : Nat) : Nat := max 1 (s.rf (Reg.SPK_GUARD n) 7 0)

/-- A unit of a member that mirrors a master unit (R413). -/
def spkMirrors (s : State) (n : Nat) : Bool := s.cas.role != 0 && s.rb Reg.CAS_CTL 0 && s.rb (Reg.CAS_MIR n) 3 && spkEn s n

/-- GUARD_OK (R72); a mirrored unit takes the carried bit (R413). -/
def spkGuardOk (s : State) (n : Nat) : Bool :=
  let u := s.spkAt n
  if spkMirrors s n then u.mirGuard && u.st == .synced
  else u.st == .synced && !u.dirRev && fwdConf s n ≤ u.fwd

/-- SPKn_STATE as it reads. -/
def spkStateWord (s : State) (n : Nat) : Word :=
  let u := s.spkAt n
  mkw u.st.code 0 ||| mkb u.lastSyn 9 ||| mkb (spkInGap s n) 10 ||| mkb u.st.valid 11 ||| mkb u.tValid 12
  ||| mkb u.stopped 13 ||| mkb (spkGuardOk s n) 14 ||| mkb u.dirRev 15 ||| mkw (min 15 u.missn) 20 ||| mkw u.fwd 24

/-- SPKn_TPRED as it reads (R55). -/
def spkTpredWord (s : State) (n : Nat) : Word :=
  let v := (s.spkAt n).vis
  if v.tValid then showPeriod v.tPred else 0xFFFFFFFF

/-- A difference of positions reduced modulo K × 65,536 into the signed range of R79. -/
def phaseErr (k : Nat) (a b : Word) : Int :=
  let m : Int := k * pitch
  let e := ((a.toNat : Int) - b.toNat) % m
  if 2 * e < m then e else e - m

end Sys2Proof.Machine
end

