-- ==== Sys2Proof/Machine/Channel.lean ====
section
/-! DEFINITION. Timer channels: counters, slots, actions, capture, and what lands in their registers (chapter 3). -/

namespace Sys2Proof.Machine

/-- CHn_CTL as it acts: a write while the channel is a member of a group has no effect until membership ends (R242). -/
def chCtl (s : State) (n : Nat) : Word := if exgMember s n then (s.chAt n).ctlIn else s.reg (Reg.CH_CTL n)

def chMode (s : State) (n : Nat) : Nat := fld (chCtl s n) 3 1
def chClk (s : State) (n : Nat) : Nat := fld (chCtl s n) 18 16
def chOn (s : State) (n : Nat) : Bool := bitAt (chCtl s n) 0

/-- PRESC is taken as 0 with CLKSRC 4 (R90). -/
def chPresc (s : State) (n : Nat) : Nat := if chClk s n = 4 then 0 else fld (chCtl s n) 31 24

/-- WRAP and UPDOWN. -/
def topMode (m : Nat) : Bool := m == 2 || m == 3

/-- The half-word of slot x in CHn_SLOTAB or CHn_SLOTCD. -/
def slotCfg (s : State) (n x : Nat) : Nat := s.rf (Reg.CH_SLOT n (x / 2)) (16 * (x % 2) + 15) (16 * (x % 2))
def cfgMode (h : Nat) : Nat := h % 4
def cfgAct (h : Nat) : Nat := h / 16 % 8
def cfgEdge (h : Nat) : Nat := h / 256 % 4
def cfgAuto (h : Nat) : Bool := h.testBit 10
def cfgCal (h : Nat) : Bool := h.testBit 11
def cfgFrac (h : Nat) : Nat := h / 4096 % 16

def setSlotFrac (s : State) (n x f : Nat) : State :=
  s.setRf (Reg.CH_SLOT n (x / 2)) (16 * (x % 2) + 15) (16 * (x % 2) + 12) f

/-- Active PER; values below 2 act as 2 (R243). -/
def exgPer (s : State) (g : Nat) : Nat := max 2 (fld (exgActive s g 0x10) 27 0)

def exgPresc (s : State) (g : Nat) : Nat := s.rf (Reg.EXG_CTL g) 31 24

/-- The group count in this tb (R243). -/
def exgCount (s : State) (g : Nat) : Nat :=
  if exgOn s g then min (exgPer s g - 1) ((s.tb - (s.exgAt g).startTb) / (exgPresc s g + 1)) else 0

/-- The counter in this tb (R88, R243). -/
def chCount (s : State) (n : Nat) : Word :=
  if exgMember s n then wordN (exgCount s (n / 8))
  else if chMode s n = 0 then lo32 s.tb else (s.chAt n).cnt

/-- The channel counts tb (R91); a member with group PRESC 0 does (R243). -/
def countsTb (s : State) (n : Nat) : Bool :=
  if exgMember s n then exgPresc s (n / 8) == 0
  else chMode s n == 0 || (chClk s n == 0 && chPresc s n == 0)

/-- Fractions are used: the channel counts tb, its bank is calibrated and it has not failed (R91, R120). -/
def fracOn (s : State) (n : Nat) : Bool := countsTb s n && s.rb Reg.VCAL_STAT (n / 32) && !s.vcalOff.getLsbD n

/-- The count of tb t, undoing the changes after it (R114). -/
def countBack (cnt : Word) (t : Nat) : List (Nat × Word) → Word
  | [] => cnt
  | (u, before) :: r => if u > t then countBack before t r else cnt

def countAt (s : State) (n t : Nat) : Word :=
  if chMode s n = 0 then lo32 t else countBack (s.chAt n).cnt t (s.chAt n).hist

/-- A CHn_STAT bit of 15:0 sets; source n raises while CHn_EVTEN enables it (R124). -/
def chEvent (s : State) (n b : Nat) : State :=
  let s1 := s.hwSetBit (Reg.CH_STAT n) b
  if s.rb (Reg.CH_EVTEN n) b then s1.raise0 n 1 (.reg (Reg.CH_STAT n) 0xFFFF) else s1

def stCap : Nat := 8
def stOvf : Nat := 9
def stCollide : Nat := 10
def stSqz : Nat := 11
def stMerge : Nat := 12
def stAutoCollide : Nat := 13
def stWrDisc : Nat := 14
def stCfgErr : Nat := 15

/-- The place of an entry among those of its tb: slots A to D, then CAPNOW (R115). -/
def capKey (e : CapEntry) : Nat := if fld e.tag 7 6 = 3 then 4 else fld e.tag 5 4

def capInsert (n : Nat) (e : CapEntry) : List (Nat × CapEntry) → List (Nat × CapEntry)
  | [] => [(n, e)]
  | (m, f) :: r => if m = n ∧ capKey e < capKey f then (n, e) :: (m, f) :: r else (m, f) :: capInsert n e r

/-- A capture entry is pushed: it enters the FIFO at the end of the tb, after any pop of the tb (R115, R116). -/
def pushCap (s : State) (n : Nat) (count : Word) (kind slot frac : Nat) (lvl edge cal : Bool) : State :=
  let tag := mkw frac 0 ||| mkw slot 4 ||| mkw kind 6 ||| mkb lvl 8 ||| mkb edge 9 ||| mkb cal 10
  { s with capIn := capInsert n { count := count, tag := tag } s.capIn }

/-- An effect of tb `t`: placed by that tb. -/
def atTb (s : State) (t : Nat) (f : State → State) : State := { f { s with tb := t } with tb := s.tb }

/-- CHn_STAT bit `b` sets in tb `t`, up to the present one: the views of the tb since then show it, and that of `t` lists it. -/
def chEventAt (s : State) (n b t : Nat) : State :=
  if t = s.tb then chEvent s n b else
  let a := Reg.CH_STAT n
  let put (regs : List (Nat × Word)) : List (Nat × Word) :=
    sparseWrite (regDefault s.otp) regs a (sparseRead (regDefault s.otp) regs a ||| mkw 1 b)
  let s1 : State := { s with regs := put s.regs, seen := { s.seen with views := s.seen.views.map fun v =>
    if v.tb > t then { v with regs := put v.regs } else if v.tb = t then { v with sets := (a, mkw 1 b) :: v.sets } else v } }
  if s.rb (Reg.CH_EVTEN n) b then atTb s1 t fun s => s.raise0 n 1 (.reg a 0xFFFF) else s1

/-- An entry pushed in tb `t` enters the FIFO (R115). -/
def capTaken (s : State) (n : Nat) (e : CapEntry) (t : Nat) : State :=
  let app (c : Chan) : Chan := { c with fifo := c.fifo ++ [e] }
  let s1 := s.modCh n app
  let s2 : State := { s1 with seen := { s1.seen with views := s1.seen.views.map fun v =>
    if v.tb > t then { v with ch := vmodN v.ch n app } else v } }
  atTb (chEventAt s2 n stCap t) t fun s => evpCap s n

/-- An entry pushed in tb `t` is dropped (R115). -/
def capDropped (s : State) (n t : Nat) : State := chEventAt s n stOvf t

/-- An entry pushed in tb `t` with the FIFO as the reads sampled by then leave it (R115, R116). -/
def capPushed (s : State) (n : Nat) (e : CapEntry) (t : Nat) : State :=
  if (s.chAt n).fifo.length < 4 then capTaken s n e t else capDropped s n t

/-- Entries that met a full FIFO in a tb whose reads are all known, as they are when its sampling core edge's cc ends. -/
def capsSettle (s : State) : State :=
  forEach s.seen.waits { s with seen := { s.seen with waits := [] } } fun s p => capPushed s p.2.1 p.2.2 p.1

/-- An entry at the end of its tb: it waits behind a full FIFO for the reads sampled by this tb, whose core edge is still to come
(R116, Table 3-9). An input edge and CAPNOW push nothing while EN is 0 or on a member of a group (R92, R106, R114, R242). -/
def acceptCap (s : State) (n : Nat) (e : CapEntry) : State :=
  if (fld e.tag 7 6 = 0 ∨ fld e.tag 7 6 = 3) ∧ !(chOn s n && !exgMember s n) then s
  else if s.tbRun ∧ ((s.chAt n).fifo.length ≥ 4 ∨ s.seen.waits.any fun p => p.2.1 == n) then
    { s with seen := { s.seen with waits := s.seen.waits ++ [(s.tb, n, e)] } }
  else capPushed s n e s.tb

/-- CHn_CMD.CAPNOW, as the tb in which it landed ends: the count and the accepted input level of that tb (R113). -/
def capnowNow (s : State) (n : Nat) (e : CapEntry) : CapEntry :=
  if fld e.tag 7 6 = 3 then { count := chCount s n, tag := mkw 3 6 ||| mkb (tioIn s n) 8 } else e

/-- The end of a tb for the capture FIFOs (R113, R115, R116). -/
def acceptCaps (s : State) : State :=
  let s1 := if s.tb % 2 = 1 then capsSettle s else s
  forEach s1.capIn { s1 with capIn := [] } fun s p => acceptCap s p.1 (capnowNow s p.1 p.2)

/-- The output's record of the present tb. -/
def edgeNowOf (s : State) (n : Nat) : EdgeNow :=
  let c := s.chAt n
  match c.edgeNow with
  | some e => if e.tb = s.tb then e else ⟨s.tb, c.out, c.lastEdge, []⟩
  | none => ⟨s.tb, c.out, c.lastEdge, []⟩

/-- An action takes its place among those of the tb (R107). -/
def actInsert (a : OutAct) : List OutAct → List OutAct
  | [] => [a]
  | b :: r => if a.key < b.key then a :: b :: r else b :: actInsert a r

/-- The level after the actions, each applied to the level left by the one before, and the latest placement among those
that changed it (R107). -/
def outFold (lvl : Bool) (acts : List OutAct) : Bool × Nat :=
  acts.foldl (fun (l, p) a =>
    let m := a.lvl.getD (!l)
    if m = l then (l, p) else (m, max p a.place)) (lvl, 0)

/-- An action applies to the output (R107): the level and the one edge that all actions of the tb leave. An edge less than
1 tb after the previous one is placed 1 tb after it (R109). -/
def outAct (s : State) (n key : Nat) (lvl : Option Bool) (place : Nat) : State :=
  let e := edgeNowOf s n
  let e := { e with acts := actInsert ⟨key, lvl, place⟩ e.acts }
  let (l, pl) := outFold e.lvl e.acts
  let last := if l = e.lvl then e.prev else some (match e.prev with | some p => max pl (p + 16) | none => pl)
  s.modCh n fun c => { c with out := l, lastEdge := last, edgeNow := some e }

/-- The edge of this tb was squeezed (R109). -/
def squeezed (s : State) (n : Nat) : Bool :=
  match (s.chAt n).edgeNow with
  | some e =>
    let (l, pl) := outFold e.lvl e.acts
    e.tb == s.tb && l != e.lvl && (match e.prev with | some p => decide (pl < p + 16) | none => false)
  | none => false

/-- The end of a tb for the outputs: EDGE_SQZ for the edges placed in it (R109). -/
def edgesPlaced (s : State) : State :=
  forEach allPins s fun s n => if squeezed s n then chEvent s n stSqz else s

/-- The width of a pulse in sixteenths of a count; 0 acts as one count (R108). -/
def pulseWidth (s : State) (n : Nat) (w : Word) : Nat :=
  let v := if fracOn s n then w.toNat else w.toNat / 16 * 16
  if w.toNat / 16 = 0 ∧ v = 0 then 16 else v

/-- The pulse end falls due: it comes first among the actions of its tb (R107, R108). A pulse ends in the form in which it
was scheduled; of ends in both forms the later counts (log entry 60). -/
def pulseEnds (s : State) (n : Nat) : State :=
  let c := s.chAt n
  let ended := s.modCh n fun c => { c with pulseEnd := none, pulseCnt := none }
  if !chOn s n then s else
  match c.pulseEnd, c.pulseCnt with
  | some e, none => if e / 16 ≤ s.tb then outAct ended n 0 (some false) e else s
  | none, some 0 => outAct ended n 0 (some false) (s.tb * 16)
  | some e, some 0 => if e / 16 ≤ s.tb then outAct ended n 0 (some false) (max e (s.tb * 16)) else s
  | _, _ => s

/-- PULSE by slot x: output to 1, and an end at the placement of the edge plus the width, or the later of two ends (R108). -/
def pulse (s0 : State) (n x : Nat) (w : Word) (place : Nat) : State :=
  let s := pulseEnds s0 n
  let e := edgeNowOf s n
  let before := (outFold e.lvl (e.acts.filter fun a => decide (a.key ≤ x))).1
  let s1 := outAct s n (x + 1) (some true) place
  let c := s1.chAt n
  let at_ := if !before && !e.lvl && c.out then c.lastEdge.getD place else place
  let width := pulseWidth s n w
  let s2 := s1.modCh n fun c =>
    if countsTb s n then { c with pulseEnd := some (max (c.pulseEnd.getD 0) (at_ + width)) }
    else { c with pulseCnt := some (max (c.pulseCnt.getD 0) (width / 16)) }
  if c.pulseEnd.isSome || c.pulseCnt.isSome then chEvent s2 n stMerge else s2

def Chan.pulseOn (c : Chan) : Bool := c.pulseEnd.isSome || c.pulseCnt.isSome || c.pulseHold.isSome

/-- An action on the output counts for COLLIDE when another slot acted in the tb (R107). -/
def noteAct (s : State) (n : Nat) : State :=
  let two := (s.chAt n).actTb == some s.tb
  let s1 := s.modCh n fun c => { c with actTb := some s.tb }
  if two then chEvent s1 n stCollide else s1

/-- The action of a fire (Table 3-5). `place` is the placement, `frac` the fraction a capture records (R98). -/
def slotAction (s : State) (n x act place frac : Nat) (w : Word) (cal : Bool) : State :=
  match act with
  | 1 => outAct (noteAct s n) n (x + 1) (some true) place
  | 2 => outAct (noteAct s n) n (x + 1) (some false) place
  | 3 => outAct (noteAct s n) n (x + 1) none place
  | 4 => pulse (noteAct s n) n x w place
  | 5 => if exgMember s n then s else pushCap s n (chCount s n) 1 x frac false false cal
  | 6 => if exgMember s n then s else pushCap s n (chCount s n) 2 x frac (tioIn s n) false cal
  | 7 => chEvent s n stCfgErr
  | _ => s

/-- CHn_ADD, with its sixteenths taken as 0 where fractions are (R91, R120). -/
def addValue (s : State) (n : Nat) : Nat :=
  let a := (s.reg (Reg.CH_ADD n)).toNat
  if fracOn s n then a else a / 16 * 16

/-- The 36-bit sum of a compare value and CHn_ADD (R97, R101). -/
def autoAdd (s : State) (n : Nat) (cmp : Word) (frac : Nat) : Nat :=
  (cmp.toNat * 16 + (if fracOn s n then frac else 0) + addValue s n) % 2 ^ 36

/-- A compare slot in TBL or FREE mode passes the half-range test in this tb, its one evaluation of the tb (R97). A value
2^31 counts ahead is read as future (log entry 59). -/
def slotPasses (s : State) (n x : Nat) : Bool :=
  let sl := (s.chAt n).slotAt x
  x < 4 && chOn s n && !exgMember s n && !topMode (chMode s n) && cfgMode (slotCfg s n x) == 1 && sl.armed
    && sl.lastFire != some s.tb
    && (match sl.load with | some l => decide (l.tb < s.tb) | none => true)
    && (chCount s n - sl.cmp).toNat < 2 ^ 31

/-- The fire of slot x has auto-add (R97). -/
def slotAdds (s : State) (n x : Nat) : Bool :=
  let h := slotCfg s n x
  cfgAuto h && !cfgCal h && addValue s n != 0

/-- The fire of this tb that a software write has met and that still takes place, by the compare value and fraction before the write:
these, and whether the write changed FRAC alone (R372). -/
def metFire (s : State) (n x : Nat) : Option (Word × Nat × Bool) :=
  let sl := (s.chAt n).slotAt x
  match sl.xfire with
  | some (t, cmp, frac, only) =>
    if t = s.tb && x < 4 && chOn s n && !exgMember s n && !topMode (chMode s n) && cfgMode (slotCfg s n x) == 1
        && sl.lastFire != some s.tb && slotAdds s n x && decide ((chCount s n - cmp).toNat < 2 ^ 31) then some (cmp, frac, only)
    else none
  | none => none

/-- A software write to CMPx or, with `only`, to FRAC alone lands: what it replaces is kept for a fire with auto-add of its tb (R372). -/
def meetFire (s : State) (n x : Nat) (only : Bool) : State :=
  let sl := (s.chAt n).slotAt x
  let held := match sl.xfire with | some (t, _) => t == s.tb | none => false
  if sl.armed && sl.load.isNone && !held then
    s.modSlot n x fun t => { t with xfire := some (s.tb, sl.cmp, cfgFrac (slotCfg s n x), only) }
  else s

/-- What the fire leaves in the slot: its next compare value, or disarmed (R97, R101). -/
def afterFire (s : State) (n x : Nat) : State :=
  let sl := (s.chAt n).slotAt x
  let h := slotCfg s n x
  if slotAdds s n x then
    let v := autoAdd s n sl.cmp (cfgFrac h)
    setSlotFrac (s.modSlot n x fun t =>
      { t with cmp := wordN (v / 16), fire := some (s.tb, sl.cmp, cfgFrac h) }) n x (v % 16)
  else s.modSlot n x fun t => { t with armed := false, load := none }

/-- The fire that a software write of its tb met has taken place: the written compare value stays armed; after a write of FRAC alone
the slot is disarmed (R372). -/
def afterMet (s : State) (n x : Nat) (only : Bool) : State :=
  chEvent (if only then s.modSlot n x fun t => { t with armed := false } else s) n stAutoCollide

/-- A compare slot fires in TBL or FREE mode (R96–R98, R111, R372). -/
def compareFire (s : State) (n x : Nat) : State :=
  let met := metFire s n x
  if met.isNone && !slotPasses s n x then s else
  let sl := (s.chAt n).slotAt x
  let h := slotCfg s n x
  let late := chCount s n != (match met with | some (c, _) => c | none => sl.cmp)
  let fr := match met with
    | some (_, f, _) => f
    | none => match sl.load with | some l => l.frac | none => cfgFrac h
  let frac := if fracOn s n && !late then fr else 0
  let act := match sl.load with | some l => l.act | none => cfgAct h
  let w := match sl.load with | some l => l.width | none => s.reg (Reg.CH_PULSE n)
  let s1 := chEvent s n x
  let s2 := if late then chEvent s1 n (4 + x) else s1
  let s3 := slotAction s2 n x act (s.tb * 16 + frac) frac w sl.load.isSome
  let s4 := match sl.load with | some l => calFiredIn s3 true l.id | none => s3
  (match met with | some (_, _, only) => afterMet s4 n x only | none => afterFire s4 n x).modSlot n x fun t =>
    { t with lastFire := some s.tb, xfire := none }

/-- SET and CLEAR exchange when the condition of UPDOWN falls (R105). -/
def complementAct (a : Nat) : Nat := if a = 1 then 2 else if a = 2 then 1 else a

/-- A fire in WRAP or UPDOWN mode: never late, with the slot's fraction on a channel that counts tb (R91, R98, R103). -/
def plainFire (s : State) (n x act : Nat) : State :=
  let frac := if fracOn s n then cfgFrac (slotCfg s n x) else 0
  (slotAction (chEvent s n x) n x act (s.tb * 16 + frac) frac (s.reg (Reg.CH_PULSE n)) false).modSlot n x fun t =>
    { t with due := none, lastFire := some s.tb }

/-- The duty of output j in sixteenths; bits 3:0 are taken as 0 when PRESC ≠ 0 (R244). -/
def exgDuty (s : State) (g j : Nat) : Nat :=
  let d := (exgActive s g (0x20 + 4 * j)).toNat
  if exgPresc s g = 0 then d else d / 16 * 16

/-- Offsets on16 and off16 of output j (Table 7-1). -/
def exgEdges (s : State) (g j : Nat) : Nat × Nat :=
  let d := exgDuty s g j
  let p := 16 * exgPer s g
  let on_ := if s.rb (Reg.EXG_CTL g) 2 then (let m := (p - d) / 2; if exgPresc s g = 0 then m else m / 16 * 16) else 0
  (on_, on_ + d)

/-- A member's slot fires in the tb in which the group count becomes its compare value (R245, Table 7-2). -/
def memberFire (s : State) (n x : Nat) : State :=
  let g := n / 8
  let j := n % 8
  let (on_, off_) := exgEdges s g j
  let at_ := if x = 0 then on_ else off_
  let live := if x = 0 then exgDuty s g j != 0 else off_ < 16 * exgPer s g
  let start := (s.exgAt g).startTb
  if x < 2 && live && exgCount s g == at_ / 16 && ((s.chAt n).slotAt x).lastFire != some start
      && (s.tb - start) % (exgPresc s g + 1) == 0 then
    let frac := if fracOn s n then at_ % 16 else 0
    (slotAction (chEvent s n x) n x (if x = 0 then 1 else 2) (s.tb * 16 + frac) frac 0 false).modSlot n x fun t =>
      { t with lastFire := some start }
  else s

/-- A compare slot fires on a change to equality in WRAP mode, or as a member's (R104, R245). -/
def wrapFire (s : State) (n x : Nat) : State :=
  if exgMember s n then memberFire s n x
  else if x < 4 && chOn s n && chMode s n == 2 && cfgMode (slotCfg s n x) == 1
      && (match ((s.chAt n).slotAt x).due with | some (t, _) => t == s.tb | none => false) then
    plainFire s n x (cfgAct (slotCfg s n x))
  else s

/-- A compare slot fires on a change of its condition in UPDOWN mode (R105). -/
def updownFire (s : State) (n x : Nat) : State :=
  let sl := (s.chAt n).slotAt x
  if !exgMember s n && x < 4 && chOn s n && chMode s n == 3 && cfgMode (slotCfg s n x) == 1
      && (match sl.due with | some (t, q) => t == s.tb && q != sl.q | none => false) then
    let a := cfgAct (slotCfg s n x)
    plainFire s n x (if sl.q then a else complementAct a)
  else s

/-- The counter at the start of tb `tb`. -/
def Chan.startCnt (c : Chan) (tb : Nat) : Word :=
  match (c.hist.filter fun h => h.1 == tb).getLast? with
  | some h => h.2
  | none => c.cnt

/-- A slot's evaluation in tb `tb`. In WRAP it fires on a change to equality; in UPDOWN on a change of q against the
evaluation before this tb, of a COMPARE slot (R104, R105). -/
def slotEval (tb mode : Nat) (changed compare : Bool) (c : Chan) (t : Slot) : Slot :=
  if mode = 2 then { t with due := if changed && t.cmp == c.cnt && t.cmp.toNat ≤ max 1 c.top.toNat then some (tb, t.q) else none }
  else if mode = 3 && compare then
    let q0 := match t.due with | some (u, q) => if u = tb then q else t.q | none => t.q
    { t with q := decide (t.cmp ≤ c.cnt), due := some (tb, q0) }
  else t

/-- Slot x is evaluated in this tb. -/
def evalSlot (s : State) (n x : Nat) (changed : Bool) : State :=
  s.modSlot n x (slotEval s.tb (chMode s n) changed (cfgMode (slotCfg s n x) == 1) (s.chAt n))

/-- The slots are evaluated in this tb: the counter has changed, or with `rise` EN has become 1 (R104, R105). -/
def evalSlots (s : State) (n : Nat) (rise : Bool) : State :=
  let c := s.chAt n
  let changed := rise || c.startCnt s.tb != c.cnt
  forEach [0, 1, 2, 3] s fun s x => evalSlot s n x changed

/-- Waiting copies of TOP and CMPx take effect (R103). -/
def Chan.takePend (c : Chan) : Chan :=
  { c with top := c.topPend.getD c.top, topPend := none,
           slots := c.slots.map fun t => { t with cmp := t.pend.getD t.cmp, pend := none } }

/-- One step of the counter: the count, whether it falls, and whether the step is a wrap (R88, R89, R94, R474). -/
def stepCount (mode : Nat) (c : Chan) (rev : Bool) : Word × Bool × Bool :=
  let top := max 1 c.top.toNat
  let n := c.cnt.toNat
  if mode = 1 then
    if rev then (c.cnt - 1, c.down, false) else (c.cnt + 1, c.down, c.cnt == 0xFFFFFFFF)
  else if mode = 2 then
    if rev then (if n = 0 then (wordN top, c.down, false) else (c.cnt - 1, c.down, false))
    else if n ≥ top then (0, c.down, true) else (c.cnt + 1, c.down, false)
  else
    if n > top then (if rev then (c.cnt + 1, true, false) else (c.cnt - 1, true, false)) else
    -- the place p of R474: count p while rising, 2 × TOP − p while falling
    let p := if c.down && n != 0 && n != top then 2 * top - n else n
    let p' := if rev then (p + 2 * top - 1) % (2 * top) else (p + 1) % (2 * top)
    (wordN (if p' ≤ top then p' else 2 * top - p'), p' ≥ top, !rev && p' == 0)

/-- The wrap of a channel is an event of the next one whose CLKSRC is 3 (Table 3-3), and so on up the chain; `fuel`
bounds the chain by the number of channels. -/
def chEventTick (fuel : Nat) (s : State) (n : Nat) (rev : Bool) : State :=
  match fuel with
  | 0 => s
  | f + 1 =>
    let c := s.chAt n
    let m := chMode s n
    -- an event of the tb in which the prescaler restarts is not counted (R90, R104, R371; log entry 32)
    if n ≥ 128 || !chOn s n || exgMember s n || m == 0 || c.cntTb == some s.tb then s else
    let p := c.presc + 1
    if p ≤ chPresc s n then s.modCh n fun c => { c with presc := p } else
    let s0 := s.modCh n fun c => { c with presc := 0 }
    -- one change a tb (R90)
    if (match c.hist with | (u, _) :: _ => u == s.tb | [] => false) then s0 else
    let (v, d, wrap) := stepCount m c rev
    let s1 := evalSlots (s0.modCh n fun c =>
      let c1 := { c with cnt := v, down := d, hist := (s.tb, c.cnt) :: c.hist.filter (fun h => h.1 + 300 > s.tb),
                         pulseCnt := c.pulseCnt.map fun k => k - 1 }
      if topMode m && v == 0 then c1.takePend else c1) n false
    if wrap && chClk s1 (n + 1) == 3 && n + 1 < 128 then chEventTick f s1 (n + 1) false else s1

/-- An event of the source of channel n (R89, R90). -/
def sourceEvent (s : State) (n : Nat) (rev : Bool) : State := chEventTick 128 s n rev

/-- A published tooth of unit u is an event of every channel with CLKSRC 4 on it (Table 3-3, R474). -/
def toothEvents (s : State) (u : Nat) (rev : Bool) : State :=
  forEach (List.range 128) s fun s n =>
    if chClk s n == 4 && s.rf (Reg.CH_CTL n) 22 20 == u then sourceEvent s n rev else s

/-- The one TB event of this tb for channel n, or the wrap of a TBL counter; the counter of a group's member is the group's
(Table 3-3, R243). -/
def tbEvent (s : State) (n : Nat) : State :=
  if (s.chAt n).tickTb == some s.tb then s else
  let s1 := s.modCh n fun c => { c with tickTb := some s.tb }
  if exgMember s n then s1
  else if chMode s n = 0 then
    if s.tb % 2 ^ 32 = 0 ∧ s.tb ≠ 0 ∧ n + 1 < 128 ∧ chClk s (n + 1) = 3 then sourceEvent s1 (n + 1) false else s1
  else if chClk s n = 0 then sourceEvent s1 n false else s1

/-- A calendar-owned slot is disarmed other than by its fire: its entry is removed (R112, R149). -/
def slotWithdraw (s : State) (n x : Nat) : State :=
  let sl := (s.chAt n).slotAt x
  let s1 := s.modSlot n x fun t => { t with armed := false, load := none, xfire := none }
  match sl.load with
  | some l => calUnusableId s1 l.id
  | none => s1

def slots4 : List Nat := [0, 1, 2, 3]

def slotsDisarm (s : State) (n : Nat) : State := forEach slots4 s fun s x => slotWithdraw s n x

/-- The pulse timer holds while EN is 0 (R92). -/
def pulseStop (s : State) (n : Nat) : State :=
  s.modCh n fun c => match c.pulseEnd with
    | some e => { c with pulseEnd := none, pulseHold := some (e - s.tb * 16) }
    | none => c

def pulseResume (s : State) (n : Nat) : State :=
  s.modCh n fun c => match c.pulseHold with
    | some r => { c with pulseHold := none, pulseEnd := some (s.tb * 16 + r) }
    | none => c

/-- CHn_CTL goes from `old` to the word that the register holds (R90, R92, R93, R102, R103, R105). A change of CMODE into UPDOWN is
evaluated in its landing tb; it keeps the counter's direction, and values waiting for a 0 of the counter are taken when CMODE
leaves WRAP and UPDOWN (log entry 58). -/
def ctlTakes (s : State) (n : Nat) (old : Word) : State :=
  let w := s.reg (Reg.CH_CTL n)
  let rise := !bitAt old 0 && bitAt w 0
  let fall := bitAt old 0 && !bitAt w 0
  let moved := bitAt w 0 && (old ^^^ w) &&& 0xFF77000E != 0
  let s1 := if rise || moved then s.modCh n fun c => { c with presc := 0, cntTb := some s.tb } else s
  let toTop := topMode (fld w 3 1)
  let s2 := if toTop && !topMode (fld old 3 1) then slotsDisarm s1 n else s1
  let s3 := if !bitAt w 0 || !toTop then s2.modCh n Chan.takePend else s2
  let s4 := if rise then
      evalSlots ((pulseResume s3 n).modCh n fun c => { c with slots := c.slots.map fun t => { t with q := false, due := none } })
        n true
    else if bitAt w 0 && fld old 3 1 != fld w 3 1 then
      evalSlots (s3.modCh n fun c => { c with slots := c.slots.map fun t => { t with due := none } }) n false
    else s3
  settlePin (if fall then pulseStop s4 n else s4) n

/-- CHn_CTL lands or is committed (R88, R89, R93, R242). -/
def chWriteCtl (s : State) (n : Nat) (w : Word) : State :=
  let a := Reg.CH_CTL n
  let old := s.reg a
  let badM := fld w 3 1 ≥ 4
  let badC := fld w 18 16 ≥ 5 || (fld w 18 16 == 3 && n == 0)
  let w1 := mergeBits 0 w (regDesc a).rw
  let w2 := if badM then setFld w1 3 1 (fld old 3 1) else w1
  let w3 := if badC then setFld w2 18 16 (fld old 18 16) else w2
  let s1 := s.setReg a w3
  let s2 := if badM || badC then chEvent s1 n stCfgErr else s1
  if exgMember s n then s2 else
  let left := fld old 3 1 == 0 && fld w3 3 1 != 0
  ctlTakes (if left then s2.modCh n fun c => { c with cnt := lo32 s.tb } else s2) n old

/-- CHn_CNT lands (R94, R371). -/
def chWriteCnt (s : State) (n : Nat) (w : Word) : State :=
  if exgMember s n || chMode s n == 0 then chEvent s n stWrDisc else
  let s1 := s.modCh n fun c =>
    let c1 := { c with cnt := w, presc := 0, cntTb := some s.tb, hist := (s.tb, c.cnt) :: c.hist.filter (fun h => h.1 + 300 > s.tb) }
    if topMode (chMode s n) && w == 0 then c1.takePend else c1
  if chOn s n then evalSlots s1 n false else s1

/-- CHn_TOP lands or is committed (R103, R106). -/
def chWriteTop (s : State) (n : Nat) (w : Word) : State :=
  if exgMember s n then chEvent s n stWrDisc
  else if topMode (chMode s n) && chOn s n then s.modCh n fun c => { c with topPend := some w }
  else s.modCh n fun c => { c with top := w, topPend := none }

/-- CHn_CMPx lands or is committed (R97, R100, R103, R106, R112, R372). -/
def chWriteCmp (s : State) (n x : Nat) (w : Word) : State :=
  let h := slotCfg s n x
  if exgMember s n || cfgCal h then chEvent s n stWrDisc else
  if topMode (chMode s n) then
    if chOn s n then s.modSlot n x fun t => { t with pend := some w }
    else s.modSlot n x fun t => { t with cmp := w, pend := none }
  else
    let met := match ((s.chAt n).slotAt x).fire with | some (t, _, f) => if t = s.tb then some f else none | none => none
    let hit := met.isSome
    let s0 := match met with | some f => setSlotFrac s n x f | none => s
    let s1 := (meetFire s0 n x false).modSlot n x fun t => { t with cmp := w, armed := cfgMode h == 1, wrTb := some s.tb, fire := none }
    if hit then chEvent s1 n stAutoCollide else s1

def chWriteAdd (s : State) (n : Nat) (w : Word) : State :=
  if exgMember s n then chEvent s n stWrDisc else s.setReg (Reg.CH_ADD n) w

def chWritePulse (s : State) (n : Nat) (w : Word) : State := s.setReg (Reg.CH_PULSE n) w

/-- One slot's half of CHn_SLOTAB or CHn_SLOTCD lands or is committed (R95, R102, R112, R372). A fire with auto-add of its tb counts
as the slot stood before it: FRAC is changed against the fraction then. -/
def slotWrite (s : State) (n x new : Nat) : State :=
  let now := slotCfg s n x
  let sl := (s.chAt n).slotAt x
  let fired := sl.fire.filter fun f => f.1 == s.tb
  let frac0 := match fired with | some (_, _, f) => f | none => cfgFrac now
  let old := now % 4096 + 4096 * frac0
  let locked := cfgCal old && sl.armed
  if locked && (cfgCal old != cfgCal new || cfgMode old != cfgMode new || cfgFrac old != cfgFrac new) then chEvent s n stCfgErr
  else
    let bad := cfgMode new == 3
    let h0 := if bad then new / 4 * 4 + cfgMode old else new
    let same := cfgFrac old == cfgFrac h0
    let h := if same then h0 % 4096 + 4096 * cfgFrac now else h0
    let s0 := if !same && cfgMode old == 1 && cfgMode h == 1 && fired.isNone then meetFire s n x true else s
    let s1 := s0.setRf (Reg.CH_SLOT n (x / 2)) (16 * (x % 2) + 15) (16 * (x % 2)) h
    let s2 := if bad then chEvent s1 n stCfgErr else s1
    let s3 := if cfgMode old == 1 && cfgMode h != 1 then slotWithdraw s2 n x else s2
    let arm := cfgMode h == 1 && cfgMode old != 1 && sl.wrTb == some s.tb && !topMode (chMode s n) && !cfgCal h
    let s4a := if arm then s3.modSlot n x fun t => { t with armed := true } else s3
    let s4 := if cfgMode h == 1 && cfgMode old != 1 && chOn s n && chMode s n == 3 then evalSlot s4a n x false else s4a
    match fired with
    | some (_, cmp, _) =>
      if same || cfgMode old != 1 || cfgMode h != 1 || sl.wrTb == some s.tb then s4
      else chEvent (s4.modSlot n x fun t => { t with cmp := cmp, armed := false, fire := none }) n stAutoCollide
    | none => s4

def chWriteSlots (s : State) (n k : Nat) (w : Word) : State :=
  if exgMember s n then chEvent s n stWrDisc else
  let v := (w &&& (regDesc (Reg.CH_SLOT n k)).rw).toNat
  slotWrite (slotWrite s n (2 * k) (v % 65536)) n (2 * k + 1) (v / 65536)

/-- CHn_CMD.FLUSH; entries pushed in the tb are kept, as they have not entered the FIFO yet (R117, R371). -/
def chFlush (s : State) (n : Nat) : State :=
  let lost := s.seen.waits.filter fun p => p.2.1 == n
  let s1 := forEach lost { s with seen := { s.seen with waits := s.seen.waits.filter fun p => p.2.1 != n } } fun s p => capDropped s n p.1
  s1.modCh n fun c => { c with fifo := [], capOut := c.capOut + c.fifo.length }

/-- CHn_CMD.CAPNOW (R113): its entry takes its place in the order of the tb (R115) and its values as the tb ends. -/
def chCapnow (s : State) (n : Nat) : State := pushCap s n 0 3 0 0 false false false

/-- CHn_CMD.DISARM for the slots of `m` (R102, R112). -/
def chDisarm (s : State) (n : Nat) (m : Nat) : State :=
  forEach (bitsOf 4 m) s fun s x =>
    if cfgCal (slotCfg s n x) then chEvent s n stWrDisc else s.modSlot n x fun t => { t with armed := false, xfire := none }

/-- CHn_CMD.FORCE (R92, R107). -/
def chForce (s : State) (n f : Nat) : State :=
  match f with
  | 1 => outAct s n 5 (some true) (s.tb * 16)
  | 2 => outAct s n 5 (some false) (s.tb * 16)
  | 3 => outAct s n 5 none (s.tb * 16)
  | _ => s

def chCommand (s : State) (n : Nat) (w : Word) : State :=
  if exgMember s n then chEvent s n stWrDisc else
  let s1 := if bitAt w 5 then chFlush s n else s
  let s2 := if bitAt w 4 then chCapnow s1 n else s1
  chForce (chDisarm s2 n (fld w 3 0)) n (fld w 7 6)

/-- The head after `out` earlier entries leaves the FIFO where it still stands there. -/
def Chan.popAt (c : Chan) (out : Nat) : Chan := if c.capOut = out then { c with fifo := c.fifo.tail, capOut := c.capOut + 1 } else c

/-- A read pops the head that it returned, in its sampled tb (R116). -/
def capPop (s : State) (n out : Nat) : State :=
  (s.modCh n fun c => c.popAt out).mapViews (s.sampleAgo + 1) fun v => { v with ch := vmodN v.ch n fun c => c.popAt out }

/-- A read of CHn_CAP, sampled in the tb before its core edge: it pops the head as of the start of that tb; the tag goes to the reader's CHn_CAPX (R116): count, tag. -/
def capRead (s : State) (n : Nat) : Word × Word × State :=
  let c := s.sampled.chAt n
  match c.fifo with
  | [] => (0, mkw 1 15, s)
  | e :: r => (e.count, e.tag ||| mkw (min 3 r.length) 12, capPop s n c.capOut)

/-- The pushed entry of an input edge (R114). -/
def capArrives (s : State) (n : Nat) (e : CapEntry) : State := { s with capIn := capInsert n e s.capIn }

/-- The channel whose TOP, CMPx, ADD or slots register `a` holds, while it is a member of a group (R106, R242). -/
def memberReg (s : State) (a : Nat) : Option Nat :=
  let n := (a - 0x00820000) / 0x40
  if 0x00820000 ≤ a && a < 0x00822000 && [0x08, 0x0C, 0x10, 0x14, 0x18, 0x1C, 0x20, 0x24].contains (a % 0x40) && exgMember s n
  then some n else none

/-- Group membership begins: CHn_CTL acts on as it stands, and every armed slot is disarmed (R242). -/
def memberJoin (s : State) (n : Nat) : State :=
  slotsDisarm (s.modCh n fun c => { c with ctlIn := s.reg (Reg.CH_CTL n) }) n

/-- Group membership ends, with the counter at `was` until now: the counter becomes 0, every slot is disarmed, a CHn_CTL written since
it began acts, and the slots are evaluated (R103–R105, R242). -/
def memberLeave (s : State) (n : Nat) (was : Word) : State :=
  let old := (s.chAt n).ctlIn
  let s1 := (slotsDisarm s n).modCh n fun c =>
    { c.takePend with cnt := 0, down := false, presc := 0, hist := [(s.tb, was)] }
  let s2 := ctlTakes s1 n old
  if chOn s2 n then evalSlots s2 n (!bitAt old 0) else s2

/-- CHn_STAT bits 31:16, composed (R120). -/
def chStatRo (s : State) (n : Nat) : Word :=
  let c := s.chAt n
  mkb (s.rb (Reg.VCAL_FAIL (n / 32)) (n % 32)) 16 ||| mkb c.out 17 ||| mkb c.pulseOn 18 ||| mkw c.fifo.length 20
  ||| mkb (c.slotAt 0).armed 24 ||| mkb (c.slotAt 1).armed 25 ||| mkb (c.slotAt 2).armed 26 ||| mkb (c.slotAt 3).armed 27

/-- The counter's one TB event of this tb, and those that wait in the queue, have come (R89). -/
def ticksAhead (s : State) (n : Nat) : State :=
  tbEvent (forEach (s.pending.filterMap fun c => match c with | .tbEventTick k => some k.val | _ => none) s tbEvent) n

/-- A level change on a TIO ball is accepted: counts of CLKSRC 1 and 2, then captures (R89, R114, R122). -/
def tioAccept (s : State) (n : Nat) (lvl : Bool) (stamp : Nat) : State :=
  let s1 := s.modPin n fun p => { p with acc := lvl, accTb := s.tb, accHist := ((s.tb, p.acc) :: p.accHist).take 4 }
  let inLvl := tioIn s1 n
  let s2 := if chClk s n == 2 || (chClk s n == 1 && inLvl) then sourceEvent s1 n false else s1
  let fr := if fracOn s n then stamp % 16 else 0
  let count := countAt (ticksAhead s2 n) n (stamp / 16)
  forEach slots4 s2 fun t x =>
    let h := slotCfg s n x
    let sel := cfgMode h == 2 && (cfgEdge h == 2 || (cfgEdge h == 0 && inLvl) || (cfgEdge h == 1 && !inLvl))
    let tag := mkw fr 0 ||| mkw x 4 ||| mkb inLvl 8 ||| mkb (!inLvl) 9 ||| mkb (cfgCal h) 10
    if sel then t.after 4 (.cap n ⟨count, tag⟩) else t

/-- The words of channel `n` that typed state gives, by offset. -/
def readCh (s : State) (n o a : Nat) : Option Word :=
  let c := s.chAt n
  let cmp (x : Nat) : Word := let t := c.slotAt x; t.pend.getD t.cmp
  match o with
  | 0x04 => some (chCount s n)
  | 0x08 => some (c.topPend.getD c.top)
  | 0x10 => some (cmp 0)
  | 0x14 => some (cmp 1)
  | 0x18 => some (cmp 2)
  | 0x1C => some (cmp 3)
  | 0x3C => some (s.reg a ||| chStatRo s n)
  | _ => none

end Sys2Proof.Machine
end

