-- ==== Sys2Proof/Machine/CalStage.lean ====
section
/-! DEFINITION. What the calendar's load stage serves, in which order and when: loads of slots, hand-overs, local edges and
dispatches, and from them whether an entry fires before a cancel takes effect (R111, R135, R137, R143, R148–R151, R228). -/

namespace Sys2Proof.Machine

/-- The identifier that stands for a local contact edge in the order of R150. -/
def localId : Nat := 262144

/-- TIOn carries a contact row: slot D of channel n is the contact engine's (R224, R225). -/
def contactPin (s : State) (n : Nat) : Bool := tioFunc s n == 4

/-- Slot `x` of channel `n` meets the load conditions of R111 but for being free. -/
def slotUsable (s : State) (n x : Nat) : Bool :=
  chOn s n && chMode s n == 0 && !exgMember s n && cfgCal (slotCfg s n x) && cfgMode (slotCfg s n x) == 1

def slotArmed (s : State) (n x : Nat) : Bool := ((s.chAt n).slotAt x).armed

/-- The fire time of the entry that the calendar has loaded in a slot. -/
def slotFire (s : State) (n x : Nat) : Option Nat :=
  match ((s.chAt n).slotAt x).load with
  | some l => (s.cal.find l.id).map fun e => e.fire
  | none => none

/-- The calendar-owned slots that an entry may take (R148, R225). -/
def entrySlots (s : State) (n z : Nat) : List Nat :=
  if z < 4 then (if cfgCal (slotCfg s n z) && !(z == 3 && contactPin s n) then [z] else [])
  else slots4.filter fun x => cfgCal (slotCfg s n x) && !(x == 3 && contactPin s n)

/-- The slot whose load the entry replaces: the latest-firing load that fires later than the entry and at least 4 tb after
the replacement lands (R148). -/
def slotReplaced (s : State) (n fire : Nat) (xs : List Nat) : Option Nat :=
  let ok := xs.filterMap fun x => match slotFire s n x with
    | some f => if fire < f ∧ (s.tb + 5) * 16 ≤ f ∧ slotUsable s n x then some (x, f) else none
    | none => none
  (ok.foldl (fun (b : Option (Nat × Nat)) p => match b with
    | some q => if q.2 < p.2 then some p else b
    | none => some p) none).map fun p => p.1

/-- What the load stage can do with a KIND 0 entry. -/
inductive Serve where
  | unusable
  | load (x : Nat)
  | wait
  deriving DecidableEq, Repr

def serveKind0 (s : State) (e : CalEntry) : Serve :=
  let n := fld e.d1 6 0
  if e.st == .loaded then (if slotUsable s n e.slot then .load e.slot else .unusable) else
  let xs := entrySlots s n (fld e.d1 10 8)
  if xs.isEmpty then .unusable else
  match xs.find? fun x => !slotArmed s n x with
  | some x => if slotUsable s n x then .load x else .unusable
  | none => match slotReplaced s n e.fire xs with
    | some x => .load x
    | none => .wait

/-- The tb of the delivery edge of a dispatched entry (R151). -/
def dispatchTb (fire : Nat) : Nat := ((fire + 15) / 16 + 1) / 2 * 2

/-- The load stage may take the entry now (R137, R143, R148, R150). -/
def loadReady (s : State) (e : CalEntry) : Bool :=
  let near (d : Nat) : Bool := dPos e.d0 || decide (e.fire < (s.tb + d) * 16)
  decide (e.readyTb ≤ s.tb) && match dKind e.d0, e.st with
  | _, .pending => false
  | 0, .loaded => e.retimed.isSome
  | 0, .armed => near 16384
  | 0, .waiting => serveKind0 s e != .wait
  | 1, .loaded => e.retimed.isSome
  | 1, .armed => near 32768 && (e.slot == 0 || decide ((s.linkAt (fld e.d1 9 0 / 128)).queue.length < 64))
  | 6, .armed => true
  | _, _ => false

/-- The sampling of the frame that will carry a KIND 1 entry (R228, R229). -/
def carrySample (s : State) (e : CalEntry) : Nat :=
  let n := fld e.d1 9 0 / 128
  sampleTb s n (max (windowOf e.fire) (s.linkAt n).nextW)

/-- The order key of an entry: re-timed first, then fire time, then identifier (R150); a KIND 1 entry counts by the
sampling of the frame that will carry it (R228). -/
def loadKey (s : State) (e : CalEntry) : Nat × Nat × Nat :=
  let f := if dKind e.d0 = 1 then carrySample s e * 16 else e.fire
  (if e.retimed.isSome then 0 else 1, f, e.id)

def keyLess (a b : Nat × Nat × Nat) : Bool :=
  decide (a.1 < b.1) || (a.1 == b.1 && (decide (a.2.1 < b.2.1) || (a.2.1 == b.2.1 && decide (a.2.2 < b.2.2))))

/-- Channel `n` takes local edges: it meets R111, and the calendar owns its slot D (R224). -/
def localUsable (s : State) (n : Nat) : Bool := slotUsable s n 3

/-- The next local edge that the stage can take: discarded, or slot D is free (R224). -/
def localReady (s : State) (l : LocalEdge) : Bool := !localUsable s l.ch || !slotArmed s l.ch 3

/-- What the stage serves: a load or hand-over, a local edge, or a dispatch. -/
inductive LoadItem where
  | entry (e : CalEntry)
  | edge (l : LocalEdge)
  | dispatch (e : CalEntry)
  deriving DecidableEq, Repr

def loadItems (s : State) : List ((Nat × Nat × Nat) × LoadItem) :=
  ((s.cal.tab.filter (loadReady s)).map fun e => (loadKey s e, LoadItem.entry e))
  ++ ((s.cal.locals.filter (localReady s)).map fun l => ((1, l.time, localId), LoadItem.edge l))

/-- The load whose turn it is (R150), with its key; equal keys in list order. -/
def firstLoad (s : State) : Option ((Nat × Nat × Nat) × LoadItem) :=
  (loadItems s).foldl (fun (b : Option ((Nat × Nat × Nat) × LoadItem)) p => match b with
    | some q => if keyLess p.1 q.1 then some p else b
    | none => some p) none

/-- KIND 4, then 5, then 3, then 2 (Table 4-5). -/
def dispatchRank (k : Nat) : Nat :=
  match k with
  | 4 => 0
  | 5 => 1
  | 3 => 2
  | _ => 3

/-- The entries of KIND 2–5 due at or before the present core edge, once the stage can take them (R143, R151). -/
def dispatchReady (s : State) (e : CalEntry) : Bool :=
  let k := dKind e.d0
  2 ≤ k && k ≤ 5 && e.st == .armed && decide (e.readyTb ≤ s.tb) && decide (dispatchTb e.fire ≤ s.cc)

/-- The dispatch whose turn it is: re-timed first, then the order of Table 4-5 (R150, R151). -/
def firstDispatch (s : State) : Option CalEntry :=
  let key (e : CalEntry) : Nat × Nat × Nat := (e.fire, dispatchRank (dKind e.d0), e.id)
  let less (e f : CalEntry) : Bool :=
    if e.retimed.isSome == f.retimed.isSome then keyLess (key e) (key f) else e.retimed.isSome
  (s.cal.tab.filter (dispatchReady s)).foldl (fun b e => match b with
    | some f => if less e f then some e else b
    | none => some e) none

/-- What the stage serves next: one order over loads, hand-overs and dispatches (R150). -/
def nextItem (s : State) : Option LoadItem :=
  match firstLoad s, firstDispatch s with
  | some (k, l), some e => some (if keyLess (loadKey s e) k then .dispatch e else l)
  | some (_, l), none => some l
  | none, some e => some (.dispatch e)
  | none, none => none

/-- The stage takes one item every 2 cc (R150). -/
def stageFree (s : State) : Bool := match s.cal.loadTb with | some t => decide (t + 4 ≤ s.tb) | none => true

/-- The load or hand-over that the stage takes now. -/
def nextLoad (s : State) : Option LoadItem :=
  if !stageFree s then none else
  match nextItem s with
  | some (.dispatch _) => none
  | i => i

/-- The entry that the stage dispatches now. -/
def nextDispatch (s : State) : Option CalEntry :=
  if !stageFree s then none else
  match nextItem s with
  | some (.dispatch e) => some e
  | _ => none

/-- The stage has taken its turn. -/
def stageTaken (s : State) : State := s.modCal fun c => { c with loadTb := some s.tb }

/-- The calendar once the stage has taken an item: for looking ahead only. -/
def itemTaken (s : State) (i : LoadItem) : Cal :=
  match i with
  | .entry e => s.cal.modEntry e.id fun f => { f with st := .loaded, retimed := none }
  | .edge l => { s.cal with locals := s.cal.locals.erase l }
  | .dispatch e => { s.cal with tab := s.cal.tab.filter fun f => f.id != e.id }

/-- The tb before `lim` at which the stage, from tb `t` on, takes the entry; `fuel` bounds the turns (R135, R150). -/
def turnOf (fuel : Nat) (s : State) (t lim id : Nat) : Option Nat :=
  match fuel with
  | 0 => none
  | f + 1 =>
    if lim ≤ t then none else
    let s1 := { s with tb := t }
    match nextItem s1 with
    | none => turnOf f s (t + 1) lim id
    | some i =>
      if (match i with | .entry e => e.id == id | .dispatch e => e.id == id | .edge _ => false) then some t
      else
        let waits : Bool := match i with | .entry e => dKind e.d0 == 0 && serveKind0 s1 e == .wait | _ => false
        turnOf f { s with cal := itemTaken s1 i } (if waits then t else t + 4) lim id

/-- The turn of the entry before tb `lim`, from now on. -/
def turnBefore (s : State) (lim id : Nat) : Option Nat :=
  turnOf 24 s (match s.cal.loadTb with | some t => max s.tb (t + 4) | none => s.tb) lim id

/-- The tb in which a loaded slot passes the half-range test (R97). -/
def slotFireTb (s : State) (n x : Nat) : Nat :=
  let ahead := (((s.chAt n).slotAt x).cmp - lo32 s.tb).toNat
  if ahead < 2 ^ 31 then s.tb + ahead else s.tb

/-- The entry fires before the effect of a cancel that reaches the calendar now (R135, R228): its slot fires it, the frame that
carries it is sampled, or the stage delivers it. An action fires only where its link takes it, and one handed over after a
sampling waits for the next frame, which is beyond the cancel (R229). -/
def firesBefore (s : State) (e : CalEntry) : Bool :=
  let lim := s.cc + 8
  let c := fld e.d1 6 0
  match dKind e.d0, e.st with
  | 0, .loaded =>
    match ((s.chAt c).slotAt e.slot).load with
    | some l => chOn s c &&
        (decide (max (slotFireTb s c e.slot) (l.tb + 1) < lim)
         || (e.retimed.isSome && (match turnBefore s lim e.id with | some t => decide (t + 1 < lim) | none => false)))
    | none => false
  | 0, .armed =>
    match turnBefore s lim e.id with
    | some t =>
      (match serveKind0 s e with | .load _ => true | _ => false) && decide (max (e.fire / 16) (t + 1) < lim)
    | none => false
  | 1, .loaded => linkTakes s (fld e.d1 9 0) && decide (carrySample s e < lim)
  | 1, .armed =>
    match turnBefore s (min lim (carrySample s e + 1)) e.id with
    | some _ => linkTakes s (fld e.d1 9 0) && decide (carrySample s e < lim)
    | none => false
  | 0, _ => false
  | 1, _ => false
  | _, .armed => (turnBefore s lim e.id).isSome
  | _, _ => false


end Sys2Proof.Machine
end

