-- ==== Sys2Proof/Machine/Calendar.lean ====
section
/-! DEFINITION. The calendar's table and spill list: arming by teeth and time, early teeth, reversals, ON_LOST, expiry,
inserts, cancels, flushes and spill moves (chapter 4). The load stage follows in Machine/CalLoad.lean. -/

namespace Sys2Proof.Machine

/-- The fire time of a time trigger, in sixteenths, taken relative to TB by the test of R37 (R128). -/
def timeFire (s : State) (d0 d2 d3 : Word) : Nat :=
  (((s.tb : Int) + toInt 64 (join64 d2 d3 + 2 ^ 64 - s.tb % 2 ^ 64)) * 16 + dFrac d0).toNat

/-- The arming horizon in pitches (R139). Where an entry of the fix unit holds HZN 0, CAL_UNITn.HZN is read as it stands at each
tooth (R36 leaves it open; log entry 54). -/
def calHorizon (s : State) (d0 : Word) : Nat :=
  let h := dHzn d0
  if 1 ≤ h ∧ h ≤ 4 then h else
    let u := s.rf (Reg.CAL_UNIT (dSpk d0)) 2 0
    if 1 ≤ u ∧ u ≤ 4 then u else 1

/-- Distance along the direction of travel that R71 permits, from a tooth. -/
def distAlong (s : State) (e : CalEntry) (t : Tooth) : Option Int :=
  let n := dSpk e.d0
  let rev := (s.spkAt n).dirRev
  let d := posDist (spkK s n) e.d2 e.d3 t.pos t.cyc
  if rev && !dRev e.d0 then none else some (if rev then -d else d)

/-- Table occupancy rises (R157). -/
def calHwm (s : State) (before : Nat) : State :=
  let h := s.rf Reg.CAL_CTL 14 0
  if before < h ∧ h ≤ s.cal.occ then calEvent s evHwm 0 0 else s

def calPut (s : State) (e : CalEntry) : State :=
  calHwm (s.modCal fun c => { c with tab := c.tab ++ [e] }) s.cal.occ

/-- An entry is armed with a fire time, and the load stage can take it `lead` tb from now (R137, R140, R143). -/
def calArmAt (s : State) (id fire lead : Nat) : State :=
  s.modCal fun c => c.modEntry id fun e =>
    { e with st := .armed, fire := fire, armTb := s.tb, readyTb := s.tb + lead, retimed := none, slot := 0 }

/-- A PENDING entry met by a tooth event: armed within its horizon (R139, R140), and with `prev`, the previous tooth event
of a mirrored unit, when its target lies between the two (R414). -/
def calMeet (s : State) (e : CalEntry) (t : Tooth) (prev : Option Tooth) (lead : Nat) : State :=
  match distAlong s e t with
  | none => s
  | some d =>
    let crossed := match prev with
      | some p => decide (d < 0) && (match distAlong s e p with | some q => decide (0 ≤ q) | none => false)
      | none => false
    if (decide (0 ≤ d) && decide (d < calHorizon s e.d0 * pitch)) || crossed then
      calArmAt s e.id ((t.stamp : Int) + travelTimeI d t.tPred).toNat lead
    else s

/-- The early-tooth rule for the armed entries of the unit, by fire time and identifier; `j` counts those re-timed (R142). -/
def calEarly (s : State) (n f j stamp : Nat) : List CalEntry → State
  | [] => s
  | e :: r =>
    let fire := ((stamp + 15) / 16 + f + 21 + 4 * j) * 16
    if fire < e.fire then
      let s1 := s.modCal fun c => c.modEntry e.id fun e => 
        { e with fire := fire, readyTb := s.tb + 8, retimed := some ((stamp + 15) / 16) }
      let s2 := (calEvent s1 evLateTooth (dTag e.d0) e.id).bump (Reg.CAL_UCNT n) 15 0
      calEarly s2 n f (j + 1) stamp r
    else calEarly s n f j stamp r

def insertEntry (e : CalEntry) : List CalEntry → List CalEntry
  | [] => [e]
  | f :: r => if e.fire < f.fire ∨ (e.fire = f.fire ∧ e.id < f.id) then e :: f :: r else f :: insertEntry e r

/-- By fire time, then identifier. -/
def byFire (es : List CalEntry) : List CalEntry := es.foldl (fun acc e => insertEntry e acc) []

def isPosOf (n : Nat) (e : CalEntry) : Bool := dPos e.d0 && dSpk e.d0 == n

/-- A KIND 6 point already handed to the fix unit keeps its tb (R36). -/
def handedFix (e : CalEntry) : Bool := e.id ≥ poolSize && e.st == .loaded

/-- A tooth event of unit `n` reaches the calendar at F + 12: the load stage takes what it arms from F + 20 on (R139–R143). -/
def calTooth (s : State) (n : Nat) (t : Tooth) (real : Bool) (prev : Option Tooth) : State :=
  let late := s.cal.tab.filter fun e =>
    isPosOf n e && e.st != .pending && !handedFix e && decide (t.stamp < e.fire)
      && (match distAlong s e t with | some d => decide (d ≤ 0) | none => false)
  let s1 := if real then calEarly s n (spkGf s n) 0 t.stamp (byFire late) else s
  forEach (s1.cal.tab.filter fun e => isPosOf n e && e.st == .pending) s1 fun s e => calMeet s e t prev 8

/-- The calendar's load in a slot is taken back (R112, R135). -/
def calUnload (s : State) (e : CalEntry) : State :=
  if e.st != .loaded then s
  else match dKind e.d0 with
    | 0 => s.modSlot (fld e.d1 6 0) e.slot fun t => { t with armed := false, load := none }
    | 1 => linkWithdraw s (fld e.d1 9 0 / 128) e.id
    | _ => s

/-- A reversal: armed position entries that have not fired return to PENDING (R70). -/
def calReversal (s : State) (n : Nat) : State :=
  forEach (s.cal.tab.filter fun e => isPosOf n e && e.st != .pending && !handedFix e) s fun s e =>
    (calUnload s e).modCal fun c => c.modEntry e.id fun e => { e with st := .pending, fire := 0, retimed := none, slot := 0 }

/-- An entry leaves without firing (R135, R136). -/
def calDrop (s : State) (e : CalEntry) : State := (calUnload s e).modCal fun c => c.remove e.id

def calDropSpill (s : State) (id : Nat) : State :=
  s.modCal fun c => { c with spill := c.spill.filter fun e => e.id != id }.freeId id

/-- CAL_FLUSH (R136). -/
def calFlush (s : State) (tag mask : Nat) (unit : Option Nat) : State :=
  let hit (e : CalEntry) : Bool :=
    e.id < poolSize && ((dTag e.d0 ^^^ tag) &&& mask) == 0 && (match unit with | some n => isPosOf n e | none => true)
  let gone := s.cal.tab.filter fun e => hit e && !firesBefore s e
  let s1 := forEach gone s calDrop
  let s2 := forEach (s1.cal.spill.filter hit) s1 fun s e => calDropSpill s e.id
  s2.modCal fun c => { c with flushing := true }

/-- Entry to LOST, OFF, or ACQUIRE through RESYNC (R146). -/
def calOnLost (s : State) (n : Nat) : State :=
  if s.rb (Reg.CAL_UNIT n) 4 then calEvent (calFlush s 0 0 (some n)) evFlushed 0 0 else s

/-- A re-synchronisation at a position: entries with D < 0 expire, fix points are handed over at once (R147). -/
def calExpire (s : State) (n : Nat) (pos cyc : Word) : State :=
  let behind (e : CalEntry) : Bool := isPosOf n e && decide (posDist (spkK s n) e.d2 e.d3 pos cyc < 0)
  let gone := s.cal.tab.filter fun e => behind e && e.id < poolSize
  let s1 := forEach (s.cal.tab.filter fun e => behind e && e.id ≥ poolSize && e.st == .pending) s fun s e =>
    calArmAt s e.id (s.tb * 16) 0
  let s2 := forEach gone s1 fun s e => (calDrop s e).bump (Reg.CAL_UCNT n) 31 16
  let s3 := match gone with
    | e :: _ => calEvent s2 evExpired (dTag e.d0) e.id
    | [] => s2
  let mark (e : CalEntry) : CalEntry := if behind e then { e with doomed := if gone.isEmpty then 1 else 2 } else e
  s3.modCal fun c => { c with spill := c.spill.map mark }

/-- D against the interpolated position, along travel with REV_OK (R133, R134). -/
def distNow (s : State) (d0 d2 d3 : Word) : Int :=
  let n := dSpk d0
  let (p, c) := spkPosNow s n
  let d := posDist (spkK s n) d2 d3 p c
  if dRev d0 && (s.spkAt n).dirRev then -d else d

/-- R134. -/
def calPassed (s : State) (d0 d2 d3 : Word) : Bool :=
  let u := s.spkAt (dSpk d0)
  u.st.valid && !(u.dirRev && !dRev d0) && decide (distNow s d0 d2 d3 < 0)

/-- Within the spill horizon of 50 µs (R133). -/
def calNear (s : State) (d0 d2 d3 : Word) : Bool :=
  if dPos d0 then decide (distNow s d0 d2 d3 * (s.spkAt (dSpk d0)).vis.pred < 50000 * 2 ^ 28)
  else decide (toInt 64 (join64 d2 d3 + 2 ^ 64 - s.tb % 2 ^ 64) < 50000)

/-- Bits of D1 and D4 that Table 4-1 gives a meaning. -/
def d1Mask (kind : Nat) : Word :=
  match kind with
  | 0 => 0x77F
  | 1 => 0x3FF
  | 2 => 0x3F
  | 3 => 0x1F
  | 4 => 0xF
  | _ => 0

def d4Mask (kind : Nat) : Word :=
  match kind with
  | 2 => 0xFFFF
  | 3 => 0x3F
  | 4 => 0
  | 5 => 0x7FFF
  | _ => 0xFFFFFFFF

def actValid (kind act : Nat) : Bool :=
  match kind with
  | 0 => act ≤ 6
  | 1 => 1 ≤ act && act ≤ 4
  | _ => act == 0

/-- R126. -/
def badDesc (s : State) (d0 d1 d2 d4 : Word) : Bool :=
  let k := dKind d0
  k ≥ 6 || !actValid k (dAct d0) || dHzn d0 ≥ 5 || d0 &&& 0x0F000008 != 0 || d1 &&& ~~~(d1Mask k) != 0
  || (k == 0 && fld d1 10 8 ≥ 5) || d4 &&& ~~~(d4Mask k) != 0
  || (dPos d0 && fld d2 31 16 ≥ s.rf (Reg.SPK_CYCLE (dSpk d0)) 15 0)

/-- The owner class of a spool (Table 11-1). -/
def splOwner (s : State) (n : Nat) : Nat := fld (s.startReg (Reg.SPL_OWN n)) 2 0

def spillOn (s : State) : Bool := s.rb Reg.CAL_SPILL_CTL 0
def spillSize (s : State) : Nat := s.rf Reg.CAL_SPILL_CTL 15 8 * 1024
def spillBase (s : State) : Nat := s.rf Reg.CAL_SPILL_BASE 31 4 * 16

/-- The spools of the spill region. -/
def spillSpools (s : State) : List Nat :=
  let a := spillBase s / 0x100000
  let b := (spillBase s + 16 * spillSize s - 1) / 0x100000
  if a = b then [a] else [a, b]

/-- Entry `k` of the region (R153). -/
def spillWords (s : State) (k : Nat) : List Nat := (List.range 4).map fun i => spillBase s + 16 * k + 4 * i

/-- The first place from `k` on that holds no entry. -/
def freeFrom (used : List Nat) (size : Nat) : Nat → Nat → Nat
  | 0, k => k
  | n + 1, k => if used.contains k then freeFrom used size n ((k + 1) % size) else k

/-- The place of the next entry that spills: the layout of the region is the device's own (R153), so that it is free. -/
def spillPlace (s : State) : Nat :=
  let fresh := freeFrom (s.cal.spill.map fun e => e.slot) (spillSize s) s.cal.spill.length ((Config.freeWord s.free).toNat % max 1 (spillSize s))
  match s.cal.spillAt with
  | some o => if o.put && !s.cal.spill.any (fun e => e.slot == o.place) then o.place else fresh
  | none => fresh

/-- A spill entry is due (R155). -/
def spillDue (s : State) (e : CalEntry) : Bool :=
  if dPos e.d0 then
    let u := s.spkAt (dSpk e.d0)
    match u.lastEv with
    | some t =>
      let d0 := posDist (spkK s (dSpk e.d0)) e.d2 e.d3 t.pos t.cyc
      let d := if dRev e.d0 && u.dirRev then -d0 else d0
      decide (d * t.tPred < 50000 * 2 ^ 28) || decide (d < 8 * pitch)
    | none => false
  else calNear s e.d0 e.d2 e.d3

/-- An entry enters the table: a time entry is armed, a position entry meets the last tooth event (R137, R139). The load
stage can take it at once (log entry 63). -/
def calPlace (s : State) (e : CalEntry) : State :=
  let s1 := calPut s { e with st := .pending, armTb := s.tb, readyTb := s.tb }
  if !dPos e.d0 then calArmAt s1 e.id (timeFire s e.d0 e.d2 e.d3) 0
  else
    let u := s.spkAt (dSpk e.d0)
    match u.lastEv with
    | some t => if u.st.valid then calMeet s1 e t none 0 else s1
    | none => s1

def CalReqer.code : CalReqer → Nat
  | .thread t => t.val
  | .bank b => if b.val = 0 then 65 else 64
  | .fix _ => 66

/-- A refused insert (R133, R158). -/
def calRefuse (s : State) (who : CalReqer) (d0 : Word) (st : Nat) : Word × State :=
  let s1 := calEventDetail s evRefused (mkw (dTag d0) 24 ||| mkw st 20 ||| mkw who.code 0)
  (mkw st 28, if st = 3 then s1.bump Reg.CAL_REFCNT 31 16 else s1.bump Reg.CAL_REFCNT 15 0)

/-- What becomes of an insert (R133): refused with a STATUS, an entry of the table, or one of the spill list. -/
inductive InsertFate where
  | refuse (st : Nat)
  | table
  | spill
  deriving DecidableEq, Repr

/-- R133. -/
def insertFate (s : State) (q : CalReq) : InsertFate :=
  if badDesc s q.d0 q.d1 q.d2 q.d4 then .refuse 6
  else if dPos q.d0 && calPassed s q.d0 q.d2 q.d3 then .refuse 5
  else if s.cal.used < tableSize && !s.cal.spill.any (fun e => e.waited || spillDue s e) then .table
  else if calNear s q.d0 q.d2 q.d3 then .refuse 3
  else if spillOn s && !s.cal.spillBad && s.cal.spill.length < spillSize s then .spill
  else .refuse 4

/-- The entry of an insert, with its identifier and generation. -/
def newEntry (s : State) (q : CalReq) (id gen place : Nat) : CalEntry :=
  { id := id, gen := gen, d0 := q.d0, d1 := q.d1, d2 := q.d2, d3 := q.d3, d4 := q.d4, st := .pending, fire := 0,
    armTb := s.tb, readyTb := s.tb, waited := false, retimed := none, slot := place, doomed := 0 }

/-- An insert into the table: DONE, or LATE where its time has passed (R131, R133). -/
def calTable (s : State) (q : CalReq) : Word × State :=
  let (id, c) := s.cal.issue
  let late := !dPos q.d0 && passed s.tb (join64 q.d2 q.d3)
  (mkw (if late then 2 else 0) 28 ||| mkw (c.gen id) 18 ||| mkw id 0, calPlace { s with cal := c } (newEntry s q id (c.gen id) 0))

/-- An insert into the spill list, at a place of the region that has been written (R133, R153). -/
def calSpilled (s : State) (q : CalReq) (place : Nat) : Word × State :=
  let (id, c) := s.cal.issue
  (mkw 1 28 ||| mkw (c.gen id) 18 ||| mkw id 0,
    { s with cal := { c with spill := c.spill ++ [newEntry s q id (c.gen id) place], spillAt := none } })

/-- An insert that does not spill (R133). -/
def calInsertOp (s : State) (q : CalReq) : Word × State :=
  match insertFate s q with
  | .refuse st => calRefuse s q.who q.d0 st
  | .table => calTable s q
  | .spill => calSpilled s q (spillPlace s)

/-- R135: the STATUS of a cancel. A fix point leaves the calendar at its hand-over, which counts as its fire; before it, the
point is disarmed (log entry 62). -/
def calCancelOp (s : State) (h : Word) : Word × State :=
  let id := fld h 17 0
  if id ≥ poolSize + 4 || s.cal.gen id != fld h 27 18 then (mkw 9 28, s)
  else match s.cal.find id, s.cal.spill.find? (fun e => e.id == id) with
    | some e, _ =>
      if id ≥ poolSize then (if e.st == .loaded then (mkw 8 28, s) else (mkw 7 28, fixDisarm s (id - poolSize)))
      else if firesBefore s e then (mkw 8 28, s) else (mkw 7 28, calDrop s e)
    | none, some _ => (mkw 7 28, calDropSpill s id)
    | none, none => (if s.cal.fired.contains id then mkw 8 28 else mkw 9 28, s)

/-- A spilled entry's trigger measured in 2^28 of a tb, for "nearest first" (R155). -/
def spillDist (s : State) (e : CalEntry) : Int :=
  if dPos e.d0 then distNow s e.d0 e.d2 e.d3 * (s.spkAt (dSpk e.d0)).vis.pred
  else toInt 64 (join64 e.d2 e.d3 + 2 ^ 64 - s.tb % 2 ^ 64) * 2 ^ 28

def nearest (s : State) (es : List CalEntry) : Option CalEntry :=
  es.foldl (fun b e => match b with
    | none => some e
    | some f => if spillDist s e < spillDist s f then some e else b) none

/-- The spill mover has a move to make (R155): a due entry into a free table entry, or one that is not due while 256 or more
are free. -/
def spillWants (s : State) : Bool :=
  let free := tableSize - s.cal.used
  if s.cal.spill.any (spillDue s) then free != 0 else !s.cal.spill.isEmpty && decide (256 ≤ free)

/-- The requester's port in round-robin order (R130; the order is the model's, log entry 22). -/
def CalReqer.port : CalReqer → Nat
  | .thread t => t.val / 4
  | .bank b => 16 + b.val
  | .fix _ => 18

/-- The requests at port `p`, the one to be served first: cyclic thread order at an engine's port (R189). -/
def portNext (c : Cal) (p : Nat) : Option CalReq :=
  if p ≥ 16 then c.reqs.find? fun q => q.who.port == p
  else
    let last := vget c.rrThr p 3
    let order := [1, 2, 3, 4].map fun i => 4 * p + (last + i) % 4
    order.findSome? fun t => c.reqs.find? fun q => match q.who with | .thread u => u.val == t | _ => false

/-- Whose turn it is at the calendar. -/
inductive CalTurn where
  | req (q : CalReq)
  | move
  deriving DecidableEq, Repr

/-- The turn of the 20 requesters, the spill mover being the last (R130). -/
def nextTurn (s : State) : Option CalTurn :=
  ((List.range 20).map fun i => (s.cal.rr + 1 + i) % 20).findSome? fun p =>
    if p = 19 then (if spillWants s then some .move else none) else (portNext s.cal p).map .req

/-- An operation that occupies the stage for `d` tb, for a request made at cc `t`, can have completed by now (R130). -/
def opReady (s : State) (t : Option Nat) (d : Nat) : Bool :=
  t.all (fun t => decide (t + d ≤ s.cc)) && s.cal.opTb.all fun t => decide (t + d ≤ s.cc)

/-- A request leaves the queue as served. -/
def servedReq (s : State) (q : CalReq) : State :=
  s.modCal fun c => { c with
    reqs := c.reqs.erase q, rr := q.who.port, opTb := some s.cc,
    rrThr := match q.who with | .thread t => vmodN c.rrThr (t.val / 4) fun _ => t.val % 4 | _ => c.rrThr }

/-- The result word reaches the requester (R131). -/
def calResult (s : State) (who : CalReqer) (res : Word) : State :=
  match who with
  | .thread t => thrCalResult s t.val res
  | .bank b => s.setReg (Reg.CAL_RES b.val) res
  | .fix _ => s

/-- A request is made: CAL_RES reads pending meanwhile (R131). -/
def calAsk (s : State) (q : CalReq) : State :=
  let s1 := s.modCal fun c => { c with reqs := c.reqs ++ [q] }
  match q.who with
  | .bank b => s1.setReg (Reg.CAL_RES b.val) 0xF0000000
  | _ => s1

/-- Doomed entries are examined and expire (R147). -/
def spillExpire (s : State) : State :=
  forEach (s.cal.spill.filter fun e => e.doomed != 0) s fun s e =>
    let n := dSpk e.d0
    let s1 := (calDropSpill s e.id).bump (Reg.CAL_UCNT n) 31 16
    match s.cal.spill.find? fun f => f.id == e.id with
    | some f =>
      let quiet (g : CalEntry) : CalEntry := if isPosOf n g && g.doomed == 1 then { g with doomed := 2 } else g
      if f.doomed = 1 then
        (calEvent s1 evExpired (dTag e.d0) e.id).modCal fun c => { c with spill := c.spill.map quiet }
      else s1.hwSetBit Reg.CAL_EVT evExpired
    | none => s

/-- An entry of the spill list moves into the table (R155, R156). -/
def spillTake (s : State) (e : CalEntry) : State :=
  let s1 := s.modCal fun c => { c with spill := c.spill.filter fun f => f.id != e.id }
  let s2 := calPlace s1 { e with waited := false, slot := 0 }
  if dPos e.d0 && calPassed s1 e.d0 e.d2 e.d3 then calArmAt s2 e.id (s.tb * 16) 0 else s2

/-- A due entry finds the table full (R156). -/
def spillWait (s : State) (e : CalEntry) : State :=
  calEvent (s.modCal fun c => { c with spill := c.spill.map fun f => if f.id = e.id then { f with waited := true } else f })
    evSpillDue (dTag e.d0) e.id

/-- The entry that the spill mover moves in its turn: the nearest that is due, or else the nearest (R130, R155). -/
def spillNext (s : State) : Option CalEntry :=
  if decide (tableSize ≤ s.cal.used) || nextTurn s != some .move || !opReady s none 32 then none
  else
    let due := s.cal.spill.filter (spillDue s)
    nearest s (if due.isEmpty then s.cal.spill else due)

/-- A due entry that finds the table full waits (R156). -/
def spillFull (s : State) : State :=
  if s.cal.used < tableSize then s else
  match nearest s (s.cal.spill.filter fun e => spillDue s e && !e.waited) with
  | some e => spillWait s e
  | none => s

/-- CAL_SPILL_CTL is written (R153). -/
def spillCtlWrite (s : State) (w : Word) : State :=
  let on := spillOn s
  if bitAt w 0 && !on then
    let size := fld w 15 8
    let s1 := s.setReg Reg.CAL_SPILL_CTL (mkw size 8)
    let ok := 1 ≤ size && size ≤ 128 && (spillSpools s1).all fun n => n < 8 && splOwner s n == 1
    let last := spillBase s + 16 * spillSize s1 - 1
    let fits := decide (last < 0x800000) && decide (last / 0x100000 ≤ spillBase s / 0x100000 + 1)
    if ok && fits then (s1.setReg Reg.CAL_SPILL_CTL (mkw size 8 ||| 1)).modCal fun c => { c with spillBad := false, spillAt := none }
    else calEventDetail s1 evSpillErr (mkw evSpillErr 20)
  else if on then (if !bitAt w 0 && s.cal.spill.isEmpty then s.setReg Reg.CAL_SPILL_CTL (s.reg Reg.CAL_SPILL_CTL &&& 0xFF00) else s)
  else s.setReg Reg.CAL_SPILL_CTL (w &&& 0xFF00)

/-- The fix unit asks for the KIND 6 entry of channel `k`, with HZN as it stands when ARM lands (R36, R130). -/
def calFixAsk (s : State) (k : Nat) (hzn spk : Nat) (pos cyc : Word) : State :=
  calAsk s { who := .fix (Fin.ofNat 4 k), cancel := false, d0 := mkw 6 0 ||| mkw 1 7 ||| mkw spk 8 ||| mkw hzn 12, d1 := 0,
             d2 := pos, d3 := cyc, d4 := 0, tb := s.cc }

/-- The KIND 6 entry of channel `k` enters the table (R36, R132, R133, R152). -/
def calFixInsert (s : State) (k : Nat) (q : CalReq) : State :=
  let id := fixEntryId k
  let g := nextGen (s.cal.gen id)
  let s1 := s.modCal fun c => { c with
    tab := c.tab.filter fun e => e.id != id, gens := sparseWrite zeroNat c.gens id g, fired := c.fired.filter fun f => f != id }
  let e : CalEntry := { id := id, gen := g, d0 := q.d0, d1 := 0, d2 := q.d2, d3 := q.d3, d4 := 0, st := .pending, fire := 0,
                        armTb := s.tb, readyTb := s.tb, waited := false, retimed := none, slot := 0, doomed := 0 }
  let s2 := calPlace s1 e
  if calPassed s1 q.d0 q.d2 q.d3 then calArmAt s2 id (s.tb * 16) 0 else s2

end Sys2Proof.Machine
end

