-- ==== Sys2Proof/Machine/Contact.lean ====
section
/-! DEFINITION. The contact engine's series of boundaries, their conversion by teeth, and what a reversal or the loss of its
unit does to them (R210–R225). -/

namespace Sys2Proof.Machine

def ctOn (s : State) : Bool := s.rb Reg.CT_CTL 0
def ctCycle (s : State) : Bool := s.rb Reg.CT_CTL 1
def ctUnit (s : State) : Nat := s.rf Reg.CT_CTL 14 12

/-- HZN; 0 and 5–7 act as 1 (CT_CTL). -/
def ctHzn (s : State) : Nat := let h := s.rf Reg.CT_CTL 10 8; if 1 ≤ h ∧ h ≤ 4 then h else 1

/-- The committed staged fields; END above COLS − 1 acts as COLS − 1 (CT_LOOP). -/
def ctGeo (s : State) : CtGeo :=
  let cols := s.rf Reg.CT_GEOM 30 16 + 1
  { base := s.rf Reg.CT_BASE 31 4 * 16, cols := cols, rb := s.rf Reg.CT_GEOM 3 0, step := (s.reg Reg.CT_STEP).toNat,
    fin := min (s.rf Reg.CT_LOOP 30 16) (cols - 1), loop := s.rf Reg.CT_LOOP 14 0, org := (s.reg Reg.CT_ORG).toNat }

def State.modCt (s : State) (f : Ct → Ct) : State := { s with ct := f s.ct }

/-- A CT_EVT bit sets; LATE_COL (3) raises only with REC_LATE (R240). -/
def ctEvent (s : State) (b : Nat) : State :=
  let s1 := s.hwSetBit Reg.CT_EVT b
  if b == 3 && !s.rb Reg.CT_CTL 19 then s1
  else s1.raise0 (srcLink (s.rf Reg.CT_CTL 18 16)) (16 + b) (.word (s1.reg Reg.CT_EVT &&& 0xFFFF))

/-- LATE_COL sets and counts (R215, CT_CNT). -/
def ctLate (s : State) : State := ctEvent (s.bump Reg.CT_CNT 14 0) 3

/-- RUN clears, with STOPPED when it was set. -/
def ctStop (s : State) : State :=
  let s1 := s.modCt fun c => { c with run := false, waitStart := false }
  if s.ct.run then ctEvent s1 1 else s1

/-- Absolute position (R213). -/
def absPos (k : Nat) (pos cyc : Word) : Int := cyc.toNat * (k * pitch) + pos.toNat

/-- Position of boundary j of cycle c (R213). -/
def bndPos (k : Nat) (g : CtGeo) (c j : Nat) : Int := (c * (k * pitch) + g.org + j * g.step : Nat)

/-- The cycle, index and column of the next boundary: in CYCLE mode a cycle's series ends at boundary 0 of the next cycle, which
lies where committed values not yet in use put it (R213, R214, R223). -/
def ctNext (s : State) : Nat × Nat × Option Nat :=
  let ct := s.ct
  let k := spkK s (ctUnit s)
  if ctCycle s && ct.nextJ != 0
      && decide (bndPos k (ct.geoNew.getD ct.geo) (ct.nextC + 1) 0 ≤ bndPos k ct.geo ct.nextC ct.nextJ) then (ct.nextC + 1, 0, some 0)
  else (ct.nextC, ct.nextJ, ct.nextCol)

/-- New geometry applies to the next boundary: in CYCLE mode where that is boundary 0 of its cycle (R223). -/
def ctTakes (s : State) : Bool := s.ct.geoNew.isSome && (!ctCycle s || (ctNext s).2.1 == 0)

/-- The next boundary as the first conversion of it would make it: a jump, or new geometry in FREE mode, decides its column
(R214, R223). -/
def ctPeek (s : State) : CtBnd :=
  let ct := s.ct
  let k := spkK s (ctUnit s)
  let (c, j, nc) := ctNext s
  let new := ctTakes s
  let g := if new then ct.geoNew.getD ct.geo else ct.geo
  let col := match ct.jump with
    | some c => some (min c g.fin)
    | none => if new && !ctCycle s then some 0 else nc
  { q := ct.nextQ, c := c, j := j, p := bndPos k g (if ctCycle s then c else ct.c0) j, col := col, geo := g }

/-- The column after `c` within a series (R214). -/
def colAfter (cycle : Bool) (g : CtGeo) (c : Option Nat) : Option Nat :=
  match c with
  | none => none
  | some c => if c ≥ g.fin then (if cycle then none else some (min g.loop g.fin)) else some (c + 1)

/-- The series moves past the boundary `b`, the next one (R213, R223). -/
def ctAdvance (s : State) (b : CtBnd) : State :=
  s.modCt fun ct => { ct with
    nextQ := ct.nextQ + 1, jump := none, geo := b.geo, nextC := b.c, nextJ := b.j + 1, nextCol := colAfter (ctCycle s) b.geo b.col,
    geoNew := if ctTakes s then none else ct.geoNew }

/-- The next boundary is converted by its first row: RUN sets at the first of a series (R216), a jump is done (R214). -/
def ctIssue (s : State) : State :=
  let b := ctPeek s
  let s1 := ctAdvance s b
  let s2 := s1.modCt fun c => { c with bnds := c.bnds ++ [b] }
  let s3 := if s.ct.jump.isSome then ctEvent s2 12 else s2
  if s.ct.waitStart then ctEvent (s3.modCt fun c => { c with waitStart := false, run := true }) 0 else s3

/-- Lane k is in use (CT_LANEk_ROWS). -/
def laneOn (s : State) (k : Nat) : Bool := s.rb (Reg.CT_LANE_ROWS k) 31

/-- The lane of a row: the lowest-numbered that covers it, 32 for none (R221). -/
def laneOf (s : State) (r : Nat) : Nat :=
  ((List.range 32).find? fun k =>
    let w := s.reg (Reg.CT_LANE_ROWS k)
    bitAt w 31 && fld w 9 0 ≤ r && r ≤ fld w 25 16).getD 32

def laneRows (s : State) (k : Nat) : List Nat := (List.range 1024).filter fun r => laneOf s r == k

/-- OFS of a lane group (R221). -/
def laneOfs (s : State) (k : Nat) : Int := if k < 32 then toInt 32 (s.reg (Reg.CT_LANE_OFS k)).toNat else 0

/-- The lane groups that hold rows. -/
def lanesUsed (s : State) : List Nat := ((List.range 32).filter (laneOn s)) ++ [32]

/-- The channels whose pins row `r` drives (R224). -/
def localChans (s : State) (r : Nat) : List Nat :=
  (List.range 128).filter fun n => tioFunc s n == 4 && s.rf (Reg.CT_LROW n) 9 0 == r

/-- The row's cell is driven by the plane over a strip link (R212, R226). -/
def planeCell (s : State) (r : Nat) : Bool := linkMode s (r / 128) == 1 && !calHolds s (r / 128) (r % 128)

/-- Frames carry the link's cells. -/
def linkUp (s : State) (n : Nat) : Bool := (s.linkAt n).st == .up

/-- A boundary converted to time t can no longer be placed for some row of the lane group (R215). -/
def convLate (s : State) (lane t : Nat) : Bool :=
  (laneRows s lane).any fun r =>
    (planeCell s r && linkUp s (r / 128) && decide (windowOf t < (s.linkAt (r / 128)).nextW))
    || (decide (t / 16 < s.tb) && !(localChans s r).isEmpty)

/-- Boundary `b` of a lane group is converted at a tooth (R215). -/
def convertOne (s : State) (lane : Nat) (b : CtBnd) (t : Tooth) (pk : Int) : State :=
  let x := b.p + laneOfs s lane
  let time := ((t.stamp : Int) + travelTimeI (x - pk) t.tPred).toNat
  let s1 := s.modCt fun c => { c with conv := c.conv ++ [{ lane := lane, b := b, x := x, t := time, fetched := false, got := [] }],
                                      laneQ := vmodN c.laneQ lane fun _ => b.q + 1 }
  if x < pk ∨ convLate s lane time then ctLate s1 else s1

/-- A lane group's boundaries within the horizon of a tooth; `fuel` bounds how many can lie there. -/
def convertLane (fuel : Nat) (s : State) (lane : Nat) (t : Tooth) (pk : Int) : State :=
  match fuel with
  | 0 => s
  | f + 1 =>
    let q := vget s.ct.laneQ lane 0
    let b? := if q ≥ s.ct.nextQ then some (ctPeek s) else s.ct.bnds.find? fun b => b.q == q
    match b? with
    | none => s.modCt fun c => { c with laneQ := vmodN c.laneQ lane fun q => q + 1 }
    | some b =>
      if b.p + laneOfs s lane < pk + ctHzn s * pitch then
        let s1 := if q ≥ s.ct.nextQ then ctIssue s else s
        convertLane f (convertOne s1 lane b t pk) lane t pk
      else s

/-- How many boundaries can lie between the next one and the horizon. -/
def convFuel (s : State) (pk : Int) : Nat :=
  let k := spkK s (ctUnit s)
  let b := ctPeek s
  let span := (pk + ctHzn s * pitch - b.p + 2 ^ 20).toNat
  span / max 1 b.geo.step + span / (k * pitch) + s.ct.bnds.length + 2

/-- The load of a local edge in slot D of channel `n`. -/
def localLoad (s : State) (n : Nat) : Option CalLoad :=
  match ((s.chAt n).slotAt 3).load with
  | some l => if l.id = localId then some l else none
  | none => none

/-- Slot D of channel `n` holds an edge of the boundary (R215). -/
def loadedFrom (s : State) (n lane q : Nat) : Bool :=
  match localLoad s n with
  | some l => l.bnd.1 == lane && l.bnd.2 == q
  | none => false

/-- A real tooth at or beyond a converted boundary whose time lies after it (R215). -/
def ctEarly (s : State) (stamp f : Nat) (pk : Int) : State :=
  let hit := s.ct.conv.filter fun c => decide (c.x ≤ pk) && decide (stamp < c.t)
  let t := ((stamp + 15) / 16 + f + 12) * 16
  forEach hit s fun s c =>
    let same (lane q : Nat) : Bool := lane == c.lane && q == c.b.q
    let conv := s.ct.conv.map fun d => if same d.lane d.b.q then { d with t := t } else d
    let edge (e : RowEdge) : RowEdge := if same e.lane e.q then { e with time := t } else e
    let loc (e : LocalEdge) : LocalEdge := if same e.lane e.q then { e with time := t } else e
    let slot (d : Slot) : Slot := match d.load with
      | some l => if l.id = localId && same l.bnd.1 l.bnd.2 then
          { d with cmp := lo32 (t / 16), load := some { l with frac := 0 } } else d
      | none => d
    let s1 := forEach ((List.range 128).filter fun n => loadedFrom s n c.lane c.b.q) s fun s n =>
      setSlotFrac (s.modSlot n 3 slot) n 3 0
    ctLate { s1 with
      ct := { s1.ct with conv := conv },
      link := s1.link.map fun l => { l with edges := l.edges.map edge },
      cal := { s1.cal with locals := s1.cal.locals.map loc } }

/-- Boundaries that every lane group has converted and the unit has passed leave the series; the last one passed is
CT_COL's (R213). -/
def ctPrune (s : State) (pk : Int) : State :=
  let past := s.ct.bnds.filter fun b => decide (b.p ≤ pk)
  let s1 := match past.getLast? with
    | some b => s.modCt fun c => { c with lastJ := b.j, lastCol := b.col }
    | none => s
  let low := (lanesUsed s).foldl (fun m k => min m (vget s.ct.laneQ k 0)) s.ct.nextQ
  s1.modCt fun c => { c with
    bnds := c.bnds.filter fun b => !(decide (b.p ≤ pk) && decide (b.q < low)),
    conv := c.conv.filter fun d => !(d.fetched && decide (d.t / 16 + 32768 < s.tb)),
    rowQ := c.rowQ.filter fun r => decide (r.2 > vget c.laneQ (laneOf s r.1) 0) }

def ctPlaying (s : State) : Bool := ctOn s && (s.ct.run || s.ct.waitStart) && !s.ct.held

/-- A tooth event of unit `n` reaches the contact engine (R215). -/
def ctTooth (s : State) (n : Nat) (t : Tooth) (real : Bool) : State :=
  if n != ctUnit s || !ctOn s then s else
  let u := s.spkAt n
  let pk := absPos (spkK s n) t.pos t.cyc
  let s1 := if real then ctEarly s t.stamp (spkGf s n) pk else s
  let s2 := if ctPlaying s1 && u.st.valid && !u.dirRev then
      forEach (lanesUsed s1) s1 fun s k => convertLane (convFuel s pk) s k t pk else s1
  ctPrune s2 pk

/-- The levels of a link's cells once the plane's edges `es` have been computed (R239). -/
def cellsAfter (s : State) (n : Nat) (cells : BitVec 128) (es : List RowEdge) : BitVec 128 :=
  es.foldl (fun m e =>
    let bit := BitVec.ofNat 128 (2 ^ (e.row % 128))
    if calOwnsCell s n (e.row % 128) then m else if e.lvl then m ||| bit else m &&& ~~~bit) cells

/-- A link in CASCADE, or one that is not UP, plays no edge, but levels continue to be computed: edges whose time has come are discarded and have set
their cells (R239). -/
def linkSettle (s : State) (n : Nat) : State :=
  if linkUp s n && linkMode s n == 1 then s else
  s.modLink n fun l => { l with
    cells := cellsAfter s n l.cells (l.edges.filter fun e => decide (e.time / 16 ≤ s.tb)),
    edges := l.edges.filter fun e => !decide (e.time / 16 ≤ s.tb) }

/-- An edge of BLANK belongs to no boundary: nothing takes it back (R218, R219). -/
def RowEdge.blank (e : RowEdge) : Bool := e.lane == 33

/-- Every edge of a boundary that has not been played is taken back; the rows' levels return to those played. -/
def ctWithdraw (s0 : State) : State :=
  let s := forEach (List.range 8) s0 linkSettle
  let back (rows : BitVec 1024) (r : Nat) (lvl : Bool) : BitVec 1024 :=
    if lvl then rows ||| BitVec.ofNat 1024 (2 ^ r) else rows &&& ~~~(BitVec.ofNat 1024 (2 ^ r))
  let es := (List.range 8).flatMap fun n => (s.linkAt n).edges.filter fun e => !e.blank
  let r1 := es.reverse.foldl (fun m e => back m e.row e.was) s.ct.rows
  let r2 := (s.cal.locals.filter fun e => e.lane != 33).reverse.foldl (fun m e => back m e.row !e.lvl) r1
  let loaded := (List.range 128).filter fun n => match localLoad s n with | some l => l.bnd.1 != 33 | none => false
  let r3 := loaded.foldl (fun m n =>
    back m (s.rf (Reg.CT_LROW n) 9 0) (match localLoad s n with | some l => l.act != 1 | none => true)) r2
  let s1 := { s with
    ct := { s.ct with rows := r3 },
    link := s.link.map fun l => { l with edges := l.edges.filter RowEdge.blank },
    cal := { s.cal with locals := s.cal.locals.filter fun e => e.lane == 33 } }
  forEach loaded s1 fun s n => s.modSlot n 3 fun t => { t with armed := false, load := none }

/-- The row has played the converted boundary: its frame is sampled, or its local time has come. -/
def rowPlayed (s : State) (r : Nat) (c : CtConv) : Bool :=
  c.fetched && (if planeCell s r && linkUp s (r / 128) then decide (windowOf c.t < (s.linkAt (r / 128)).nextW) else decide (c.t / 16 ≤ s.tb))

def insertBnd (b : CtBnd) : List CtBnd → List CtBnd
  | [] => [b]
  | d :: r => if b.q ≤ d.q then b :: d :: r else d :: insertBnd b r

/-- A reversal: converted boundaries not yet played return to unconverted, row by row (R217). -/
def ctReversal (s : State) (n : Nat) : State :=
  if n != ctUnit s || !ctOn s then s else
  let s1 := ctWithdraw s
  forEach (lanesUsed s) s1 fun s1 k =>
    let rows := laneRows s k
    let mine := s.ct.conv.filter fun c => c.lane == k
    let open_ := mine.filter fun c => !(decide (c.t / 16 ≤ s.tb) && c.fetched)
    let back := (open_.map fun c => c.b).filter fun b => !s.ct.bnds.any fun d => d.q == b.q
    match open_ with
    | [] => s1
    | c0 :: _ =>
      let ahead := rows.filterMap fun r =>
        match open_.find? fun c => !rowPlayed s r c with
        | some c => if c.b.q > c0.b.q then some (r, c.b.q) else none
        | none => some (r, vget s.ct.laneQ k 0)
      s1.modCt fun c => { c with
        conv := c.conv.filter fun d => !(d.lane == k && decide (d.b.q ≥ c0.b.q)),
        laneQ := vmodN c.laneQ k fun _ => c0.b.q,
        bnds := back.foldl (fun bs b => if bs.any fun d => d.q == b.q then bs else insertBnd b bs) c.bnds,
        rowQ := c.rowQ ++ ahead }

/-- The level that the row's cell takes once the edges passed to its link are played. -/
def cellAhead (s : State) (r : Nat) : Bool :=
  let l := s.linkAt (r / 128)
  match (l.edges.filter fun e => e.row == r).getLast? with
  | some e => e.lvl
  | none => l.cells.getLsbD (r % 128)

/-- A row takes a level at time `t` (sixteenths): an event of its cell, whose owner the frame's sampling judges, and an edge to its
pins where the row changes level (R212, R224, R226). BLANK needs no event of a plane's cell that comes to 0 anyway. -/
def rowEdge (s : State) (r : Nat) (lvl : Bool) (t lane q : Nat) : State :=
  let was := s.ct.rows.getLsbD r
  let bit := BitVec.ofNat 1024 (2 ^ r)
  let s1 := s.modCt fun c => { c with rows := if lvl then c.rows ||| bit else c.rows &&& ~~~bit }
  let n := r / 128
  let e : RowEdge := { row := r, lvl := lvl, was := was, time := t, lane := lane, q := q }
  let s2 := linkSettle s1 n
  let s3 := if lane != 33 || cellAhead s2 r != lvl || calHolds s2 n (r % 128) || calOwnsCell s2 n (r % 128) then s2.modLink n fun l => { l with edges := l.edges ++ [e] } else s2
  if was = lvl then s3 else
  let new := (localChans s r).map fun n => ({ ch := n, row := r, lvl := lvl, time := t, lane := lane, q := q } : LocalEdge)
  { s3 with cal := { s3.cal with locals := s3.cal.locals ++ new } }

/-- Every row goes to 0 at the first opportunity (R218, R219). -/
def ctBlankRows (s : State) : State :=
  forEach (List.range 1024) (ctWithdraw s) fun s r => rowEdge s r false (s.tb * 16) 33 0

/-- Converted boundaries are discarded. -/
def ctDiscard (s : State) : State :=
  (ctWithdraw s).modCt fun c => { c with conv := [], bnds := [], rowQ := [], laneQ := Vector.replicate 33 c.nextQ }

/-- The first cycle whose boundary 0 has not passed (R216, R218). -/
def nextCycle (k : Nat) (g : CtGeo) (a : Int) (from_ : Nat) : Nat :=
  if a ≤ bndPos k g from_ 0 then from_
  else let d := a - g.org; if d ≤ 0 then 0 else ((d + (k * pitch : Nat) - 1) / (k * pitch : Nat)).toNat

/-- CYCLE playback takes up boundary 0 of cycle `c`. -/
def ctFromCycle (s : State) (c : Nat) : State :=
  s.modCt fun x => { x with
    nextC := c, nextJ := 0, nextCol := some 0, geo := x.geoNew.getD x.geo, geoNew := none, bnds := [], rowQ := [],
    laneQ := Vector.replicate 33 x.nextQ }

/-- The contact engine's unit leaves QUICK, SYNCED and SUSPECT (R218). -/
def ctLost (s : State) (n : Nat) : State :=
  if n != ctUnit s || !ctOn s then s else
  let s1 := ctEvent (s.modCt fun c => { c with held := true }) 11
  if s.rb Reg.CT_CTL 4 then ctBlankRows (ctDiscard s1) else s1

/-- The unit is back in QUICK, SYNCED or SUSPECT, at the position of the tooth that brings it there (R218). -/
def ctBack (s : State) (n : Nat) : State :=
  if n != ctUnit s || !s.ct.held then s else
  let s1 := s.modCt fun c => { c with held := false }
  if !ctOn s then s1
  else if !ctCycle s then
    (if s.ct.run || s.ct.waitStart then ctEvent (s1.modCt fun c => { c with run := false, waitStart := false }) 1 else s1)
  else if s.ct.run || s.ct.waitStart then
    let k := spkK s n
    let u := s.spkAt n
    ctFromCycle s1 (nextCycle k (s.ct.geoNew.getD s.ct.geo) (absPos k u.pos u.cyc) (if s.ct.waitStart then s.ct.nextC else 0))
  else s1

/-- A column jump is delivered (R214). -/
def ctJumpTo (s : State) (col : Nat) : State := s.modCt fun c => { c with jump := some col }

/-- The column `n` boundaries after one that plays `c` in FREE mode (R214). -/
def colSkip (g : CtGeo) (c n : Nat) : Nat :=
  if c + n ≤ g.fin then c + n
  else let l := min g.loop g.fin; l + (c + n - g.fin - 1) % (g.fin - l + 1)

/-- CT_CMD.GO (R216). -/
def ctGoOp (s : State) : State :=
  if !ctOn s then ctEvent s 10 else
  let s1 := ctBlankRows (ctDiscard s)
  let g := ctGeo s
  let n := ctUnit s
  let k := spkK s n
  let (p, cy) := spkPosNow s n
  let a := absPos k p cy
  let c0 := (s.reg Reg.CT_START_CYC).toNat
  let s2 := s1.modCt fun c => { c with
    run := false, waitStart := true, blanked := false, jump := none, c0 := c0, nextC := c0, nextJ := 0, nextCol := some 0,
    geo := g, geoNew := none, laneQ := Vector.replicate 33 c.nextQ }
  if a ≤ bndPos k g c0 0 then s2
  else if ctCycle s then ctEvent (s2.modCt fun c => { c with nextC := nextCycle k g a c0 }) 2
  else
    let st := max 1 g.step
    let skip := ((a - bndPos k g c0 0 + (st : Int) - 1) / st).toNat
    ctEvent (s2.modCt fun c => { c with nextJ := skip, nextCol := some (colSkip g 0 skip) }) 2

/-- CT_CMD.HALT (R219). -/
def ctHaltOp (s : State) : State := ctStop (ctDiscard s)

/-- CT_CMD.BLANK (R219). -/
def ctBlankOp (s : State) : State := (ctBlankRows (ctHaltOp s)).modCt fun c => { c with blanked := true }

/-- STEP is 256–0x8000_0000 (R213, CT_STEP). -/
def stepOk (g : CtGeo) : Bool := 256 ≤ g.step && g.step ≤ 0x80000000

/-- The plane lies in spools owned by CONTACT, in range, with 1–8 row blocks (R211). -/
def planeOk (s : State) (g : CtGeo) : Bool :=
  let top := g.base + g.cols * 16 * g.rb
  1 ≤ g.rb && g.rb ≤ 8 && top ≤ 0x800000
    && (List.range 8).all fun n => !(decide (n * 0x100000 < top) && decide (g.base < (n + 1) * 0x100000)) || splOwner s n == 2

/-- CT_CTL lands: a write of EN = 1 checks the plane and is refused whole where it breaks R211; locked fields keep their values
while EN is 1. -/
def ctCtlWrite (s : State) (w0 : Word) : State :=
  let a := Reg.CT_CTL
  let old := s.reg a
  let w := w0 &&& (regDesc a).rw
  let lockM : Word := 0x7702
  if bitAt w 0 && !(planeOk s (ctGeo s) && stepOk (ctGeo s)) then ctEvent s 10
  else if bitAt old 0 then
    let w1 := mergeBits w old lockM
    let s1 := s.setReg a w1
    let s2 := if (w ^^^ old) &&& lockM != 0 then ctEvent s1 9 else s1
    if bitAt w 0 then s2 else ctStop (ctDiscard s2)
  else
    let s1 := s.setReg a w
    if bitAt w 0 then s1.modCt fun c => { c with held := !(s1.spkAt (fld w 14 12)).st.valid, geo := ctGeo s1, geoNew := none }
    else s1

/-- A staged lane offset takes effect, limited as R222 gives. -/
def ctOfsWrite (s : State) (k : Nat) (w : Word) : State :=
  let old := laneOfs s k
  let half : Int := (s.reg Reg.CT_STEP).toNat / 2
  let v := toInt 32 w.toNat
  let lo := max (old - half) (-0x80000)
  let hi := min (old + half) 0x80000
  let v' := if v < lo then lo else if v > hi then hi else v
  let s1 := s.setReg (Reg.CT_LANE_OFS k) (word v')
  if v' = v then s1 else ctEvent s1 5

/-- The contact engine's staged fields are committed together; a commit that breaks R211 is refused (R211, R223). -/
def ctCommit (s : State) (ws : List (Nat × Word)) : State :=
  if ws.isEmpty then s else
  let s1 := forEach ws s fun s p => s.setReg p.1 (p.2 &&& (regDesc p.1).rw)
  let g := ctGeo s1
  let has (a : Nat) : Bool := ws.any fun p => p.1 == a
  if ((has Reg.CT_BASE || has Reg.CT_GEOM) && !planeOk s1 g) || (has Reg.CT_STEP && !stepOk g) then ctEvent s 10
  else if ctOn s && (s.ct.run || s.ct.waitStart) then s1.modCt fun c => { c with geoNew := some g }
  else s1

/-- CT_COL as it reads: the last boundary the unit has passed (R213, R214). -/
def ctCol (s : State) : Word :=
  let n := ctUnit s
  let k := spkK s n
  let (p, c) := spkPosNow s n
  let a := absPos k p c
  let nb := ctPeek s
  let (j, col) :=
    if ctPlaying s && decide (nb.p ≤ a) && !ctCycle s then
      let m := ((a - nb.p) / (max 1 nb.geo.step : Nat)).toNat
      (nb.j + m, nb.col.map fun c => colSkip nb.geo c m)
    else match (s.ct.bnds.filter fun b => decide (b.p ≤ a)).getLast? with
      | some b => (b.j, b.col)
      | none => (s.ct.lastJ, s.ct.lastCol)
  mkw (j % 65536) 16 ||| (match col with | some c => mkw (c % 32768) 0 | none => Config.freeWord s.free &&& 0x7FFF)

/-- CT_STAT as it reads. -/
def ctStat (s : State) : Word :=
  mkb s.ct.run 0 ||| mkb s.ct.waitStart 1 ||| mkb s.ct.held 2 ||| mkb s.ct.blanked 3 ||| mkb s.ct.jump.isSome 4

end Sys2Proof.Machine
end

