-- ==== Sys2Proof/Machine/Exposure.lean ====
section
/-! DEFINITION. Exposure groups: enable, staging, fix and reload, triggers, commutation, trips, and what lands in their
registers (chapter 7). -/

namespace Sys2Proof.Machine

/-- EXGn_EVT bits. -/
def xeFixDone : Nat := 0
def xeMissed : Nat := 1
def xePairStale : Nat := 2
def xeTrip : Nat := 3
def xeCut : Nat := 4
def xeCbcLatch : Nat := 5
def xeComm : Nat := 6
def xeClrRefused : Nat := 7
def xeLocked : Nat := 8
def xeCfgErr : Nat := 9

/-- TRIP, CBC_LATCH and COMM_ERR raise records whatever EVTEN holds (R266). -/
def exgAlways (b : Nat) : Bool := b == xeTrip || b == xeCbcLatch || b == xeComm

def exgEvent (s : State) (g b : Nat) : State :=
  s.evtRaise (Reg.EXG_EVT g) (Reg.EXG_EVTEN g) (srcExg g) b (exgAlways b)

def exgSettle (s : State) (g : Nat) : State := settlePins s (groupPins g)

/-- The levels of the group's pins are formed again in 3 tb (R259, R261). -/
def exgSettleLater (s : State) (g : Nat) : State := forEach (groupPins g) s fun s n => s.after 3 (.pin n)

/-- TRIPPED latches with its cause; a latched group keeps its first cause, and outputs that a clear has left at their trip levels
stay there (R256, R259, R262–R264). -/
def exgLatch (s : State) (g cause b : Nat) : State :=
  if (s.exgAt g).tripped then s else
  let s1 := s.modExg g fun x => { x with tripped := true, cause := cause, tripTb := if x.clearing then x.tripTb else s.tb }
  let s2 := if s1.rb (Reg.EXG_CTL g) 14 then
      let s3 := s1.hwSetBit (Reg.EXG_EVT g) b
      raiseSafety s3 1 (srcExg g) (b + 1) (.word (s3.reg (Reg.EXG_EVT g) &&& 0xFFFF))
    else exgEvent s1 g b
  exgSettleLater s2 g

/-- CMPC of channel `c`, or the active BLKLO of a member's group; CMPD or BLKHI likewise (R260, Table 7-2). -/
def blkBound (s : State) (c x : Nat) : Word :=
  if exgMember s c then exgActive s (c / 8) (if x = 2 then 0x18 else 0x1C) else ((s.chAt c).slotAt x).cmp

/-- The group is blanked in this tb (R260). -/
def exgBlanked (s : State) (g : Nat) : Bool :=
  let b := s.reg (Reg.EXG_BLANK g)
  let c := fld b 6 0
  let n := chCount s c
  let lo := blkBound s c 2
  let hi := blkBound s c 3
  bitAt b 8 && (if lo ≤ hi then lo ≤ n && n < hi else lo ≤ n || n < hi)

/-- WIN and CBC_N as they act (R262). -/
def cbcWin (s : State) (g : Nat) : Nat := min 64 (max 1 (s.rf (Reg.EXG_CBCLIM g) 22 16))
def cbcN (s : State) (g : Nat) : Nat := min (cbcWin s g) (max 1 (s.rf (Reg.EXG_CBCLIM g) 14 8))

/-- Counting periods among the last WIN, the current one included (R262). -/
def cbcCount (s : State) (g : Nat) : Nat :=
  let x := s.exgAt g
  (if x.counted then 1 else 0) + ((x.hist.take (cbcWin s g - 1)).filter fun b => b).length

/-- A cut starts (R261, R262). -/
def exgCut (s : State) (g : Nat) : State :=
  let s1 := s.modExg g fun x => { x with cut := true, cutTb := s.tb, counted := true }
  let s2 := exgSettleLater (exgEvent s1 g xeCut) g
  if cbcCount s2 g ≥ cbcN s2 g then exgLatch s2 g 2 xeCbcLatch else s2

/-- Inputs asserted on the main path and on the cycle-by-cycle path; one in both acts on the main path (R257). -/
def tripMain (s : State) (g : Nat) : BitVec 16 := s.trip &&& (s.reg (Reg.EXG_TRIPMAP g)).extractLsb' 0 16
def tripCbc (s : State) (g : Nat) : BitVec 16 :=
  let m := s.reg (Reg.EXG_TRIPMAP g)
  s.trip &&& m.extractLsb' 16 16 &&& ~~~ (m.extractLsb' 0 16)

/-- The group's asserted inputs act unless it is blanked, by the count that the blanking channel has in this tb (R259–R262). -/
def exgJudge (s : State) (g : Nat) : State :=
  let bl := exgBlanked (ticksAhead s (s.rf (Reg.EXG_BLANK g) 6 0)) g
  let s1 := if tripMain s g != 0 && !(bl && s.rb (Reg.EXG_BLANK g) 9) then exgLatch s g 1 xeTrip else s
  if tripCbc s1 g != 0 && exgOn s1 g && !bl && !(s1.exgAt g).cut then exgCut s1 g else s1

/-- The pending mask pointer takes effect (R256). -/
def maskApply (s : State) (g : Nat) : State :=
  match (s.exgAt g).mpNext with
  | none => s
  | some (mp, t) =>
    if t ≤ s.tb then
      let s1 := s.modExg g fun x => { x with mp := mp, mpNext := none }
      let bad := bitAt (exgEntry s1 g) 16
      let s2 := if bad then (if (s1.exgAt g).tripped then exgEvent s1 g xeComm else exgLatch s1 g 3 xeComm) else s1
      exgSettle s2 g
    else s

/-- MP moves; the entry it selects governs from X + 2, or from the next period start (R255, R256). -/
def maskMove (s : State) (g mp : Nat) : State :=
  (s.modExg g fun x => { x with mpNext := some (mp, match x.mpNext with | some (_, t) => t | none => s.tb + 2) }).after 2 (.mask g)

/-- The mask entry of a new MP falls due without MSYNC (R256). -/
def maskDue (s : State) (g : Nat) : State := if s.rb (Reg.EXG_COMM g) 20 then s else maskApply s g

/-- A FIX becomes pending; in the tb of a reload MISSED_FIX sets (R250). -/
def fixPend (s : State) (g : Nat) : State :=
  let s1 := s.modExg g fun x => { x with fixTb := some s.tb, deferred := false }
  if (s.exgAt g).reloadTb == some s.tb then exgEvent s1 g xeMissed else s1

/-- A FIX lands; while one is pending it changes nothing, but for a reload of its own tb (R248, R250, R252). -/
def exgFixOp (s : State) (g : Nat) (force : Bool) : State :=
  let x := s.exgAt g
  if x.fixTb.isSome then s.modExg g fun x => { x with fixMore := some (s.tb, force) }
  else if !force && s.rb (Reg.EXG_CTL g) 15 && x.wPer != x.wDuty then
    exgEvent (s.modExg g fun x => { x with deferred := true }) g xePairStale
  else fixPend s g

/-- EXGn_PER sets W_PER, EXGn_DUTYk sets W_DUTY (R247). -/
def setsPer (o : Nat) : Bool := o == 0x10
def setsDuty (o : Nat) : Bool := 0x20 ≤ o && o < 0x40

/-- The flags of a staged write, and a deferred FIX that they complete (R247, R252). -/
def stageFlags (s : State) (g o : Nat) : State :=
  let s1 := s.modExg g fun x => { x with wPer := x.wPer || setsPer o, wDuty := x.wDuty || setsDuty o }
  let x := s1.exgAt g
  if x.deferred && x.wPer && x.wDuty then fixPend s1 g else s1

/-- The FIX that R251 makes pending for a staged write in the tb of a committing reload. -/
def lateWriteFix (s : State) (g : Nat) : State :=
  if (s.exgAt g).fixTb.isSome then s else
  let s1 := exgFixOp s g false
  if (s1.exgAt g).deferred then exgEvent s1 g xeMissed else s1

/-- A staged write lands (R247, R250–R252). -/
def exgStage (s : State) (g o : Nat) (w : Word) : State :=
  let a := exgBase g + o
  let old := s.reg a
  let seen := (s.exgAt g).late.any fun l => l.1 == o && l.2.2 == s.tb
  let s1 := if seen then s else s.modExg g fun x =>
    { x with late := (if exgOn s g then x.late else x.late.filter fun l => l.2.2 == s.tb) ++ [(o, old, s.tb)] }
  let s2 := s1.setReg a (mergeBits old w (regDesc a).rw)
  let x := s2.exgAt g
  let s3 := stageFlags s2 g o
  if x.reloadTb == some s.tb && x.reloadDone then lateWriteFix s3 g else s3

/-- The staged value of offset `o` as it stood at the end of tb R − 1 (R250). -/
def stagedBefore (s : State) (g o r : Nat) : Word :=
  match (s.exgAt g).late.find? fun l => l.1 == o && r ≤ l.2.2 with
  | some l => l.2.1
  | none => s.reg (exgBase g + o)

/-- The active value of offset `o` becomes `w`. -/
def setActive (s : State) (g o : Nat) (w : Word) : State := s.setReg (exgBase g + o + 0x80) w

/-- Active EXGn_RELOAD.N as it acts (R249). -/
def exgN (s : State) (g : Nat) : Nat := min 256 (max 1 (fld (exgActive s g 0x14) 8 0))

/-- Staged writes that land in the tb of a committing reload set their flags again and make their own FIX (R251). -/
def relate (s : State) (g r : Nat) : State :=
  let writes := (s.exgAt g).late.filter fun l => r ≤ l.2.2
  if writes.isEmpty then s else lateWriteFix (forEach writes s fun s l => stageFlags s g l.1) g

/-- The staged values as they stood at the end of tb R − 1 become active, and the flags and the FIX clear (R246, R250). -/
def exgTake (s : State) (g r : Nat) : State :=
  (forEach exgStagedOffsets s fun s o => setActive s g o (stagedBefore s g o r)).modExg g fun x =>
    { x with wPer := false, wDuty := false, fixTb := none, fixMore := none, deferred := false, reloadTb := some r, reloadDone := true }

/-- The commit of a reload at R; a FIX that landed in R beside the one committed stays pending (R250, R251). -/
def exgCommit (s : State) (g r : Nat) : State :=
  let s1 := relate ((exgTake s g r).after 1 (.exgDone g)) g r
  match (s.exgAt g).fixMore with
  | some (t, force) => if t = r then exgFixOp s1 g force else s1
  | none => s1

/-- A reload falls due: N periods have ended since the last (R249, R250). -/
def exgReload (s : State) (g : Nat) : State :=
  let x := s.exgAt g
  if !exgOn s g || x.phase < exgN s g then s else
  let r := x.startTb
  let s1 := s.modExg g fun x => { x with phase := 0, reloadTb := some r, reloadDone := false }
  match x.fixTb with
  | some f => if f < r then exgCommit s1 g r else if f = r then exgEvent s1 g xeMissed else s1
  | none => s1

/-- RELOAD of group `g` stands in the queue, and PERIOD_START does (R250). -/
def reloadWaits (s : State) (g : Nat) : Bool := s.pending.any fun c => match c with | .reload h => h.val == g | _ => false
def startWaits (s : State) (g : Nat) : Bool := s.pending.any fun c => match c with | .periodStart h => h.val == g | _ => false

/-- A period of group `g` in tb (R243). -/
def exgPeriod (s : State) (g : Nat) : Nat := exgPer s g * (exgPresc s g + 1)

/-- What every period start does to cuts, masks and cleared trips (R256, R261–R263). -/
def periodBegins (s : State) (g : Nat) : State :=
  let s1 := s.modExg g fun x => { x with cut := false, clearing := false, counted := false, late := x.late.filter fun l => x.startTb ≤ l.2.2 }
  let s2 := if s1.rb (Reg.EXG_COMM g) 20 then maskApply s1 g else s1
  exgJudge (exgSettle s2 g) g

/-- A period start: the members wrap (R243, Table 3-3). A reload that the queue holds for this tb comes first: its values
govern the period from its first tb on (R250). -/
def periodStartOp (s : State) (g : Nat) : State :=
  let x := s.exgAt g
  if !exgOn s g || s.tb < x.startTb + exgPeriod s g then s else
  let s1 := s.modExg g fun x =>
    { x with startTb := x.startTb + exgPeriod s g, phase := x.phase + 1, hist := (x.counted :: x.hist).take 63 }
  let s2 := forEach (List.range (exgWidth s g)) s1 fun s j =>
    let n := 8 * g + j
    if n + 1 < 128 && chClk s (n + 1) == 3 then sourceEvent s (n + 1) false else s
  periodBegins (if reloadWaits s2 g then exgReload s2 g else s2) g

/-- RELOAD: its period start comes before it (R249, R250). -/
def exgReloadOp (s : State) (g : Nat) : State := exgReload (if startWaits s g then periodStartOp s g else s) g

/-- What commands of this tb meet: a period start and a reload that the queue holds for the tb have come before them (R250). -/
def exgAhead (s : State) (g : Nat) : State :=
  let s1 := if startWaits s g then periodStartOp s g else s
  if reloadWaits s g then exgReload s1 g else s1

/-- What becomes of a FIX at a start in tb S: one that was pending is done; one that landed in S itself waits for the next reload
(R246, R250). -/
def startFix (s : State) (g : Nat) (was : Exg) : State :=
  match was.fixTb with
  | some f => if f < s.tb then s.after 1 (.exgDone g) else exgFixOp s g true
  | none => s

/-- EN = 1 lands in S: members join, staged values commit, S is a period start and a reload (R242, R246, R251). -/
def exgStart (s : State) (g : Nat) : State :=
  let s0 := s.setRf (Reg.EXG_CTL g) 0 0 1
  let s1 := forEach (List.range (exgWidth s0 g)) s0 fun s j => memberJoin s (8 * g + j)
  let s2 := (exgTake s1 g s.tb).modExg g fun x => { x with startTb := s.tb, phase := 0, hist := [] }
  periodBegins (startFix (relate s2 g s.tb) g (s.exgAt g)) g

/-- A group's configuration does not let it start (R265). -/
def exgRefused (s : State) (g : Nat) : Bool :=
  let c := s.reg (Reg.EXG_COMM g)
  (fld c 1 0 == 1 && fld c 14 8 / 8 == g && fld c 14 8 % 8 < exgWidth s g) || (fld c 1 0 == 2 && fld c 14 8 > 125)

/-- EN = 1, or a bit of EXG_GO, for a group that is not enabled (R246, R265). -/
def exgEnableOp (s : State) (g : Nat) : State :=
  if exgOn s g then s else if exgRefused s g then exgEvent s g xeCfgErr else exgStart s g

/-- EN = 0 lands: membership ends and every output drives its IDLE level (R242, R246). -/
def exgDisableOp (s0 : State) (g : Nat) : State :=
  if !exgOn s0 g then s0 else
  let w := exgWidth s0 g
  let s1 := (s0.setRf (Reg.EXG_CTL g) 0 0 0).modExg g fun x => { x with cut := false }
  exgSettle (forEach (List.range w) s1 fun s j => memberLeave s (8 * g + j) (chCount s0 (8 * g + j))) g

/-- Fields of EXGn_CTL, EXGn_COMM and EXGn_MTABm that only a disabled group takes (R265). -/
def exgLockedMask (o : Nat) : Word :=
  if o = 0 then 0xFF000074 else if o = 0x64 then 0xFFFFFFFF else if 0x70 ≤ o ∧ o < 0x90 then 0xFFFFFFFF else 0

/-- The stored bits of a write of `w` at offset `o`; a write to locked fields while EN is 1 is discarded for them and sets
CFG_LOCKED (R265). -/
def exgStore (s : State) (g o : Nat) (w : Word) (keep : Word) : State :=
  let a := exgBase g + o
  let d := regDesc a
  let old := s.reg a
  let live := (d.rw ||| d.rws) &&& ~~~ keep
  let m := if exgOn s g then live &&& ~~~ (exgLockedMask o) else live
  let s1 := s.setReg a (mergeBits old w m)
  if live &&& ~~~ m != 0 then exgEvent s1 g xeLocked else s1

/-- EXGn_CTL lands (R246, R265). -/
def exgCtlWrite (s : State) (g : Nat) (w : Word) : State :=
  let s1 := exgStore s g 0 w 1
  if bitAt w 0 then exgEnableOp (if exgOn s1 g then s1 else exgSettle s1 g) g
  else exgSettle (exgDisableOp s1 g) g

/-- A change of a trip input makes it asserted in this tb (R257). -/
def tripAccepted (s : State) (e : TripEdge) : Bool :=
  let c := s.reg (Reg.TRIP_CFG e.i.val)
  let flt := fld c 7 0
  bitAt c 9 && e.lvl != bitAt c 8 && decide (s.tb = (e.edge.stamp + 15) / 16 + flt) && gfHolds flt e.edge.stamp e.edge.back

/-- The inputs that assertions in the queue make asserted in this tb (R263). -/
def tripsComing (s : State) : BitVec 16 :=
  s.pending.foldl (fun m c => match c with
    | .tripAssert e => if tripAccepted s e then m ||| BitVec.ofNat 16 (2 ^ e.i.val) else m
    | _ => m) 0

/-- TRIP_CLR from a secure master lands in tb L; an assertion in L prevails (R263). -/
def tripClrOp (s : State) (g : Nat) : State :=
  let m := s.reg (Reg.EXG_TRIPMAP g)
  if (s.trip ||| tripsComing s) &&& (m.extractLsb' 0 16 ||| m.extractLsb' 16 16) != 0 || bitAt (exgEntry s g) 16 then exgEvent s g xeClrRefused
  else s.modExg g fun x =>
    { x with clearing := x.clearing || (x.tripped && exgOn s g), tripped := false, cause := 0, counted := false, hist := [] }

/-- EXGn_CMD.COMM_SET (R255). -/
def commSetOp (s : State) (g mp : Nat) : State := maskMove s g mp

/-- EXGn_CMD lands: DISCARD and FIX are taken after a reload of their tb, DISCARD before a FIX of the same write (R250, R252, R255,
R263). -/
def exgCmdWrite (s : State) (g : Nat) (w : Word) : State :=
  let s1 := if bitAt w 4 then commSetOp s g (fld w 10 8) else s
  let s2 := if bitAt w 3 then tripClrOp s1 g else s1
  let s2 := if fld w 2 0 = 0 then s2 else exgAhead s2 g
  let s3 := if bitAt w 2 then exgDiscard s2 g else s2
  if bitAt w 1 then exgFixOp s3 g true else if bitAt w 0 then exgFixOp s3 g false else s3

/-- EXG_GO lands: the selected groups start in one tb (R246). -/
def exgGoOp (s : State) (w : Word) : State := forEach (bitsOf 16 w.toNat) s exgEnableOp

/-- A register of group `g` lands (Table 7-8). New trip maps and blanking are judged at the end of the tb, once the counts of the tb
stand (R260). -/
def exgWrite (s : State) (g o : Nat) (w : Word) : State :=
  if o = 0 then exgCtlWrite s g w
  else if o = 0x0C then exgCmdWrite s g w
  else if exgStagedOffsets.contains o then exgStage s g o w
  else
    let s1 := exgStore s g o w 0
    if o = 0x54 ∨ o = 0x58 then s1.after 0 (.judge g)
    else if o = 0x5C ∨ o = 0x60 ∨ (0x70 ≤ o ∧ o < 0x90) then exgSettle s1 g
    else s1

/-- EXGn_STAT (FIX_PEND clears with FIXDONE at R + 1, Table 7-4). -/
def exgStat (s : State) (g : Nat) : Word :=
  let x := s.exgAt g
  let pend := x.fixTb.isSome || s.due.any fun d => d.2 == .exgDone g
  mkw x.mp 24 ||| mkw (cbcCount s g) 16 ||| mkw x.cause 8 ||| mkb x.tripped 7 ||| mkb x.cut 6 ||| mkb (exgBlanked s g) 5
  ||| mkb x.wDuty 4 ||| mkb x.wPer 3 ||| mkb x.deferred 2 ||| mkb pend 1 ||| mkb (exgOn s g) 0

/-- The group count becomes `v` in this tb. -/
def countBecomes (s : State) (g v : Nat) : Bool :=
  exgCount s g == v && (s.tb - (s.exgAt g).startTb) % (exgPresc s g + 1) == 0
    && s.tb - (s.exgAt g).startTb < exgPeriod s g

/-- Trigger compare `k` fires (R253, R254). -/
def triggerFireOp (s : State) (g k : Nat) : State :=
  let r := fld (s.reg (Reg.EXG_TRGCFG g)) (8 * k + 7) (8 * k)
  let v := fld (exgActive s g (0x40 + 4 * k)) 27 0
  if exgOn s g && r.testBit 3 && v < exgPer s g && countBecomes s g v then
    let m := r % 8
    let e := s.tb + max 1 (s.rf (Reg.TRG_CFG m) 7 0)
    { s with trgEnd := vmodN s.trgEnd m fun o => match o with | some f => some (if s.tb < f then max f e else e) | none => some e }
  else s

/-- The pulse of TRG pin `m` ends (R254). -/
def trgPulseEndOp (s : State) (m : Nat) : State :=
  { s with trgEnd := vmodN s.trgEnd m fun o => match o with | some f => if f ≤ s.tb then none else some f | none => none }

/-- Slot A of channel `c` fires in this tb (Table 7-5). -/
def slotAFires (s : State) (c : Nat) : Bool :=
  let l := ((s.chAt c).slotAt 0).lastFire
  if exgMember s c then
    l == some (s.exgAt (c / 8)).startTb && countBecomes s (c / 8) ((exgEdges s (c / 8) (c % 8)).1 / 16)
  else l == some s.tb

/-- A commutation event of source `src`, which moves the pointer of a group that selects it (Table 7-5). -/
def commutationOp (s : State) (g src : Nat) : State :=
  let c := s.reg (Reg.EXG_COMM g)
  let len := fld c 6 4 + 1
  let x := s.exgAt g
  let cur := match x.mpNext with | some (m, _) => m | none => x.mp
  let step (b : Bool) : Nat := if b != bitAt c 3 then (cur % len + len - 1) % len else (cur + 1) % len
  let p := fld c 14 8
  if fld c 1 0 ≠ src then s else
  match src with
  | 1 => if slotAFires s p then maskMove s g (step false) else s
  | 2 =>
    if [p, p + 1, p + 2].any fun n => (s.pinAt n).accTb == s.tb then
      maskMove s g (ofBool (tioIn s p) + 2 * ofBool (tioIn s (p + 1)) + 4 * ofBool (tioIn s (p + 2)))
    else s
  | 3 => match (s.spkAt (fld c 18 16)).pub with
    | some (t, rev) => if t = s.tb then maskMove s g (step rev) else s
    | none => s
  | _ => s

def groups16 : List Nat := List.range 16

/-- TRIPi becomes asserted or ceases to be (R257). -/
def tripSet (s : State) (i : Nat) (on : Bool) : State :=
  let bit : BitVec 16 := BitVec.ofNat 16 (2 ^ i)
  { s with trip := if on then s.trip ||| bit else s.trip &&& ~~~ bit }

/-- TRIP_ASSERT (R257). Period starts that the queue holds for the tb have come before it (R260–R262). -/
def tripAssertOp (s : State) (e : TripEdge) : State :=
  if tripAccepted s e then forEach groups16 (tripSet (forEach groups16 s exgAhead) e.i.val true) exgJudge else s

/-- TRIP_CFGi lands: an input with EN = 0 is never asserted (R257). -/
def tripCfgWrite (s : State) (i : Nat) (w : Word) : State :=
  let a := Reg.TRIP_CFG i
  let s1 := s.setReg a (mergeBits (s.reg a) w (regDesc a).rws)
  if s1.rb a 9 then s1 else tripSet s1 i false

/-- A blanking window ends: inputs still asserted act (R260). -/
def blankingEndOp (s : State) (g : Nat) : State := if exgBlanked s g then s else exgJudge s g

end Sys2Proof.Machine
end

