-- ==== Sys2Proof/Machine/Sprocket.lean ====
section
/-! DEFINITION. Sprocket units: edges, the estimator, reference checks, sync states, reversals, missed and virtual teeth, stop
detection, the journal and phase measurement (chapter 2). -/

namespace Sys2Proof.Machine

/-- SPKn_EVT bits. -/
def seStateChg : Nat := 0
def seMissed : Nat := 2
def seNoise : Nat := 3
def seMismatch : Nat := 4
def sePass : Nat := 5
def seReversal : Nat := 6
def seStop : Nat := 7
def seStart : Nat := 8
def seShort : Nat := 9
def seFault : Nat := 10
def seQuickFail : Nat := 11
def seCfgErr : Nat := 12
def seCfgLocked : Nat := 13
def seReacq : Nat := 14
def seJournal : Nat := 15

/-- The source of a SPKn_EVT bit among the unit's four; none for NOISE and REF_PASS (Table 2-7). -/
def spkGroup (b : Nat) : Option Nat :=
  match b with
  | 0 | 14 => some 0
  | 2 | 4 | 9 | 10 => some 1
  | 6 | 7 | 8 | 11 | 12 | 13 | 15 => some 2
  | _ => none

def spkEvent (s : State) (n b : Nat) : State :=
  let s1 := s.hwSetBit (Reg.SPK_EVT n) b
  match spkGroup b with
  | some i => s1.raise0 (srcSpk n i) 1 (.reg (Reg.SPK_EVT n) 0xFFFF)
  | none => s1

/-- A change of GUARD_OK reaches the gates 2 tb later (R73). -/
def spkGuardNote (before s : State) (n : Nat) : State :=
  if spkGuardOk before n != spkGuardOk s n then s.after 2 (.guard n (spkGuardOk s n)) else s

/-- T_VALID clears, and have_ref with it (R55). -/
def Spk.clearT (u : Spk) : Spk :=
  { u with tValid := false, haveRef := false, tFresh := false, vis := { u.vis with tValid := false } }

/-- The position, cycle count and PHYS are set without a tooth: they show at once (Table 2-5, R66). -/
def Spk.showSet (u : Spk) : Spk := { u with vis := { u.vis with pos := u.pos, cyc := u.cyc, phys := u.phys, hold := none } }

/-- Teeth of unit `n` on their way to publication or to the calendar are dropped: its position has been set anew. -/
def dropTeeth (s : State) (n : Nat) : State :=
  { s with due := s.due.filter fun p => match p.2 with
      | .spkPub m _ _ _ => m != n
      | .spkTooth m _ _ _ => m != n
      | _ => true }

/-- STATE_CHG; the entry to LOST of a unit in SPK_MASK is a safety-class fault (Table 9-4). -/
def spkChanged (s : State) (n : Nat) (lost : Bool) : State :=
  let s1 := s.hwSetBit (Reg.SPK_EVT n) seStateChg
  let d : Detail := .reg (Reg.SPK_EVT n) 0xFFFF
  if lost && s.rb Reg.SAFE_ESC (8 + n) then raiseSafety s1 3 (srcSpk n 0) 1 d else s1.raise0 (srcSpk n 0) 1 d

/-- Entry to LOST (R65–R67, R72, R146, R218). -/
def spkLost (s : State) (n : Nat) : State :=
  let s1 := s.modSpk n fun u =>
    { u.enter s.tb .lost with
      fwd := 0, heldCyc := u.cyc, revHold := none, virtq := [], ev := none, mirInGap := false, recover := 0,
      vis := { u.vis with hold := none } }
  let s2 := spkChanged (s1.bump (Reg.SPK_ERRCNT1 n) 31 16) n true
  ctLost (calOnLost s2 n) n

/-- Entry to ACQUIRE (R55, R66, R67, R72, R218). -/
def spkAcquire (s : State) (n : Nat) : State :=
  let was := (s.spkAt n).st
  let s1 := s.modSpk n fun u =>
    { u.clearT.enter s.tb .acquire with
      fwd := 0, heldCyc := u.cyc, measured := 0, index := false, recover := 0, revHold := none, virtq := [], ev := none,
      vis := { u.clearT.vis with hold := none } }
  if was = .acquire then s1 else ctLost (spkChanged s1 n false) n

/-- The unit moves between states with a valid position, or to one. -/
def spkTo (s : State) (n : Nat) (st : SyncState) : State :=
  let was := (s.spkAt n).st
  if was = st then s else
  let s1 := spkChanged (s.modSpk n fun u => u.enter s.tb st) n false
  if was.valid then s1 else ctBack s1 n

/-- PHYS at an entry to SYNCED at PRESET (R48). -/
def presetPhys (s : State) (n : Nat) : Nat :=
  (s.rf (Reg.SPK_PRESET n) 31 16 + s.rf (Reg.SPK_CYCLE n) 31 16) % spkTeeth s n

/-! The journal (R75–R77). -/

def journalAt (n : Nat) : Nat := 0x100 + 0x20 * n

def journalWord (s : State) (n i : Nat) : Word := memWord s.keep (journalAt n + 4 * i)

/-- The record is written with its sequence advanced and its CRC (R76). Whether the write fails is free; a write that fails
sets JOURNAL_ERR and leaves the record free (R75, log entry 41). -/
def journalPut (s : State) (n : Nat) (w0 : Word) (ws : List Word) : State :=
  let seq := fld (journalWord s n 0) 31 24 + 1
  let body := (setFld w0 31 24 (seq % 256) :: ws).flatMap wordBytes
  let good := body ++ wordBytes (mkw (crc16 body) 0)
  let bad := (List.range 8).flatMap fun i => wordBytes (Config.freeWord (s.free + 1 + i))
  let fails := Config.freeBool s.free
  let s1 := { s with keep := setBytes s.keep (journalAt n) (if fails then bad else good), free := s.free + 9 }
  if fails then spkEvent s1 n seJournal else s1

/-- VALID = 1 at a stop (R75): the last accepted tooth's position, PHYS and direction. -/
def journalWrite (s : State) (n : Nat) : State :=
  let u := s.spkAt n
  journalPut s n (mkw n 0 ||| mkw s.boot.active 4 ||| mkw 1 8 ||| mkb u.toothRev 9)
    [u.pos, u.cyc, mkw u.phys 0 ||| mkw (s.rf (Reg.SPK_WHEEL n) 15 0) 16, s.reg (Reg.SPK_CYCLE n),
     mkw (s.rf (Reg.SPK_WHEEL n) 18 16) 0 ||| mkw (spkRef s n) 4, lo32 s.tb]

/-- The record is rewritten with VALID = 0 (R75). -/
def journalVoid (s : State) (n : Nat) : State :=
  journalPut s n (clearBit (journalWord s n 0) 8) ((List.range 6).map fun i => journalWord s n (i + 1))

/-- R77. -/
def journalUsable (s : State) (n : Nat) : Bool :=
  let w0 := journalWord s n 0
  let body := (List.range 7).flatMap fun i => wordBytes (journalWord s n i)
  bitAt w0 8 && fld (journalWord s n 7) 15 0 == crc16 body && fld w0 2 0 == n && fld w0 7 4 == s.boot.active
  && fld (journalWord s n 3) 31 16 == s.rf (Reg.SPK_WHEEL n) 15 0 && journalWord s n 4 == s.reg (Reg.SPK_CYCLE n)
  && fld (journalWord s n 5) 2 0 == s.rf (Reg.SPK_WHEEL n) 18 16 && fld (journalWord s n 5) 5 4 == spkRef s n
  && (spkRef s n == 1 || spkRef s n == 2)

/-! Enable, disable and RESYNC (Table 2-5). -/

/-- R85, with the fields of the write already applied (R84). -/
def spkRefused (s : State) (n : Nat) : Bool :=
  let teeth := s.rf (Reg.SPK_WHEEL n) 15 0
  let g := s.rf (Reg.SPK_WHEEL n) 18 16
  let lo := s.rf (Reg.SPK_GAPWIN n) 7 0
  teeth == 0 || s.rf (Reg.SPK_CYCLE n) 15 0 == 0 || s.rf (Reg.SPK_CYCLE n) 31 16 ≥ teeth
  || s.rf (Reg.SPK_CTL n) 10 9 == 3 || spkRef s n == 3
  || (spkRef s n == 1 && (g == 0 || teeth < g + 3 || lo < 0x19 || s.rf (Reg.SPK_GAPWIN n) 23 16 ≤ lo))

/-- The live estimator and window fields as the registers hold them (R84). -/
def spkCfgNow (s : State) (n : Nat) : SpkCfg :=
  { alpha := s.rf (Reg.SPK_CTL n) 10 9, win := s.reg (Reg.SPK_WIN n), recov := s.rf (Reg.SPK_GAPWIN n) 31 24,
    floor := s.rf (Reg.SPK_MISS n) 15 0 }

/-- An accepted tooth puts the live estimator and window fields into effect (R84). -/
def spkAdopt (s : State) (n : Nat) : State := s.modSpk n fun u => { u with cfg := spkCfgNow s n }

/-- OFF with EN written 1 (Table 2-5). -/
def spkEnableOp (s : State) (n : Nat) : State :=
  let u := s.spkAt n
  let fresh : Spk := { Spk.reset with
    pos := u.pos, cyc := u.cyc, phys := u.phys, stamp := u.stamp, heldCyc := u.cyc, enTb := s.tb, fifo := u.fifo,
    tPrev := u.tPrev, tLast := u.tLast, tPrior := u.tPrior, lvlA := u.lvlA, lvlB := u.lvlB, lvlZ := u.lvlZ,
    phNew := u.phNew, phLost := u.phLost, cfg := spkCfgNow s n,
    vis := { u.vis with tValid := false, hold := none } }
  let s := dropTeeth s n
  let quick := s.rb (Reg.SPK_CTL n) 11 && spkRef s n != 0
  if spkRef s n = 0 then
    spkTo (s.modSpk n fun _ => Spk.showSet { fresh with
      pos := s.reg (Reg.SPK_PRESET n), cyc := s.reg (Reg.SPK_CYC_INIT n), phys := presetPhys s n, everSync := true }) n .synced
  else if quick && journalUsable s n then
    spkTo (s.modSpk n fun _ => Spk.showSet { fresh with
      pos := journalWord s n 1, cyc := journalWord s n 2, phys := fld (journalWord s n 3) 15 0,
      dirRev := bitAt (journalWord s n 0) 9, toothRev := bitAt (journalWord s n 0) 9, everSync := true }) n .quick
  else
    let s1 := spkAcquire (s.modSpk n fun _ => fresh) n
    if quick then spkEvent s1 n seQuickFail else s1

/-- EN written 0 (Table 2-5). -/
def spkDisableOp (s : State) (n : Nat) : State :=
  if (s.spkAt n).st = .off then s else
  let s1 := s.modSpk n fun u =>
    { u.clearT.enter s.tb .off with
      resync := false, fwd := 0, missn := 0, dirRev := false, stopped := false, lastSyn := false, revHold := none,
      virtq := [], ev := none, mirInGap := false, mirGuard := false,
      vis := { u.clearT.vis with hold := none } }
  ctLost (calOnLost (spkChanged (dropTeeth s1 n) n false) n) n

/-- SPKn_CTL lands (R84, R85). -/
def spkWriteCtl (s : State) (n : Nat) (w0 : Word) : State :=
  let a := Reg.SPK_CTL n
  let old := s.reg a
  let w := w0 &&& (regDesc a).rw
  let live : Word := 0x1E01
  let s' := if bitAt old 0 then
      let lockedOut := (w ^^^ old) &&& ~~~live != 0
      let badAlpha := fld w 10 9 == 3
      let w1 := mergeBits old w live
      let w2 := if badAlpha then setFld w1 10 9 (fld old 10 9) else w1
      let s1 := s.setReg a w2
      let s2 := if lockedOut then spkEvent s1 n seCfgLocked else s1
      let s3 := if badAlpha then spkEvent s2 n seCfgErr else s2
      if bitAt w 0 then s3 else spkDisableOp s3 n
    else
      let s1 := s.setReg a (clearBit w 0)
      if !bitAt w 0 then s1
      else if spkRefused s1 n then spkEvent s1 n seCfgErr
      else spkEnableOp (s1.setReg a w) n
  spkGuardNote s s' n

/-- SPKn_CMD.RESYNC is commanded: it is applied after any hardware transition of the cc (Table 2-5). -/
def spkResync (s : State) (n : Nat) : State :=
  if (s.spkAt n).st = .off then s else s.modSpk n fun u => { u with resync := true }

/-- RESYNC is applied (Table 2-5, R66). -/
def spkResyncDo (s : State) (n : Nat) : State :=
  if (s.spkAt n).st = .off then s else
  let s' := if spkRef s n = 0 then
      let p := s.reg (Reg.SPK_PRESET n)
      let s1 := (dropTeeth s n).modSpk n fun u =>
        Spk.showSet { u with pos := p, phys := presetPhys s n, revHold := none, virtq := [], ev := none }
      calExpire (calOnLost (spkTo s1 n .synced) n) n p (s.spkAt n).cyc
    else calOnLost (spkAcquire s n) n
  spkGuardNote s s' n

/-! Teeth. -/

/-! The live fields of SPKn_WIN as they act (R84); SHORT_LIM is at least NW. -/

def spkNw (s : State) (n : Nat) : Nat := min 12 (fld (s.spkAt n).cfg.win 3 0)
def spkShort (s : State) (n : Nat) : Nat := max (fld (s.spkAt n).cfg.win 11 8) (spkNw s n)
def spkHoldMax (s : State) (n : Nat) : Nat := max 1 (fld (s.spkAt n).cfg.win 22 20)
def spkAcqMin (s : State) (n : Nat) : Nat := max 2 (s.rf (Reg.SPK_WIN n) 19 16)
def spkMissMax (s : State) (n : Nat) : Nat := max 1 (fld (s.spkAt n).cfg.win 27 24)

/-- clamp(iv + α(iv − t_prev), iv/2, 2 iv), rounded to nearest with halves up; `a` is α in halves (R53, R54). -/
def predNext (a iv prev : Nat) : Nat :=
  let x : Int := 2 * iv + a * ((iv : Int) - prev)
  ((max (iv : Int) (min x (4 * iv)) + 1) / 2).toNat

/-- The estimator update of an accepted real tooth (R53): the unit, whether a measured interval came of it, and whether
SHORT_RESTART sets. An interval too short for the estimator leaves SPKn_TLAST and SPKn_TPREV (log entry 56). -/
def estimate (u : Spk) (stamp s alpha short holdMax : Nat) : Spk × Bool × Bool :=
  if !u.haveRef then ({ u with haveRef := true, tRef := stamp, sRef := 0 }, false, false) else
  let iv := (2 * ((stamp - u.tRef) * 256) + s) / (2 * max 1 s)
  let u1 := { u with tRef := stamp, sRef := 0 }
  if iv > 0x0FFFFFFF * 4096 then (u1.clearT, false, false)
  else if !u.tValid then
    ({ u1 with tPred := iv, tPrev := iv, tLast := some iv, tPrior := some iv, tValid := true, holds := 0, tFresh := true }, true, false)
  else if iv * 16 < short * u.tPred then
    if u.holds + 1 ≥ holdMax then ({ u1 with tPred := iv, tPrev := iv, tLast := some iv, tPrior := some iv, holds := 0, tFresh := false }, true, true)
    else ({ u1 with holds := u.holds + 1, tFresh := false }, true, false)
  else
    ({ u1 with holds := 0, tPred := predNext alpha iv u.tPrev, tPrev := iv, tLast := some iv, tPrior := u.tLast,
               tFresh := false }, true, false)

/-- The estimator runs, or an interval that is not used ends at this tooth (R53). -/
def spkEstimate (s : State) (n stamp sp : Nat) (used : Bool) : State :=
  let u := s.spkAt n
  if used then
    let (u1, measured, short) :=
      estimate u stamp sp u.cfg.alpha (spkShort s n) (spkHoldMax s n)
    let u2 := if measured && u.st == .acquire then { u1 with measured := u1.measured + 1 } else u1
    let s1 := s.modSpk n fun _ => u2
    if short then spkEvent s1 n seShort else s1
  else s.modSpk n fun u => { u with haveRef := true, tRef := stamp, sRef := 0, tFresh := false }

/-- What every accepted real tooth does besides the estimator: START, FWD and the stop time (R72, R74, R75). -/
def spkRealSeen (s : State) (n stamp : Nat) : State :=
  let s1 := if (s.spkAt n).stopped then
      journalVoid (spkEvent (s.modSpk n fun u => { u with stopped := false }) n seStart) n else s
  s1.modSpk n fun u => { u with
    realStamp := stamp, stopFrom := none, haveReal := true, haveTooth := true, stamp := stamp, lastSyn := false, toothRev := u.dirRev,
    fwd := if u.dirRev then u.fwd else min 255 (u.fwd + 1) }

/-- The position moves to the next expected tooth, with PHYS (R48, R49, R69). -/
def spkAdvance (s : State) (n : Nat) : State :=
  let (d, q, _) := spkNext s n
  let u := s.spkAt n
  let (p, c) := movePos (spkK s n) u.pos u.cyc d
  s.modSpk n fun u => { u with pos := p, cyc := c, phys := q, revHold := none }

/-- From the last accepted tooth to the missing position `m` of 1 to g before the next expected real tooth (R52). A mirrored unit's gap
follows its last tooth (R413). -/
def gapMove (s : State) (n g m : Nat) : Int :=
  let u := s.spkAt n
  if u.mirInGap then (if u.dirRev then -((m * pitch : Nat) : Int) else (m * pitch : Nat))
  else
    let left : Int := ((g + 1 - m) * pitch : Nat)
    if u.dirRev then (spkNext s n).1 + left else (spkNext s n).1 - left

/-- The virtual teeth before the next expected real tooth, where that lies beyond the gap (R52). -/
def virtualTeeth (s : State) (n : Nat) : List (Nat × Tooth) :=
  let u := s.spkAt n
  let g := if u.mirInGap then u.mirGap else spkGap s n
  if !spkInGap s n then [] else
  (List.range g).map fun i =>
    let v := u.stamp * 256 + (i + 1) * u.pred
    let (p, c) := movePos (spkK s n) u.pos u.cyc (gapMove s n g (i + 1))
    (v, { stamp := round16 v, pos := p, cyc := c, span := 1, tPred := u.pred })

/-- A tooth event reaches the calendar, the contact engine and the threads (R52, R139, R215, Table 5-2). -/
def toothOut (s : State) (n : Nat) (t : Tooth) (real : Bool) (prev : Option Tooth) : State :=
  let s1 := evpTooth s n
  if !(s1.spkAt n).st.valid then s1 else
  let s2 := s1.modSpk n fun u => { u with ev := some t }
  ctTooth (calTooth s2 n t real prev) n t real

/-- F + 10 or D + 6: the tooth is published, with the history that phases and times are taken from, and counters of
teeth count it (Table 1-2, Table 3-3). A tooth on its way when a reversal is decided is still published (log entry 55). -/
def publishTooth (s : State) (n : Nat) (v : SpkView) (t : Tooth) (rev : Bool) : State :=
  toothEvents (s.modSpk n fun u =>
    { u with pub := some (s.tb, rev), hist := ((if u.tValid then t else { t with tPred := tPredAll }) :: u.hist).take 4, vis := { v with tValid := v.tValid && u.tValid } }) n rev

/-- F + 12 or D + 8: the tooth reaches the calendar, the contact engine and the threads (Table 4-4, Table 5-2). -/
def toothArrives (s : State) (n : Nat) (t : Tooth) (real : Bool) (prev : Option Tooth) : State :=
  toothOut s n (if (s.spkAt n).tValid then t else { t with tPred := tPredAll }) real prev

/-- The virtual teeth to come, after a tooth: a real tooth ends those of the pitch before it (R52). -/
def queueVirtual (s : State) (n : Nat) (real : Bool) : State :=
  let u := s.spkAt n
  let kept := if real then u.virtq.filter fun v => decide (v.1 < u.stamp * 256) else u.virtq
  s.modSpk n fun u => { u with virtq := kept ++ virtualTeeth s n }

/-- T_VALID has cleared after the last tooth: the virtual teeth whose nominal time has not passed follow the period that every
consumer uses then (R52, R55). -/
def requeueVirtual (s : State) (n : Nat) : State :=
  let u := s.spkAt n
  let past := u.virtq.filter fun v => decide (v.1 ≤ s.tb * 4096)
  let left := u.virtq.length - past.length
  let all := virtualTeeth s n
  s.modSpk n fun u => { u with virtq := past ++ all.drop (all.length - left) }

/-- An accepted tooth, at its decision: it is published 6 tb later, and reaches the calendar 8 tb later (Table 1-2, R59). -/
def spkPublish (s : State) (n : Nat) (real : Bool) : State :=
  let t := lastTooth s n
  let s := if real && (s.spkAt n).st.valid && (s.spkAt n).phys == 0 then
      s.modSpk n fun u => { u with zeros := (u.stamp :: u.zeros).take 8 } else s
  ((queueVirtual s n real).after 6 (.spkPub n (spkView s n) t (s.spkAt n).dirRev)).after 8 (.spkTooth n t real none)

/-- A rejected edge (R44, R56). -/
def spkNoise (s : State) (n : Nat) : State := spkEvent (s.bump (Reg.SPK_ERRCNT0 n) 15 0) n seNoise

/-- The outcome of a reference check. -/
inductive RefCheck where
  | none | pass | fail
  deriving DecidableEq, Repr

/-- The reference check of an accepted real tooth at `stamp` (R60, R61; Table 2-3). -/
def refCheck (s : State) (n stamp : Nat) : RefCheck :=
  let u := s.spkAt n
  let (_, q, gap) := spkNext s n
  if spkRef s n = 1 then
    if !u.tValid || u.tFresh then .none else
    let r := (stamp - u.stamp) * 4096
    let below := decide (r < s.rf (Reg.SPK_GAPWIN n) 7 0 * u.tPred)
    let above := decide (r > s.rf (Reg.SPK_GAPWIN n) 23 16 * u.tPred)
    if gap then (if below || above then .fail else .pass) else if below then .none else .fail
  else if spkRef s n = 2 then
    let expected := q == if u.dirRev then spkTeeth s n - 1 else 0
    if u.index && expected then .pass else if u.index || expected then .fail else .none
  else .none

/-- The physical position of the tooth that synchronises the unit: 0, and in reverse its counterpart in the mirrored pattern
(Table 2-5, R69; log entry 21). -/
def syncPhys (s : State) (n : Nat) : Nat :=
  if (s.spkAt n).dirRev then spkTeeth s n - 1 - spkGap s n else 0

/-- Entry to SYNCED from ACQUIRE (R49, R66): whether REACQ set. In reverse the tooth stands REV_FLANK above its pitch (R69). -/
def spkSync (s : State) (n : Nat) : Bool × State :=
  let u := s.spkAt n
  let k := spkK s n
  let q := syncPhys s n
  let tooth := (((q : Int) - (s.rf (Reg.SPK_CYCLE n) 31 16 : Int)) % (k : Int)).toNat
  let flank := if u.dirRev then revFlank s n else 0
  let cyc := if u.everSync then u.heldCyc + 1 else s.reg (Reg.SPK_CYC_INIT n)
  let s1 := s.modSpk n fun u =>
    { u with phys := q, pos := mkw tooth 16 ||| wordN flank, cyc := cyc, everSync := true, missn := 0, recover := 0, revHold := none }
  let s2 := spkTo s1 n .synced
  (u.everSync, if u.everSync then spkEvent s2 n seReacq else s2)

/-- A real tooth in ACQUIRE (Table 2-5, R53); an entry to SYNCED with REACQ expires the entries behind it (R147). -/
def spkAcquireTooth (s : State) (n stamp : Nat) : State :=
  let s := spkAdopt s n
  let u := s.spkAt n
  let r := (stamp - u.stamp) * 4096
  let long := u.tValid && u.haveTooth && decide (r ≥ 24 * u.tPred)
  let inWin := spkRef s n == 1 && decide (s.rf (Reg.SPK_GAPWIN n) 7 0 * u.tPred ≤ r)
    && decide (r ≤ s.rf (Reg.SPK_GAPWIN n) 23 16 * u.tPred)
  let enough := decide (spkAcqMin s n ≤ u.measured)
  let gapSync := long && inWin && enough
  let syncNow := gapSync || (spkRef s n == 2 && u.index && enough)
  let s1 := if long && spkRef s n == 1 && !inWin then s.modSpk n fun u => { u with measured := 0 } else s
  let s2 := spkEstimate s1 n stamp (if gapSync then spkGap s n + 1 else u.sRef + 1) (!long || gapSync)
  let s3 := spkRealSeen (s2.modSpk n fun u => { u with index := false }) n stamp
  if syncNow then
    let (reacq, s4) := spkSync s3 n
    spkPublish (if reacq then calExpire s4 n (s4.spkAt n).pos (s4.spkAt n).cyc else s4) n true
  else spkPublish s3 n true

/-- A real tooth in QUICK, SYNCED or SUSPECT (R60–R63). -/
def spkTrackTooth (s : State) (n stamp : Nat) : State :=
  let chk := refCheck s n stamp
  let s0 := s.modSpk n fun u => { u with index := false }
  if chk = .fail then
    spkLost (spkEvent (s0.bump (Reg.SPK_ERRCNT1 n) 15 0) n seMismatch) n
  else
    let sp := (s.spkAt n).sRef + spkSpan s n
    let s1 := spkEstimate (spkAdopt s0 n) n stamp sp true
    let s2 := spkRealSeen (spkAdvance s1 n) n stamp
    let st := (s2.spkAt n).st
    let s3 := if chk = .pass then
        spkTo ((spkEvent s2 n sePass).modSpk n fun u => { u with missn := 0, recover := 0 }) n .synced
      else if st = .suspect ∧ spkRef s n = 0 then
        let s' := s2.modSpk n fun u => { u with recover := u.recover + 1 }
        if (s'.spkAt n).recover ≥ max 1 (s'.spkAt n).cfg.recov then
          spkTo (s'.modSpk n fun u => { u with missn := 0, recover := 0 }) n .synced
        else s'
      else s2
    spkPublish s3 n true

/-- A real tooth that the noise rules let through (R63). A tooth of the tb in which the unit entered LOST does not lead on to
ACQUIRE (R65). -/
def spkReal (s : State) (n stamp : Nat) : State :=
  match (s.spkAt n).st with
  | .off => s
  | .lost =>
    if s.rb (Reg.SPK_CTL n) 12 && (s.spkAt n).stAt s.tb == .lost then spkAcquireTooth (spkAcquire s n) n stamp
    else
      let s1 := spkEstimate ((spkAdopt s n).modSpk n fun u => { u with index := false }) n stamp ((s.spkAt n).sRef + 1) true
      spkPublish (spkRealSeen s1 n stamp) n true
  | .acquire => spkAcquireTooth s n stamp
  | _ => spkTrackTooth s n stamp

/-- A reversal (R70); virtual teeth of the old direction that are not yet delivered are dropped (log entry 55), and those of the new
one follow where its next tooth lies beyond the gap (R52). -/
def spkReverse (s : State) (n : Nat) : State :=
  let held := spkPosNow s n
  let s1 := s.modSpk n fun u =>
    { u.clearT with dirRev := !u.dirRev, fwd := 0, virtq := [],
                    revHold := if u.st.valid then some held else none,
                    vis := { u.clearT.vis with hold := if u.st.valid then some held else none } }
  let s2 := s1.modSpk n fun u => { u with virtq := virtualTeeth s1 n }
  ctReversal (calReversal (spkEvent s2 n seReversal) n) n

/-- Place of the levels of A and B in forward quadrature, A leading B (R45). -/
def quadPlace (a b : Bool) : Nat :=
  match a, b with
  | false, false => 0
  | true, false => 1
  | true, true => 2
  | false, true => 3

/-- What an accepted edge is to the unit (Table 2-1, R44): whether rule R44 covers it, whether it is a tooth edge, and its
direction where it carries one. -/
def edgeKind (s : State) (n : Nat) (u : Spk) (a b isA : Bool) : Bool × Bool × Option Bool :=
  let inv := s.rb (Reg.SPK_CTL n) 8
  let lead := s.rb (Reg.SPK_INCFG n) 1 != a
  match spkMode s n with
  | 0 => (isA, isA && lead, none)
  | 1 => (isA, isA && lead, if isA && lead then some (b != inv) else none)
  | m =>
    let was := quadPlace (u.lvlA != s.rb (Reg.SPK_INCFG n) 4) (u.lvlB != s.rb (Reg.SPK_INCFG n) 5)
    let step := (quadPlace a b + 4 - was) % 4
    let dir := if step = 1 then some inv else if step = 3 then some (!inv) else none
    match dir with
    | none => (isA || m == 3, false, none)
    | some rev => (isA || m == 3, m == 3 || (isA && (lead != rev)), some rev)

/-- An edge of unit `n` is accepted, and this is the tb `d` after its acceptance (R43, Table 1-2). -/
def edgeAt (s : State) (n d stamp : Nat) (back : Option Nat) : Bool :=
  decide (s.tb = (stamp + 15) / 16 + spkGf s n + d) && gfHolds (spkGf s n) stamp back

/-- The level of an input that its filter last accepted (R43). -/
def Spk.lvlOf (u : Spk) (i : SpkInput) : Bool :=
  match i with
  | .a => u.lvlA
  | .b => u.lvlB
  | .z => u.lvlZ

/-- An accepted A or B edge is judged (R44, R56, R63, R68). -/
def spkJudge (s : State) (n : Nat) (e : SpkEdge) : State :=
  let isA := e.input == .a
  let lvl := e.rise != s.rb (Reg.SPK_INCFG n) (if isA then 4 else 5)
  let u := s.spkAt n
  let a := if isA then lvl else u.lvlA != s.rb (Reg.SPK_INCFG n) 4
  let b := if isA then u.lvlB != s.rb (Reg.SPK_INCFG n) 5 else lvl
  let s0 := s.modSpk n fun u => { u with lvlA := if isA then e.rise else u.lvlA, lvlB := if isA then u.lvlB else e.rise }
  if u.st = .off ∨ spkMirrors s n then s0 else
  let (cov, tooth, dir) := edgeKind s n u a b isA
  let near := tooth && u.tValid && u.haveTooth && decide ((e.stamp - u.stamp) * 4096 < spkNw s n * u.tPred)
  if (cov && u.haveTooth && decide (e.stamp < u.stamp + 800)) || near then spkNoise s0 n else
  let s1 := match dir with
    | some rev => if rev != u.dirRev then spkReverse s0 n else s0
    | none => s0
  spkGuardNote s (if tooth then spkReal s1 n e.stamp else s1) n

/-- The deadline of the next expected real tooth, in 1/65,536 tb (R57, R58). -/
def missDeadline (s : State) (n : Nat) : Nat :=
  let u := s.spkAt n
  u.stamp * 4096 + (if spkInGap s n then s.rf (Reg.SPK_GAPWIN n) 23 16 else 24) * u.tPred

/-- The tb D in which a missed tooth is decided (R59). -/
def missTb (s : State) (n : Nat) : Nat := (missDeadline s n + 65535) / 65536 + spkGf s n + 4

/-- Missed-tooth detection is active, and this is its decision's tb (R57, R59). -/
def missDue (s : State) (n : Nat) : Bool :=
  let u := s.spkAt n
  u.st.valid && u.tValid && !spkMirrors s n && decide (u.tPred < u.cfg.floor * 1000 * 4096)
    && decide (s.tb = missTb s n)

/-- A tooth is declared missed (R57, R58; Table 2-5). -/
def spkDeclare (s : State) (n : Nat) : State :=
  if !missDue s n then s else
  let u := s.spkAt n
  let s1 := spkEvent (s.bump (Reg.SPK_ERRCNT0 n) 31 16) n seMissed
  if u.st = .quick ∨ (u.st = .suspect ∧ u.missn ≥ spkMissMax s n) then spkGuardNote s (spkLost s1 n) n else
  let span := spkSpan s n
  let stamp := round16 (u.stamp * 256 + span * u.tPred)
  let s2 := (spkAdvance s1 n).modSpk n fun u =>
    { u with stamp := stamp, lastSyn := true, haveTooth := true, toothRev := u.dirRev, missn := u.missn + 1, recover := 0, sRef := u.sRef + span }
  let s3 := if u.st = .synced then spkTo s2 n .suspect else s2
  spkGuardNote s (spkPublish s3 n false) n

/-- An A or B edge is decided at F + 4; a level that did not hold leaves no change behind it (R43, R63). An edge of the tb of a
declaration, stamped from the deadline on, is judged after it (R59). -/
def spkEdgeOp (s : State) (n : Nat) (e : SpkEdge) : State :=
  if e.input = .z ∨ !edgeAt s n 4 e.stamp e.back ∨ (s.spkAt n).lvlOf e.input = e.rise then s else
  spkJudge (if missDeadline s n ≤ e.stamp * 4096 then spkDeclare s n else s) n e

/-- The edges of unit `n` that wait in the queue, which are decided in this tb; with `lim`, those stamped before it. -/
def edgesAhead (s : State) (n : Nat) (lim : Option Nat) : State :=
  s.pending.foldl (fun t i => match i with
    | .spkToothEdge m e => if m.val = n ∧ lim.all (fun d => decide (e.stamp * 4096 < d)) then spkEdgeOp t n e else t
    | _ => t) s

/-- A tooth is declared missed, unless an edge stamped before the deadline is decided in the same tb (R59). -/
def spkMissedOp (s : State) (n : Nat) : State :=
  if missDue (edgesAhead s n (some (missDeadline s n))) n then spkDeclare s n else s

/-- A Z edge: with REF = INDEX it marks the next accepted real tooth (R61). It is taken at its F + 4, so that edges of the unit
act in the order of their stamps. -/
def spkIndexOp (s : State) (n : Nat) (e : SpkEdge) : State :=
  if e.input ≠ .z ∨ !edgeAt s n 4 e.stamp e.back ∨ (s.spkAt n).lvlZ = e.rise then s else
  let lvl := e.rise != s.rb (Reg.SPK_INCFG n) 6
  let s0 := s.modSpk n fun u => { u with lvlZ := e.rise }
  if (s.spkAt n).st = .off ∨ spkMirrors s n ∨ spkRef s n ≠ 2 ∨ lvl = s.rb (Reg.SPK_INCFG n) 2 then s0
  else s0.modSpk n fun u => { u with index := true }

/-- An input fault held for 1 µs (R46). It leads to LOST from the state at the start of the tb (R65). -/
def spkFaultOp (s : State) (n : Nat) (i : SpkInput) : State :=
  let bit := match i with | .a => 0 | .b => 1 | .z => 2
  let cfg := s.reg (Reg.SPK_INCFG n)
  if !bitAt cfg 0 || bitAt cfg (8 + bit) || spkMirrors s n then s else
  let s1 := spkEvent s n seFault
  let hit := match i with
    | .a => true
    | .b => decide (spkMode s n ≥ 2)
    | .z => spkRef s n == 2
  spkGuardNote s (if hit && (s.spkAt n).st.valid && ((s.spkAt n).stAt s.tb).valid then spkLost s1 n else s1) n

/-- The next virtual tooth reaches the calendar and the engines (R52). -/
def spkVirtualOp (s : State) (n : Nat) : State :=
  match (s.spkAt n).virtq with
  | [] => s
  | (v, t) :: r =>
    if (v + 4095) / 4096 + spkGf s n + 12 ≤ s.tb then
      toothOut (s.modSpk n fun u => { u with virtq := r }) n (if (s.spkAt n).tValid then t else { t with tPred := tPredAll }) false none
    else s

/-- The tb in which the stop condition begins to hold with a stop period of `per` µs (R74). -/
def stopPerTb (u : Spk) (per : Nat) : Nat :=
  ((if u.haveReal then u.realStamp else u.enTb * 16) + 15) / 16 + max 1 per * 1000

/-- The tb since which the stop condition holds, or from which it will (R74). -/
def stopSince (s : State) (n : Nat) : Nat :=
  let u := s.spkAt n
  u.stopFrom.getD (stopPerTb u (s.rf (Reg.SPK_STOP n) 15 0))

/-- The tb in which STOPPED would set (R74). -/
def stopTb (s : State) (n : Nat) : Nat := stopSince s n + max 1 (s.rf (Reg.SPK_STOP n) 31 16) * 1000000

/-- SPKn_STOP lands: the condition holds on where it has held, and begins no earlier than now where it has not (R74, R84). -/
def spkStopWrite (s : State) (n : Nat) (w : Word) : State :=
  let u := s.spkAt n
  let held := decide (stopSince s n ≤ s.tb)
  let holds := decide (stopPerTb u (fld w 15 0) ≤ s.tb)
  let since := if holds then some (if held then stopSince s n else s.tb) else none
  (s.setReg (Reg.SPK_STOP n) w).modSpk n fun u => { u with stopFrom := since }

/-- A real tooth of unit `n` is decided in this tb by a command that still waits (R74). -/
def toothWaits (s : State) (n : Nat) : Bool :=
  let t := edgesAhead s n none
  (t.spkAt n).realStamp != (s.spkAt n).realStamp || (t.spkAt n).haveReal != (s.spkAt n).haveReal

/-- STOPPED sets, unless a tooth is decided in the same tb (R74, R75). -/
def spkStopOp (s : State) (n : Nat) : State :=
  let u := s.spkAt n
  if u.st = .off ∨ u.stopped ∨ s.tb < stopTb s n ∨ toothWaits s n then s else
  let s1 := spkEvent (requeueVirtual (s.modSpk n fun u => { u.clearT with stopped := true }) n) n seStop
  if u.st.valid then journalWrite s1 n else s1

/-! Phase measurement (R79–R82). -/

/-- Position of unit `r` at a stamp, by its latest tooth not later than it (R51, R79). -/
def phasePos (s : State) (r stamp : Nat) : Word × Word :=
  let u := s.spkAt r
  match u.hist.find? fun t => decide (t.stamp ≤ stamp) with
  | some t =>
    if u.vis.hold.isSome then u.shown
    else if u.st.valid && u.vis.tValid then interp (spkK s r) t u.dirRev stamp else (t.pos, t.cyc)
  | none => u.shown

def inWindow (lo hi p : Word) : Bool :=
  if lo = hi then true else if lo ≤ hi then lo ≤ p && p ≤ hi else lo ≤ p || p ≤ hi

/-- This is the F + 12 of a mark of unit `n`: an edge of polarity EDGE on its own Z input, or with SRC = 1 an accepted real
tooth 0 of PH_UNIT (R79, R80). -/
def markNow (s : State) (n : Nat) (m : Mark) : Bool :=
  let c := s.reg (Reg.SPK_PH_CTL n)
  let v := fld c 6 4
  if bitAt c 1 then decide (s.tb = (m.stamp + 15) / 16 + spkGf s v + 12) && (s.spkAt v).zeros.contains m.stamp
  else edgeAt s n 12 m.stamp m.back && m.was != m.rise && ((m.rise != s.rb (Reg.SPK_INCFG n) 6) != bitAt c 2)

/-- SPKn_PH_POS is read: the head is popped. An entry of this tb that found the FIFO full appends after all (R81). -/
def phasePop (s : State) (n : Nat) : State :=
  let u := s.spkAt n
  if (u.phOld s.tb).isEmpty then s else
  let s1 := s.modSpk n fun u => { u with fifo := u.fifo.drop 1 }
  match u.phLost with
  | some (t, e, ovf) =>
    if t ≠ s.tb then s1 else
    let s2 := s1.modSpk n fun u => { u with fifo := u.fifo ++ [e], phNew := noteNew s.tb u.phNew, phLost := none }
    if ovf then s2 else s2.hwUnset (Reg.SPK_PH_STAT n) (mkw 1 2)
  | none => s1

/-- A mark of unit `n` (R79, R80). -/
def phaseMarkOp (s : State) (n : Nat) (m : Mark) : State :=
  let c := s.reg (Reg.SPK_PH_CTL n)
  if !bitAt c 0 || !markNow s n m then s else
  let r := fld c 10 8
  if (s.spkAt r).st != .synced then s.hwSetBit (Reg.SPK_PH_STAT n) 3 else
  let (p, cy) := phasePos s r m.stamp
  if !inWindow (s.reg (Reg.SPK_PH_WLO n)) (s.reg (Reg.SPK_PH_WHI n)) p then s.bump (Reg.SPK_PH_STAT n) 31 16
  else
    let src (s : State) : State := s.raise0 (srcSpk n 3) 1 (.reg (Reg.SPK_EVT n) 0xFFFF)
    let e : PhEntry := { pos := p, cyc := cy, err := word (phaseErr (spkK s r) p (s.reg (Reg.SPK_PH_TGT n))) }
    if (s.spkAt n).fifo.length ≥ 2 then
      let lost := some (s.tb, e, s.rb (Reg.SPK_PH_STAT n) 2)
      src ((s.modSpk n fun u => { u with phLost := lost }).hwSetBit (Reg.SPK_PH_STAT n) 2)
    else src (s.modSpk n fun u => { u with fifo := u.fifo ++ [e], phNew := noteNew s.tb u.phNew })

/-- SPKn_PH_CTL lands (R82, R84; log entry 57). -/
def phaseWriteCtl (s : State) (n : Nat) (w0 : Word) : State :=
  let a := Reg.SPK_PH_CTL n
  let old := s.reg a
  let w := w0 &&& (regDesc a).rw
  let cfg : Word := 0x7FE
  let w1 := if spkEn s n || bitAt old 0 then mergeBits w old cfg else w
  let locked := spkEn s n && (w ^^^ old) &&& cfg != 0
  let s1 := if locked then spkEvent s n seCfgLocked else s
  if bitAt w1 0 && !bitAt w1 1 && spkRef s n == 2 then spkEvent s1 n seCfgErr else s1.setReg a w1

end Sys2Proof.Machine
end

