-- ==== Sys2Proof/Machine/Fix.lean ====
section
/-! DEFINITION. The coherence model: staged writes and fix channels, and the contact sheet (R26–R38). -/

namespace Sys2Proof.Machine

def fsDone : Nat := 1
def fsLate : Nat := 2
def fsStraggler : Nat := 3
def fsRetag : Nat := 5
def fsRefused : Nat := 6

/-- The staged fields of a channel's register, by offset. -/
def chStagedFields (o : Nat) : Nat :=
  match o with
  | 0 => 5
  | 0x0C => 2
  | 0x20 => 12
  | 0x24 => 12
  | 0x28 => 2
  | _ => 1

/-- The staged fields of one register (the maps' "staged" marks). -/
def stagedFields (a : Nat) : Nat :=
  if 0x00820000 ≤ a ∧ a < 0x00822000 then chStagedFields ((a - 0x00820000) % 0x40)
  else if a = Reg.CT_GEOM ∨ a = Reg.CT_LOOP then 2
  else 1

/-- FIXk_STAT.NSTAGED. -/
def nStaged (s : State) (k : Nat) : Nat :=
  satN 16 ((s.staged.filter fun g => g.tag.val == k).foldl (fun n g => n + stagedFields g.addr) 0)

/-- FIXk_STAT.PENDING: until the tb after the commit (Table 1-8). -/
def fixPendingNow (s : State) (k : Nat) : Bool :=
  (s.fixAt k).pending || s.due.any fun d => match d.2 with | .fixDone j => j == k | _ => false

/-- FIXk_STAT as it reads. -/
def fixStat (s : State) (k : Nat) : Word :=
  (s.reg (Reg.FIX_STAT k) &&& 0x7E) ||| mkw (nStaged s k) 8 ||| mkb (fixPendingNow s k) 0

def dropShadow (s : State) (a : Nat) : State := { s with staged := s.staged.filter fun g => g.addr != a }

/-- The channel that holds the tag of `a` loses it (R33). -/
def retag (s : State) (a : Nat) (keep : Option (Fin 4)) : State :=
  match s.staged.find? fun g => g.addr == a with
  | some g => if some g.tag = keep then s else s.hwSetBit (Reg.FIX_STAT g.tag.val) fsRetag
  | none => s

/-- A write to a staged field goes to its shadow (R32, R33, R35). A shadow whose fix point is due and that was written
before it stays for that commit. -/
def stageShadow (s : State) (k : Fin 4) (a : Nat) (w : Word) : State :=
  let s1 := match s.staged.find? fun g => g.addr == a && !commitDue s g with
    | some _ => retag s a (some k)
    | none => s
  let s2 := { s1 with staged := (s1.staged.filter fun g => g.addr != a || commitDue s g) ++
    [{ addr := a, word := w &&& (regDesc a).sth, tag := k, tb := s.tb }] }
  if (s2.fixAt k.val).lastT = some s.tb then s2.hwSetBit (Reg.FIX_STAT k.val) fsStraggler else s2

/-- A staged value of channel `n` reaches the register at offset `o`: the whole register as `w`, its staged field as `v`. -/
def chApplyAt (s : State) (n o : Nat) (v w : Word) : State :=
  match o with
  | 0x00 => chWriteCtl s n w
  | 0x08 => chWriteTop s n v
  | 0x0C => chWriteAdd s n w
  | 0x10 => chWriteCmp s n 0 v
  | 0x14 => chWriteCmp s n 1 v
  | 0x18 => chWriteCmp s n 2 v
  | 0x1C => chWriteCmp s n 3 v
  | 0x20 => chWriteSlots s n 0 w
  | 0x24 => chWriteSlots s n 1 w
  | 0x28 => chWritePulse s n w
  | _ => s

/-- A staged field of a channel takes its new active value. -/
def chApply (s : State) (a : Nat) (v : Word) : State :=
  chApplyAt s ((a - 0x00820000) / 0x40) ((a - 0x00820000) % 0x40) v (mergeBits (s.reg a) v (regDesc a).sth)

def isChReg (a : Nat) : Bool := 0x00820000 ≤ a && a < 0x00822000

def isOfsReg (a : Nat) : Bool := inArr (a - 0x00860104) 0 8 32 && a ≥ 0x00860104

def isCmpReg (a : Nat) : Bool := isChReg a && 0x10 ≤ a % 0x40 && a % 0x40 < 0x20

/-- The channels' values take effect together: the compare slots arm under the configuration committed with them (R34). -/
def applyStagedCh (s : State) (ws : List (Nat × Word)) : State :=
  let ap (s : State) (p : Nat × Word) : State := chApply s p.1 p.2
  let s1 := forEach (ws.filter fun p => isChReg p.1 && p.1 % 0x40 == 0) s ap
  let s2 := forEach (ws.filter fun p => isChReg p.1 && p.1 % 0x40 != 0 && !isCmpReg p.1) s1 ap
  forEach (ws.filter fun p => isCmpReg p.1) s2 ap

/-- The fields of the contact engine act as one (R223). -/
def applyStagedCt (s : State) (ws : List (Nat × Word)) : State :=
  let s1 := ctCommit s (ws.filter fun p => !isChReg p.1 && !isOfsReg p.1)
  forEach (ws.filter fun p => isOfsReg p.1) s1 fun s p => ctOfsWrite s ((p.1 - 0x00860104) / 8) p.2

/-- Values that reach the active fields at one core edge. -/
def applyStaged (s : State) (ws : List (Nat × Word)) : State := applyStagedCt (applyStagedCh s ws) ws

/-- Values committed at a fix point: those of the contact engine, a core-domain block, take effect from the first core edge at
or after it (R34). -/
def applyCommit (s : State) (ws : List (Nat × Word)) : State :=
  let s1 := applyStagedCh s ws
  let ct := ws.filter fun p => !isChReg p.1
  if s.tb % 2 = 0 ∨ ct = [] then applyStagedCt s1 ct else s1.after 1 (.ctCommit ct)

/-- A write goes through to the active field; the shadow holds the same value, untagged (R32). -/
def goThrough (s : State) (a : Nat) (w : Word) : State := applyStaged (dropShadow (retag s a none) a) [(a, w)]

/-- A write to the staged fields of register `a`, with the writer's fix channel where staging is on (R32). -/
def stagedWriteOp (s : State) (sel : Option (Fin 4)) (a : Nat) (w : Word) : State :=
  match sel with
  | some k => stageShadow s k a w
  | none => goThrough s a (w &&& (regDesc a).sth)

/-- The fix channel of a master's writes, none where they go through (R32, R196, R423). -/
def fixSelOf (s : State) (m : Master) : Option (Fin 4) :=
  match m with
  | .host _ => if s.rb Reg.FIX_HSEL 2 then some (Fin.ofNat 4 (s.rf Reg.FIX_HSEL 1 0)) else none
  | .engine t => if (s.thrAt t.val).fs then some (s.thrAt t.val).fk else none
  | _ => none

/-- The timing state as a sheet shows it (R26, Table 1-7): words by offset. -/
def sheetWords (s : State) : List (Nat × Word) :=
  [(0x000, lo32 s.tb), (0x004, hi32 s.tb)]
  ++ ((List.range 8).map fun n =>
      let (p, c) := spkPosNow s n
      [(0x010 + 0x10 * n, p), (0x014 + 0x10 * n, c), (0x018 + 0x10 * n, spkStateWord s n), (0x01C + 0x10 * n, spkTpredWord s n)]).flatten
  ++ ((List.range 128).map fun n => (0x100 + 4 * n, chCount s n))
  ++ ((List.range 128).map fun n => (0x300 + 4 * n, match (s.chAt n).fifo with | e :: _ => e.count | [] => 0))
  ++ ((List.range 16).map fun i =>
      (0x500 + 4 * i, (List.range 8).foldl (fun w j => w ||| mkw (s.chAt (8 * i + j)).fifo.length (4 * j)) 0))
  ++ [(0x540, mkw s.cal.occ 0), (0x544, mkw s.cal.spill.length 0), (0x548, mkw s.cal.armedN 0)]

/-- CS_STAT as it reads. -/
def csStat (s : State) : Word :=
  (s.reg Reg.CS_STAT &&& 0x1C) ||| mkw s.sheet.thread 24 ||| mkw s.sheet.owner 16 ||| mkw s.sheet.seq 8
  ||| mkb s.sheet.ready 1 ||| mkb s.sheet.busy 0

/-- A take request judged by the sheet's state (R28, R30): accepted, and the state. In MODE 2 a point whose commit has
already run in this tb is T_cs. -/
def csTakeOp (s : State) (owner thread mode fx : Nat) (atv : Nat) : Bool × State :=
  if s.sheet.busy ∨ s.sheet.ready ∨ mode = 3 ∨ (mode = 2 ∧ !fixPendingNow s fx) then (false, s.hwSetBit Reg.CS_STAT 2)
  else
    let sh := { s.sheet with busy := true, filling := false, owner := owner, thread := thread, held := none }
    match mode with
    | 0 => (true, { s with sheet := { sh with at_ := some (tbAdd s.tb 3), atFix := none } })
    | 1 =>
      if passed s.tb atv then (true, ({ s with
          sheet := { sh with at_ := some (tbAdd s.tb 1), atFix := none } }).hwSetBit Reg.CS_STAT 4)
      else (true, { s with sheet := { sh with at_ := some atv, atFix := none } })
    | _ =>
      let held := match s.sheet.point with | some (t, ws) => if t = s.tb then some ws else none | none => none
      let sh' := { sh with held := if (fixReached s fx).isSome ∨ (s.fixAt fx).lastT = some s.tb then held else none }
      if (s.fixAt fx).pending then (true, { s with sheet := { sh' with at_ := none, atFix := some (Fin.ofNat 4 fx) } })
      else (true, { s with sheet := { sh' with at_ := some s.tb, atFix := none } })

/-- T_cs has been reached. -/
def csReached (s : State) : Bool :=
  match s.sheet.at_, s.sheet.atFix with
  | some t, _ => passed s.tb t
  | none, some k => (fixReached s k.val).isSome
  | none, none => false

/-- The words of the taker: SEQ, OWNER and THREAD (Table 1-7). -/
def sheetId (s : State) (seq : Nat) : Nat × Word := (0x008, mkw seq 0 ||| mkw s.sheet.owner 8 ||| mkw s.sheet.thread 10)

/-- The sheet freezes at T_cs, with the timing state at the start of that tb (R26). -/
def csFreezeOp (s : State) : State :=
  if !s.sheet.busy || s.sheet.filling || !csReached s then s else
  let seq := (s.sheet.seq + 1) % 256
  let ws := s.sheet.held.getD (sheetWords s)
  { s with sheet := { s.sheet with
      filling := true, seq := seq, at_ := none, atFix := none, held := none,
      snap := (sheetId s seq :: ws).foldl (fun m p => setWordAt m p.1 p.2) [] } }

/-- A take or a sheet ends (R28). -/
def csEnd (s : State) : State :=
  { s with sheet := { s.sheet with busy := false, ready := false, filling := false, at_ := none, atFix := none, held := none } }

/-- CS_CTL.RELEASE (R28): a take whose T_cs has been reached has frozen, so that SEQ keeps its increment. -/
def csReleaseOp (s : State) : State := csEnd (csFreezeOp s)

def csAt (s : State) : Nat := join64 (s.reg Reg.CS_AT_LO) (s.reg Reg.CS_AT_HI)

/-- The owner code and thread of a taker (CS_STAT). -/
def csOwner : Master → Nat × Nat
  | .engine t => (1, t.val)
  | .safelight => (2, 0)
  | _ => (0, 0)

/-- The place of a taker in the fabric priority order (R29), and among engine threads (R195). -/
def csRank : Master → Nat
  | .engine t => t.val
  | .contact => 64
  | .safelight => 65
  | _ => 66

/-- The request of this cc that stands first so far (R29). -/
def csFirst (s : State) : Option SheetReq := s.sheet.req.filter fun r => r.cc == s.cc

/-- A request of this cc loses to one before it in the priority order: it is refused after all and leaves nothing else
(R29, R195). -/
def csLose (s : State) (r : SheetReq) : State :=
  let s0 := csEnd (s.hwSetBit Reg.CS_STAT 2)
  let s1 : State := { if r.late then s0.hwUnset Reg.CS_STAT (mkw 1 4) else s0 with
    sheet := { s0.sheet with owner := r.owner, thread := r.thread } }
  match r.rd with
  | some (t, rd) => s1.modThr t.val fun h => { h.setW rd.val 0 with c := true }
  | none => s1

/-- A take request of master `m`, among those of its cc (R29): one behind another of the cc is refused, and one before the
request accepted so far takes its place. -/
def csRequest (s : State) (m : Master) (rd : Option (Fin 64 × Reg5)) (mode fx : Nat) (atv : Nat) : Bool × State :=
  let first := csFirst s
  if first.any fun r => decide (r.rank < csRank m) then (false, s.hwSetBit Reg.CS_STAT 2)
  else
    let s0 := match first with
      | some r => if r.ok && s.sheet.busy && !s.sheet.filling && decide (csRank m < r.rank) then csLose s r else s
      | none => s
    let (ok, s1) := csTakeOp s0 (csOwner m).1 (csOwner m).2 mode fx atv
    let req : SheetReq := { cc := s.cc, rank := csRank m, ok := ok, rd := rd, owner := s0.sheet.owner, thread := s0.sheet.thread,
                            late := !s0.rb Reg.CS_STAT 4 && s1.rb Reg.CS_STAT 4 }
    (ok, { s1 with sheet := { s1.sheet with req := some req } })

/-- CS_CTL lands: RELEASE first, then TAKE (R28). -/
def csCtlWrite (s : State) (m : Master) (w : Word) : State :=
  let s1 := s.setReg Reg.CS_CTL (w &&& 0x3C)
  let s2 := if bitAt w 1 then csReleaseOp s1 else s1
  if bitAt w 0 then (csRequest s2 m none (fld w 3 2) (fld w 5 4) (csAt s2)).2 else s2

/-- At the start of a tb the timing state is kept where T_cs or a fix point is reached, before any fire, capture or commit in
that tb (R26, R30). -/
def sheetLatch (s : State) : State :=
  let take := s.sheet.busy && !s.sheet.filling && s.sheet.held.isNone && csReached s
  let pt := [0, 1, 2, 3].any fun k => fixReached s k == some s.tb
  if !take && !pt then s else
  let ws := sheetWords s
  { s with sheet := { s.sheet with
      held := if take then some ws else s.sheet.held, point := if pt then some (s.tb, ws) else s.sheet.point } }

/-- The copy is complete (R27); the thread that took the sheet sees EVP.SHEET (Table 5-2). -/
def csReadyOp (s : State) : State :=
  if s.sheet.busy && s.sheet.filling then
    let s1 := { s with sheet := { s.sheet with busy := false, ready := true, filling := false } }
    if s.sheet.owner = 1 then evpAt s1 s.sheet.thread 12 0 else s1
  else s

/-- A word of the snapshot buffer; before READY it reads 0 and EARLY sets (R27). -/
def snapRead (s : State) (off : Nat) : Word × State :=
  if s.sheet.ready then (wordAt s.sheet.snap off, s) else (0, s.hwSetBit Reg.CS_STAT 3)

def setPoint (s : State) (k : Nat) (p : Point) (chained : Bool) : State :=
  s.modFix k fun f => { f with point := p, chained := chained, handTb := s.tb }

/-- Channel k is armed at a point of the given kind (R36, R37). -/
def fixArmPoint (s : State) (k kind spk : Nat) (lo hi : Word) (hzn : Nat) (chained : Bool) : State :=
  if kind = 0 then setPoint s k (.at (tbAdd s.tb 1)) chained
  else if kind = 1 then
    let p := join64 lo hi
    if passed s.tb p then (setPoint s k (.at (tbAdd s.tb 1)) chained).hwSetBit (Reg.FIX_STAT k) fsLate
    else setPoint s k (.at p) chained
  else calFixAsk (setPoint s k .calendar chained) k hzn spk (if kind = 2 then lo else 0) hi

/-- The KIND of chain fix points that CV permits (Table 14-6). -/
def chainKindOk (s : State) (kind : Nat) : Bool := s.cas.cv ≥ 2 || kind ≥ 2

/-- The master sends FIX_PREP for channel k; for KIND 0 it sends KIND 1 with TB + 4,000 (R416). -/
def chainArm (s : State) (k kind spk : Nat) (lo hi : Word) (hzn : Nat) : State :=
  let p := tbAdd s.tb 4000
  let c : CasCommand := { noCommand with
    code := 1, fixCh := Fin.ofNat 4 k, spk := Fin.ofNat 8 spk, kind := Fin.ofNat 4 (if kind = 0 then 1 else kind),
    lo := if kind = 0 then lo32 p else lo, hi := if kind = 0 then hi32 p else hi }
  (casSend s c).modFix k fun f => { f with hzn := hzn }

/-- An ARM of channel k is refused (R38, R416). -/
def fixArmRefused (s : State) (k : Nat) : Bool :=
  let c := s.reg (Reg.FIX_CTL k)
  fixPendingNow s k
  || (bitAt c 16 && (!casMaster s || s.cas.st != .run || s.cas.cmd.isSome || !chainKindOk s (fld c 5 4)))

/-- FIXk_CTL.ARM (R36–R38, R416). -/
def fixArmOp (s : State) (k : Nat) : State :=
  let c := s.reg (Reg.FIX_CTL k)
  let lo := s.reg (Reg.FIX_POINT_LO k)
  let hi := s.reg (Reg.FIX_POINT_HI k)
  if fixArmRefused s k then s.hwSetBit (Reg.FIX_STAT k) fsRefused
  else if bitAt c 16 then chainArm s k (fld c 5 4) (fld c 10 8) lo hi (fld c 14 12)
  else fixArmPoint s k (fld c 5 4) (fld c 10 8) lo hi (fld c 14 12) false

/-- FIXk_CTL lands: an action, or the configuration (R38). -/
def fixCtlWrite (s : State) (k : Nat) (w : Word) : State :=
  if bitAt w 2 then fixDiscard s k
  else if bitAt w 1 then fixCancel s k
  else if bitAt w 0 then fixArmOp s k
  else s.setReg (Reg.FIX_CTL k) (w &&& 0x17730)

/-- The shadows tagged k at the end of tb T − 1 are committed; those written in T stay (R34, R35). -/
def commitShadows (s : State) (k t : Nat) : State :=
  let mine (g : Staged) : Bool := g.tag.val == k && decide (g.tb < t)
  let ws := (s.staged.filter mine).map fun g => (g.addr, g.word)
  let s1 := applyCommit { s with staged := s.staged.filter fun g => !mine g } ws
  if s1.staged.any fun g => g.tag.val == k && g.tb == t then s1.hwSetBit (Reg.FIX_STAT k) fsStraggler else s1

/-- Groups linked to the channel take a FIX at T (Table 7-3). -/
def linkedGroups (s : State) (k : Nat) : State :=
  forEach groups16 s fun s g =>
    let c := s.reg (Reg.EXG_CTL g)
    if bitAt c 18 && fld c 17 16 == k then exgFixOp s g false else s

/-- The commit of fix channel k at its point T (R34, R35, Table 1-8). A sheet taken at the point freezes first (R30). -/
def fixCommitAt (s : State) (k t : Nat) : State :=
  let s0 := csFreezeOp s
  let s1 := calFired (s0.modFix k fun f => { f with point := .none, lastT := some t }) (fixEntryId k)
  evpFix (linkedGroups (commitShadows (s1.after 1 (.fixDone k)) k t) k) k

end Sys2Proof.Machine
end

