-- ==== Sys2Proof/Machine/EngDecode.lean ====
section
/-! DEFINITION. The engines' instruction words: the decoder, which refuses every word with an unassigned OP or FN or a
reserved field that is not 0, and the encoder (R177, R178, R182, R184–R187, Tables 5-4 to 5-10). -/

namespace Sys2Proof.Machine

def fOp (w : Word) : Nat := fld w 31 26
def fRd (w : Word) : Reg5 := Fin.ofNat 32 (fld w 25 21)
def fRa (w : Word) : Reg5 := Fin.ofNat 32 (fld w 20 16)
def fRb (w : Word) : Reg5 := Fin.ofNat 32 (fld w 15 11)
def fFn (w : Word) : Nat := fld w 10 0
def fImm (w : Word) : BitVec 16 := w.setWidth 16

/-- `some i` where the reserved fields are 0. -/
def ifZero (reserved : Nat) (i : EngIns) : Option EngIns := if reserved = 0 then some i else none

/-- Table 5-7. -/
def decodeR (w : Word) : Option EngIns :=
  let alu (op : AluOp) : Option EngIns := some (.alu op (fRd w) (fRa w) (fRb w))
  let dv (op : DivOp) : Option EngIns := some (.divide op (fRd w) (fRa w) (fRb w))
  match fFn w with
  | 0x000 => alu .add
  | 0x001 => alu .sub
  | 0x002 => alu .and
  | 0x003 => alu .or
  | 0x004 => alu .xor
  | 0x005 => alu .sll
  | 0x006 => alu .srl
  | 0x007 => alu .sra
  | 0x008 => alu .slt
  | 0x009 => alu .sltu
  | 0x00A => alu .min
  | 0x00B => alu .max
  | 0x00C => alu .minu
  | 0x00D => alu .maxu
  | 0x010 => alu .mul
  | 0x011 => alu .mulh
  | 0x012 => alu .mulhu
  | 0x014 => dv .div
  | 0x015 => dv .divu
  | 0x016 => dv .rem
  | 0x017 => dv .remu
  | _ => none

/-- OP 0x08 (Table 5-8). -/
def decodeShift (w : Word) : Option EngIns :=
  let sh : Fin 32 := Fin.ofNat 32 (fld w 4 0)
  if fld w 15 7 ≠ 0 then none else
  match fld w 6 5 with
  | 0 => some (.shift .slli (fRd w) (fRa w) sh)
  | 1 => some (.shift .srli (fRd w) (fRa w) sh)
  | 2 => some (.shift .srai (fRd w) (fRa w) sh)
  | _ => none

/-- OP 0x28–0x3B (Table 5-10). -/
def decodeSpecial (w : Word) : Option EngIns :=
  let rd := fRd w
  let ra := fRa w
  let d := fld w 25 21
  let a := fld w 20 16
  let n : Unit3 := Fin.ofNat 8 (fld w 2 0)
  match fOp w with
  | 0x28 => ifZero a (.wait rd (fImm w))
  | 0x29 => ifZero (fld w 15 0) (.carm rd ra)
  | 0x2A => ifZero (fld w 15 0) (.ccan rd ra)
  | 0x2B => ifZero (a + fld w 15 3) (.pos rd n)
  | 0x2C => ifZero (a + fld w 15 8 + fld w 3 3) (.spkr rd n (Fin.ofNat 16 (fld w 7 4)))
  | 0x2D => ifZero (fld w 15 3) (.p2t rd ra n)
  | 0x2E => ifZero (fld w 15 3) (.t2p rd ra n)
  | 0x2F => ifZero (fld w 10 3) (.pdist rd ra (fRb w) n)
  | 0x30 => ifZero (a + fld w 15 7) (.cap rd (Fin.ofNat 128 (fld w 6 0)))
  | 0x31 => ifZero (fld w 15 6 + fld w 3 2) (.snap rd ra (Fin.ofNat 4 (fld w 1 0)) (Fin.ofNat 4 (fld w 5 4)))
  | 0x32 => ifZero (fld w 25 0) .snrel
  | 0x33 => ifZero (d + a + fld w 15 5 + fld w 3 2) (.fixsel (Fin.ofNat 4 (fld w 1 0)) (bitAt w 4))
  | 0x34 => ifZero (fld w 15 11 + fld w 7 6 + fld w 3 2)
      (.fixarm rd ra (Fin.ofNat 4 (fld w 1 0)) (Fin.ofNat 4 (fld w 5 4)) (Fin.ofNat 8 (fld w 10 8)))
  | 0x35 => ifZero (fld w 10 0) (.send rd ra (fRb w))
  | 0x36 => ifZero (fld w 20 0) (.recv rd)
  | 0x37 => ifZero (d + fld w 15 6) (.record ra (Fin.ofNat 64 (fld w 5 0)))
  | 0x38 => ifZero (a + fld w 15 4) (.mfs rd (Fin.ofNat 16 (fld w 3 0)))
  | 0x39 => ifZero (d + fld w 15 4) (.mts (Fin.ofNat 16 (fld w 3 0)) ra)
  | 0x3A => ifZero (fld w 25 0) .fence
  | 0x3B => ifZero (fld w 25 0) .halt
  | _ => none

/-- An instruction word (R177, Table 5-5); `none` faults ILLEGAL. -/
def engDecode (w : Word) : Option EngIns :=
  let rd := fRd w
  let ra := fRa w
  let i := fImm w
  match fOp w with
  | 0x01 => decodeR w
  | 0x02 => some (.imm .addi rd ra i)
  | 0x03 => ifZero (fld w 25 21) (.imm .cmpi 0 ra i)
  | 0x04 => some (.imm .andi rd ra i)
  | 0x05 => some (.imm .ori rd ra i)
  | 0x06 => some (.imm .xori rd ra i)
  | 0x07 => ifZero (fld w 20 16) (.imm .lui rd 0 i)
  | 0x08 => decodeShift w
  | 0x10 => some (.trayLoad .w rd ra i)
  | 0x11 => some (.trayLoad .h rd ra i)
  | 0x12 => some (.trayLoad .hu rd ra i)
  | 0x13 => some (.trayLoad .b rd ra i)
  | 0x14 => some (.trayLoad .bu rd ra i)
  | 0x15 => some (.trayStore .w rd ra i)
  | 0x16 => some (.trayStore .h rd ra i)
  | 0x17 => some (.trayStore .b rd ra i)
  | 0x18 => some (.load .w rd ra i)
  | 0x19 => some (.load .h rd ra i)
  | 0x1A => some (.load .hu rd ra i)
  | 0x1B => some (.load .b rd ra i)
  | 0x1C => some (.load .bu rd ra i)
  | 0x1D => some (.store .w rd ra i)
  | 0x1E => some (.store .h rd ra i)
  | 0x1F => some (.store .b rd ra i)
  | 0x20 => ifZero (fld w 21 16) (.bcond (Fin.ofNat 16 (fld w 25 22)) i)
  | 0x21 => ifZero (fld w 20 12) (.jal rd (w.setWidth 12))
  | 0x22 => ifZero (fld w 15 0) (.jalr rd ra)
  | _ => decodeSpecial w

/-- The R format (Table 5-4). -/
def encR (op rd ra rb fn : Nat) : Word := mkw op 26 ||| mkw rd 21 ||| mkw ra 16 ||| mkw rb 11 ||| mkw fn 0

/-- The I format. -/
def encI (op rd ra imm : Nat) : Word := mkw op 26 ||| mkw rd 21 ||| mkw ra 16 ||| mkw imm 0

def aluFn : AluOp → Nat
  | .add => 0x000
  | .sub => 0x001
  | .and => 0x002
  | .or => 0x003
  | .xor => 0x004
  | .sll => 0x005
  | .srl => 0x006
  | .sra => 0x007
  | .slt => 0x008
  | .sltu => 0x009
  | .min => 0x00A
  | .max => 0x00B
  | .minu => 0x00C
  | .maxu => 0x00D
  | .mul => 0x010
  | .mulh => 0x011
  | .mulhu => 0x012

def divFn : DivOp → Nat
  | .div => 0x014
  | .divu => 0x015
  | .rem => 0x016
  | .remu => 0x017

def immCode : ImmOp → Nat
  | .addi => 0x02
  | .cmpi => 0x03
  | .andi => 0x04
  | .ori => 0x05
  | .xori => 0x06
  | .lui => 0x07

def shiftCode : ShiftOp → Nat
  | .slli => 0
  | .srli => 1
  | .srai => 2

def loadCode : LoadOp → Nat
  | .w => 0
  | .h => 1
  | .hu => 2
  | .b => 3
  | .bu => 4

def storeCode : StoreOp → Nat
  | .w => 5
  | .h => 6
  | .b => 7

/-- The word of an instruction (Tables 5-4 to 5-10). -/
def engEncode : EngIns → Word
  | .alu op rd ra rb => encR 0x01 rd.val ra.val rb.val (aluFn op)
  | .divide op rd ra rb => encR 0x01 rd.val ra.val rb.val (divFn op)
  | .imm op rd ra i => encI (immCode op) rd.val ra.val i.toNat
  | .shift op rd ra sh => encI 0x08 rd.val ra.val (shiftCode op * 32 + sh.val)
  | .trayLoad op rd ra off => encI (0x10 + loadCode op) rd.val ra.val off.toNat
  | .trayStore op rd ra off => encI (0x10 + storeCode op) rd.val ra.val off.toNat
  | .load op rd ra off => encI (0x18 + loadCode op) rd.val ra.val off.toNat
  | .store op rd ra off => encI (0x18 + storeCode op) rd.val ra.val off.toNat
  | .bcond cond off => encI 0x20 (2 * cond.val) 0 off.toNat
  | .jal rd tgt => encI 0x21 rd.val 0 tgt.toNat
  | .jalr rd ra => encI 0x22 rd.val ra.val 0
  | .wait rd mask => encI 0x28 rd.val 0 mask.toNat
  | .carm rd ra => encI 0x29 rd.val ra.val 0
  | .ccan rd ra => encI 0x2A rd.val ra.val 0
  | .pos rd n => encI 0x2B rd.val 0 n.val
  | .spkr rd n sel => encI 0x2C rd.val 0 (16 * sel.val + n.val)
  | .p2t rd ra n => encI 0x2D rd.val ra.val n.val
  | .t2p rd ra n => encI 0x2E rd.val ra.val n.val
  | .pdist rd ra rb n => encR 0x2F rd.val ra.val rb.val n.val
  | .cap rd ch => encI 0x30 rd.val 0 ch.val
  | .snap rd ra mode k => encI 0x31 rd.val ra.val (16 * k.val + mode.val)
  | .snrel => encI 0x32 0 0 0
  | .fixsel k s => encI 0x33 0 0 (16 * ofBool s + k.val)
  | .fixarm rd ra k kind u => encI 0x34 rd.val ra.val (256 * u.val + 16 * kind.val + k.val)
  | .send rd ra rb => encR 0x35 rd.val ra.val rb.val 0
  | .recv rd => encI 0x36 rd.val 0 0
  | .record ra kind => encI 0x37 0 ra.val kind.val
  | .mfs rd sel => encI 0x38 rd.val 0 sel.val
  | .mts sel ra => encI 0x39 0 ra.val sel.val
  | .fence => encI 0x3A 0 0 0
  | .halt => encI 0x3B 0 0 0

/-- cmpi names no destination and lui no source (Table 5-8). -/
def engInsWf : EngIns → Bool
  | .imm .cmpi rd _ _ => rd == 0
  | .imm .lui _ ra _ => ra == 0
  | _ => true

end Sys2Proof.Machine
end

