-- ==== Sys2Proof/Machine/Flags.lean ====
section
/-! DEFINITION. The flags and results of the engines' arithmetic and logic (R179, R180, R182–R184). -/

namespace Sys2Proof.Machine

/-- Z, N, C and V. -/
structure Flags where
  z : Bool
  n : Bool
  c : Bool
  v : Bool
  deriving DecidableEq, Repr

def isZero (w : Word) : Bool := w == 0
def isNeg (w : Word) : Bool := bitAt w 31

/-- The carry out of bit 31 of a sum (R179). -/
def addC (a b : Word) : Bool := decide (2 ^ 32 ≤ a.toNat + b.toNat)

/-- No borrow occurs (R179). -/
def subC (a b : Word) : Bool := decide (b.toNat ≤ a.toNat)

/-- A signed result does not fit 32 bits (R179). -/
def signedOver (i : Int) : Bool := decide (i < -(2 ^ 31)) || decide (2 ^ 31 ≤ i)

def addV (a b : Word) : Bool := signedOver (a.toInt + b.toInt)
def subV (a b : Word) : Bool := signedOver (a.toInt - b.toInt)

def addFlags (a b : Word) : Flags := { z := isZero (a + b), n := isNeg (a + b), c := addC a b, v := addV a b }
def subFlags (a b : Word) : Flags := { z := isZero (a - b), n := isNeg (a - b), c := subC a b, v := subV a b }

/-- Z and N of a result; C and V stay. -/
def Flags.zn (f : Flags) (w : Word) : Flags := { f with z := isZero w, n := isNeg w }

/-- A shift amount: bits 4:0 (R182). -/
def shiftBy (b : Word) : Nat := b.toNat % 32

/-- The value of an operation of Table 5-7. -/
def aluValue (op : AluOp) (a b : Word) : Word :=
  match op with
  | .add => a + b
  | .sub => a - b
  | .and => a &&& b
  | .or => a ||| b
  | .xor => a ^^^ b
  | .sll => a <<< shiftBy b
  | .srl => a >>> shiftBy b
  | .sra => a.sshiftRight (shiftBy b)
  | .slt => if a.toInt < b.toInt then 1 else 0
  | .sltu => if a.toNat < b.toNat then 1 else 0
  | .min => if a.toInt < b.toInt then a else b
  | .max => if a.toInt < b.toInt then b else a
  | .minu => if a.toNat < b.toNat then a else b
  | .maxu => if a.toNat < b.toNat then b else a
  | .mul => a * b
  | .mulh => word (a.toInt * b.toInt / 2 ^ 32)
  | .mulhu => wordN (a.toNat * b.toNat / 2 ^ 32)

/-- The flags after an operation of Table 5-7. -/
def aluFlags (op : AluOp) (a b : Word) (f : Flags) : Flags :=
  match op with
  | .add => addFlags a b
  | .sub => subFlags a b
  | op => f.zn (aluValue op a b)

/-- R183: the value of a divide and V. -/
def divValue (op : DivOp) (a b : Word) : Word × Bool :=
  if b = 0 then
    match op with
    | .div | .divu => (0xFFFFFFFF, true)
    | .rem | .remu => (a, true)
  else match op with
    | .div => if a = 0x80000000 ∧ b = 0xFFFFFFFF then (0x80000000, true) else (word (a.toInt.tdiv b.toInt), false)
    | .divu => (wordN (a.toNat / b.toNat), false)
    | .rem => if a = 0x80000000 ∧ b = 0xFFFFFFFF then (0, true) else (word (a.toInt - a.toInt.tdiv b.toInt * b.toInt), false)
    | .remu => (wordN (a.toNat % b.toNat), false)

/-- The value of an I-format operation (Table 5-8). -/
def immValue (op : ImmOp) (a : Word) (i : BitVec 16) : Word :=
  match op with
  | .addi => a + i.signExtend 32
  | .cmpi => a - i.signExtend 32
  | .andi => a &&& i.setWidth 32
  | .ori => a ||| i.setWidth 32
  | .xori => a ^^^ i.setWidth 32
  | .lui => mkw i.toNat 16

def immFlags (op : ImmOp) (a : Word) (i : BitVec 16) (f : Flags) : Flags :=
  match op with
  | .addi => addFlags a (i.signExtend 32)
  | .cmpi => subFlags a (i.signExtend 32)
  | op => f.zn (immValue op a i)

def shiftValue (op : ShiftOp) (a : Word) (sh : Fin 32) : Word :=
  match op with
  | .slli => a <<< sh.val
  | .srli => a >>> sh.val
  | .srai => a.sshiftRight sh.val

/-- Whether a branch is taken; 15 is no condition (Table 5-6). -/
def condHolds (cond : Nat) (f : Flags) : Option Bool :=
  match cond with
  | 0 => some true
  | 1 => some f.z
  | 2 => some (!f.z)
  | 3 => some (f.n != f.v)
  | 4 => some (f.n == f.v)
  | 5 => some (f.z || f.n != f.v)
  | 6 => some (!f.z && f.n == f.v)
  | 7 => some (!f.c)
  | 8 => some f.c
  | 9 => some (!f.c || f.z)
  | 10 => some (f.c && !f.z)
  | 11 => some f.n
  | 12 => some (!f.n)
  | 13 => some f.v
  | 14 => some (!f.v)
  | _ => none

end Sys2Proof.Machine
end

