-- ==== Sys2Proof/Machine/Operands.lean ====
section
/-! DEFINITION. The operands of engine instructions: addresses, access sizes, extensions, register pairs, the registers that an
instruction names, and the tray (R162, R166, R171, R185, R187). -/

namespace Sys2Proof.Machine

/-- ra + sext(imm16) (R171, R172). -/
def effAddr (h : Thr) (ra : Reg5) (off : BitVec 16) : Word := h.getW ra.val + off.signExtend 32

/-- Access sizes (Table 5-9). -/
def loadBytes : LoadOp → Nat
  | .w => 4
  | .h | .hu => 2
  | .b | .bu => 1

def storeBytes : StoreOp → Nat
  | .w => 4
  | .h => 2
  | .b => 1

def loadSize : LoadOp → Size
  | .w => .b4
  | .h | .hu => .b2
  | .b | .bu => .b1

def storeSize : StoreOp → Size
  | .w => .b4
  | .h => .b2
  | .b => .b1

/-- The datum in the low bits of wd, sign-extended or zero-extended as named (R185). -/
def loadExtend (op : LoadOp) (v : Word) : Word :=
  match op with
  | .w => v
  | .h => (v.setWidth 16).signExtend 32
  | .hu => (v.setWidth 16).setWidth 32
  | .b => (v.setWidth 8).signExtend 32
  | .bu => (v.setWidth 8).setWidth 32

/-- A pair destination must be w1–w30, a pair source w0–w30 (R187). -/
def pairDst (rd : Reg5) : Bool := rd != 0 && rd != 31
def pairSrc (ra : Reg5) : Bool := ra != 31

/-- wd and wd + 1 take a pair (R187). -/
def Thr.setPair (h : Thr) (rd : Reg5) (a b : Word) : Thr := (h.setW rd.val a).setW (rd.val + 1) b

def Thr.flags (h : Thr) : Flags := { z := h.z, n := h.n, c := h.c, v := h.v }
def Thr.setFlags (h : Thr) (f : Flags) : Thr := { h with z := f.z, n := f.n, c := f.c, v := f.v }

/-- The registers that an instruction reads or writes: those that an outstanding load holds keep it from issuing (R166). -/
def insRegs : EngIns → List Nat
  | .alu _ rd ra rb => [rd.val, ra.val, rb.val]
  | .divide _ rd ra rb => [rd.val, ra.val, rb.val]
  | .imm _ rd ra _ => [rd.val, ra.val]
  | .shift _ rd ra _ => [rd.val, ra.val]
  | .trayLoad _ rd ra _ => [rd.val, ra.val]
  | .trayStore _ rd ra _ => [rd.val, ra.val]
  | .load _ rd ra _ => [rd.val, ra.val]
  | .store _ rd ra _ => [rd.val, ra.val]
  | .bcond _ _ => []
  | .jal rd _ => [rd.val]
  | .jalr rd ra => [rd.val, ra.val]
  | .wait rd _ => [rd.val]
  | .carm rd ra => [rd.val, ra.val, ra.val + 1, ra.val + 2, ra.val + 3, ra.val + 4]
  | .ccan rd ra => [rd.val, ra.val]
  | .pos rd _ => [rd.val, rd.val + 1]
  | .spkr rd _ _ => [rd.val]
  | .p2t rd ra _ => [rd.val, rd.val + 1, ra.val, ra.val + 1]
  | .t2p rd ra _ => [rd.val, rd.val + 1, ra.val, ra.val + 1]
  | .pdist rd ra rb _ => [rd.val, ra.val, rb.val]
  | .cap rd _ => [rd.val, rd.val + 1]
  | .snap rd ra _ _ => [rd.val, ra.val, ra.val + 1]
  | .snrel => []
  | .fixsel _ _ => []
  | .fixarm rd ra _ _ _ => [rd.val, ra.val, ra.val + 1]
  | .send rd ra rb => [rd.val, ra.val, rb.val]
  | .recv rd => [rd.val]
  | .record ra _ => [ra.val]
  | .mfs rd _ => [rd.val]
  | .mts _ ra => [ra.val]
  | .fence => []
  | .halt => []

/-- The instruction reads or sets a flag (Tables 5-5 to 5-10, 5-12). -/
def insFlags : EngIns → Bool
  | .alu _ _ _ _ | .divide _ _ _ _ | .imm _ _ _ _ | .shift _ _ _ _ | .bcond _ _ | .carm _ _ | .ccan _ _ | .cap _ _
  | .snap _ _ _ _ | .fixarm _ _ _ _ _ | .send _ _ _ | .recv _ => true
  | .mfs _ sel | .mts sel _ => sel.val == 0
  | _ => false

/-- The instruction evaluates unit quantities at its T (R190–R193). -/
def isUnit : EngIns → Bool
  | .pos _ _ | .spkr _ _ _ | .p2t _ _ _ | .t2p _ _ _ | .pdist _ _ _ _ => true
  | _ => false

/-- The registers that a unit instruction writes. -/
def unitDst : EngIns → List Nat
  | .pos rd _ | .p2t rd _ _ | .t2p rd _ _ => [rd.val, rd.val + 1]
  | .spkr rd _ _ | .pdist rd _ _ _ => [rd.val]
  | _ => []

/-- An access that returns a result to the thread (R173, R194). -/
def FabAcc.isLoad (a : FabAcc) : Bool := a.kind == .load || a.kind == .cap

/-- The registers that an access writes. -/
def FabAcc.dst (a : FabAcc) : List Nat :=
  match a.kind with
  | .load => if a.rd = 0 then [] else [a.rd.val]
  | .cap => [a.rd.val, a.rd.val + 1]
  | _ => []

/-- An outstanding fabric load or unit result will write a register or the flags of the instruction (R166, R173). Unit results
return in the order of issue. -/
def loadHazard (h : Thr) (i : EngIns) : Bool :=
  (h.fab.any fun a => (a.dst.any fun r => (insRegs i).contains r) || (a.kind == .cap && (insFlags i || isUnit i)))
    || (h.out.any fun o => (unitDst o.1).any fun r => (insRegs i).contains r)
    || (!h.out.isEmpty && insFlags i)

/-- A corrected single-bit error counts in ENLn_STAT.ECC_CORR (R162). -/
def eccCount (s : State) (e : Nat) : State := s.bump (Reg.ENL_STAT e) 31 16

/-- How a tray access by a thread ends. -/
inductive TrayRes where
  | ok (w : Word) (s : State)
  | range
  | align
  | ecc
  deriving DecidableEq, Repr

/-- The address of a tray access: bits 15:0 (R171). -/
def trayAddr (h : Thr) (ra : Reg5) (off : BitVec 16) : Nat := (effAddr h ra off).toNat % 65536

/-- The word at `a` is good, corrected, or bad (R162): the state after, or none. -/
def trayCheck (s : State) (e a : Nat) : Option State :=
  match sparseRead zeroNat (s.engAt e).tecc (a / 4 * 4) with
  | 0 => some s
  | 1 => some ((eccCount s e).modEng e fun g => { g with tecc := sparseWrite zeroNat g.tecc (a / 4 * 4) 0 })
  | _ => none

/-- A tray load of `w` bytes (R171). -/
def trayLoad (s : State) (e a w : Nat) : TrayRes :=
  if a ≥ 0x8000 then .range else if a % w ≠ 0 then .align else
  match trayCheck s e a with
  | none => .ecc
  | some s1 => .ok (wordN ((memWord (s1.engAt e).tray (a / 4 * 4)).toNat / 2 ^ (8 * (a % 4)))) s1

/-- A tray store of the low `w` bytes; a whole word needs no check bits of the old one (R171). -/
def trayStore (s : State) (e a w : Nat) (v : Word) : TrayRes :=
  if a ≥ 0x8000 then .range else if a % w ≠ 0 then .align else
  let put (s : State) : State := s.modEng e fun g => { g with tray := setBytes g.tray a ((wordBytes v).take w) }
  if w = 4 then .ok 0 (put (s.modEng e fun g => { g with tecc := sparseWrite zeroNat g.tecc a 0 }))
  else match trayCheck s e a with
    | none => .ecc
    | some s1 => .ok 0 (put s1)

end Sys2Proof.Machine
end

