-- ==== Sys2Proof/Machine/Issue.lean ====
section
/-! DEFINITION. The choice of the thread that issues in a cc, among the threads whose instructions the queue presents in the
present tb (R165; log entries 23, 64). -/

namespace Sys2Proof.Machine

/-- The issue that a row of an engine instruction presents. -/
def issueRow : Instr → Option (Fin 64 × EngIns)
  | .add t rd ra rb => some (t, .alu .add rd ra rb)
  | .sub t rd ra rb => some (t, .alu .sub rd ra rb)
  | .sll t rd ra rb => some (t, .alu .sll rd ra rb)
  | .srl t rd ra rb => some (t, .alu .srl rd ra rb)
  | .sra t rd ra rb => some (t, .alu .sra rd ra rb)
  | .slt t rd ra rb => some (t, .alu .slt rd ra rb)
  | .sltu t rd ra rb => some (t, .alu .sltu rd ra rb)
  | .min t rd ra rb => some (t, .alu .min rd ra rb)
  | .max t rd ra rb => some (t, .alu .max rd ra rb)
  | .minu t rd ra rb => some (t, .alu .minu rd ra rb)
  | .maxu t rd ra rb => some (t, .alu .maxu rd ra rb)
  | .mul t rd ra rb => some (t, .alu .mul rd ra rb)
  | .mulh t rd ra rb => some (t, .alu .mulh rd ra rb)
  | .mulhu t rd ra rb => some (t, .alu .mulhu rd ra rb)
  | .engAnd t rd ra rb => some (t, .alu .and rd ra rb)
  | .engOr t rd ra rb => some (t, .alu .or rd ra rb)
  | .engXor t rd ra rb => some (t, .alu .xor rd ra rb)
  | .div t rd ra rb => some (t, .divide .div rd ra rb)
  | .divu t rd ra rb => some (t, .divide .divu rd ra rb)
  | .rem t rd ra rb => some (t, .divide .rem rd ra rb)
  | .remu t rd ra rb => some (t, .divide .remu rd ra rb)
  | .addi t rd ra im => some (t, .imm .addi rd ra im)
  | .andi t rd ra im => some (t, .imm .andi rd ra im)
  | .ori t rd ra im => some (t, .imm .ori rd ra im)
  | .xori t rd ra im => some (t, .imm .xori rd ra im)
  | .cmpi t ra im => some (t, .imm .cmpi 0 ra im)
  | .lui t rd im => some (t, .imm .lui rd 0 im)
  | .slli t rd ra sh => some (t, .shift .slli rd ra sh)
  | .srli t rd ra sh => some (t, .shift .srli rd ra sh)
  | .srai t rd ra sh => some (t, .shift .srai rd ra sh)
  | .ldt t rd ra off => some (t, .trayLoad .w rd ra off)
  | .ld t rd ra off => some (t, .load .w rd ra off)
  | .ldth t rd ra off => some (t, .trayLoad .h rd ra off)
  | .ldh t rd ra off => some (t, .load .h rd ra off)
  | .ldthu t rd ra off => some (t, .trayLoad .hu rd ra off)
  | .ldhu t rd ra off => some (t, .load .hu rd ra off)
  | .ldtb t rd ra off => some (t, .trayLoad .b rd ra off)
  | .ldb t rd ra off => some (t, .load .b rd ra off)
  | .ldtbu t rd ra off => some (t, .trayLoad .bu rd ra off)
  | .ldbu t rd ra off => some (t, .load .bu rd ra off)
  | .stt t rd ra off => some (t, .trayStore .w rd ra off)
  | .st t rd ra off => some (t, .store .w rd ra off)
  | .stth t rd ra off => some (t, .trayStore .h rd ra off)
  | .sth t rd ra off => some (t, .store .h rd ra off)
  | .sttb t rd ra off => some (t, .trayStore .b rd ra off)
  | .stb t rd ra off => some (t, .store .b rd ra off)
  | .bCond t cond off => some (t, .bcond cond off)
  | .jal t rd tgt => some (t, .jal rd tgt)
  | .jalr t rd ra => some (t, .jalr rd ra)
  | .wait t rd mask => some (t, .wait rd mask)
  | .carm t rd ra => some (t, .carm rd ra)
  | .ccan t rd ra => some (t, .ccan rd ra)
  | .pos t rd n => some (t, .pos rd n)
  | .spkr t rd n sel => some (t, .spkr rd n sel)
  | .p2t t rd ra n => some (t, .p2t rd ra n)
  | .t2p t rd ra n => some (t, .t2p rd ra n)
  | .pdist t rd ra rb n => some (t, .pdist rd ra rb n)
  | .cap t rd ch => some (t, .cap rd ch)
  | .snap t rd ra mode k => some (t, .snap rd ra mode k)
  | .snrel t => some (t, .snrel)
  | .fixarm t rd ra k kind u => some (t, .fixarm rd ra k kind u)
  | .send t rd ra rb => some (t, .send rd ra rb)
  | .recv t rd => some (t, .recv rd)
  | .mfs t rd sel => some (t, .mfs rd sel)
  | .mts t sel ra => some (t, .mts sel ra)
  | .fence t => some (t, .fence)
  | .halt t => some (t, .halt)
  | .fixsel t k st => some (t, .fixsel k st)
  | .engRec t ra kind => some (t, .record ra kind)
  | _ => none

/-- The issue slot of engine `e` in a cc, among the places that `Fabric.used` names. -/
def issueSlot (e : Nat) : Nat := 512 + e

/-- The tray of engine `e`, which serves one access per cc (R176). -/
def trayPlace (e : Nat) : Nat := 560 + e

/-- The instruction accesses its engine's tray. -/
def usesTray : EngIns → Bool
  | .trayLoad _ _ _ _ | .trayStore _ _ _ _ => true
  | _ => false

/-- An access of the memory window has waited 3 cc for the tray: this cc is the window's (R176; log entry 87). -/
def windowLate (s : State) (e : Nat) : Bool :=
  s.fabric.host.any fun h => h.1 == trayPlace e && decide (h.2.1 + 6 ≤ s.cc) && decide (s.cc ≤ h.2.2 + 2)

/-- The tray serves another access in this cc (R176). -/
def trayTaken (s : State) (e : Nat) : Bool := s.fabric.used.contains (trayPlace e) || windowLate s e

/-- The thread may be chosen to issue (R163, R207). -/
def canIssue (s : State) (t : Nat) : Bool :=
  enlOn s (t / 4) && (s.thrAt t).st == .ready && (s.thrAt t).stepOut.isNone

/-- The thread is READY and its next instruction meets its interlocks and finds its tray free (R165, R166, R176). -/
def eligible (s : State) (t : Nat) (i : EngIns) : Bool :=
  canIssue s t && !loadHazard (s.thrAt t) i && !(usesTray i && trayTaken s (t / 4))

/-- The place of a thread in the order of R165: PRIO 1 first, then cyclic order after the thread that last issued. -/
def issueRank (s : State) (t : Nat) : Nat :=
  let (l0, l1) := (s.engAt (t / 4)).lastIss
  if bitAt (tctl s t) 8 then (t % 4 + 3 - l1) % 4 else 4 + (t % 4 + 3 - l0) % 4

/-- The instruction that the thread's next word spells, if any. -/
def nextIns (s : State) (t : Nat) : Option EngIns := engDecode (wordAt (s.engAt (t / 4)).iram (s.thrAt t).pc.toNat)

/-- The thread's next instruction meets its interlocks; an unassigned word has none. -/
def nextEligible (s : State) (t : Nat) : Bool :=
  match nextIns s t with
  | some i => eligible s t i
  | none => canIssue s t

/-- Thread `u` in a step, which has no row, is ready to issue (R205). -/
def stepsNow (s : State) (u : Nat) : Bool := (s.thrAt u).stepping && nextEligible s u

/-- The engine has not issued in this cc, and no other of its threads that has an instruction in the queue or is in a step goes first
(R165). -/
def chosen (s : State) (t : Nat) : Bool :=
  let first (u : Nat) : Bool := u / 4 == t / 4 && u != t && decide (issueRank s u < issueRank s t)
  !s.fabric.used.contains (issueSlot (t / 4))
    && (s.pending.all fun c => match issueRow c with | some (u, j) => !(first u.val && eligible s u.val j) | none => true)
    && [0, 1, 2, 3].all fun j => !(first (4 * (t / 4) + j) && stepsNow s (4 * (t / 4) + j))

/-- The thread issues in this cc. -/
def issueTake (s : State) (t : Nat) : State :=
  let s1 : State := { s with fabric := { s.fabric with used := issueSlot (t / 4) :: s.fabric.used } }
  s1.modEng (t / 4) fun g => { g with lastIss := if bitAt (tctl s t) 8 then (g.lastIss.1, t % 4) else (t % 4, g.lastIss.2) }

/-- A thread of engine `e` accesses its tray in this cc: by an instruction in the queue, or in a step (R176). -/
def trayWanted (s : State) (e : Nat) : Bool :=
  (s.pending.any fun c => match issueRow c with
    | some (t, i) => t.val / 4 == e && usesTray i && eligible s t.val i && chosen s t.val
    | none => false)
  || [0, 1, 2, 3].any fun j =>
    let t := 4 * e + j
    stepsNow s t && chosen s t && (match nextIns s t with | some i => usesTray i | none => false)

/-- The tray has its access of this cc (R176). -/
def trayUse (s : State) (e : Nat) (i : EngIns) : State :=
  if usesTray i then { s with fabric := { s.fabric with used := trayPlace e :: s.fabric.used } } else s

/-- A recv of thread `t` stands in the queue and issues in this cc (R170). -/
def popsNow (s : State) (t : Nat) : Bool :=
  s.pending.any fun c =>
    match issueRow c with
    | some (u, .recv rd) => u.val == t && eligible s t (.recv rd) && chosen s t
    | _ => false

end Sys2Proof.Machine
end

