-- ==== Sys2Proof/Machine/Rows.lean ====
section
/-! DEFINITION. The register writes that the queue still holds for the present tb, whatever row brings them: what a rule that orders
two things of one cycle looks at (log entry 11). -/

namespace Sys2Proof.Machine

/-- The master of a row: a host transaction is secure only while SECHOST is 1 and HSEC is high (R373). -/
def masterNow (s : State) : Master → Master
  | .host b => .host (b && s.rb Reg.HP_SEC 0 && s.host.hsec)
  | m => m

/-- The host port accepts transactions of the form (R353; log entry 69). -/
def portTakes (s : State) (par : Bool) : Bool := s.host.parallel == par && decide (s.host.openIn = 0)

/-- The 4-byte write that a store of an engine thread makes when it completes (R173). -/
def storeWrite (t : Fin 64) (f : FabAcc) : Option (Master × Nat × Word) :=
  if f.kind == .store && f.size == .b4 then some (.engine t, f.addr.toNat, f.data) else none

/-- The word that the second half of a parallel write cycle makes with the first, which is held (R360). -/
def pairWrite (s : State) (a : Nat) (d : BitVec 16) : Option (Master × Nat × Word) :=
  match s.host.half with
  | some (b, lo, sec) => if a = b + 2 then some (.host sec, b, (d ++ lo : BitVec 32)) else none
  | none => none

/-- The register write that a row brings, with its master. -/
def rowWrite (s : State) : Instr → Option (Master × Nat × Word)
  | .registerWrite m a w | .stagedWrite m a w => some (m, a, w)
  | .write4 a w chg _ => if portTakes s false then some (.host (!chg), a.val, w) else none
  | .parallelWriteCycle a be0 be1 d _ => if portTakes s true && be0 && be1 then pairWrite s (a.val / 2 * 2) d else none
  | .fabricAccessComplete t => (s.thrAt t.val).fab.head?.bind (storeWrite t)
  | .evrDone m b f idx => some (m, Reg.EVR_DONE b.val (ofBool f), idx.setWidth 32)
  | .safeCmdEnter m => some (m, Reg.SAFE_CMD, 1)
  | .shqEnable m n w => some (m, Reg.SHQ_CTL n.val, setBit w 0)
  | .shqDisable m n w => some (m, Reg.SHQ_CTL n.val, clearBit w 0)
  | .resume m n => some (m, Reg.SHQ_CMD n.val, mkw 1 0)
  | .shqHalt m n => some (m, Reg.SHQ_CMD n.val, mkw 1 1)
  | .shiftClear m n => some (m, Reg.SHQ_CMD n.val, mkw 1 2)
  | .divRst m n => some (m, Reg.SHQ_CMD n.val, mkw 1 4)
  | .shqStart m n => some (m, Reg.SHQ_CMD n.val, mkw 1 5)
  | .injection m n w => some (m, Reg.SHQ_INJ n.val, w)
  | .progWrite m n k w => some (m, Reg.SHQ_PROG n.val k, w)
  | _ => none

/-- The register writes of masters that reach registers, in the order of the queue. -/
def writesComing (s : State) : List (Master × Nat × Word) :=
  ((s.pending.filterMap (rowWrite s)).map fun p => (masterNow s p.1, p.2)).filter fun p => reachesRegs p.1

end Sys2Proof.Machine
end

