-- ==== Sys2Proof/Machine/Protect.lean ====
section
/-! DEFINITION. Exposure meters, release limiter, guarded gates, the safe pins, run-downs and the host watchdog (chapter 9,
R400). -/

namespace Sys2Proof.Machine

/-- The configuration word of a meter as it stood at the start of tb B − 2 (R292). -/
def mtrWas (s : State) (n o b : Nat) : Word :=
  match (s.mtrAt n).late.find? fun l => l.1 == o && b ≤ l.2.2 + 2 with
  | some l => l.2.1
  | none => s.reg (0x00881000 + 0x20 * n + o)

/-- MTR_CFGn, MTR_BUDn or MTR_RELn lands (R292). -/
def mtrCfgWrite (s : State) (n o : Nat) (w : Word) : State :=
  let a := 0x00881000 + 0x20 * n + o
  let old := s.reg a
  (s.setReg a (mergeBits old w (regDesc a).rws)).modMtr n fun m =>
    { m with late := (m.late.filter fun l => s.tb < l.2.2 + 4) ++ [(o, old, s.tb)] }

/-- MTR_En: bits 47:16 of e. -/
def mtrE (s : State) (n : Nat) : Nat := (s.mtrAt n).e / 65536

def mtrDetail (s : State) (n : Nat) : Word := mkw n 0 ||| mkw (mtrE s n % 65536) 16

/-- One step of the energy model (R290). -/
def mtrStep (e leak weight on_ : Nat) : Nat := min (2 ^ 48 - 1) (e - e >>> leak + weight * on_)

/-- On-time of a remote row group in the frame that served the window `w`, as sent (R291). -/
def remoteOn (s : State) (g w : Nat) : Nat :=
  let l := s.linkAt (g / 16)
  match l.steps.find? fun p => p.1 == w with
  | some p => if l.st == .up then (p.2.getD (g % 16) 0) * 125 / 16 else 0
  | none => 0

/-- FORCED sets from 0 (R292, R294, R310). -/
def mtrForce (s : State) (n : Nat) (safety : Bool) : State :=
  let s1 := (s.modMtr n fun m => { m with forced := true }).hwSetBit (Reg.MTR_HIT (n / 32)) (n % 32)
  let s2 := s1.after 4 (.meter n true)
  if safety then raiseSafety s2 2 296 1 (.word (mtrDetail s2 n)) else s2.raise0 296 1 (.word (mtrDetail s2 n))

/-- FORCED clears (R293). -/
def mtrFree (s : State) (n : Nat) : State :=
  let s1 := (s.modMtr n fun m => { m with forced := false }).after 4 (.meter n false)
  s1.raise0 297 1 (.word (mtrDetail s1 n))

/-- Meter `n` at boundary B (R290–R294); a CLR_E that landed in B prevails over its increment (R371). -/
def mtrBoundary (s : State) (n : Nat) : State :=
  let s0 := if n < 128 then addOnTime s n else s
  let cfg := mtrWas s0 n 0 s.tb
  let bud := (mtrWas s0 n 4 s.tb).toNat
  let rel := min bud (mtrWas s0 n 8 s.tb).toNat
  let w := fld cfg 7 0
  let on_ := if n < 128 then (s0.mtrAt n).on else remoteOn s0 (n - 128) (s.tb / 1000 - 1)
  let s1 := s0.modMtr n fun m =>
    { m with e := if m.clrTb == some s.tb then 0 else mtrStep m.e (min 24 (fld cfg 12 8)) w on_, on := 0, onTb := s.tb }
  let m := s1.mtrAt n
  if mtrE s1 n > bud then (if m.forced || w == 0 then s1 else mtrForce s1 n (bitAt cfg 17))
  else if m.forced && !bitAt cfg 16 && mtrE s1 n ≤ rel then mtrFree s1 n
  else s1

/-- A meter boundary B = 1,000 × k (R290). -/
def meterBoundaryOp (s : State) : State :=
  if s.tb % 1000 != 0 || s.safe.mtrTb == some s.tb then s else
  forEach (List.range 256) { s with safe := { s.safe with mtrTb := some s.tb } } mtrBoundary

/-- The output of meter `n` takes what FORCED was 4 tb before (R292, R293). -/
def meterOut (s : State) (n : Nat) (forced : Bool) : State :=
  let s1 := s.modMtr n fun m => { m with out := forced }
  if n < 128 then settlePin s1 n else s1

/-- MTR_CMD.RELEASE (R293). -/
def mtrReleaseOp (s : State) (n : Nat) : State :=
  let rel := min (s.reg (Reg.MTR_BUD n)).toNat (s.reg (Reg.MTR_REL n)).toNat
  if !(s.mtrAt n).forced then s
  else if mtrE s n ≤ rel then mtrFree s n
  else s.hwSetBit Reg.SAFE_EVT 4

/-- MTR_CMD.CLR_E (R371). -/
def mtrClrEOp (s : State) (n : Nat) : State := s.modMtr n fun m => { m with e := 0, clrTb := some s.tb }

/-- The boundary of this tb, where it still waits, comes before a RELEASE: a new excess prevails (R293). -/
def boundaryFirst (s : State) : State := if s.pending.contains .meterBoundary then meterBoundaryOp s else s

/-- MTR_CMD lands: CLR_E, then RELEASE. -/
def mtrCmdWrite (s : State) (w : Word) : State :=
  let n := fld w 7 0
  let s1 := if bitAt w 9 then mtrClrEOp s n else s
  (if bitAt w 8 then mtrReleaseOp (boundaryFirst s1) n else s1).setReg Reg.MTR_CMD (mkw n 0)

/-- Rising edges among a pin's delayed edges that fall before `t`. -/
def risesBefore (t : Nat) : Lvl → List (Nat × Lvl) → Nat
  | _, [] => 0
  | p, (u, l) :: r => (if l.high && !p.high && u < t then 1 else 0) + risesBefore t l r

/-- The level that a pin's delayed edges follow. -/
def queuedFrom (p : Pin) : Lvl := if p.dropping then .hi else p.post

/-- The start of a window (R296). -/
def windowStartOp (s : State) : State :=
  if s.tb % 1000 != 0 || s.safe.winTb == some s.tb then s else
  forEach [0, 1, 2, 3] { s with safe := { s.safe with winTb := some s.tb } } fun s k =>
    let d := ((List.range 32).map fun i => let p := s.pinAt (32 * k + i); risesBefore (s.tb + 1000) (queuedFrom p) p.queue).sum
    s.modLim k fun _ => { direct := 0, reserved := min d (relLimit s k), admitted := 0 }

/-- A delayed edge of pin `n` falls due (R296). -/
def delayedEdge (s : State) (n : Nat) : State :=
  let p := s.pinAt n
  let k := n / 32
  match p.queue with
  | [] => s
  | (t, l) :: r =>
    if t > s.tb then s else
    let old := beforeGate s n p.post
    let rise := l.high && !(queuedFrom p).high
    let m := s.limAt k
    let s1 := if rise then
        if relLimit s k == 0 || m.admitted < m.reserved then
          (s.modLim k fun m => { m with admitted := m.admitted + 1 }).modPin n fun p => { p with post := l, queue := r }
        else
          relEvent ((s.bump (Reg.REL_CNT k) 31 16).modPin n fun p => { p with post := .lo, queue := r, dropping := true }) (4 + k)
      else if l.high then s.modPin n fun p => { p with queue := r }
      else s.modPin n fun p => { p with post := l, queue := r, dropping := false }
    settleBall (s1.modPin n directAgain) n old

/-- DELAYED_EDGE: the window of this tb starts before its edges, and the due edges of lower pins, where they still wait, are taken
before this one (R295, R296). -/
def delayedEdgeOp (s : State) (n : Nat) : State :=
  forEach (allPins.filter fun k => k == n || (decide (k < n) && s.pending.any fun c => match c with
    | .delayedEdge p => p.val == k
    | _ => false)) (if s.pending.contains .releaseWindowStart then windowStartOp s else s) delayedEdge

/-- GUARD_OK of unit `u` arrives at the gates (R73, R298). -/
def guardArrives (s : State) (u : Nat) (ok : Bool) : State :=
  let s1 := { s with guard := vmodN s.guard u fun _ => ok }
  if ok then s1 else
  let pins := allPins.filter fun n => pinGuarded s1 n && guardUnit s1 n == u
  let s2 := forEach pins s1 fun s n =>
    let p := s.pinAt n
    if p.gateClosed then s else
    settleBall (s.modPin n fun p => { p with gateClosed := true, gateHold := p.ball }) n (beforeGate s n p.post)
  if s2.rf Reg.GUARD_RCFG 2 0 == u then { s2 with rgClosed := BitVec.allOnes 128 } else s2

/-- A pin that becomes guarded by a unit whose GUARD_OK has arrived as 0 has its gate closed (R298). -/
def gateJoin (s : State) (n : Nat) : State :=
  if pinGuarded s n && !vget s.guard (guardUnit s n) false && !(s.pinAt n).gateClosed then
    s.modPin n fun p => { p with gateClosed := true, gateHold := p.ball }
  else s

/-- The guarded remote groups. -/
def guardedGroups (s : State) : BitVec 128 :=
  ((s.reg (Reg.GUARD_RG 3) ++ s.reg (Reg.GUARD_RG 2)) ++ (s.reg (Reg.GUARD_RG 1) ++ s.reg (Reg.GUARD_RG 0))).setWidth 128

/-- A remote group that becomes guarded by a unit whose GUARD_OK has arrived as 0, or whose unit becomes such a one, has its gate
closed (R298). -/
def groupsJoin (s : State) : State :=
  if vget s.guard (s.rf Reg.GUARD_RCFG 2 0) false then s else { s with rgClosed := s.rgClosed ||| guardedGroups s }

/-- The override ends: guarded outputs leave it through their gates (R305). -/
def safeExitReached (s : State) : State :=
  if s.safe.safe then s else
  let s1 := { s with safe := { s.safe with sover := false } }
  let s2 := forEach allPins s1 fun s n =>
    if pinGuarded s n then s.modPin n fun p => { p with gateClosed := true, gateHold := p.ball } else s
  settlePins s2 allPins

/-- The run-down thread of the active format and its PC (Table 13-3). -/
def rundownThread (s : State) : Option (Nat × BitVec 12) :=
  match s.boot.formats[s.boot.active]? with
  | some f => if f.rdThr < 64 then some (f.rdThr, f.rdPc) else none
  | none => none

/-- A run-down ends: safe state follows under R301, and UPD_ACTIVATE goes on (R303, R400, R437, R441). -/
def rundownEnd (s : State) : State :=
  match s.safe.rundown with
  | none => s
  | some (why, _) =>
    let also := s.safe.rdAlso
    let s1 := enterSafe (rundownOver s) (rundownCause why)
    let s2 := { s1 with safe := { s1.safe with cause := s1.safe.cause ||| also, rdAlso := 0 } }
    if why == .activate then { s2 with slt := { s2.slt with activate := true } } else s2

/-- A run-down starts (R303, R399, R400). -/
def rundownStart (s : State) (why : RdWhy) : State :=
  let s0 := abandonChange s
  let s1 := { s0 with safe := { s0.safe with rundown := some (why, s.tb), rdAlso := 0 }, boot := { s0.boot with phase := 3, tooLate := s0.boot.tooLate || (s0.boot.phase == 2 && changePointReached s0) } }
  let s2 := s1.raise0 314 1 (.word (fmtStat s1))
  match rundownThread s2 with
  | some (t, pc) => if enlOn s2 (t / 4) then thrRestart s2 t pc else rundownEnd s2
  | none => rundownEnd s2

/-- A source with run-down acts (R301, R303). -/
def rundownSource (s : State) (why : RdWhy) : State :=
  if s.safe.safe then addCause s (rundownCause why)
  else if s.safe.rundown.isSome then
    { s with safe := { s.safe with rdAlso := s.safe.rdAlso ||| BitVec.ofNat 7 (2 ^ rundownCause why) } }
  else rundownStart s why

/-- The run-down thread halts, faults, or its engine stops (R400). -/
def rundownThreadGone (s : State) (t : Nat) (fault : Bool) : State :=
  if s.safe.rundown.isSome && (rundownThread s).map Prod.fst == some t then
    rundownEnd (if fault then fmtEvent s 6 314 3 else s)
  else s

/-- RD_TMO ms after the run-down began (R303). -/
def rundownTimeoutOp (s : State) : State :=
  match s.safe.rundown with
  | some (_, t) =>
    if s.tb ≥ t + (max 1 (s.rf Reg.SAFE_CFG 14 0)) * 1000000 then rundownEnd (s.hwSetBit Reg.SAFE_EVT 3) else s
  | none => s

/-- FMT_CMD.RD_DONE (R400). -/
def rdDoneOp (s : State) : State := rundownEnd s

/-- A pin that was last high in tb `up` can have been low for its filter of `flt` tb: one low from before the release of a reset is
judged as if it had changed at the release, and until the OTP step the filter is 20 tb (R301; log entry 73). -/
def lowAccepted (s : State) (flt up : Nat) : Bool :=
  decide (max up s.boot.startTb + (if s.otp then flt else 20) ≤ s.tb)

/-- The SAFE pin is asserted in this tb. -/
def safePinActs (s : State) : Bool := !s.safe.safePin && lowAccepted s (s.rf Reg.SAFE_CFG 31 24) s.safe.safeUp

/-- The STOP pin is asserted in this tb. -/
def stopPinActs (s : State) : Bool := !s.safe.stopPin && lowAccepted s (s.rf Reg.SAFE_CFG 23 16) s.safe.stopUp

/-- The SAFE pin has held low for SAFE_FLT tb (R301). -/
def safePinOp (s : State) : State :=
  if !safePinActs s then s else enterSafe { s with safe := { s.safe with safePin := true } } causeSafePin

/-- The STOP pin has held low for STOP_FLT tb (R301, R303). -/
def stopPinOp (s : State) : State :=
  if !stopPinActs s then s else
  let s1 := { s with safe := { s.safe with stopPin := true } }
  if s1.rb Reg.SAFE_CFG 15 then rundownSource s1 .stopPin else enterSafe s1 causeStopPin

/-- SAFE_CMD.ENTER (Table 9-3). -/
def safeEnterOp (s : State) (m : Master) : State := enterSafe s (if m = .safelight then causeSlt else causeCmd)

/-- HWD_CTL: the period in tb, and whether the watchdog runs (R306). -/
def hwdPeriod (s : State) : Nat := max 1 (s.rf Reg.HWD_CTL 15 0) * 10000
def hwdOn (s : State) : Bool := s.rb Reg.HWD_CTL 31

/-- PERIOD × 10 µs have passed without an accepted kick (R306). -/
def hwdDue (s : State) : Bool := hwdOn s && !s.safe.expired && decide (s.safe.hwdTb + hwdPeriod s ≤ s.tb)

/-- A source that waits among the commands of this tb will act in it (R305; log entry 11). -/
def sourceComing (s : State) : Bool :=
  (s.pending.any fun c => match c with
    | .safePinAssert => safePinActs s
    | .stopPinAssert => stopPinActs s
    | .hwdExpiry => hwdDue s
    | _ => false)
  || (writesComing s).any fun p => p.2.1 == Reg.SAFE_CMD && bitAt p.2.2 0 && p.1 != .host false

/-- The exit request is refused (R305). -/
def exitBarred (s : State) : Bool :=
  s.safe.safePin || s.safe.stopPin || s.safe.rundown.isSome || s.safe.expired || s.safe.srcTb == some s.tb || sourceComing s

/-- The exit request of a secure master lands in tb L; frames sampled from then on pass the gates of their groups (R305). -/
def safeExitOp (s : State) : State :=
  if exitBarred s then
    (s.hwSetBit Reg.SAFE_EVT 2).raise0 301 1 (.word (safeStat s))
  else
    let s1 := { s with rgClosed := s.rgClosed ||| guardedGroups s, safe := { s.safe with safe := false, cause := 0 }, boot := { s.boot with exitWait := false, exitDue := none } }
    ((s1.hwSetBit Reg.SAFE_EVT 1).after 3 .safeExit).raise0 301 1 (.word (safeStat s1))

/-- SAFE_CMD lands; ENTER prevails over EXIT. -/
def safeCmdWrite (s : State) (m : Master) (w : Word) : State :=
  if bitAt w 0 then safeEnterOp s m
  else if bitAt w 1 && fld w 31 16 == 0xC35A && masterSecure m then safeExitOp s
  else s

/-- HWD_STAT (R306). -/
def hwdStat (s : State) : Word :=
  let left := s.safe.hwdTb + hwdPeriod s - s.tb
  let rem := if hwdOn s && !s.safe.expired then min 65535 (cdiv left 10000) else 0
  mkw rem 16 ||| mkb s.safe.expired 0 ||| mkb (s.rb Reg.HWD_STAT 1) 1 ||| mkb s.safe.next92 2

/-- The count restarts and 0x6D is expected (R306). -/
def hwdRestart (s : State) : State :=
  { s with safe := { s.safe with expired := false, next92 := false, hwdTb := s.tb } }

/-- HWD_CTL lands: EN stays 1 until reset; REARM (R306). -/
def hwdCtlWrite (s : State) (w : Word) : State :=
  let old := s.reg Reg.HWD_CTL
  let w1 := mergeBits 0 w 0xC000FFFF ||| (old &&& 0x80000000)
  let s1 := s.setReg Reg.HWD_CTL w1
  if (bitAt w 31 && !bitAt old 31) || bitAt w 29 then hwdRestart s1 else s1

/-- PERIOD × 10 µs have passed without an accepted kick (R306). -/
def hwdExpiryOp (s : State) : State :=
  if !hwdDue s then s else
  let s1 := { s with safe := { s.safe with expired := true } }
  let s2 := s1.raise0 302 1 (.word (hwdStat s1))
  if s2.rb Reg.HWD_CTL 30 then rundownSource s2 .hwd else enterSafe s2 causeHwd

/-- HWD_KICK lands (R306). A kick, which is a write by the host, of the tb in which the period ends finds EXPIRED set (log entry
68), and is discarded while it is; a write by another master is a bad one always. -/
def hwdKickOp (s0 : State) (m : Master) (v : Nat) : State :=
  let s := hwdExpiryOp s0
  let host := decide (shadowKey m = Master.host false)
  if !hwdOn s || (s.safe.expired && host) then s else
  let want := if s.safe.next92 then 0x92 else 0x6D
  if host && v == want then
    { s with safe := { s.safe with next92 := !s.safe.next92, hwdTb := s.tb } }
  else
    let s1 := s.hwSetBit Reg.HWD_STAT 1
    s1.raise0 302 1 (.word (hwdStat s1))

/-- A register of the block lands (Table 9-5). -/
def safeWrite (s : State) (m : Master) (a : Nat) (w : Word) : State :=
  let d := regDesc a
  let store := s.setReg a (mergeBits (s.reg a) w (d.rw ||| d.rws))
  if a = Reg.SAFE_CMD then safeCmdWrite s m w
  else if a = Reg.HWD_CTL then hwdCtlWrite s w
  else if a = Reg.HWD_KICK then hwdKickOp s m (fld w 7 0)
  else if a = Reg.MTR_CMD then mtrCmdWrite s w
  else if 0x00881000 ≤ a then mtrCfgWrite s ((a - 0x00881000) / 0x20) ((a - 0x00881000) % 0x20) w
  else if (Reg.SAFE_TLVL 0 ≤ a ∧ a ≤ Reg.SAFE_TRG) ∨ (Reg.GUARD_CH 0 ≤ a ∧ a ≤ Reg.GUARD_RCFG) then
    settlePins (groupsJoin (forEach allPins store gateJoin)) allPins
  else store

end Sys2Proof.Machine
end

