-- ==== Sys2Proof/Machine/Engine.lean ====
section
/-! DEFINITION. The Enlarger engines: the issue of an instruction by a thread, every instruction of chapter 5, faults, debug,
thread commands, and the memory window (R160–R209). A fabric access is queued here and performed by Machine/Bus.lean. -/

namespace Sys2Proof.Machine

/-- How an instruction ends: complete, asleep in a wait, waiting for a result, or a fault with its code and detail. -/
inductive EngRes where
  | done (s : State)
  | held (s : State)
  | fault (code : Nat) (d : Word)
  deriving DecidableEq, Repr

def divTime : Nat := 36

/-- A thread faults; a request that the calendar has not served has no effect (R164, R201, R202). -/
def thrFault (s : State) (t code : Nat) (d : Word) : State :=
  let pc := (s.thrAt t).pc
  let s1 := (calForget s t).modThr t fun h =>
    { h.move s.tb .fault with
      fault := code, fltW := d, stall := .none, wait := none, stopPend := false, stepping := false, stepOut := none }
  let det : Detail := .word (mkw code 28 ||| pc.setWidth 32)
  let s2 := if bitAt (tctl s t) 16 then raiseSafety s1 0 (srcThr t) 1 det else s1.raise0 (srcThr t) 1 det
  rundownThreadGone s2 t true

def faultIllegal (i : EngIns) : EngRes := .fault 1 (engEncode i)

/-- The thread takes the result of `f`, and its PC moves on. -/
def putThr (s : State) (t : Nat) (f : Thr → Thr) : EngRes :=
  .done (s.modThr t fun h => { f h with pc := h.pc + 1 })

/-- Posted stores of an engine (R173, R195). -/
def postedStores (s : State) (e : Nat) : Nat :=
  (List.range 4).foldl (fun n j => n + ((s.thrAt (4 * e + j)).fab.filter fun a => !a.isLoad).length) 0

/-- The instruction waits for a free entry, the divider, or, where it is or carries a fence, earlier accesses (R173, R174, R183). -/
def mustStall (s : State) (t : Nat) (i : EngIns) : Bool :=
  let h := s.thrAt t
  match i with
  | .divide _ _ _ _ => decide (s.tb < (s.engAt (t / 4)).divTb)
  | .load _ _ _ _ | .cap _ _ => decide (2 ≤ (h.fab.filter fun a => a.isLoad).length)
  | .store _ _ _ _ => decide (8 ≤ postedStores s (t / 4))
  | .fence | .snrel | .carm _ _ | .ccan _ _ | .snap _ _ _ _ | .fixarm _ _ _ _ _ | .send _ _ _ => !h.fab.isEmpty
  | _ => false

/-- The result of a tray access, with its fault codes (Table 5-13). -/
def trayEnd (t a : Nat) (r : TrayRes) (f : Word → Thr → Thr) : EngRes :=
  match r with
  | .ok w s => putThr s t (f w)
  | .range => .fault 2 (wordN a)
  | .align => .fault 3 (wordN a)
  | .ecc => .fault 6 (wordN a)

/-- A fabric access enters the thread's queue (R173); a store takes the fix selection of its issue (R196). -/
def queueAccess (s : State) (t : Nat) (a : FabAcc) : EngRes := putThr s t fun h => { h with fab := h.fab ++ [a] }

/-- The events that a wait finds, and the latched bits that stay set whatever it clears: an event that reaches the engine in this
cc is not among those found while another stands, and stays set (R168; log entry 86). -/
def waitFinds (cc : Nat) (h : Thr) (mask : BitVec 16) : Word × BitVec 16 :=
  let (got, old) := h.evpNow cc
  let before := (h.evpAll &&& ~~~ (got &&& ~~~ old).setWidth 32) &&& mask.setWidth 32
  if before = 0 then (h.evpAll &&& mask.setWidth 32, 0) else (before, got)

/-- A wait ends with the events it finds (R168). -/
def waitResult (cc : Nat) (h : Thr) (rd : Reg5) (mask : BitVec 16) : Thr :=
  let (hit, stay) := waitFinds cc h mask
  let popped := bitAt hit 8
  let res := match h.wq with
    | v :: _ => if popped then hit ||| mkw v.toNat 16 else hit
    | [] => hit
  ({ h with wq := if popped then h.wq.drop 1 else h.wq,
            evp := (h.evp &&& ~~~ ((hit &&& 0x76FF).setWidth 16)) ||| stay }).setW rd.val res

/-- An event that a wait awaits stood as the cc began, or a level is high; one that only this cc brings lets it sleep until its
THREAD_WAKE (R168). -/
def waitAtHand (cc : Nat) (h : Thr) (mask : BitVec 16) : Bool :=
  let (got, old) := h.evpNow cc
  (h.evpAll &&& ~~~ (got &&& ~~~ old).setWidth 32) &&& mask.setWidth 32 != 0

def waitRun (s : State) (t : Nat) (rd : Reg5) (mask : BitVec 16) : EngRes :=
  let s1 := s.modThr t fun h => { h with wdCount := 0, wdTb := s.tb }
  if mask = 0 ∨ waitAtHand s.cc (s.thrAt t) mask then putThr s1 t fun h => waitResult s.cc h rd mask
  else .held (s1.modThr t fun h => { h.move s.tb .sleep with stall := .none, wait := some (rd, mask) })

/-- A request leaves for the calendar (R188, R189). -/
def calRun (s : State) (t : Fin 64) (rd ra : Reg5) (cancel : Bool) : EngRes :=
  let h := s.thrAt t.val
  let g (k : Nat) : Word := h.getW (ra.val + k)
  let q : CalReq :=
    if cancel then { who := .thread t, cancel := true, d0 := g 0, d1 := 0, d2 := 0, d3 := 0, d4 := 0, tb := s.cc }
    else { who := .thread t, cancel := false, d0 := g 0, d1 := g 1, d2 := g 2, d3 := g 3, d4 := g 4, tb := s.cc }
  .held (calAsk (s.modThr t.val fun h => { h.move s.tb .stall with stall := .calendar rd cancel }) q)

/-- The flags of pos and spkr (R190). -/
def spkFlags (s : State) (n : Nat) (w : Word) : Flags :=
  let u := s.spkAt n
  { z := isZero w, n := u.dirRev, c := !u.st.valid, v := !u.tValid }

/-- Table 5-11. -/
def spkrValue (s : State) (n sel : Nat) : Word :=
  let u := s.spkAt n
  match sel with
  | 0 => spkStateWord s n
  | 1 => spkTpredWord s n
  | 2 => lo32 (u.vis.stamp / 16)
  | 3 => wordN (u.vis.stamp % 16)
  | 4 => wordN u.vis.phys
  | _ => s.reg (Reg.SPK_CYCLE n)

/-- p2t: wd, wd + 1, Z, N and V, or none where C := 1 (R191). After a RESYNC at PRESET, until the next tooth, the last tooth stands
at the new position. -/
def p2tValue (s : State) (n : Nat) (p c : Word) : Option (Word × Word × Bool × Bool × Bool) :=
  let u := s.spkAt n
  if !u.st.valid || !u.tValid then none else
  let k := u.lastEv.getD (lastTooth s n)
  let d0 := posDist (spkK s n) p c k.pos k.cyc
  let d := if u.dirRev then -d0 else d0
  let t := (k.stamp : Int) + travelTimeI d k.tPred
  let far := decide ((2 : Int) ^ 35 ≤ t - (s.tb : Int) * 16) || decide ((2 : Int) ^ 35 ≤ (s.tb : Int) * 16 - t)
  some (word (t / 16), word (t % 16), d = 0, decide (d < 0), far)

/-- The time nearest to T whose bits 31:0 are `lo`, in sixteenths (R192). -/
def nearTime (tb : Nat) (lo fr : Word) : Int :=
  ((tb : Int) + toInt 32 (lo.toNat + 2 ^ 32 - tb % 2 ^ 32)) * 16 + fld fr 3 0

/-- t2p: the position pair, or none where C := 1 (R192). -/
def t2pValue (s : State) (n : Nat) (lo fr : Word) : Option (Word × Word) :=
  let u := s.spkAt n
  let t := nearTime s.tb lo fr
  if !u.st.valid || !u.tValid || decide (((s.tb : Int)) * 16 < t) || decide (t < 0) then none else
  match u.hist.find? fun k => decide (k.stamp ≤ t.toNat) with
  | some k => some (interp (spkK s n) k u.dirRev t.toNat)
  | none => none

/-- R193: the distance, and C. -/
def pdistValue (k : Nat) (a b : Word) : Word × Bool :=
  if a.toNat / pitch ≥ k ∨ b.toNat / pitch ≥ k then (0, true) else (word (phaseErr k a b), false)

/-- The end of p2t with no time: the flags beside C that the manual gives no value are free (R191). -/
def freeFlags (s : State) (keepV : Bool) : Flags × State :=
  let (z, s1) := s.drawBool
  let (n, s2) := s1.drawBool
  if keepV then ({ z := z, n := n, c := true, v := false }, s2)
  else
    let (v, s3) := s2.drawBool
    ({ z := z, n := n, c := true, v := v }, s3)

/-- snap (R195). -/
def snapRun (s : State) (t : Nat) (rd ra : Reg5) (mode k : Fin 4) : EngRes :=
  let h := s.thrAt t
  let who : Fin 64 := Fin.ofNat 64 t
  let (ok, s1) := csRequest s (.engine who) (some (who, rd)) mode.val k.val (join64 (h.getW ra.val) (h.getW (ra.val + 1)))
  let v : Word := if ok then 1 ||| mkw ((s.sheet.seq + 1) % 256) 8 else 0
  putThr s1 t fun h => { h.setW rd.val v with c := !ok }

/-- fixarm: four writes to fix channel k, and its status after the arm (R197). -/
def fixarmRun (s : State) (t : Nat) (rd ra : Reg5) (k kind : Fin 4) (u : Unit3) : EngRes :=
  let h := s.thrAt t
  let s1 := (s.setReg (Reg.FIX_POINT_LO k.val) (h.getW ra.val)).setReg (Reg.FIX_POINT_HI k.val) (h.getW (ra.val + 1))
  let s2 := (s1.setRf (Reg.FIX_CTL k.val) 5 4 kind.val).setRf (Reg.FIX_CTL k.val) 10 8 u.val
  let bad := fixArmRefused s2 k.val
  let s3 := fixArmOp s2 k.val
  putThr s3 t fun h => { h.setW rd.val (fixStat s3 k.val) with c := bad }

/-- send (R170): wb bits 31:6 must be 0. A full FIFO has room where a recv pops it in this cc. -/
def sendRun (s : State) (t : Nat) (rd ra rb : Reg5) : EngRes :=
  let h := s.thrAt t
  let w := h.getW ra.val
  let dst := h.getW rb.val
  if dst.toNat ≥ 64 then faultIllegal (.send rd ra rb) else
  if (s.thrAt dst.toNat).mq.length < (if popsNow s dst.toNat then 9 else 8) then
    putThr (s.modThr dst.toNat fun g => { g with mq := g.mq ++ [w], mqNew := noteNew s.cc g.mqNew }) t
      fun h => { h.setW rd.val 0 with c := false }
  else putThr s t fun h => { h.setW rd.val 1 with c := true }

/-- The special registers of mfs (Table 5-12). -/
def mfsValue (s : State) (t sel : Nat) : Option Word :=
  let h := s.thrAt t
  match sel with
  | 0 => some (mkb h.z 0 ||| mkb h.n 1 ||| mkb h.c 2 ||| mkb h.v 3)
  | 1 => some (wordN t)
  | 2 => some (lo32 s.cc)
  | 3 => some h.tbHi
  | 4 => some h.evpAll
  | 5 => some (mkw h.fk.val 0 ||| mkb h.fs 4)
  | 6 => some h.icnt
  | 7 => some (mkw h.wq.length 0 ||| mkw h.mq.length 8)
  | _ => none

/-- A unit instruction is evaluated at T = E + 4, of the core edge E of its issue (R190). -/
def unitAsk (s : State) (t : Nat) (i : EngIns) (a b : Word) : EngRes :=
  putThr (s.after (s.cc + 4 - s.tb) (.unitRes t)) t fun h => { h with out := h.out ++ [(i, a, b)] }

/-- The result of a unit instruction with operands `a` and `b`, as it stands at T (R190–R193). -/
def unitValue (s : State) (t : Nat) (i : EngIns) (a b : Word) : State :=
  match i with
  | .pos rd n =>
    let (p, c) := spkPosNow s n.val
    s.modThr t fun h => (h.setPair rd p c).setFlags (spkFlags s n.val p)
  | .spkr rd n sel =>
    let v := spkrValue s n.val sel.val
    s.modThr t fun h => (h.setW rd.val v).setFlags (spkFlags s n.val v)
  | .p2t rd _ n =>
    match p2tValue s n.val a b with
    | some (lo, fr, z, ng, v) => s.modThr t fun h => (h.setPair rd lo fr).setFlags { z := z, n := ng, c := false, v := v }
    | none =>
      let (f, s1) := freeFlags s false
      s1.modThr t fun h => (h.setPair rd 0 0).setFlags f
  | .t2p rd _ n =>
    match t2pValue s n.val a b with
    | some (p, c) => s.modThr t fun h =>
        (h.setPair rd p c).setFlags { z := isZero p, n := (s.spkAt n.val).dirRev, c := false, v := false }
    | none =>
      let (f, s1) := freeFlags s true
      s1.modThr t fun h => (h.setPair rd 0 0).setFlags f
  | .pdist rd _ _ n =>
    let (v, bad) := pdistValue (spkK s n.val) a b
    s.modThr t fun h => (h.setW rd.val v).setFlags { z := isZero v, n := isNeg v, c := bad, v := false }
  | _ => s

/-- The effect of an instruction that issues (R166–R200). -/
def engRun (s : State) (t : Fin 64) (i : EngIns) : EngRes :=
  let h := s.thrAt t.val
  let e := t.val / 4
  match i with
  | .alu op rd ra rb =>
    let a := h.getW ra.val
    let b := h.getW rb.val
    putThr s t.val fun h => (h.setW rd.val (aluValue op a b)).setFlags (aluFlags op a b h.flags)
  | .divide op rd ra rb =>
    let (q, v) := divValue op (h.getW ra.val) (h.getW rb.val)
    putThr (s.modEng e fun g => { g with divTb := s.cc + divTime }) t.val fun h =>
      (h.setW rd.val q).setFlags { h.flags.zn q with v := v }
  | .imm op rd ra imm =>
    let a := h.getW ra.val
    putThr s t.val fun h =>
      (if op == .cmpi then h else h.setW rd.val (immValue op a imm)).setFlags (immFlags op a imm h.flags)
  | .shift op rd ra sh =>
    let v := shiftValue op (h.getW ra.val) sh
    putThr s t.val fun h => (h.setW rd.val v).setFlags (h.flags.zn v)
  | .trayLoad op rd ra off =>
    let a := trayAddr h ra off
    trayEnd t.val a (trayLoad s e a (loadBytes op)) fun w h => h.setW rd.val (loadExtend op w)
  | .trayStore op rd ra off =>
    let a := trayAddr h ra off
    trayEnd t.val a (trayStore s e a (storeBytes op) (h.getW rd.val)) fun _ h => h
  | .load op rd ra off =>
    queueAccess s t.val { kind := .load, op := op, rd := rd, addr := effAddr h ra off, size := loadSize op, data := 0,
                          fk := h.fk, fs := h.fs, ch := 0, pc := h.pc }
  | .store op rd ra off =>
    queueAccess s t.val { kind := .store, op := .w, rd := 0, addr := effAddr h ra off, size := storeSize op,
                          data := h.getW rd.val, fk := h.fk, fs := h.fs, ch := 0, pc := h.pc }
  | .bcond cond off =>
    match condHolds cond.val h.flags with
    | none => faultIllegal i
    | some yes => .done (s.modThr t.val fun h =>
        { h with pc := if yes then h.pc + 1 + off.setWidth 12 else h.pc + 1 })
  | .jal rd tgt => .done (s.modThr t.val fun h => { h.setW rd.val ((h.pc + 1).setWidth 32) with pc := tgt })
  | .jalr rd ra =>
    let dst : BitVec 12 := (h.getW ra.val).setWidth 12
    .done (s.modThr t.val fun h => { h.setW rd.val ((h.pc + 1).setWidth 32) with pc := dst })
  | .wait rd mask => waitRun s t.val rd mask
  | .carm rd ra => if ra.val > 27 then faultIllegal i else calRun s t rd ra false
  | .ccan rd ra => calRun s t rd ra true
  | .pos rd _ => if !pairDst rd then faultIllegal i else unitAsk s t.val i 0 0
  | .spkr _ _ sel => if sel.val > 5 then faultIllegal i else unitAsk s t.val i 0 0
  | .p2t rd ra _ | .t2p rd ra _ =>
    if !pairDst rd || !pairSrc ra then faultIllegal i else unitAsk s t.val i (h.getW ra.val) (h.getW (ra.val + 1))
  | .pdist _ ra rb _ => unitAsk s t.val i (h.getW ra.val) (h.getW rb.val)
  | .cap rd ch =>
    if !pairDst rd then faultIllegal i else
    queueAccess s t.val { kind := .cap, op := .w, rd := rd, addr := wordN (Reg.CH_CAP ch.val), size := .b4, data := 0,
                          fk := h.fk, fs := h.fs, ch := ch, pc := h.pc }
  | .snap rd ra mode k => if !pairSrc ra || mode == 3 then faultIllegal i else snapRun s t.val rd ra mode k
  | .snrel =>
    queueAccess s t.val { kind := .snrel, op := .w, rd := 0, addr := wordN Reg.CS_CTL, size := .b4, data := 0,
                          fk := h.fk, fs := h.fs, ch := 0, pc := h.pc }
  | .fixsel k st => putThr s t.val fun h => { h with fk := k, fs := st }
  | .fixarm rd ra k kind u => if !pairSrc ra then faultIllegal i else fixarmRun s t.val rd ra k kind u
  | .send rd ra rb => sendRun s t.val rd ra rb
  | .recv rd =>
    putThr s t.val fun h => match h.mq with
      | w :: r => { ({ h with mq := r }).setW rd.val w with c := false }
      | [] => { h.setW rd.val 0 with c := true }
  | .record ra kind =>
    if kind.val < 8 then faultIllegal i else putThr (s.raise0 (srcThr t.val) kind.val (.word (h.getW ra.val))) t.val id
  | .mfs rd sel =>
    match mfsValue s t.val sel.val with
    | none => faultIllegal i
    | some v => putThr s t.val fun h =>
        (if sel.val = 2 then { h with tbHi := hi32 s.cc } else h).setW rd.val v
  | .mts sel ra =>
    let v := h.getW ra.val
    match sel.val with
    | 0 => putThr s t.val fun h => h.setFlags { z := bitAt v 0, n := bitAt v 1, c := bitAt v 2, v := bitAt v 3 }
    | 5 => putThr s t.val fun h => { h with fk := Fin.ofNat 4 (fld v 1 0), fs := bitAt v 4 }
    | _ => faultIllegal i
  | .fence => putThr s t.val id
  | .halt =>
    let s1 := s.modThr t.val fun h => { h.move s.tb .stopped with stall := .none, stopPend := false, stepping := false, pc := h.pc + 1 }
    .held (rundownThreadGone s1 t.val false)

/-- What a stepped instruction leaves outstanding: a fabric access (true) or a unit result (false). -/
def leavesOpen : EngIns → Option Bool
  | .load _ _ _ _ | .store _ _ _ _ | .cap _ _ | .snrel => some true
  | i => if isUnit i then some false else none

/-- The thread's instruction has been carried out; a step whose access or result is outstanding is not complete (R205). -/
def Thr.issued (h : Thr) (tb : Nat) (i : EngIns) : Thr :=
  match leavesOpen i with
  | some b => if h.stepping && !h.stopPend then { h.move tb .ready with stall := .none, stepOut := some b } else h.stepOver tb
  | none => h.stepOver tb

/-- An issued instruction is attempted: it stalls, completes, waits or faults (R164, R201). -/
def engAttempt (s : State) (t : Fin 64) (i : EngIns) : State :=
  if mustStall s t.val i then s.modThr t.val fun h => { h.move s.tb .stall with stall := .retry i }
  else match engRun s t i with
    | .done s1 => s1.modThr t.val fun h => h.issued s.tb i
    | .held s1 => s1
    | .fault c d => thrFault s t.val c d

/-- The step is complete once its access or result has returned (R205). -/
def stepDone (s : State) (t : Nat) : State :=
  s.modThr t fun h =>
    if (h.stepOut == some true && h.fab.isEmpty) || (h.stepOut == some false && h.out.isEmpty) then h.stepOver s.tb else h

/-- The result of the thread's oldest unit instruction returns. -/
def unitResOp (s : State) (t : Nat) : State :=
  match (s.thrAt t).out with
  | [] => s
  | (i, a, b) :: r => stepDone ((unitValue s t i a b).modThr t fun h => { h with out := r }) t

/-- Entry to DEBUG at the breakpoint (R204). -/
def breakNow (s : State) (t : Nat) : State :=
  thrRecord (s.modThr t fun h => h.move s.tb .debug) t 4 ((s.thrAt t).pc.setWidth 32)

/-- The breakpoint stands at the next instruction; a step ignores it (R204, R205). -/
def atBreak (s : State) (t : Nat) : Bool :=
  bitAt (tctl s t) 5 && !(s.thrAt t).stepping && fld (s.reg (Reg.ENL_TBKPT (t / 4) (t % 4))) 11 0 == (s.thrAt t).pc.toNat

def countIssue (s : State) (t : Nat) : State := s.modThr t fun h => { h with icnt := h.icnt + 1 }

/-- The word at an instruction address, with SECDED: none where it cannot be corrected (R162). -/
def iramRead (s : State) (e a : Nat) : Option Word × State :=
  match sparseRead zeroNat (s.engAt e).iecc a with
  | 0 => (some (wordAt (s.engAt e).iram a), s)
  | 1 => (some (wordAt (s.engAt e).iram a), (eccCount s e).modEng e fun g => { g with iecc := sparseWrite zeroNat g.iecc a 0 })
  | _ => (none, s)

/-- A fetch: a word that a window write replaced in this cc is fetched as it was (R175). -/
def iramFetch (s : State) (e a : Nat) : Option Word × State :=
  match (s.engAt e).winOld with
  | some (cc, b, w, ecc) =>
    if cc = s.cc ∧ b = a then (if ecc < 2 then some w else none, if ecc = 1 then eccCount s e else s) else iramRead s e a
  | none => iramRead s e a

/-- The thread issues in this cc: its word is fetched (R162, R201), and the instruction is attempted. -/
def engGo (s : State) (t : Fin 64) (ins : Word → Option EngIns) : State :=
  let pc := (s.thrAt t.val).pc
  match iramFetch (countIssue (issueTake s t.val) t.val) (t.val / 4) pc.toNat with
  | (none, s1) => thrFault s1 t.val 5 (pc.setWidth 32)
  | (some w, s1) =>
    match ins w with
    | none => thrFault s1 t.val 1 w
    | some i => engAttempt (trayUse s1 (t.val / 4) i) t i

/-- A thread issues the instruction `i`; a thread that cannot, whose interlocks are not met, or that is not the one the engine
chooses, issues nothing (R163, R165, R166, R204; log entry 23). -/
def engIssue (s : State) (t : Fin 64) (i : EngIns) : State :=
  if !eligible s t.val i || !chosen s t.val then s
  else if atBreak s t.val then breakNow s t.val
  else engGo s t fun _ => some i

/-- BREAKPOINT (R204). -/
def breakpointOp (s : State) (t : Nat) : State :=
  if nextEligible s t && chosen s t && atBreak s t then breakNow s t else s

/-- A thread in a step issues the instruction at TPC once it is eligible and chosen (R205). -/
def stepIssue (s : State) (t : Fin 64) : State :=
  if (s.thrAt t.val).stepping && nextEligible s t.val && chosen s t.val then engGo s t engDecode else s

/-- At the end of a cc, steps whose instructions waited for their interlocks issue. -/
def stepWaiting (s : State) : State :=
  forEach (List.range 64) s fun s t => if (s.thrAt t).stepping then stepIssue s (Fin.ofNat 64 t) else s

/-- Stalled instructions of engine `e` are attempted again. -/
def retryStalls (s : State) (e : Fin 16) : State :=
  forEach [0, 1, 2, 3] s fun s j =>
    let t : Fin 64 := Fin.ofNat 64 (4 * e.val + j)
    match (s.thrAt t.val).st, (s.thrAt t.val).stall with
    | .stall, .retry i =>
      if mustStall s t.val i || loadHazard (s.thrAt t.val) i then s else engAttempt s t i
    | _, _ => s

/-- DIVIDER_FREE (R183). -/
def dividerFreeOp (s : State) (e : Fin 16) : State := if s.tb < (s.engAt e.val).divTb then s else retryStalls s e

/-- THREAD_WAKE: the event that a wait awaits has reached the engine (R168). -/
def wakeOp (s : State) (t : Nat) : State :=
  let h := s.thrAt t
  match h.st, h.wait with
  | .sleep, some (rd, mask) =>
    if h.evpAll &&& mask.setWidth 32 = 0 then s
    else s.modThr t fun h => { (waitResult s.cc h rd mask).stepOver s.tb with wait := none, pc := h.pc + 1 }
  | _, _ => s

/-- THREAD_WATCHDOG (R203). -/
def watchdogOp (s : State) (t : Nat) : State :=
  let h := s.thrAt t
  let lim := fld (tctl s t) 31 24 * 10000
  if lim ≠ 0 && (h.st == .ready || h.st == .stall) && decide (lim ≤ h.wdNow s.tb) then thrFault s t 7 (h.pc.setWidth 32) else s

/-- STEP from DEBUG: exactly one instruction at TPC, ignoring the breakpoint (R205, R207). -/
def stepOp (s : State) (t : Fin 64) : State :=
  if !enlOn s (t.val / 4) then s.hwSetBit (Reg.ENL_STAT (t.val / 4)) 2
  else if (s.thrAt t.val).st != .debug then s
  else stepIssue (s.modThr t.val fun h => { h.move s.tb .ready with stepping := true }) t

/-- ENLn_CTL.EN = 0 stops every thread (R207). -/
def engDisable (s : State) (e : Nat) : State :=
  forEach [0, 1, 2, 3] s fun s j => rundownThreadGone (thrStop s (4 * e + j)) (4 * e + j) false

/-- ENLn_CTL lands. -/
def engCtlWrite (s : State) (e : Nat) (w : Word) : State :=
  let a := Reg.ENL_CTL e
  let was := s.rb a 0
  let s1 := if bitAt w 1 then (s.setRf (Reg.ENL_STAT e) 31 16 0).markWr (Reg.ENL_STAT e) else s
  let s2 := s1.setReg a (w &&& 0x1FFF0001)
  if was && !bitAt w 0 then engDisable s2 e else s2

/-- ENLn_TCTLt lands: CLR_EV, DBELL, then STOP or START, then STEP (R164, R167, R205). -/
def tctlWrite (s : State) (t : Fin 64) (w : Word) : State :=
  let a := Reg.ENL_TCTL (t.val / 4) (t.val % 4)
  let s1 := (s.setReg a (w &&& 0xFF010120)).modThr t.val fun h =>
    { h with wdCount := h.wdNow s.tb, wdTb := s.tb, wdOn := fld w 31 24 != 0 }
  let s2 := if bitAt w 4 then thrClrEv s1 t.val else s1
  let s3 := if bitAt w 3 then evpAt s2 t.val 13 (s.cc + 2 - s.tb) else s2
  let s4 := if bitAt w 1 then thrStop s3 t.val else if bitAt w 0 then thrStart s3 t.val else s3
  if bitAt w 2 then stepOp s4 t else s4

/-- Work registers and TPC can be written (R206). -/
def thrWritable (s : State) (t : Nat) : Bool :=
  let st := (s.thrAt t).st
  st == .stopped || st == .fault || st == .debug

def wrDisc (s : State) (t : Nat) : State := s.hwSetBit (Reg.ENL_TSTAT (t / 4) (t % 4)) 13

def tpcWrite (s : State) (t : Nat) (w : Word) : State :=
  if thrWritable s t then s.modThr t fun h => { h with pc := w.setWidth 12 } else wrDisc s t

def workWrite (s : State) (t r : Nat) (w : Word) : State :=
  if thrWritable s t then s.modThr t fun h => h.setW r w else wrDisc s t

/-- ENLn_TMSGt (R170), with the room of a pop of this cc. -/
def tmsgOp (s : State) (t : Nat) (w : Word) : State :=
  if (s.thrAt t).mq.length < (if popsNow s t then 9 else 8) then s.modThr t fun h => { h with mq := h.mq ++ [w], mqNew := noteNew s.cc h.mqNew }
  else thrOvf s t 15 3

def winErr (s : State) (e : Nat) : State := s.hwSetBit (Reg.ENL_STAT e) 1

/-- A read through the memory window (R162, R175). -/
def windowRead (s : State) (e off : Nat) : Word × State :=
  let win := s.reg (Reg.ENL_WIN e)
  let page := fld win 7 4
  if bitAt win 0 then
    let a := page * 2048 + off
    match trayCheck s e a with
    | some s1 => (memWord (s1.engAt e).tray a, s1)
    | none => (0, winErr s e)
  else if page ≥ 8 then (0, winErr s e)
  else match iramRead s e (page * 512 + off / 4) with
    | (some w, s1) => (w, s1)
    | (none, s1) => (0, winErr s1 e)

/-- A thread of the engine runs (R175). -/
def engBusy (s : State) (e : Nat) : Bool :=
  [0, 1, 2, 3].any fun j => let st := (s.thrAt (4 * e + j)).st; st == .ready || st == .sleep || st == .stall

def iramPut (s : State) (e a : Nat) (w : Word) : State :=
  s.modEng e fun g => { g with iram := setWordAt g.iram a w, iecc := sparseWrite zeroNat g.iecc a 0 }

def trayPut (s : State) (e a : Nat) (w : Word) : State :=
  s.modEng e fun g => { g with tray := setMemWord g.tray a w, tecc := sparseWrite zeroNat g.tecc a 0 }

/-- A fetch of this cc still returns the word as it stands (R175). -/
def noteOld (s : State) (e a : Nat) : State :=
  s.modEng e fun g =>
    match g.winOld with
    | some (cc, b, _, _) =>
      if cc = s.cc ∧ b = a then g else { g with winOld := some (s.cc, a, wordAt g.iram a, sparseRead zeroNat g.iecc a) }
    | none => { g with winOld := some (s.cc, a, wordAt g.iram a, sparseRead zeroNat g.iecc a) }

/-- A write through the memory window (R175). -/
def windowWrite (s : State) (e off : Nat) (w : Word) : State :=
  let win := s.reg (Reg.ENL_WIN e)
  let page := fld win 7 4
  if bitAt win 0 then trayPut s e (page * 2048 + off) w
  else if page ≥ 8 then winErr s e
  else
    let a := page * 512 + off / 4
    if !engBusy s e || a ≥ s.rf (Reg.ENL_CTL e) 28 16 then iramPut (noteOld s e a) e a w else s.hwSetBit (Reg.ENL_STAT e) 0

/-- A register of the block lands (Table 5-15). -/
def engWrite (s : State) (a : Nat) (w : Word) : State :=
  let e := (a - 0x00850000) / 0x1000
  let o := (a - 0x00850000) % 0x1000
  if o ≥ 0x800 then windowWrite s e (o - 0x800) w
  else if 0x400 ≤ o ∧ o < 0x600 then workWrite s (4 * e + (o - 0x400) / 0x80) (o % 0x80 / 4) w
  else if 0x100 ≤ o ∧ o < 0x200 then
    let t : Fin 64 := Fin.ofNat 64 (4 * e + (o - 0x100) / 0x40)
    match o % 0x40 with
    | 0x00 => tctlWrite s t w
    | 0x08 => tpcWrite s t.val w
    | 0x18 => tmsgOp s t.val w
    | _ => s.setReg a (mergeBits (s.reg a) w (regDesc a).rw)
  else if o = 0 then engCtlWrite s e w
  else s.setReg a (mergeBits (s.reg a) w (regDesc a).rw)

def ThrState.code : ThrState → Nat
  | .stopped => 0
  | .ready => 1
  | .sleep => 2
  | .stall => 3
  | .fault => 4
  | .debug => 5

/-- ENLn_TSTATt as it reads. -/
def tstatWord (s : State) (t : Nat) : Word :=
  let h := s.thrAt t
  (s.reg (Reg.ENL_TSTAT (t / 4) (t % 4)) &&& 0xE000) ||| mkw h.fault 28 ||| mkw h.mq.length 24 ||| mkw h.wq.length 16
  ||| mkb h.z 8 ||| mkb h.n 9 ||| mkb h.c 10 ||| mkb h.v 11 ||| mkw h.st.code 0

/-- The read-only and typed registers of the block; the window has its own effect. -/
def engRead (s : State) (a : Nat) : Word :=
  let e := (a - 0x00850000) / 0x1000
  let o := (a - 0x00850000) % 0x1000
  if 0x400 ≤ o ∧ o < 0x600 then (s.thrAt (4 * e + (o - 0x400) / 0x80)).getW (o % 0x80 / 4)
  else if 0x100 ≤ o ∧ o < 0x200 then
    let t := 4 * e + (o - 0x100) / 0x40
    let h := s.thrAt t
    match o % 0x40 with
    | 0x04 => tstatWord s t
    | 0x08 => h.pc.setWidth 32
    | 0x10 => h.evpAll
    | 0x1C => h.fltW
    | 0x20 => h.icnt
    | _ => s.reg a &&& ~~~ (regDesc a).wo
  else s.reg a &&& ~~~ (regDesc a).wo

end Sys2Proof.Machine
end

