-- ==== Sys2Proof/Machine/Spools.lean ====
section
/-! DEFINITION. The host port's error registers, and spools: accesses with ownership, power and SECDED, handover, power states, the background test, and the copy
engine (chapter 11). -/

namespace Sys2Proof.Machine

def spoolOf (a : Nat) : Nat := a / 0x100000

/-- The place of an address in arbitration: the bank of its word (R328), or its register block (Table 1-10). -/
def placeOf (a : Nat) : Nat := if a < 0x800000 then spoolOf a * 4 + a / 4 % 4 else 32 + (a - 0x800000) / 0x10000

/-- An HP_EVT bit sets and raises source 304 (R376). -/
def hpEvent (s : State) (b : Nat) : State :=
  let s1 := s.hwSetBit Reg.HP_EVT b
  if b == 0 || b == 2 || b == 7 || s1.rb Reg.HP_EVTEN b then s1.raise0 304 (b + 1) (.reg Reg.HP_EVT 0xFFFF) else s1

/-- The last access error: 0 BUSERR, 1 NARROW, 2 SEC_DENY (HP_ERRADDR, HP_ERRINFO). -/
def hpError (s : State) (ev : Nat) (m : Master) (a : Nat) (sz : Size) (wr : Bool) : State :=
  let info := mkw (masterThread m) 24 ||| mkw ev 16 ||| mkb wr 11 ||| mkw (masterCode m) 8 ||| mkw (sizeCode sz) 0
  hpEvent ((s.setReg Reg.HP_ERRADDR (wordN a)).setReg Reg.HP_ERRINFO info) ev

/-- UNCORR, NONOWNER and OWN_REFUSED raise records whatever EVTEN holds (R352). -/
def splEvent (s : State) (n b : Nat) (d : Word) : State :=
  let s1 := s.hwSetBit (Reg.SPL_EVT n) b
  if b == 1 || b == 2 || b == 5 || s.rb (Reg.SPL_EVTEN n) b then s1.raise0 (288 + n) (b + 1) (.word d) else s1

/-- The detail word of R352, which is the layout of SPL_VIOLn too. -/
def splDetail (m : Master) (off : Nat) (wr : Bool) : Word := mkw (off % 0x100000) 0 ||| mkw (masterCode m) 24 ||| mkb wr 27

/-- A refused access (R334, R336). -/
def splViol (s : State) (n b : Nat) (m : Master) (a : Nat) (wr : Bool) : State :=
  splEvent (s.setReg (Reg.SPL_VIOL n) (splDetail m a wr)) n b (splDetail m a wr)

def ringBase (s : State) (b : Nat) (fast : Bool) : Nat := (s.reg (Reg.EVR_RING_BASE b (ofBool fast))).toNat / 16 * 16

def ringSize (s : State) (b : Nat) (fast : Bool) : Nat := 2 ^ s.rf (Reg.EVR_RING_CFG b (ofBool fast)) 3 0

/-- The owner class of the record controller's ring writes (R321). -/
def ringClass (b : Nat) : List Nat := if b = 2 then [3] else [0]

/-- The address lies in the ring, which is enabled (R318, R321). -/
def inRing (s : State) (a b : Nat) (fast : Bool) : Bool :=
  s.rb (Reg.EVR_RING_CFG b (ofBool fast)) 8 && decide (ringBase s b fast ≤ a) && decide (a < ringBase s b fast + 16 * ringSize s b fast)

/-- The owner classes that admit a master at an address (Table 11-1): the record controller in the rings of a bank, the background
test everywhere. -/
def ownClasses (s : State) (a : Nat) : Master → List Nat
  | .host _ => [0]
  | .engine _ => [1]
  | .spill => [1]
  | .contact => [2]
  | .safelight => [3]
  | .copy k => [4, (s.cpyAt k.val).cls]
  | .recordCtl => (List.range 3).flatMap fun b => if inRing s a b false || inRing s a b true then ringClass b else []
  | .bgTest => List.range 8

/-- Rank and requester of a master in the order of R39; the background test has none. -/
def masterRank : Master → Option (Nat × Nat)
  | .engine t => some (0, t.val)
  | .spill => some (0, 64)
  | .contact => some (1, 0)
  | .safelight => some (2, 0)
  | .recordCtl => some (2, 1)
  | .host _ => some (3, 0)
  | .copy k => some (4, k.val)
  | .bgTest => none

/-- How one bank access ended. -/
inductive BankRes where
  | ok (w : Word)
  | power
  | nonowner
  | uncorr
  deriving DecidableEq, Repr

/-- A region of the spool is borrowed now: an aborted one until it is released (R344, R346). -/
def regionHeld (s : State) (n : Nat) : Bool :=
  let t := (s.splAt n).test
  t.borrowed && (match t.till with | some u => decide (s.tb < u) | none => true)

/-- The word at `a` lies in the borrowed region of its spool (R344). -/
def inBorrowed (s : State) (a : Nat) : Bool :=
  regionHeld s (spoolOf a) && a % 0x100000 / 256 == (s.splAt (spoolOf a)).test.region

/-- The test of the borrowed region is aborted: the region is released at the end of the 20th cc, and tested again (R346). -/
def testAbort (s : State) (n : Nat) : State :=
  let t := (s.splAt n).test
  if t.borrowed && t.till.isNone then
    (s.bump (Reg.SPL_TABRT n) 15 0).modSpl n fun p =>
      { p with test := { p.test with till := some (s.cc + 40), freeTb := s.cc + 40, first := false } }
  else s

/-- The words of an unbroken range. -/
def wordRun (a n : Nat) : List Nat := (List.range n).map fun i => a / 4 * 4 + 4 * i

/-- The spools whose region in test one of the words lies in (R346). -/
def testsHit (s : State) (as : List Nat) : List Nat := ((as.filter (inBorrowed s)).map spoolOf).eraseDups

/-- A single-bit error that master `m` meets at word `a` is counted (R329, R352). -/
def eccNote (s : State) (m : Master) (a : Nat) (wr : Bool) : State :=
  splEvent (s.bump (Reg.SPL_ECC (spoolOf a)) 15 0) (spoolOf a) 0 (splDetail m a wr)

/-- A single-bit error at word `a`, read: counted, and the corrected word is to be written back (R329). -/
def eccCorrect (s : State) (m : Master) (a : Nat) : State :=
  eccNote { s with fabric := { s.fabric with wb := a :: s.fabric.wb.filter fun b => b != a } } m a false

/-- Word `a` is good again, and a write-back of it is dropped (R329). -/
def eccClear (s : State) (a : Nat) : State :=
  { s with ecc := sparseWrite zeroNat s.ecc a 0, fabric := { s.fabric with wb := s.fabric.wb.filter fun b => b != a } }

/-- The bank of a corrected word is written back where nothing has had it in this cc. -/
def writeBack (s : State) (a : Nat) : State :=
  if s.fabric.used.contains (placeOf a) then s else
  let s1 := eccClear s a
  { s1 with fabric := { s1.fabric with used := placeOf a :: s1.fabric.used } }

/-- The end of a cc: corrected words are written back, the oldest first, where no master has had the bank (R329). -/
def writeBacks (s : State) : State := forEach s.fabric.wb.reverse s writeBack

/-- The end of a cc at the background test: each bank of the region in test that nothing else has had gives it a cycle (R344, R345). -/
def testCycles (s : State) : State :=
  forEach (List.range 8) s fun s n =>
    s.modSpl n fun p =>
      if p.test.borrowed && p.test.till.isNone then
        let more (b : Fin 4) : Nat := ofBool (!s.fabric.used.contains (4 * n + b.val))
        { p with test := { p.test with cyc := Vector.ofFn fun b => min 192 (vget p.test.cyc b.val 0 + more b) } }
      else p

/-- An uncorrectable error at word `a` (R329). -/
def eccFail (s : State) (m : Master) (a : Nat) (wr : Bool) : State :=
  let n := spoolOf a
  splEvent ((s.bump (Reg.SPL_ECC n) 31 16).setReg (Reg.SPL_ECCADDR n) (mkw (a % 0x100000 / 4) 2)) n 1 (splDetail m a wr)

/-- The SECDED state of word `a`: 0 good, 1 correctable, 2 uncorrectable. -/
def eccAt (s : State) (a : Nat) : Nat := sparseRead zeroNat s.ecc a

/-- The word read at `a`, its errors handled (R329). -/
def bankRead (s : State) (m : Master) (a : Nat) : BankRes × State :=
  match eccAt s a with
  | 0 => (.ok (memWord s.mem a), s)
  | 1 => (.ok (memWord s.mem a), eccCorrect s m a)
  | _ => (.uncorr, eccFail s m a false)

/-- The bytes `bs` written from byte `off` of word `a` (R338). -/
def bankWrite (s : State) (m : Master) (a off : Nat) (bs : List Byte) : BankRes × State :=
  let put (t : State) : State := { t with mem := setBytes t.mem (a + off) bs }
  if bs.length = 4 then (.ok 0, put (eccClear s a))
  else match eccAt s a with
    | 0 => (.ok 0, put s)
    | 1 => (.ok 0, put (eccClear (eccNote s m a true) a))
    | _ => (.uncorr, eccFail s m a true)

def PwrState.code : PwrState → Nat
  | .on => 0
  | .ret => 1
  | .off => 2
  | .changing => 3

def pwrOf (c : Nat) : PwrState := match c with | 0 => .on | 1 => .ret | 2 => .off | _ => .changing

/-- STATE in this cc: a change shows from the cc after the write of REQ (Table 11-4). -/
def pwrNow (s : State) (n : Nat) : PwrState :=
  match (s.splAt n).was with
  | some (c, st) => if c = s.cc then st else (s.splAt n).st
  | none => (s.splAt n).st

/-- One bank access at word `a`: power, ownership, the background test, then the access (R333, R334, R336, R346). `rep` is
the byte offset that a refusal reports. -/
def bankAccess (s : State) (m : Master) (cls : List Nat) (a rep : Nat) (wr : Option (Nat × List Byte)) : BankRes × State :=
  let n := spoolOf a
  if pwrNow s n != .on then (.power, splViol s n 3 m rep wr.isSome)
  else if !cls.contains (splOwner s n) then (.nonowner, splViol s n 2 m rep wr.isSome)
  else
    let s1 := if inBorrowed s a then testAbort s n else s
    match wr with
    | none => bankRead s1 m a
    | some (off, bs) => bankWrite s1 m a off bs

/-- The bytes of an access that lie in its first word. -/
def firstLen (a w : Nat) : Nat := min w (4 - a % 4)

/-- The bytes lie in two spools, or run past the last: a bus error (R339). -/
def crossesSpool (a w : Nat) : Bool := spoolOf a != spoolOf (a + w - 1) || decide (a + w > 0x800000)

/-- The access to the first word, and what it reads: lanes rotated (R337). -/
def spoolFirst (s : State) (m : Master) (a w : Nat) (wr : Option Word) : BankRes × Nat × State :=
  let (r, s1) := bankAccess s m (ownClasses s a m) (a / 4 * 4) a (wr.map fun v => (a % 4, ((wordBytes v).take w).take (firstLen a w)))
  (r, (match r with | .ok v => v.toNat / 2 ^ (8 * (a % 4)) | _ => 0), s1)

/-- The access to the second word, after a first that read `lo`: the datum, and whether it ended with a bus error. -/
def spoolSecond (s : State) (m : Master) (a w lo : Nat) (wr : Option Word) : Word × Bool × State :=
  let (r, s1) := bankAccess s m (ownClasses s (a / 4 * 4 + 4) m) (a / 4 * 4 + 4) a (wr.map fun v => (0, ((wordBytes v).take w).drop (firstLen a w)))
  let hi : Nat := match r with | .ok v => v.toNat | _ => 0
  if r = .uncorr then (0, true, s1) else (wordN ((lo + hi * 2 ^ (8 * firstLen a w)) % 2 ^ (8 * w)), false, s1)

/-- What the first word of the access has read, where it has been made (R337). -/
def madePart (s : State) (m : Master) (a w : Nat) : Option Nat :=
  (s.fabric.parts.find? fun p => masterRank m == some (p.rank, p.who) && p.addr == a && p.len == w).map fun p => p.lo

/-- The master has no access half made. -/
def dropPart (s : State) (m : Master) : State :=
  { s with fabric := { s.fabric with parts := s.fabric.parts.filter fun p => masterRank m != some (p.rank, p.who) } }

/-- The first word of the master's access has been made and has read `lo`. -/
def putPart (s : State) (m : Master) (a w lo : Nat) : State :=
  match masterRank m with
  | some (r, n) =>
    let s1 := dropPart s m
    { s1 with fabric := { s1.fabric with parts := ⟨r, n, a, w, lo⟩ :: s1.fabric.parts } }
  | none => s

/-- A spool access: the datum, and whether it ended with a bus error (R329, R334, R337, R339). -/
def spoolAccessOp (s : State) (m : Master) (a w : Nat) (wr : Option Word) : Word × Bool × State :=
  if crossesSpool a w then (0, true, s) else
  match madePart s m a w with
  | some lo => spoolSecond (dropPart s m) m a w lo wr
  | none =>
    let (r, lo, s1) := spoolFirst s m a w wr
    if r = .uncorr then (0, true, s1)
    else if firstLen a w = w then (wordN (lo % 2 ^ (8 * w)), false, s1)
    else spoolSecond s1 m a w lo wr

/-- A master may hand over spool `n` or request its power state (R332). -/
def mayHand (s : State) (m : Master) (n : Nat) : Bool :=
  masterSecure m || (match m with
    | .host _ => splOwner s n == 0
    | .engine _ => splOwner s n == 1
    | _ => false)

def ownRefused (s : State) (m : Master) (n : Nat) : State := splEvent s n 5 (splDetail m 0 true)

/-- A handover (R332, R333). -/
def handoverOp (s : State) (m : Master) (n : Nat) (w : Word) : State :=
  if mayHand s m n && fld w 2 0 ≤ 4 then (s.markWr (Reg.SPL_OWN n)).setReg (Reg.SPL_OWN n) (mkw (fld w 2 0) 0)
  else ownRefused s m n

/-- How long a change lasts where Table 11-4 gives it, with the zero initialisation of R330. -/
def pwrTime : PwrState → PwrState → Nat
  | .ret, .on => 2000
  | .off, _ => 2000 + 131072
  | _, _ => 0

/-- A change towards the state that REQ asks for begins, unless that is the state in effect (R335). -/
def pwrBegin (s : State) (n : Nat) : State :=
  let r := pwrOf (s.rf (Reg.SPL_PWR n) 1 0)
  if (s.splAt n).st == r then s
  else (testAbort s n).modSpl n fun p => { p with was := some (s.cc, p.st), st := .changing, target := r, ready := s.cc + 2 + pwrTime p.st r }

/-- SPL_PWRn.REQ lands (R335). -/
def powerRequestOp (s : State) (m : Master) (n : Nat) (w : Word) : State :=
  if !mayHand s m n then ownRefused s m n
  else if fld w 1 0 = 3 then s
  else
    let s1 := s.setReg (Reg.SPL_PWR n) (mkw (fld w 1 0) 0)
    if (s1.splAt n).st == .changing then s1 else pwrBegin s1 n

/-- Spool contents lost, or initialised to zero with valid check bits (R330, Table 11-3). -/
def spoolClear (s : State) (n : Nat) : State :=
  { s with mem := clearRange s.mem (n * 0x100000) ((n + 1) * 0x100000), ecc := clearRange s.ecc (n * 0x100000) ((n + 1) * 0x100000) }

/-- A power-state change ends, a borrowed region restored (R348, Table 11-4). -/
def powerDoneOp (s : State) (n : Nat) : State :=
  let p := s.splAt n
  if p.st != .changing || p.init || decide (s.tb < p.ready) || regionHeld s n then s else
  let s1 := if p.target == .off then spoolClear s n else s
  pwrBegin (s1.modSpl n fun p => { p with st := p.target }) n

/-- A spool is initialised to zero (R330). -/
def spoolInit (s : State) (n : Nat) : State :=
  if !(s.splAt n).init then s else pwrBegin ((spoolClear s n).modSpl n fun p => { p with st := .on, init := false }) n

/-- SPOOL_INIT_DONE: the zero initialisation of a reset completes, 65,536 cc after its release (R330). -/
def spoolInitOp (s : State) (n : Nat) : State := if s.tb < (s.splAt n).ready then s else spoolInit s n

/-- The test moves on: the next region, a pass counted at the end (R344, R348). -/
def testNext (s : State) (n : Nat) : State :=
  let t := (s.splAt n).test
  let last := t.region = 4095
  let s1 := if last then s.setRf (Reg.SPL_TSTAT n) 31 16 ((s.rf (Reg.SPL_TSTAT n) 31 16 + 1) % 65536) else s
  s1.modSpl n fun p => { p with test :=
    { p.test with
      region := if t.restart || last then 0 else t.region + 1, borrowed := false, freeTb := s.tb, first := false, restart := false } }

/-- The word addresses of the region in test. -/
def regionWords (s : State) (n : Nat) : List Nat :=
  (List.range 64).map fun i => n * 0x100000 + (s.splAt n).test.region * 256 + 4 * i

/-- The test borrows its next region and saves it (R344 step 1). -/
def testBorrowOp (s0 : State) (n : Nat) : State :=
  let p := s0.splAt n
  let iv := s0.rf (Reg.SPL_TSTCTL n) 31 16 * 1000
  if !s0.rb (Reg.SPL_TSTCTL n) 0 || p.st != .on || regionHeld s0 n || (!p.test.first && s0.tb < p.test.freeTb + iv) then s0 else
  let s := s0.modSpl n fun p => { p with test :=
    { p.test with region := if p.test.restart then 0 else p.test.region, restart := false, borrowed := false, till := none } }
  let ws := regionWords s n
  let s1 := forEach ((ws.takeWhile fun a => eccAt s a != 2).filter fun a => eccAt s a == 1) s fun s a => eccCorrect s .bgTest a
  match ws.find? fun a => eccAt s a == 2 with
  | some a => testNext (eccFail s1 .bgTest a false) n
  | none => s1.modSpl n fun p => { p with test := { p.test with borrowed := true, cyc := Vector.replicate 4 0 } }

/-- The fewest cycles that the region in test has had on a bank. -/
def testDone (t : SplTest) : Nat := t.cyc.toList.foldl min 192

/-- The region is restored and released, with the first failing bit of the March test if any, once it has had its 192 cycles on
each bank (R344, R347). -/
def testReleaseOp (s : State) (n : Nat) (fail : Option (Fin 64 × Fin 39)) : State :=
  let t := (s.splAt n).test
  if !t.borrowed || t.till.isSome || decide (testDone t < 192) then s else
  let s1 := match fail with
    | none => s
    | some (wd, bit) =>
      let off := t.region * 64 + wd.val
      let u := (s.setReg (Reg.SPL_TFAIL n) (mkw off 0 ||| mkw bit.val 18)).bump (Reg.SPL_TABRT n) 31 16
      let u1 := splEvent u n 4 (mkw (4 * off) 0 ||| mkw 7 24)
      if u1.rb (Reg.SPL_TSTCTL n) 1 && !u1.wroteNow (Reg.SPL_TSTCTL n) then u1.setRf (Reg.SPL_TSTCTL n) 0 0 0 else u1
  testNext s1 n

/-- SPL_TSTCTLn.CLR_CNT. -/
def splClrCntOp (s : State) (n : Nat) : State := (s.clearCnt (Reg.SPL_ECC n)).clearCnt (Reg.SPL_TABRT n)

/-- SPL_TSTCTLn.RESTART, while EN is 0 (R348). -/
def testRestartOp (s : State) (n : Nat) : State :=
  if s.rb (Reg.SPL_TSTCTL n) 0 then s
  else
    let held := regionHeld s n
    s.modSpl n fun p => { p with test := if held then { p.test with restart := true } else { p.test with region := 0, first := true } }

/-- SPL_TSTCTLn lands: RESTART is judged by the EN before the write. -/
def tstCtlWrite (s : State) (n : Nat) (w : Word) : State :=
  let s1 := if bitAt w 3 then splClrCntOp s n else s
  let s2 := if bitAt w 2 then testRestartOp s1 n else s1
  (s2.markWr (Reg.SPL_TSTCTL n)).setReg (Reg.SPL_TSTCTL n) (w &&& 0xFFFF0003)

/-- SPL_TSTATn. PHASE follows the cycles that the region has had on every bank (R344). -/
def splTstat (s : State) (n : Nat) : Word :=
  let t := (s.splAt n).test
  let phase := if !regionHeld s n then 0 else if t.till.isSome then 4 else if testDone t < 16 then 1
    else if testDone t < 176 then 2 else 3
  mkw (s.rf (Reg.SPL_TSTAT n) 31 16) 16 ||| mkb (regionHeld s n) 15 ||| mkw phase 12 ||| mkw t.region 0

/-- The class that a master gives a copy channel (R350). -/
def cpyClass : Master → Nat
  | .engine _ => 1
  | .safelight => 3
  | _ => 0

/-- CPY_STATk. -/
def cpyStat (s : State) (k : Nat) : Word :=
  let c := s.cpyAt k
  mkw c.remain 13 ||| mkw c.cls 8 ||| mkw c.cause 4 ||| (s.reg (Reg.CPY_STAT k) &&& 6) ||| mkb c.busy 0

/-- ERR sets with a cause, and the channel stops (R350–R352). -/
def cpyErr (s : State) (k cause : Nat) : State :=
  let s1 := (s.modCpy k fun c => { c with busy := false, stop := false, finish := false, got := none, cause := cause }).hwSetBit (Reg.CPY_STAT k) 2
  s1.raise0 (288 + k) 9 (.word (cpyStat s1 k))

def cpyLen (s : State) (k : Nat) : Nat := s.rf (Reg.CPY_LEN k) 18 0
def cpyFill (s : State) (k : Nat) : Bool := s.rb (Reg.CPY_CTL k) 4

/-- CPY_CTLk.GO (R350). -/
def cpyGoOp (s : State) (m : Master) (k : Nat) : State :=
  let len := cpyLen s k
  let src := (s.reg (Reg.CPY_SRC k)).toNat
  let dst := (s.reg (Reg.CPY_DST k)).toNat
  let s1 := s.modCpy k fun c => { c with cls := cpyClass m, remain := len, cause := 0, stop := false, finish := false, got := none }
  if len = 0 ∨ len > 262144 ∨ src % 4 ≠ 0 ∨ dst % 4 ≠ 0 ∨ dst + 4 * len > 0x800000
      ∨ (!cpyFill s k ∧ src + 4 * len > 0x800000) then cpyErr s1 k 4
  else s1.modCpy k fun c => { c with busy := true }

/-- CPY_CTLk.STOP (R350, R351). -/
def cpyStopOp (s : State) (m : Master) (k : Nat) : State :=
  let c := s.cpyAt k
  if c.busy && !c.finish && (masterSecure m || cpyClass m == c.cls) then s.modCpy k fun c => { c with stop := true } else s

/-- CPY_CTLk lands. -/
def cpyCtlWrite (s : State) (m : Master) (k : Nat) (w : Word) : State :=
  if (s.cpyAt k).busy then (if bitAt w 1 then cpyStopOp s m k else s)
  else
    let s1 := s.setReg (Reg.CPY_CTL k) (w &&& 0xF10)
    if bitAt w 0 then cpyGoOp s1 m k else s1

def cpySrc (s : State) (k : Nat) : Nat := (s.reg (Reg.CPY_SRC k)).toNat
def cpyDst (s : State) (k : Nat) : Nat := (s.reg (Reg.CPY_DST k)).toNat

/-- The channel has a word to move. -/
def cpyMoves (s : State) (k : Nat) : Bool := (s.cpyAt k).busy && (s.cpyAt k).remain != 0

/-- The word that the channel is to write: FILL's, or the one that it has read. -/
def cpyWord (s : State) (k : Nat) : Option Word := if cpyFill s k then some (s.reg (Reg.CPY_FILL k)) else (s.cpyAt k).got

/-- The word that the channel reaches next. -/
def cpyAddr (s : State) (k : Nat) : Nat := if (cpyWord s k).isSome then cpyDst s k else cpySrc s k

/-- The background test goes before the copy engine: on the words of a borrowed region, and on the banks on which the region still
has cycles to come (R345). -/
def cpyWaits (s : State) (k : Nat) : Bool :=
  let a := cpyAddr s k
  let t := (s.splAt (spoolOf a)).test
  regionHeld s (spoolOf a) && (inBorrowed s a || t.till.isSome || decide (vget t.cyc (a / 4 % 4) 192 < 192))

/-- An access of a copy channel that failed ends it (R351). -/
def cpyFailed (s : State) (k : Nat) : BankRes → State
  | .nonowner => cpyErr s k 1
  | .uncorr => cpyErr s k 2
  | .power => cpyErr s k 3
  | .ok _ => s

/-- The channel reads its next word (R349, R351). -/
def cpyReadOp (s : State) (k : Fin 8) : State :=
  let m := Master.copy k
  let a := cpySrc s k.val
  match bankAccess s m (ownClasses s a m) a a none with
  | (.ok w, s1) => s1.modCpy k.val fun c => { c with got := some w }
  | (r, s1) => cpyFailed s1 k.val r

/-- The channel writes its word and moves on (R349, R351). -/
def cpyWriteOp (s : State) (k : Fin 8) (w : Word) : State :=
  let m := Master.copy k
  let dst := cpyDst s k.val
  match bankAccess s m (ownClasses s dst m) dst dst (some (0, wordBytes w)) with
  | (.ok _, s1) =>
    let c := s.cpyAt k.val
    let s2 := s1.setReg (Reg.CPY_DST k.val) (wordN ((dst + 4) % 0x800000))
    let s3 := if cpyFill s k.val then s2 else s2.setReg (Reg.CPY_SRC k.val) (wordN ((cpySrc s k.val + 4) % 0x800000))
    let s4 := s3.modCpy k.val fun c => { c with remain := c.remain - 1, finish := c.remain = 1, got := none }
    if c.stop && c.remain > 1 then cpyErr s4 k.val 5 else s4
  | (r, s1) => cpyFailed s1 k.val r

/-- The last word has been written: DONE, and the handover of the destination (R351). -/
def cpyDoneOp (s : State) (k : Nat) : State :=
  let c := s.cpyAt k
  if !c.busy || !c.finish then s else
  let s1 := (s.modCpy k fun c => { c with busy := false, finish := false, stop := false }).hwSetBit (Reg.CPY_STAT k) 1
  let ctl := s.reg (Reg.CPY_CTL k)
  let stop_ := (s.reg (Reg.CPY_DST k)).toNat
  let stop1 := if stop_ = 0 then 0x800000 else stop_
  let start := stop1 - 4 * cpyLen s k
  let s2 := if bitAt ctl 8 && fld ctl 11 9 < 4 then
      forEach ((List.range 8).filter fun n => spoolOf start ≤ n && n ≤ spoolOf (stop1 - 4) && splOwner s1 n == 4) s1 fun s n =>
        (s.markWr (Reg.SPL_OWN n)).setReg (Reg.SPL_OWN n) (mkw (fld ctl 11 9) 0)
    else s1
  s2.raise0 (288 + k) 8 (.word (cpyStat s2 k))

/-- A register of the block lands (Table 11-8). -/
def splWrite (s : State) (m : Master) (a : Nat) (w : Word) : State :=
  let o := a - 0x008A0000
  if o < 0x200 then
    let n := o / 0x40
    if o % 0x40 = 0 then handoverOp s m n w
    else if o % 0x40 = 4 then powerRequestOp s m n w
    else if o % 0x40 = 0x1C then tstCtlWrite s n w
    else s.setReg a (mergeBits (s.reg a) w (regDesc a).rw)
  else if 0x400 ≤ o ∧ o < 0x500 then
    let k := (o - 0x400) / 0x20
    if o % 0x20 = 0 then cpyCtlWrite s m k w
    else if (s.cpyAt k).busy then s
    else if o % 0x20 = 8 ∨ o % 0x20 = 0xC then s.setReg a w
    else s.setReg a (mergeBits (s.reg a) w (regDesc a).rw)
  else s

end Sys2Proof.Machine
end

