-- ==== Sys2Proof/Machine/Format.lean ====
section
/-! DEFINITION. The flash as the device reads it, the boot record, and format changes (R377, R379, R382, R393–R399, R419,
R420). -/

namespace Sys2Proof.Machine

/-! The flash and its checks. -/

/-- An unlisted flash byte reads erased (PRESUMED, log entry 7). -/
def erasedByte (_ : Nat) : Byte := 0xFF

/-- Bytes that can be addressed (R377). -/
def flashLimit (f : NvmFacts) : Nat :=
  if !f.sfdp then 2 ^ 24 else
  let m := min 0x4000000 (2 ^ f.log2)
  if f.addr4 && !f.addr4Table then min m (2 ^ 24) else m

def flashByte (s : State) (a : Nat) : Byte :=
  if a < flashLimit s.flash.facts then sparseRead erasedByte s.flash.bytes a else 0xFF

def flashRun (s : State) (a n : Nat) : List Byte := (List.range n).map fun i => flashByte s (a + i)

def flashNat (s : State) (a n : Nat) : Nat := leNat (flashRun s a n)

def flashWord (s : State) (a : Nat) : Word := wordN (flashNat s a 4)

/-- One bit of the reflected CRC-32. -/
def crc32Bits : Nat → Nat → Nat
  | 0, c => c
  | n + 1, c => crc32Bits n (if c % 2 = 1 then (c / 2) ^^^ 0xEDB88320 else c / 2)

/-- The IEEE 802.3 CRC-32 (R379). -/
def crc32 (bs : List Byte) : Nat := (bs.foldl (fun c b => crc32Bits 8 (c ^^^ b.toNat)) 0xFFFFFFFF) ^^^ 0xFFFFFFFF

/-! The boot record (Table 13-9). -/

/-- A 32-byte record of the keep store with its CRC of R76 (R393, R432). -/
def keepRecOk (s : State) (a : Nat) : Bool :=
  fld (memWord s.keep (a + 0x1C)) 15 0 == crc16 ((List.range 28).map fun i => byteAt s.keep (a + i))

/-- Words 0–6 of a 32-byte record are written with a new CRC. -/
def keepRecPut (s : State) (a : Nat) (ws : List Word) : State :=
  let body := ws.flatMap wordBytes
  { s with keep := setBytes s.keep a (body ++ wordBytes (mkw (crc16 body) 0)) }

def bootRecWord (s : State) (i : Nat) : Word := if keepRecOk s 0 then memWord s.keep (4 * i) else 0

/-- The boot record is written: the sequence number goes up at each write. -/
def bootRecPut (s : State) (w0 w1 w2 w3 : Word) : State :=
  let seq := (fld (bootRecWord s 0) 31 24 + 1) % 256
  keepRecPut s 0 [setFld w0 31 24 seq, w1, w2, w3, 0, 0, 0]

/-- The slot that boot prefers: 0 = A, 1 = B (R388, R393). -/
def prefSlot (s : State) : Nat := fld (bootRecWord s 0) 0 0

/-! The change set (R394, R395). -/

/-- A section belongs to format `f` (R382). -/
def Section.belongs (c : Section) (f : Nat) : Bool := c.fmask.testBit f

/-- The sections of format `f` that the active format does not share. -/
def changeSet (s : State) (f : Nat) : List Section :=
  s.boot.sections.filter fun c => c.belongs f && !c.belongs s.boot.active

/-- A section header meets R382. -/
def sectionOk (nfmt : Nat) (c : Section) : Bool :=
  c.len % 4 == 0 && c.fmask < 2 ^ nfmt && (c.flags == 0 || (c.typ == 4 && c.flags < 16)) &&
  match c.typ with
  | 1 => c.addr == 0 && c.len % 12 == 0
  | 2 => c.addr < 0x100000 && c.addr / 0x1000 % 16 == 0 && c.addr % 0x1000 * 4 + c.len ≤ 0x4000
  | 3 => c.addr < 0x100000 && c.addr / 0x8000 % 2 == 0 && c.addr % 4 == 0 && c.addr % 0x8000 + c.len ≤ 0x8000
  | 4 => c.addr % 4 == 0 && c.addr + c.len ≤ 0x800000
  | _ => false

/-- The records of a REGS section: address, MASK, VALUE. -/
def regsRecords (s : State) (c : Section) : List (Nat × Word × Word) :=
  (List.range (c.len / 12)).map fun i =>
    (flashNat s (c.ofs + 12 * i) 4, flashWord s (c.ofs + 12 * i + 4), flashWord s (c.ofs + 12 * i + 8))

/-- The payload words of a section. -/
def sectionWords (s : State) (c : Section) : List (Nat × Word) :=
  (List.range (c.len / 4)).map fun i => (i, flashWord s (c.ofs + 4 * i))

/-- The bits of a register that hold fields. -/
def fieldBits (a : Nat) : Word := let d := regDesc a; d.rw ||| d.rc ||| d.wo ||| d.rws ||| d.ro

/-- An exposure group's staged register: the group and the offset (R247). -/
def exgStagedReg (a : Nat) : Option (Nat × Nat) :=
  if 0x00830000 ≤ a ∧ a < 0x00831000 ∧ exgStagedOffsets.contains (a % 0x100) then some ((a - 0x00830000) / 0x100, a % 0x100) else none

/-- A REGS record names an aligned address in the register space (R382). -/
def recordNamed (r : Nat × Word × Word) : Bool := r.1 % 4 == 0 && decide (0x800000 ≤ r.1) && decide (r.1 < 0x1000000)

/-- An address of a memory window, which holds no field: the snapshot buffer, an engine's memory, the user area. -/
def inWindow4 (a : Nat) : Bool :=
  (0x00801000 ≤ a && a < 0x00802000) || (0x00850000 ≤ a && a < 0x00860000 && 0x800 ≤ a % 0x1000) || (0x008C8000 ≤ a && a < 0x008D0000)

/-- A REGS record addresses only staged fields (R395). -/
def recordStaged (r : Nat × Word × Word) : Bool :=
  recordNamed r && !inWindow4 r.1 &&
  match exgStagedReg r.1 with
  | some _ => true
  | none => (r.2.1 &&& fieldBits r.1 &&& ~~~ (regDesc r.1).sth) == 0

def spoolsOf (c : Section) : List Nat :=
  if c.len = 0 then [] else (List.range 8).filter fun n => c.addr / 0x100000 ≤ n && n ≤ (c.addr + c.len - 1) / 0x100000

/-- The spool words that the SPOOL sections of a set hold. -/
def spoolWords (cs : List Section) : List Nat := (cs.filter fun c => c.typ = 4).flatMap fun c => wordRun c.addr (c.len / 4)

/-- A section of the change set breaks R395. -/
def sectionBreaks (s : State) (c : Section) : Bool :=
  !sectionOk s.boot.nfmt c ||
  match c.typ with
  | 1 => !(regsRecords s c).all recordStaged
  | 2 => c.addr % 0x1000 < s.rf (Reg.ENL_CTL (c.addr / 0x10000)) 28 16
  | 4 => !(spoolsOf c).all fun n => splOwner s n == 3
  | _ => false

/-- The members whose NEG_VER is below REQ_VER of format `f` (R419). -/
def verBelow (s : State) (f : Format) : Nat :=
  ((List.range 7).filter fun i => presentNow s i && (s.reg (Reg.CAS_MVER (i + 1))).toNat < f.reqVer.toNat).foldl
    (fun w i => w + 2 ^ i) 0

/-- Fix channel `k` carries CHAIN (R394). -/
def fixChain (s : State) (k : Nat) : Bool := s.rb (Reg.FIX_CTL k) 16

/-- The cause with which a request for format `f` through channel `k` is refused, 0 when it is accepted (Table 13-10,
R419, R420). `chained` says that the request uses the chain, `cmd` that it came as FMT_PREP. -/
def fmtCause (s : State) (f k : Nat) (now cmd : Bool) : Nat :=
  match s.boot.formats[f]? with
  | none => if !s.boot.done then 1 else if s.boot.phase != 0 then 2 else 3
  | some d =>
    if !s.boot.done then 1
    else if s.boot.phase != 0 || s.safe.rundown.isSome then 2
    else if f ≥ s.boot.nfmt || f = s.boot.active then 3
    else if !d.fly then 4
    else if fixPendingNow s k || nStaged s k != 0 then 5
    else if (changeSet s f).any (sectionBreaks s) then 6
    else if cmd || !fixChain s k then 0
    else if !casMaster s || verBelow s d != 0 || s.cas.st != .run || s.cas.cmd.isSome || (now && s.cas.cv ≤ 1) then 8
    else 0

/-- The request is refused (R394): a version refusal raises a record of its own (R419). -/
def fmtRefuse (s : State) (f k cause : Nat) : State :=
  let s1 := fmtEvent { s with boot := { s.boot with cause := cause, reqFmt := f } } 1 313 2
  match s.boot.formats[f]? with
  | some d =>
    if cause = 8 && casMaster s && fixChain s k && verBelow s d != 0 then
      casEventWith s1 ceVerRefused (mkw (verBelow s d) 0 ||| mkw f 8)
    else s1
  | none => s1

/-- A change to format `f` through channel `k` begins its preparation (R394). -/
def fmtAccept (s : State) (f : Nat) (k : Fin 4) (now next chained : Bool) : State :=
  { s with boot := { s.boot with
      phase := 1, target := f, reqFmt := f, cause := 0, now := now, next := next, chained := chained, fixCh := k, groups := [], hand := [],
      prepDone := false, flushed := false } }

/-- FMT_REQ lands; GO requests the change (R394, R419, R420). -/
def fmtRequestOp (s0 : State) (w : Word) : State :=
  let s := s0.setReg Reg.FMT_REQ (w &&& 0x6000000F)
  if !bitAt w 31 then s else
  let f := fld w 3 0
  let k : Fin 4 := Fin.ofNat 4 (s.rf Reg.FMT_CTL 1 0)
  let cause := fmtCause s f k.val (bitAt w 29) false
  if cause != 0 then fmtRefuse s f k.val cause
  else
    let chained := fixChain s k.val
    let s1 := fmtAccept s f k (bitAt w 29) (bitAt w 30 && !bitAt w 29) chained
    if chained then casSend s1 { noCommand with
        code := 4, fixCh := k, kind := if bitAt w 29 then 2 else if bitAt w 30 then 1 else 0, newFmt := Fin.ofNat 16 f }
    else s1

/-! Preparation (R396). -/

/-- A staged register as it reads. -/
def stagedOld (s : State) (a : Nat) : Word :=
  (if 0x00820000 ≤ a ∧ a < 0x00822000 then readCh s ((a - 0x00820000) / 0x40) ((a - 0x00820000) % 0x40) a else none).getD (s.reg a)

/-- A REGS record of the change set is staged. -/
def prepRecord (s : State) (k : Fin 4) (r : Nat × Word × Word) : State :=
  let v (old : Word) : Word := mergeBits old r.2.2 r.2.1
  match exgStagedReg r.1 with
  | some (g, o) =>
    let s1 := exgStage s g o (v (s.reg r.1))
    if s.boot.groups.contains g then s1 else { s1 with boot := { s1.boot with groups := s1.boot.groups ++ [g] } }
  | none => if (regDesc r.1).sth = 0 then s else stagedWriteOp s (some k) r.1 (v (stagedOld s r.1) &&& (regDesc r.1).sth)

/-- A word of a SPOOL section is written by Safelight. -/
def spoolPut (s : State) (a : Nat) (w : Word) : State := (spoolAccessOp s .safelight a 4 (some w)).2.2

/-- The words of an IRAM, TRAY or SPOOL section are written. -/
def writeSection (s : State) (c : Section) : State :=
  let e := c.addr / 0x10000
  forEach (sectionWords s c) s fun s p =>
    match c.typ with
    | 2 => iramPut s e (c.addr % 0x1000 + p.1) p.2
    | 3 => trayPut s e (c.addr % 0x8000 + 4 * p.1) p.2
    | 4 => spoolPut s (c.addr + 4 * p.1) p.2
    | _ => s

/-- A section of the change set is written or staged; a spool with OWN_EN is noted for its handover. -/
def prepSection (s : State) (c : Section) : State :=
  let k := s.boot.fixCh
  let s1 := if c.typ = 1 then forEach (regsRecords s c) s fun s r => prepRecord s k r else writeSection s c
  if c.typ = 4 && c.flags ≥ 8 then
    { s1 with boot := { s1.boot with hand := s1.boot.hand ++ (spoolsOf c).map fun n => (n, c.flags % 8) } }
  else s1

/-- A flash or CRC error met before some section ended the preparation: which sections before it were written is free. -/
def prepPart (s : State) : List Section → State
  | [] => s
  | c :: cs =>
    let (b, s1) := s.drawBool
    if b then prepPart (prepSection s1 c) cs else s1

/-- The device discards what a change staged (R396, R399). -/
def prepDiscard (s : State) : State := forEach s.boot.groups (fixDiscard s s.boot.fixCh.val) exgDiscard

/-- The member answers the command that it acted on: acknowledged, or NACK with a cause (R407). -/
def casAnswer (s : State) (q : Nat) (nack : Option Nat) : State :=
  s.modCas fun c => { c with ackCseq := q, nack := nack.isSome, nackCause := nack.getD 0 }

/-- Preparation ends with cause 7 (R396). On a member the NACK carries it (R420). -/
def prepError (s : State) : State :=
  let s1 := prepDiscard (prepPart s (changeSet s s.boot.target))
  let s2 := fmtEvent { s1 with boot := { s1.boot with phase := 0, cause := 7, groups := [], hand := [] } } 2 313 3
  if s.boot.chained && !casMaster s then casAnswer s2 (s2.cas.lastCseq.getD 0) (some 7) else s2

/-- The cycle at which the point of the change is placed, and whether it is late (R397). -/
def changeCycle (s : State) (u : Nat) : Word × Bool :=
  let here := (spkPosNow s u).2
  if s.boot.next then (here + 1, false)
  else
    let c := s.reg Reg.FMT_CYC
    let d0 := mkw 1 7 ||| mkw u 8
    if calPassed s d0 0 c then (if calPassed s d0 0 here then here + 1 else here, true) else (c, false)

/-- The device arms the fix channel of a prepared change (R397). -/
def fmtArm (s : State) : State :=
  let k := s.boot.fixCh.val
  let u := match s.boot.formats[s.boot.target]? with | some f => f.chgSpk.val | none => 0
  let a := Reg.FIX_CTL k
  let conf (kind : Nat) : Word := (s.reg a &&& 0x10000) ||| mkw kind 4 ||| mkw u 8 ||| mkw 2 12
  if s.boot.now then fixArmOp (s.setReg a (conf 0)) k
  else
    let (cyc, late) := changeCycle s u
    let s1 := (s.setReg a (conf 3)).setReg (Reg.FIX_POINT_HI k) cyc
    fixArmOp (if late then fmtEvent s1 4 313 5 else s1) k

/-- Preparation completes: PHASE becomes 2, and the point is armed; on the master of a chain change it waits for the
members, and a member arms no point of its own (R396, R397, R420). -/
def prepDoneOp (s : State) (err : Bool) : State :=
  let hit := testsHit s (spoolWords (changeSet s s.boot.target))
  if s.boot.phase != 1 || s.boot.prepDone then s
  else if !hit.isEmpty then forEach hit s testAbort
  else if err then prepError s
  else
    let s1 := forEach (changeSet s s.boot.target) s prepSection
    let s2 := { s1 with boot := { s1.boot with phase := 2, prepDone := true } }
    if !s2.boot.chained then fmtArm s2
    else if !casMaster s2 then casAnswer s2 (s2.cas.lastCseq.getD 0) none
    else if s2.cas.cmd.isSome then s2 else fmtArm s2

/-! The fix point and its end (R398, R399). -/

/-- The core edge at which the flush of a change lands whose fix point is `t`: tb e of R398. -/
def flushEdge (s : State) (k t : Nat) : Nat := max ((t - 8 + 1) / 2 * 2) (s.fixAt k).handTb

/-- The flush of a change of format, with the active format's FLUSH_TAG and FLUSH_MASK (R398). -/
def changeFlush (s : State) (k t : Nat) : State :=
  match s.boot.formats[s.boot.active]? with
  | none => s
  | some f =>
    if f.flushMask = 0 then s else
    { calFlush { s with tb := flushEdge s k t } f.flushTag.toNat f.flushMask.toNat none with tb := s.tb }

/-- The flush lands once its core edge has come (R398). -/
def formatFlush (s : State) : State :=
  let k := s.boot.fixCh.val
  if (s.boot.phase != 2 && !s.boot.tooLate) || s.boot.flushed then s else
  match (s.fixAt k).point with
  | .at t => if s.tb < flushEdge s k t then s else changeFlush { s with boot := { s.boot with flushed := true } } k t
  | _ => s

/-- SW_THR of format `f` stops, and starts at SW_PC with its events clear (R390, R398). -/
def startSwThr (s : State) (f : Nat) : State :=
  match s.boot.formats[f]? with
  | some d => if d.swThr < 64 then thrRestart s d.swThr d.swPc else s
  | none => s

/-- A change of format takes effect at the fix point of its channel (R398). -/
def formatCommit (s : State) (k t : Nat) : State :=
  let new := s.boot.target
  let s1 := fixCommitAt (formatFlush s) k t
  let s2 := forEach s.boot.groups s1 fun s g => exgFixOp s g true
  let s3 := forEach s.boot.hand s2 fun s p => handoverOp s .safelight p.1 (mkw p.2 0)
  let s4 := if t % 2 = 0 then startSwThr s3 new else s3.after 1 (.swThr new)
  let s5 := { s4 with
    boot := { s4.boot with active := new, phase := if s4.safe.rundown.isSome then 3 else 0, tooLate := false, groups := [], hand := [], prepDone := false, chained := false }
    slt := { s4.slt with lifeFmt := s4.slt.lifeFmt + 1 } }
  let w0 := (bootRecWord s5 0 &&& 1) ||| mkw 1 8 ||| mkw new 12
  bootRecPut (fmtEvent s5 0 313 1) w0 (s5.reg Reg.NEG_CRC) (bootRecWord s5 2) (bootRecWord s5 3)

/-- FIX_COMMIT: the point of channel `k` has been reached (R34, R398). -/
def fixCommitOp (s : State) (k : Nat) : State :=
  match fixReached s k with
  | none => s
  | some t => if (s.boot.phase = 2 ∨ s.boot.tooLate = true) ∧ s.boot.fixCh.val = k then formatCommit s k t else fixCommitAt s k t

/-- The commits that wait in the queue, which are of this tb: committed values take part in its evaluation (R34). -/
def fixAhead (s : State) : State :=
  forEach (s.pending.filterMap fun c => match c with | .fixCommit k => some k.val | _ => none) s fixCommitOp

/-- FMT_CMD lands: ABANDON (R399), then RD_DONE (R400). -/
def fmtCmdWrite (s : State) (w : Word) : State :=
  let s1 := if bitAt w 0 then abandonChange s else s
  if bitAt w 1 then rdDoneOp s1 else s1

/-- The change on the master ends with cause 8 after a NACK or a timeout, and FMT_ABANDON goes out (R420). -/
def chainAbandon (s : State) : State :=
  if s.boot.chained && (s.boot.phase = 1 || s.boot.phase = 2) && !changePointReached s then
    let k := s.boot.fixCh
    let s1 := abandonChange s
    casSend { s1 with boot := { s1.boot with cause := 8 } } { noCommand with code := 5, fixCh := k }
  else s

/-! BOOT_STAT (chapter 13). -/

def bootStat (s : State) : Word :=
  let b := s.boot
  mkw b.startFmt 24 ||| mkw b.failB 16 ||| mkw b.failA 12 ||| mkw b.image 10 ||| mkb s.safe.startPin 9 ||| mkb b.exitWait 8
  ||| mkb b.unsigned 7 ||| mkb b.noSfdp 6 ||| mkb b.done 5 ||| mkw b.step 0

/-- A BOOT_EVT bit sets and raises source 312 (R401). -/
def bootEvent (s : State) (bit : Nat) : State :=
  let s1 := s.hwSetBit Reg.BOOT_EVT bit
  s1.raise0 312 (bit + 1) (.word (bootStat s1))

end Sys2Proof.Machine
end

