-- ==== Sys2Proof/Machine/Link.lean ====
section
/-! DEFINITION. Strip frames, status frames, training and loss of the Korok links, and the register writes of
the contact engine and the links (R210–R212, R220, R226–R239). -/

namespace Sys2Proof.Machine

/-- What happens to one cell in the window: edges and pulse ends of the plane or the calendar, by time. -/
inductive CellEv where
  | edge (e : RowEdge)
  | act (a : CellAct)
  | fin (t : Nat)
  deriving DecidableEq, Repr

def CellEv.time : CellEv → Nat
  | .edge e => e.time
  | .act a => a.time
  | .fin t => t

def insertEv (e : CellEv) : List CellEv → List CellEv
  | [] => [e]
  | f :: r => if e.time < f.time then e :: f :: r else f :: insertEv e r

/-- The events of cell `c` whose window is `w` or earlier, by time. -/
def cellEvents (s : State) (n c w : Nat) : List CellEv :=
  let l := s.linkAt n
  let es := (l.edges.filter fun e => e.row == 128 * n + c).map fun e => CellEv.edge e
  let as := (l.queue.filter fun a => a.cell == c).map fun a => CellEv.act a
  let ends := (l.ends.filter fun p => p.1 == c).map fun p => CellEv.fin p.2
  ((es ++ as ++ ends).filter fun e => decide (windowOf e.time ≤ w)).foldl (fun acc e => insertEv e acc) []

/-- How many events a cell can have in one frame: an action of the queue may leave an end behind (R227). -/
def cellFuel (s : State) (n c : Nat) : Nat :=
  let l := s.linkAt n
  (l.edges.filter fun e => e.row == 128 * n + c).length + 2 * (l.queue.filter fun a => a.cell == c).length
    + (l.ends.filter fun p => p.1 == c).length

/-- The level that an event gives a cell whose level is `lvl`. -/
def CellEv.level (lvl : Bool) : CellEv → Bool
  | .edge e => e.lvl
  | .act a => match a.op with | 0 => true | 1 => false | 2 => !lvl | _ => true
  | .fin _ => false

/-- An event leaves the link's lists; a PULSE leaves its end behind, the later one where an end is pending (R227). -/
def takeEv (l : Link) (c : Nat) : CellEv → Link
  | .edge e => { l with edges := l.edges.erase e }
  | .act a =>
    let l1 := { l with queue := l.queue.erase a }
    if a.op = 3 then
      let e := a.time + a.width
      let e1 := match l1.ends.find? fun p => p.1 == c with | some p => max p.2 e | none => e
      { l1 with ends := (c, e1) :: l1.ends.filter fun p => p.1 != c }
    else l1
  | .fin t => { l with ends := l.ends.erase (c, t) }

/-- An event moves to OFFSET 0 of the next frame (R232). -/
def deferEv (l : Link) (c w : Nat) : CellEv → Link
  | .edge e => { l with edges := l.edges.map fun f => if f = e then { f with time := (w + 1) * 16000 } else f }
  | .act a => { l with queue := l.queue.map fun f => if f = a then { f with time := (w + 1) * 16000 } else f }
  | .fin t => { l with ends := l.ends.map fun p => if p = (c, t) then (c, (w + 1) * 16000) else p }

/-- The KIND 1 entry of an action fires with its frame (R228). -/
def fireEv (s : State) : CellEv → State
  | .act a => match a.id with | some id => calFired s id | none => s
  | _ => s

/-- An event that the cell's owner does not admit leaves without effect (R212, R226). -/
def wrongOwner (cal : Bool) : CellEv → Bool
  | .edge _ => cal
  | _ => !cal

/-- A queued KIND 1 entry is removed without firing and counts in DROP (R226, R239). -/
def dropAct (s : State) (n : Nat) (a : CellAct) : State :=
  let s1 := s.modLink n fun l => { l with queue := l.queue.erase a }
  let s2 := match a.id with | some id => s1.modCal fun c => c.remove id | none => s1
  linkDrop s2 n

def dropEv (s : State) (n c : Nat) : CellEv → State
  | .act a =>
    let s1 := match a.id with | some id => s.modCal fun k => k.remove id | none => s
    linkEvent (linkCount (s1.modLink n fun l => { l with queue := l.queue.erase a }) n 1 false) n 8
  | e => s.modLink n fun l => takeEv l c e

/-- What a frame's cell has come to: its byte so far, the level that the events ahead lead to, and whether it has its edge. -/
structure CellRun where
  byte : Nat
  lvl  : Bool
  done : Bool
  deriving DecidableEq, Repr

/-- One event of a cell in the frame of window `w`: an event that changes no level is no edge; the first edge takes its OFFSET,
0 when late and in the first frame after training; each further edge moves to the next frame (R232, R236). -/
def cellEvent (n c w : Nat) (p : CellRun × State) (e : CellEv) : CellRun × State :=
  let (r, s) := p
  let new := e.level r.lvl
  let bit := BitVec.ofNat 128 (2 ^ c)
  if new = r.lvl then (r, fireEv (s.modLink n fun l => takeEv l c e) e)
  else if r.done then ({ r with lvl := new }, linkDefer (s.modLink n fun l => deferEv l c w e) n)
  else
    let late := decide (windowOf e.time < w)
    let off := if late || (s.linkAt n).first then 0 else gridOf e.time % 128
    let s1 := fireEv (s.modLink n fun l =>
      let l1 := takeEv l c e
      { l1 with cells := if new then l1.cells ||| bit else l1.cells &&& ~~~bit }) e
    ({ byte := ofBool new * 128 + off, lvl := new, done := true }, if late then linkLate s1 n else s1)

/-- The cell's events of the window, one by one: one that the owner does not admit leaves without effect, and what an event leaves
behind or moves counts among those still to come (R226, R227, R232). -/
def cellRun (fuel : Nat) (n c w : Nat) (p : CellRun × State) : CellRun × State :=
  match fuel with
  | 0 => p
  | f + 1 =>
    match cellEvents p.2 n c w with
    | [] => p
    | e :: _ =>
      cellRun f n c w (if wrongOwner (calOwnsCell p.2 n c) e then (p.1, dropEv p.2 n c e) else cellEvent n c w p e)

/-- The plane owns the cell and holds no row for it: it is driven to 0 (R212). -/
def beyondPlane (s : State) (n c : Nat) : Bool :=
  decide (128 * (if ctOn s then s.ct.geo else ctGeo s).rb ≤ 128 * n + c)

/-- Cell `c` in the frame of window `w`: its byte, and the state after (R212, R226, R227, R232). -/
def cellByte (s : State) (n c w : Nat) : Nat × State :=
  let s1 := if !calOwnsCell s n c && beyondPlane s n c then
      s.modLink n fun l => { l with cells := l.cells &&& ~~~BitVec.ofNat 128 (2 ^ c) } else s
  let lvl := (s1.linkAt n).cells.getLsbD c
  let (r, s2) := cellRun (cellFuel s1 n c) n c w ({ byte := ofBool lvl * 128, lvl := lvl, done := false }, s1)
  (r.byte, s2)

/-- The remote row group of a cell is guarded (R298). -/
def groupGuarded (s : State) (g : Nat) : Bool := s.rb (Reg.GUARD_RG (g / 32)) (g % 32)

/-- The byte of cell `c` after its meter, before its gate (R292, R299). -/
def meteredByte (s : State) (n c raw : Nat) : Nat := if (s.mtrAt (128 + (16 * n + c / 8))).forced then 0 else raw

/-- A group's gate opens where every cell's level before the gate equals its gate level, with GUARD_OK 1 (R299). -/
def groupGates (s : State) (n : Nat) (raw : List Nat) : State :=
  forEach (List.range 16) s fun s i =>
    let g := 16 * n + i
    let ok := vget s.guard (s.rf Reg.GUARD_RCFG 2 0) false
    let eq := (List.range 8).all fun j =>
      let b := meteredByte s n (8 * i + j) (raw.getD (8 * i + j) 0)
      b % 128 == 0 && (b / 128 == 1) == cellSafe s n (8 * i + j)
    if groupGuarded s g && s.rgClosed.getLsbD g && ok && eq then
      { s with rgClosed := s.rgClosed &&& ~~~(BitVec.ofNat 128 (2 ^ g)) }
    else s

/-- The byte that a cell carries: after its meter, its gate and the safe override (R238, R292, R299). -/
def sentByte (s : State) (n c raw : Nat) : Nat :=
  let g := 16 * n + c / 8
  if c ≥ linkCap s n then 0
  else if s.safe.safe then ofBool (cellSafe s n c) * 128
  else if groupGuarded s g && s.rgClosed.getLsbD g then ofBool (cellSafe s n c) * 128
  else meteredByte s n c raw

/-- A period without an accepted status frame counts in MISS (LINKn_ERRCNT1). -/
def linkMiss (s : State) (n : Nat) : State := linkCount s n 1 true

/-- FRAME_SAMPLE: the frame of the link's next window, with the owners of its cells as they stand (R226, R231–R233). -/
def frameSampleOp (s : State) (n : Nat) : State :=
  let l := s.linkAt n
  let w := l.nextW
  if linkMode s n != 1 || l.st != .up || decide (s.tb < sampleTb s n w) then s else
  let s0 := (if l.missed > 0 then linkMiss s n else s).modLink n fun l => { l with own := ownerBits s n }
  let (raw, s1) := (List.range 128).foldl (fun p c =>
    let (b, t) := cellByte p.2 n c w
    (p.1 ++ [b], t)) (([] : List Nat), s0)
  let s2 := groupGates s1 n raw
  let sent := (List.range 128).map fun c => sentByte s2 n c (raw.getD c 0)
  let cells : List Byte := sent.map fun b => BitVec.ofNat 8 b
  s2.modLink n fun l => { l with
    nextW := w + 1, was := l.frame, frame := cells, frameSeq := w % 256, sentSeq := (w % 256 :: l.sentSeq).take 4, first := false,
    tx := stripFrame (BitVec.ofNat 8 w) cells,
    steps := ((w, frameSteps l.frame cells) :: l.steps).take 20, missed := l.missed + 1, safeSent := s.safe.safe }

/-- STATUS_FRAME (R234). -/
def statusFrameOp (s0 : State) (n : Nat) (f : StatusFrame) : State :=
  let s := linkCodeErr s0 n f.codeErrs.toNat
  let l := s.linkAt n
  if linkMode s n != 1 || l.st != .up then s
  else if !f.crcOk then linkCount s n 0 true
  else if !l.sentSeq.contains f.seq.toNat then linkEvent s n 10
  else
    let old := s.reg (Reg.LINK_RSTAT n)
    let word_ (i : Nat) : Word := f.fault.extractLsb' (32 * i) 32
    let changed := [0, 1, 2, 3].any fun i => s.reg (Reg.LINK_FAULT n i) != word_ i
    let new := mkw f.rxerr.toNat 24 ||| mkw f.temp.toNat 16 ||| mkw f.dstat.toNat 8 ||| mkw f.seq.toNat 0
    let s1 := forEach [0, 1, 2, 3] (s.setReg (Reg.LINK_RSTAT n) new) fun s i => s.setReg (Reg.LINK_FAULT n i) (word_ i)
    let s2 := s1.modLink n fun l => { l with missed := 0 }
    let s3 := if changed then linkEvent s2 n 3 else s2
    if fld old 15 8 != f.dstat.toNat then linkEvent s3 n 9 else s3

/-- A link that leaves UP drops its queued actions (R239). -/
def linkDropQueue (s : State) (n : Nat) : State := forEach (s.linkAt n).queue s fun s a => dropAct s n a

/-- Entry to LOSS; of a strip link in LINK_MASK it is a safety-class fault (R239, Table 9-4). -/
def linkToLoss (s : State) (n : Nat) : State :=
  let s1 := linkDropQueue (s.modLink n fun l => { l with st := .loss, lossTb := s.tb }) n
  if linkMode s n == 1 && s.rb Reg.SAFE_ESC (16 + n) then
    let s2 := s1.hwSetBit (Reg.LINK_EVT n) 1
    raiseSafety s2 4 (srcLink n) 2 (.word (s2.reg (Reg.LINK_EVT n) &&& 0xFFFF))
  else linkEvent s1 n 1

/-- The receiver of link n loses lock (R19). -/
def linkUnlock (s : State) (n : Nat) : State :=
  if s.rb Reg.CLK_STAT (8 + n) then (s.setRf Reg.CLK_STAT (8 + n) (8 + n) 0).hwSetBit Reg.CLK_EVT (8 + n) else s

/-- Entry to ALIGN: the measurement starts afresh (Table 6-4). -/
def linkToAlign (s : State) (n : Nat) : State :=
  (linkDropQueue s n).modLink n fun l => { l with st := .align, rtts := [], tries := 0, reqs := 0, anyCrcOk := false, lastAns := none }

/-- LINKn_CTL lands: a write restarts the link from OFF; MODE 3 is discarded (R235). -/
def linkCtlWrite (s : State) (n : Nat) (w : Word) : State :=
  let a := Reg.LINK_CTL n
  if fld w 1 0 = 3 then linkEvent (s.setReg a (mergeBits (s.reg a) w 0x30)) n 11
  else
    let s1 := (linkDropQueue (s.setReg a (w &&& 0x33)) n).modLink n fun l => { l with st := .off, missed := 0, safeSent := false }
    if fld w 1 0 = 0 then s1 else linkToAlign s1 n

/-- LINK_ALIGN: the receiver is locked and has seen 3 aligned commas (Table 6-4). -/
def linkAlignOp (s : State) (n : Nat) : State :=
  if (s.linkAt n).st != .align then s else
  (s.setRf Reg.CLK_STAT (8 + n) (8 + n) 1).modLink n fun l => { l with st := .train }

/-- The lowest and the highest of a list. -/
def spread (xs : List Nat) : Nat :=
  xs.foldl max 0 - xs.foldl min (xs.headD 0)

def insertNat (x : Nat) : List Nat → List Nat
  | [] => [x]
  | y :: r => if x ≤ y then x :: y :: r else y :: insertNat x r

/-- The median of an even number of values: the mean of the middle two; which way a half goes is free (R236). -/
def median (s : State) (xs : List Nat) : Nat × State :=
  let ys := xs.foldl (fun acc x => insertNat x acc) []
  let m := (ys.getD (ys.length / 2 - 1) 0) + ys.getD (ys.length / 2) 0
  if m % 2 = 0 then (m / 2, s) else
  let (b, s1) := s.drawBool
  (m / 2 + ofBool b, s1)

/-- LEAD from a measurement (R236). -/
def leadOf (rtt turn ref : Nat) : Nat :=
  let num : Int := (rtt : Int) - 4 * turn + 2 * ref
  (((num + 7) / 8) * 4).toNat

def trainFail (s : State) (n : Nat) : State := linkToLoss (linkEvent s n 2) n

/-- The training request: of a strip link (R236), of a cascade link (R404). -/
def trainingRequest (s : State) (n : Nat) : List (Bool × Byte) :=
  let safe : List Byte := (List.range 16).map fun i => BitVec.ofNat 8 ((List.range 8).foldl (fun v j => v + ofBool (cellSafe s n (8 * i + j)) * 2 ^ j) 0)
  let body : List Byte :=
    if linkMode s n == 2 then [0x81, BitVec.ofNat 8 s.cas.role]
    else 0x01 :: BitVec.ofNat 8 n :: BitVec.ofNat 8 (max 1 (s.rf (Reg.LINK_PARAM n) 7 0)) :: safe
  [K28_5, K28_0] ++ chars (body ++ crcBytes body)

/-- How many exchanges one measurement takes (R236, R404). -/
def exchanges (s : State) (n : Nat) : Nat := if linkMode s n == 2 then 16 else 8

/-- TRAINING_REQUEST: one every 2 µs; on a cascade link only the downstream device's link 7 sends them (R235, R404). A
measurement whose requests have all gone out and that still lacks an answer is not stable: it is repeated up to 4 times, and then
training fails (R236; log entry 67). -/
def trainingRequestOp (s : State) (n : Nat) : State :=
  let l := s.linkAt n
  if l.st != .train || (l.reqs != 0 && decide (s.tb < l.reqTb + 2000)) || (linkMode s n == 2 && n != 7) then s
  else
    let spent := decide (exchanges s n * (l.tries + 1) ≤ l.reqs)
    if spent && decide (4 ≤ l.tries) then trainFail s n
    else (s.modLink n fun l => { l with
      reqs := l.reqs + 1, reqTb := s.tb, rtts := if spent then [] else l.rtts, tries := if spent then l.tries + 1 else l.tries }).send n
        (trainingRequest s n)

/-- Training succeeds: results, and the first window (R236). Edges and ends before it have set the levels (R239). -/
def trainDone (s : State) (n rtt spr : Nat) (a : TrainAnswer) : State :=
  let lead := leadOf rtt a.turn.toNat a.drvRef.toNat
  let w := (s.tb + 200 + lead + 80 + 999) / 1000
  let s1 := ((((s.setReg (Reg.LINK_RTT n) (mkw (satN 16 spr) 16 ||| mkw (satN 16 rtt) 0)).setReg (Reg.LINK_LEAD n) (mkw lead 0)).setReg
    (Reg.LINK_DRV n) (mkw a.drvRef.toNat 16 ||| mkw a.turn.toNat 8 ||| mkw a.cap.toNat 0)).setReg (Reg.LINK_DRVID n) a.ident)
  let s2 := s1.modLink n fun l =>
    let done := l.ends.filter fun p => decide (windowOf p.2 < w)
    let c1 := done.foldl (fun m p => m &&& ~~~(BitVec.ofNat 128 (2 ^ p.1))) l.cells
    { l with st := .up, nextW := w, missed := 0, sentSeq := [], frame := [], was := [], first := true, own := ownerBits s n, steps := [],
             cells := cellsAfter s n c1 (l.edges.filter fun e => decide (windowOf e.time < w)),
             edges := l.edges.filter fun e => !decide (windowOf e.time < w),
             ends := l.ends.filter fun p => !decide (windowOf p.2 < w) }
  linkEvent s2 n 0

/-- TRAINING_ANSWER in strip mode (R236). -/
def trainingAnswerOp (s0 : State) (n : Nat) (a : TrainAnswer) : State :=
  let s := linkCodeErr s0 n a.codeErrs.toNat
  let l := s.linkAt n
  if linkMode s n != 1 || l.st != .train || l.reqs ≤ l.rtts.length + 8 * l.tries then s
  else if a.crcOk && a.version != 1 then trainFail s n
  else
    let rtts := l.rtts ++ [a.rtt]
    let s1 := s.modLink n fun l => { l with
      rtts := rtts, anyCrcOk := l.anyCrcOk || a.crcOk, lastAns := if a.crcOk then some a else l.lastAns }
    if rtts.length < 8 then s1
    else if spread rtts > 8 then
      if l.tries ≥ 4 then trainFail s1 n else s1.modLink n fun l => { l with rtts := [], tries := l.tries + 1 }
    else match (s1.linkAt n).lastAns with
      | none => trainFail s1 n
      | some b =>
        let (m, s2) := median s1 rtts
        if b.drvRef.toNat < 560 ∨ leadOf m b.turn.toNat b.drvRef.toNat > 16000 then trainFail s2 n
        else trainDone s2 n m (spread rtts) b

/-- LOSS_N; 0 acts as 1. -/
def lossN (s : State) (n : Nat) : Nat := max 1 (s.rf (Reg.LINK_PARAM n) 15 8)

/-- LOSS_N periods have passed without an accepted status frame (R239). -/
def periodsMissed (s : State) (n : Nat) : Bool :=
  decide (lossN s n ≤ (s.linkAt n).missed) && decide (sampleTb s n (s.linkAt n).nextW ≤ s.tb)

/-- LINK_LOSS: lock lost, or too many periods without a status frame (R239). -/
def linkLossOp (s : State) (n : Nat) (lockLost : Bool) : State :=
  let s1 := if lockLost then linkUnlock s n else s
  if (s.linkAt n).st != .up then s1
  else if lockLost then linkToLoss s1 n
  else if linkMode s n == 1 && periodsMissed s n then linkToLoss (linkMiss s1 n) n
  else s1

/-- AUTO_RETRAIN: 10 µs in LOSS (Table 6-4). -/
def autoRetrainOp (s : State) (n : Nat) : State :=
  let l := s.linkAt n
  if l.st == .loss && s.rb (Reg.LINK_CTL n) 4 && decide (l.lossTb + 10000 ≤ s.tb) then linkToAlign s n else s

/-- LINKn_CMD.RETRAIN. -/
def retrainOp (s : State) (n : Nat) : State := if (s.linkAt n).st == .off then s else linkToAlign s n

/-- LINKn_CMD.CLR_CNT. -/
def linkClrOp (s : State) (n : Nat) : State := forEach [0, 1, 2] s fun s k => s.clearCnt (Reg.LINK_ERRCNT n k)

/-- LINKn_CMD lands. -/
def linkCmdWrite (s : State) (n : Nat) (w : Word) : State :=
  let s1 := if bitAt w 1 then linkClrOp s n else s
  if bitAt w 0 then retrainOp s1 n else s1

/-- CT_CMD.CLR_CNT. -/
def ctClrOp (s : State) : State := s.clearCnt Reg.CT_CNT

/-- CT_CMD lands: CLR_CNT, HALT, BLANK, GO, JUMP. -/
def ctCmdWrite (s : State) (w : Word) : State :=
  let s1 := if bitAt w 4 then ctClrOp s else s
  let s2 := if bitAt w 1 then ctHaltOp s1 else s1
  let s3 := if bitAt w 2 then ctBlankOp s2 else s2
  let s4 := if bitAt w 0 then ctGoOp s3 else s3
  if bitAt w 3 then ctJumpTo s4 (s4.rf Reg.CT_JUMP 14 0) else s4

/-- A locked register of the contact engine (CT_LANEk_ROWS, CT_LROWn). -/
def ctLocked (s : State) (a : Nat) (w : Word) : State :=
  let v := w &&& (regDesc a).rw
  if !ctOn s then s.setReg a v else if v = s.reg a then s else ctEvent s 9

/-- A register of the contact engine that is not staged lands. -/
def ctWrite (s : State) (a : Nat) (w : Word) : State :=
  if a = Reg.CT_CTL then ctCtlWrite s w
  else if a = Reg.CT_CMD then ctCmdWrite s w
  else if inArr (a - 0x00860100) 0 8 32 && a ≥ 0x00860100 then ctLocked s a w
  else if 0x00860400 ≤ a ∧ a < 0x00860600 then ctLocked s a w
  else s.setReg a (mergeBits (s.reg a) w (regDesc a).rw)

/-- The register at offset `o` of link `n` lands. -/
def linkWriteAt (s : State) (n o a : Nat) (w : Word) : State :=
  match o with
  | 0x00 => linkCtlWrite s n w
  | 0x0C => linkCmdWrite s n w
  | _ => s.setReg a (mergeBits (s.reg a) w (regDesc a).rw)

/-- A register of a link lands. -/
def linkWrite (s : State) (a : Nat) (w : Word) : State :=
  linkWriteAt s ((a - 0x00868000) / 0x200) ((a - 0x00868000) % 0x200) a w

def LinkState.code : LinkState → Nat
  | .off => 0
  | .align => 1
  | .train => 2
  | .up => 3
  | .loss => 4

/-- LINKn_STAT. -/
def linkStat (s : State) (n : Nat) : Word := mkw (s.linkAt n).st.code 0 ||| mkb (s.linkAt n).safeSent 3

end Sys2Proof.Machine
end

