-- ==== Sys2Proof/Machine/Cascade.lean ====
section
/-! DEFINITION. The cascade (chapter 14): training of its links, down and up frames, timebase alignment, mirrored units, and
the commands of chain fix points and chain format changes. -/

namespace Sys2Proof.Machine

def casMember (s : State) : Bool := casOn s && s.cas.role != 0

/-- Link `n` is a cascade link that is UP. -/
def casUp (s : State) (n : Nat) : Bool := linkMode s n == 2 && (s.linkAt n).st == .up

/-- PVER_MAX as it acts (R412). -/
def pverOf (v : Nat) : Nat := if v = 0 then 1 else min 2 v

def pverOwn (s : State) : Nat := pverOf (s.rf Reg.CAS_CFG 3 0)

def casExpect (s : State) : Nat := s.rf Reg.CAS_CFG 14 8

/-! Link loss (R411, R421). -/

/-- Every mirrored unit enters LOST. -/
def mirrorsLost (s : State) : State :=
  forEach (List.range 8) s fun s n =>
    let st := (s.spkAt n).st
    if spkMirrors s n && st != .lost && st != .off then spkGuardNote s (spkLost s n) n else s

/-- TB_LOCK clears (R409). -/
def lockLost (s : State) : State :=
  let s1 := s.modCas fun c => { c with tbLock := false, good := 0, bad := 0 }
  if s.cas.tbLock then casEvent s1 ceLockLost else s1

/-- A chain format change before its FIX_TIME is abandoned (R421). -/
def dropChainChange (s : State) : State :=
  match (s.fixAt s.boot.fixCh.val).point with
  | .at _ => s
  | _ => if s.boot.chained then abandonChange s else s

/-- The member's upstream link is lost (R421). -/
def memberLinkLoss (s : State) : State :=
  let s1 := mirrorsLost (lockLost (casTo s .loss))
  let s2 := match s1.cas.await with
    | some k => fixCancel s1 k.val
    | none => s1
  let s3 := dropChainChange { s2 with cas := { s2.cas with await := none } }
  if s3.rb Reg.CAS_CTL 1 then enterSafe s3 causeSlt else s3

/-- What the chain does when a cascade link has left UP between two states (R409, R411, R421). -/
def casLinkNote (before s0 : State) : State :=
  let s := if linkMode before 6 = 2 ∧ linkMode s0 6 ≠ 2 then s0.modCas fun c => { c with downUp := false } else s0
  if casMember s && casUp before 7 && !casUp s 7 then memberLinkLoss s
  else if casOn s && casMaster s && casUp before 6 && !casUp s 6 then casTo s .loss
  else s

/-- Down frames have failed for LINK7 LOSS_N periods, in any state before the loss, or link 7 is not UP (R421). -/
def downFailed (s : State) : Bool :=
  if casUp s 7 then s.cas.st != .loss && decide (s.cas.frameTb + lossN s 7 * 1000 ≤ s.tb)
  else s.cas.st == .run || s.cas.st == .joinWait || s.cas.tbLock

/-- CASCADE_LINK_LOSS. -/
def cascadeLinkLossOp (s : State) : State := if casMember s && downFailed s then memberLinkLoss s else s

/-! Enable (R402). -/

/-- CAS_CTL lands. -/
def casCtlWrite (s : State) (w : Word) : State :=
  let old := casOn s
  let port := if casMaster s then 6 else 7
  if bitAt w 0 && !old && linkMode s port != 2 then casEvent (s.setReg Reg.CAS_CTL (w &&& 2)) ceCfgErr
  else
    let s1 := s.setReg Reg.CAS_CTL (w &&& 3)
    if bitAt w 0 && !old then (casTo s1 .link).modCas fun c => { c with frameTb := s.tb }
    else if !bitAt w 0 && old then
      (casTo s1 .off).modCas fun c => { c with tbLock := false, good := 0, bad := 0, cmd := none, queue := [], acks := 0, await := none }
    else s1

/-- A register of the block lands. -/
def casWrite (s : State) (a : Nat) (w : Word) : State :=
  if a = Reg.CAS_CTL then casCtlWrite s w
  else s.setReg a (mergeBits (s.reg a) w ((regDesc a).rw ||| (regDesc a).rws))

/-! Training (R404). -/

/-- HOP from a round trip in sixteenths; which way a half goes is free. -/
def hopOf (s : State) (rtt : Nat) : Nat × State :=
  let d := rtt - 2048
  if d % 2 = 0 then (d / 2, s) else
  let (b, s1) := s.drawBool
  (d / 2 + ofBool b, s1)

/-- A cascade link comes UP. -/
def casLinkUp (s : State) (n : Nat) : State :=
  let s1 := linkEvent (s.modLink n fun l => { l with st := .up, nextW := (s.tb + 80) / 1000 + 1, missed := 0, frame := [] }) n 0
  if casMember s1 && n = 7 then (casTo s1 .link).modCas fun c => { c with frameTb := s.tb }
  else if n = 6 then s1.modCas fun c => { c with downUp := true }
  else s1

/-- CASCADE_TRAINING: an answer arrives on link 7, with its round trip in sixteenths of a tb. -/
def cascadeTrainingOp (s : State) (version : BitVec 8) (crcOk : Bool) (rtt : Nat) : State :=
  let l := s.linkAt 7
  if linkMode s 7 != 2 || s.cas.role == 0 || l.st != .train || l.reqs ≤ l.rtts.length + 16 * l.tries then s
  else if crcOk && version != 0x81 then trainFail s 7
  else
    let rtts := l.rtts ++ [rtt]
    let s1 := s.modLink 7 fun l => { l with rtts := rtts, anyCrcOk := l.anyCrcOk || crcOk }
    if rtts.length < 16 then s1
    else if spread rtts > 4 then
      if l.tries ≥ 4 then trainFail s1 7 else s1.modLink 7 fun l => { l with rtts := [], tries := l.tries + 1 }
    else if !(s1.linkAt 7).anyCrcOk then trainFail s1 7
    else
      let (m, s2) := median s1 rtts
      let (h, s3) := hopOf s2 m
      casLinkUp (s3.setReg Reg.CAS_HOP (mkw (h % 2 ^ 24) 0)) 7

/-- CASCADE_REQUEST_ANSWER: a training request has reached link 6, its K28.0 in this tb. The answer's K28.0 leaves TURN = 128 tb after
it, one character behind its K28.5 (R404; log entry 89). -/
def cascadeAnswerOp (s : State) (version : BitVec 8) (crcOk : Bool) : State :=
  if linkMode s 6 != 2 || (s.linkAt 6).st != .train || !crcOk || version != 0x81 then s else s.after 124 .casAnswer

/-- Link 6 answers a training request with its own role in the request's form, and counts as UP once a measurement's worth is
answered (R404; log entry 30). -/
def casAnswerOp (s : State) : State :=
  if linkMode s 6 != 2 || (s.linkAt 6).st != .train then s
  else
    let n := s.cas.answered + 1
    let s1 := s.send 6 (trainingRequest s 6)
    if n < 16 then s1.modCas fun c => { c with answered := n }
    else casLinkUp (s1.modCas fun c => { c with answered := 0 }) 6

/-! Commands on the master (R415–R420). -/

/-- The next queued command starts. -/
def casNext (s : State) : State :=
  match s.cas.cmd, s.cas.queue with
  | none, c :: r => casSend (s.modCas fun x => { x with queue := r }) c
  | _, _ => s

/-- The outstanding command ends. -/
def casEnd (s : State) : State := s.modCas fun x => { x with cmd := none, acks := 0 }

/-- Every present member has acknowledged (R417, R420). -/
def casComplete (s0 : State) (c : CasCommand) : State :=
  let s := casEnd s0
  let k := c.fixCh.val
  casNext (match c.code.toNat with
    | 1 => fixArmPoint s k c.kind.val c.spk.val c.lo c.hi (s.fixAt k).hzn true
    | 2 => s.modCas fun x => { x with splitT := none }
    | 4 => if s.boot.prepDone && s.boot.chained then fmtArm s else s
    | _ => s)

/-- A NACK or a timeout ends the command (R417, R420). -/
def casFail (s0 : State) (c : CasCommand) (bit : Nat) : State :=
  let s := casEnd s0
  let k := c.fixCh.val
  casNext (match c.code.toNat with
    | 1 =>
      let s1 := casSend s { noCommand with code := 3, fixCh := c.fixCh }
      let s2 := casEvent (s1.hwSetBit (Reg.FIX_STAT k) fsRefused) bit
      if s2.boot.fixCh = c.fixCh then chainAbandon s2 else s2
    | 4 => chainAbandon (casEvent s bit)
    | _ => s)

/-- COMMAND_TIMEOUT (R415). -/
def commandTimeoutOp (s : State) : State :=
  match s.cas.cmd with
  | some c =>
    let limit := if c.code = 4 then max 1 (s.rf Reg.CAS_CFG 31 16) * 1000000 else 100000
    if s.tb < s.cas.cmdTb + limit then s else casFail s c ceTimeout
  | none => s

/-- SPLIT (R418). -/
def splitOp (s : State) : State :=
  match s.cas.splitT with
  | some t => if t + 10000 ≤ s.tb then casEvent (s.modCas fun x => { x with splitT := none }) ceSplit else s
  | none => s

/-! Frames on the master (R405, R407, R411, R412). -/

/-- Every expected role is present with TB_LOCK: the master enters RUN (Table 14-5). -/
def casJudge (s : State) : State :=
  let ok := (bitsOf 7 (casExpect s)).all fun i => presentNow s i && s.rb (Reg.CAS_MSTAT (i + 1)) 9
  if casOn s && casUp s 6 && ok then casTo s .run else s

def noUnit : UnitRec :=
  { stampLo := 0, stampFr := 0, gapMiss := 0, state := 0, dirRev := false, guardOk := false, inGap := false, tValid := false,
    lastSyn := false, k := 0, pos := 0, cyc := 0, tPred := 0 }

/-- The record of master unit `n` (Table 14-2, Table 14-6). -/
def unitRec (s : State) (n : Nat) : UnitRec :=
  if s.cas.cv ≤ 1 && n ≥ 4 then noUnit else
  let u := s.spkAt n
  { stampLo := lo32 (u.vis.stamp / 16), stampFr := Fin.ofNat 16 (u.vis.stamp % 16), gapMiss := Fin.ofNat 8 (spkGap s n),
    state := Fin.ofNat 8 u.st.code, dirRev := u.dirRev, guardOk := spkGuardOk s n, inGap := spkInGap s n, tValid := u.tValid,
    lastSyn := u.lastSyn, k := BitVec.ofNat 16 (s.rf (Reg.SPK_CYCLE n) 15 0), pos := u.vis.pos, cyc := u.vis.cyc,
    tPred := spkTpredWord s n }

/-- DOWN_FRAME_SEND: the frame of window w is sampled at w × 1,000 − 80 (R405). With no member present, a command needs no answer. -/
def downFrameSendOp (s : State) : State :=
  let w := (s.tb + 80) / 1000
  if !casOn s || !casMaster s || !casUp s 6 || (s.tb + 80) % 1000 != 0 || decide (w < (s.linkAt 6).nextW) then s else
  let f : DownFrame := { crcOk := true, codeErrs := 0, cv := BitVec.ofNat 8 s.cas.cv, seq := BitVec.ofNat 8 w, tbW := w * 1000, dly := 0,
                         units := (List.range 8).map (unitRec s), cmd := s.cas.cmd.getD noCommand, stamp := w * 16000 }
  let s1 := (s.modLink 6 fun l => { l with nextW := w + 1 }).modCas fun c => { c with lastSeq := w % 256, lastDown := some f }
  match s1.cas.cmd with
  | some c => if presentMask s1 = 0 then casComplete s1 c else casJudge s1
  | none => casJudge s1

/-- CAS_MSTAT of a record (bytes +4 to +7 of Table 14-4). -/
def memberStat (m : MemberRec) : Word :=
  mkw m.pverMax.val 0 ||| mkw m.activeFmt.val 4 ||| mkb m.present 8 ||| mkb m.tbLock 9 ||| mkb m.joinWait 10 ||| mkb m.nack 11
  ||| mkb m.lateFix 12 ||| mkb m.mirErr 13 ||| mkw m.cseq.toNat 16 ||| mkw m.cause.toNat 24

/-- The record of role `i + 1` is read. -/
def memberRead (s : State) (i : Nat) (m : MemberRec) : State :=
  let was := s.rb (Reg.CAS_MSTAT (i + 1)) 12
  let s1 := (s.setReg (Reg.CAS_MVER (i + 1)) m.negVer).setReg (Reg.CAS_MSTAT (i + 1)) (memberStat m)
  let s2 := if m.present then s1.modCas fun c => { c with
      present := c.present ||| BitVec.ofNat 7 (2 ^ i), seenTb := vmodN c.seenTb (i + 1) fun _ => s.tb } else s1
  if m.lateFix && !was then casEvent s2 ceLateFix else s2

/-- The roles that answered the outstanding command, with an acknowledgement or a NACK. -/
def answers (s : State) (q : BitVec 8) (nack : Bool) (rs : List MemberRec) : Nat :=
  ((List.range 7).filter fun i => match rs[i]? with
    | some m => m.present && m.cseq == q && m.nack == nack
    | none => false).foldl (fun w i => w + 2 ^ i) 0

/-- CV from the records of the present members (R412). -/
def chainVersion (s : State) (rs : List MemberRec) : Nat :=
  (List.range 7).foldl (fun v i => match rs[i]? with
    | some m => if m.present then min v (pverOf m.pverMax.val) else v
    | none => v) (pverOwn s)

/-- UP_FRAME on the master's link 6 (R407, R411, R412, R415). -/
def upFrameOp (s0 : State) (f : UpFrame) : State :=
  let s := linkCodeErr s0 6 f.codeErrs.toNat
  if !casOn s || !casMaster s || !casUp s 6 then s
  else if !f.crcOk then linkCount s 6 0 true
  else
    let s1 := forEach (List.range 7) s fun s i => match f.records[i]? with
      | some m => memberRead s i m
      | none => s
    let s2 := s1.modCas fun c => { c with lastUp := some f, cv := if c.cmd.isSome then c.cv else chainVersion s1 f.records }
    let s3 := match s2.cas.cmd with
      | none => s2
      | some c =>
        let ack := s2.cas.acks ||| BitVec.ofNat 7 (answers s2 c.cseq false f.records)
        if answers s2 c.cseq true f.records != 0 && (c.code == 1 || c.code == 4) then casFail s2 c ceNack
        else if (BitVec.ofNat 7 (presentMask s2) &&& ~~~ack) = 0 then casComplete s2 c
        else s2.modCas fun x => { x with acks := ack }
    casJudge s3

/-- MEMBER_LOST: the role's record has lacked PRESENT for LINK6 LOSS_N periods (R411). -/
def memberLostOp (s : State) (r : Nat) : State :=
  if r = 0 || !casOn s || !casMaster s || !s.cas.present.getLsbD (r - 1)
      || s.tb < vget s.cas.seenTb r 0 + lossN s 6 * 1000 then s
  else
    let s1 := casEvent (s.modCas fun c => { c with present := c.present &&& ~~~(BitVec.ofNat 7 (2 ^ (r - 1))) }) ceMemberLost
    if s1.cas.st == .run && (casExpect s1).testBit (r - 1) then casTo s1 .loss else s1

/-! Frames on a member (R406–R409, R413). -/

/-- The member's own record (Table 14-4). -/
def ownRecord (s : State) : MemberRec :=
  let c := s.cas
  { negVer := s.reg Reg.NEG_VER, pverMax := Fin.ofNat 16 (s.rf Reg.CAS_CFG 3 0), activeFmt := Fin.ofNat 16 s.boot.active,
    present := true, tbLock := c.tbLock, joinWait := c.st == .joinWait, nack := c.nack, lateFix := c.lateFix, mirErr := c.mirErr,
    cseq := BitVec.ofNat 8 c.ackCseq, cause := BitVec.ofNat 8 c.nackCause }

def noMember : MemberRec :=
  { negVer := 0, pverMax := 0, activeFmt := 0, present := false, tbLock := false, joinWait := false, nack := false, lateFix := false,
    mirErr := false, cseq := 0, cause := 0 }

/-- The member's chain state (Table 14-5). -/
def memberState (s : State) (wait : Bool) : State :=
  if s.cas.roleDup then casTo s .link else if wait then casTo s .joinWait else casTo s (if s.cas.tbLock then .run else .link)

/-- TB_LOCK from the phase error of an accepted frame (R409). -/
def lockJudge (s : State) (e : Int) : State :=
  let good := if e.natAbs ≤ 2 then s.cas.good + 1 else 0
  let bad := if e.natAbs > 4 then s.cas.bad + 1 else 0
  let s1 := s.modCas fun c => { c with good := good, bad := bad }
  if bad ≥ 4 && s.cas.tbLock then lockLost s1
  else if good ≥ 16 then s1.modCas fun c => { c with tbLock := true } else s1

/-- What measures elapsed time from or to a tb keeps its distance when TB moves by `mv` (R408; log entry 65): effects under way,
the host watchdog and the run-down, thread watchdogs and dividers (R183, R203), ticks of sequencers (R274) and groups (R243),
the calendar stage, the spool test, links, chain, boot and Safelight timers, accepted pin levels and delayed edges (R271, R296),
trigger pulses, and what the record controller has latched and delivered (R314). -/
def shiftTimes (s : State) (mv : Nat → Nat) : State :=
  { s with
    due := s.due.map fun p => (mv p.1, p.2)
    safe := { s.safe with safeUp := mv s.safe.safeUp, stopUp := mv s.safe.stopUp, hwdTb := mv s.safe.hwdTb, rundown := s.safe.rundown.map fun p => (p.1, mv p.2) }
    eng := s.eng.map fun g => { g with divTb := mv g.divTb, thr := g.thr.map fun h => { h with wdTb := mv h.wdTb } }
    shq := s.shq.map fun q => { q with nextTb := mv q.nextTb }
    exg := s.exg.map fun x => { x with
      startTb := mv x.startTb, fixTb := x.fixTb.map mv, reloadTb := x.reloadTb.map mv, mpNext := x.mpNext.map fun p => (p.1, mv p.2),
      cutTb := mv x.cutTb, tripTb := mv x.tripTb }
    ch := s.ch.map fun c => { c with slots := c.slots.map fun t => { t with lastFire := t.lastFire.map mv } }
    mtr := s.mtr.map fun m => { m with onTb := mv m.onTb }
    pin := s.pin.map fun p => { p with
      accTb := mv p.accTb, accHist := p.accHist.map fun a => (mv a.1, a.2), queue := p.queue.map fun q => (mv q.1, q.2) }
    trgEnd := s.trgEnd.map fun e => e.map mv
    evr := { s.evr with
      cur := s.evr.cur.map fun r => { r with tb := mv r.tb }
      pend := s.evr.pend.map fun p => { p with at_ := mv p.at_ }
      opens := s.evr.opens.map fun o => { o with at_ := mv o.at_ }
      lastTb := s.evr.lastTb.map mv }
    seen := { s.seen with waits := s.seen.waits.map fun w => (mv w.1, w.2) }
    fabric := { s.fabric with
      host := s.fabric.host.map fun h => (h.1, mv h.2.1, mv h.2.2)
      contact := s.fabric.contact.map fun g => (g.1, mv g.2) }
    cal := { s.cal with opTb := s.cal.opTb.map mv, loadTb := s.cal.loadTb.map mv }
    spl := s.spl.map fun p => { p with
      ready := mv p.ready, test := { p.test with freeTb := mv p.test.freeTb, till := p.test.till.map mv } }
    host := { s.host with halfTb := mv s.host.halfTb }
    link := s.link.map fun l => { l with reqTb := mv l.reqTb, lossTb := mv l.lossTb }
    cas := { s.cas with frameTb := mv s.cas.frameTb, pubTb := mv s.cas.pubTb, cmdTb := mv s.cas.cmdTb, seenTb := s.cas.seenTb.map mv }
    boot := { s.boot with startTb := mv s.boot.startTb, exitDue := s.boot.exitDue.map mv }
    slt := { s.slt with claimTb := mv s.slt.claimTb, resetTb := s.slt.resetTb.map mv,
                        clkTb := s.slt.clkTb.map fun p => (p.1, mv p.2) } }

/-- TB steps so that the phase error becomes 0 (R408). -/
def tbStep (s : State) (e : Int) : State :=
  let t := ((s.tb : Int) * 16 - e) / 16
  let d := t - s.tb
  casEvent { shiftTimes s (fun n => ((n : Int) + d).toNat) with tb := t.toNat % 2 ^ 64 } ceTbStep

/-- The member aligns its TB to an accepted frame (R408, R409). -/
def alignTb (s : State) (f : DownFrame) : State :=
  let dl := f.dly + s.rf Reg.CAS_HOP 23 0
  let e : Int := f.stamp - (f.tbW * 16 + dl : Nat)
  let s1 := (s.setReg Reg.CAS_DL (mkw (dl % 2 ^ 24) 0)).setReg Reg.CAS_PHERR (word (clampS32 e))
  let s2 := lockJudge s1 e
  if e.natAbs ≤ 64 then memberState (s2.modCas fun c => { c with slew := c.slew - max (-1) (min 1 e) }) false
  else if s.safe.safe then memberState (tbStep s2 e) false
  else memberState s2 true

/-- The 64-bit tb nearest below the member's TB whose low word is `lo` (R413). -/
def tbBelow (tb : Nat) (lo : Word) : Nat :=
  let t := tb / 2 ^ 32 * 2 ^ 32 + lo.toNat
  if t ≤ tb then t else t - 2 ^ 32

/-- The mirror of unit `n` is LOST (R413). -/
def mirrorLost (s : State) (n : Nat) : State :=
  let st := (s.spkAt n).st
  if st = .lost ∨ st = .off then s else spkGuardNote s (spkLost s n) n

/-- The carried STATE acts as a transition of Table 2-5 (R413): an entry to ACQUIRE from a valid position is one through RESYNC
(R146). -/
def mirrorState (s : State) (n : Nat) (c : Nat) : State :=
  match SyncState.ofCode c with
  | .lost => if (s.spkAt n).st = .lost then s else spkLost s n
  | .acquire =>
    if (s.spkAt n).st = .acquire then s
    else if (s.spkAt n).st.valid then calOnLost (spkAcquire s n) n
    else spkAcquire s n
  | .off => s
  | st => spkTo s n st

/-- A mirrored unit that was `was` has taken the carried state and position: an entry to SYNCED after an earlier
synchronisation sets REACQ, and the entries behind the new position expire (R66, R147, R413). -/
def mirrorSynced (s : State) (n : Nat) (was : SyncState) : State :=
  let u := s.spkAt n
  if was.valid || !u.st.valid then s else
  let s1 := s.modSpk n fun u => { u with everSync := true }
  if u.everSync && u.st == .synced then calExpire (spkEvent s1 n seReacq) n u.pos u.cyc else s1

/-- A tooth event of mirrored unit `n`, published at once; it reaches the calendar 2 tb later (R413, R414, Table 4-4). -/
def mirrorTooth (s : State) (n : Nat) (r : UnitRec) : State :=
  let prev := (s.spkAt n).ev
  let rev := (s.spkAt n).dirRev
  let stamp := tbBelow s.tb r.stampLo * 16 + r.stampFr.val
  let s1 := mirrorState (s.modSpk n fun u => { u with pos := r.pos, cyc := r.cyc }) n r.state.val
  let s2 := s1.modSpk n fun u => { u with
    pos := r.pos, cyc := r.cyc, stamp := stamp, dirRev := r.dirRev, lastSyn := r.lastSyn, tValid := r.tValid,
    tPred := r.tPred.toNat * 256, haveTooth := true, revHold := none, mirGuard := r.guardOk, mirInGap := r.inGap,
    mirGap := r.gapMiss.val, mirStampLo := r.stampLo, mirStampFr := r.stampFr.val }
  let s2 := mirrorSynced s2 n (s.spkAt n).st
  let s3 := if rev != r.dirRev then ctReversal (calReversal s2 n) n else s2
  let t := lastTooth s3 n
  let s4 := publishTooth (queueVirtual s3 n (!r.lastSyn)) n (spkView s3 n) t r.dirRev
  spkGuardNote s (s4.after 2 (.spkTooth n t (!r.lastSyn) prev)) n

/-- The record of the unit that unit `n` mirrors arrives (R413, Table 14-6). -/
def mirrorUnit (s : State) (n : Nat) (f : DownFrame) : State :=
  let m := s.rf (Reg.CAS_MIR n) 2 0
  let r := f.units.getD m noUnit
  let u := s.spkAt n
  if f.cv.toNat ≤ 1 && m ≥ 4 then mirrorLost s n
  else if r.k.toNat != s.rf (Reg.SPK_CYCLE n) 15 0 then
    casEvent ((mirrorLost s n).modCas fun c => { c with mirErr := true }) ceMirErr
  else if r.stampLo = u.mirStampLo ∧ r.stampFr.val = u.mirStampFr then s
  else mirrorTooth s n r

/-- A down frame is published to the mirrored units (R413). -/
def mirrorsTake (s : State) (f : DownFrame) : State :=
  forEach (List.range 8) s fun s n => if spkMirrors s n then mirrorUnit s n f else s

/-- The tb at which a frame whose K28.5 arrived at `st` is published: the first core edge at or after it plus 784 tb (R413). -/
def publishTb (st : Nat) : Nat := ((st + 15) / 16 + 785) / 2 * 2

/-- Some mirrored unit's K differs from the carried one. -/
def anyMirErr (s : State) (f : DownFrame) : Bool :=
  (List.range 8).any fun n => spkMirrors s n && (f.units.getD (s.rf (Reg.CAS_MIR n) 2 0) noUnit).k.toNat != s.rf (Reg.SPK_CYCLE n) 15 0

/-- The up frame of the last device (R407). -/
def ownUp (s : State) (q : BitVec 8) : UpFrame :=
  { crcOk := true, codeErrs := 0, seq := q, records := (List.range 7).map fun i => if i + 1 = s.cas.role then ownRecord s else noMember }

/-- DOWN_FRAME on link 7 of a member (R406–R409, R413). The command it carries acts by its own row. -/
def downFrameOp (s0 : State) (f : DownFrame) : State :=
  let s := linkCodeErr s0 7 f.codeErrs.toNat
  if !casMember s || !casUp s 7 then s
  else if !f.crcOk then linkCount (s.modCas fun c => { c with lastDown := some f }) 7 0 true
  else
    let s1 := s.modCas fun c => { c with frameTb := s.tb, lastSeq := f.seq.toNat, cv := f.cv.toNat }
    let s2 := alignTb s1 f
    let s3 := if anyMirErr s2 f then s2 else s2.modCas fun c => { c with mirErr := false }
    let p := publishTb (f.stamp + 16 * s3.tb - 16 * s.tb)
    let s4 := { s3 with due := s3.due ++ [(p, Due.mirror f)], cas := { s3.cas with pubTb := p } }
    let out : DownFrame := { f with dly := ((s4.reg Reg.CAS_DL).toNat + 1024) % 2 ^ 24 }
    s4.modCas fun c => { c with lastDown := some out, lastUp := if casLast s4 then some (ownUp s4 f.seq) else c.lastUp }

/-- UP_FRAME_REPEAT: an up frame from downstream is repeated with the member's own record (R403, R407). -/
def upFrameRepeatOp (s0 : State) (f : UpFrame) : State :=
  let s := linkCodeErr s0 6 f.codeErrs.toNat
  if !casMember s || !casUp s 6 then s
  else if !f.crcOk then linkCount (s.modCas fun c => { c with lastUp := some f }) 6 0 true
  else
    let i := s.cas.role - 1
    match f.records[i]? with
    | some m =>
      if m.present then
        let s1 := s.modCas fun c => { c with roleDup := true, lastUp := some f }
        casTo (casEvent s1 ceRoleDup) .link
      else s.modCas fun c => { c with roleDup := false, lastUp := some { f with records := f.records.set i (ownRecord s) } }
    | none => s

/-! Commands on a member (R415–R421). -/

/-- The member acts on this command in this tb: 8 tb after it publishes the frame that carries it, and once (R415). -/
def casFresh (s : State) (c : CasCommand) (code : Nat) : Bool :=
  casMember s && c.code.toNat == code && s.cas.lastCseq != some c.cseq.toNat
  && s.cas.lastDown.map DownFrame.cmd == some c && decide (s.tb = s.cas.pubTb + 8)

def casTake (s : State) (c : CasCommand) : State := s.modCas fun x => { x with lastCseq := some c.cseq.toNat }

def casAck (s : State) (c : CasCommand) : State := casAnswer s c.cseq.toNat none

def casNack (s : State) (c : CasCommand) (cause : Nat) : State := casAnswer s c.cseq.toNat (some cause)

/-- FIX_PREP (R416). -/
def fixPrepOp (s0 : State) (c : CasCommand) : State :=
  if !casFresh s0 c 1 then s0 else
  let s := casTake s0 c
  let k := c.fixCh.val
  if fixPendingNow s k then casNack s c 2
  else if c.kind.val ≥ 2 then
    if (List.range 8).any fun n => spkMirrors s n && s.rf (Reg.CAS_MIR n) 2 0 == c.spk.val then
      casAck ((setPoint s k .chain true).modCas fun x => { x with await := some c.fixCh }) c
    else casNack s c 6
  else casAck (fixArmPoint s k 1 0 c.lo c.hi 1 true) c

/-- FIX_TIME (R418). -/
def fixTimeOp (s0 : State) (c : CasCommand) : State :=
  if !casFresh s0 c 2 then s0 else
  let s := casTake s0 c
  let k := c.fixCh.val
  if s.cas.await = some c.fixCh then
    let late := passed s.tb (join64 c.lo c.hi)
    let s1 := casAck (fixArmPoint (s.modCas fun x => { x with await := none }) k 1 0 c.lo c.hi 1 true) c
    if late then casEvent (s1.modCas fun x => { x with lateFix := true }) ceLateFix
    else s1.modCas fun x => { x with lateFix := false }
  else casAck s c

/-- FIX_CANCEL acts as FIXk_CTL.CANCEL (R417). -/
def fixCancelCmdOp (s0 : State) (c : CasCommand) : State :=
  if !casFresh s0 c 3 then s0 else casAck (fixCancel (casTake s0 c) c.fixCh.val) c

/-- FMT_PREP is a request of the member's own (R420); its answer follows the preparation. -/
def fmtPrepOp (s0 : State) (c : CasCommand) : State :=
  if !casFresh s0 c 4 then s0 else
  let s := casTake s0 c
  let f := c.newFmt.val
  let cause := fmtCause s f c.fixCh.val false true
  if cause != 0 then casNack (fmtRefuse s f c.fixCh.val cause) c cause else fmtAccept s f c.fixCh false false true

/-- FMT_ABANDON (R420). -/
def fmtAbandonOp (s0 : State) (c : CasCommand) : State :=
  if !casFresh s0 c 5 then s0 else
  let s := casTake s0 c
  casAck (if s.boot.chained then abandonChange s else s) c

/-- The master's calendar has converted a chain point to T: FIX_TIME goes out (R418). -/
def sendFixTime (s : State) (k t : Nat) : State :=
  (casSend s { noCommand with code := 2, fixCh := Fin.ofNat 4 k, lo := lo32 t, hi := hi32 t }).modCas fun x => { x with splitT := some t }

/-- LINK_LOSS with its consequences for the chain (R239, R411, R421). -/
def linkLossAll (s : State) (n : Nat) (lockLost : Bool) : State := casLinkNote s (linkLossOp s n lockLost)

end Sys2Proof.Machine
end

