-- ==== Sys2Proof/Machine/Shutter.lean ====
section
/-! DEFINITION. Shutter sequencers: instructions, ticks, queues, states, and what lands in their registers (chapter 8). -/

namespace Sys2Proof.Machine

/-- SHQn_EVT bits. -/
def qeTxOvf : Nat := 4
def qeRxUnf : Nat := 5
def qeGiveDrop : Nat := 6
def qeHalted : Nat := 7
def qeIllegal : Nat := 8
def qeProgLocked : Nat := 9
def qeInjRefused : Nat := 10
def qeStartDisc : Nat := 11
def qeCfgErr : Nat := 12
def qeLocked : Nat := 13
def qeWrDisc : Nat := 14
def qeTakeMiss : Nat := 15

/-- ILLEGAL raises a record whatever EVTEN holds (R288). -/
def shqEvent (s : State) (n b : Nat) : State :=
  s.evtRaise (Reg.SHQ_EVT n) (Reg.SHQ_EVTEN n) (srcShq n) b (b == qeIllegal)

def shqCompat (s : State) (n : Nat) : Bool := s.rb (Reg.SHQ_CTL n) 8

def shqOn (s : State) (n : Nat) : Bool := s.rb (Reg.SHQ_CTL n) 0

/-- JOIN, FRAC, OTHR, ITHR, AUTOTAKE and AUTOGIVE as they act (R278, R287). -/
def shqJoin (s : State) (n : Nat) : Nat := if shqCompat s n then 0 else s.rf (Reg.SHQ_CTL n) 13 12
def shqFrac (s : State) (n : Nat) : Nat := if shqCompat s n then 0 else s.rf (Reg.SHQ_DIV n) 15 8
def thrBits (v : Nat) : Nat := if v = 0 then 32 else v
def shqOthr (s : State) (n : Nat) : Nat := if shqCompat s n then 32 else thrBits (s.rf (Reg.SHQ_SHIFT n) 28 24)
def shqIthr (s : State) (n : Nat) : Nat := if shqCompat s n then 32 else thrBits (s.rf (Reg.SHQ_SHIFT n) 20 16)
def shqAutoTake (s : State) (n : Nat) : Bool := !shqCompat s n && s.rb (Reg.SHQ_SHIFT n) 1
def shqAutoGive (s : State) (n : Nat) : Bool := !shqCompat s n && s.rb (Reg.SHQ_SHIFT n) 0

def txDepth (s : State) (n : Nat) : Nat := match shqJoin s n with | 0 => 4 | 1 => 8 | _ => 0
def rxDepth (s : State) (n : Nat) : Nat := match shqJoin s n with | 0 => 4 | 1 => 0 | _ => 8

/-- What a counter noted by cycle holds for this core edge. -/
def nowN (s : State) (c : Nat × Nat) : Nat := if c.1 = s.cc then c.2 else 0

/-- What a clear of this core edge has emptied. -/
def nowL (s : State) (c : Nat × List Word) : List Word := if c.1 = s.cc then c.2 else []

/-- The queues as they stood at the start of the edge (R281). -/
def txEmpty (s : State) (n : Nat) : Bool :=
  let q := s.shqAt n
  txDepth s n == 0 || (decide (q.txq.length ≤ nowN s q.txNew) && (nowL s q.txClr).isEmpty)
def txFull (s : State) (n : Nat) : Bool :=
  let q := s.shqAt n
  q.txq.length + nowN s q.txPop + (nowL s q.txClr).length ≥ txDepth s n
def rxEmpty (s : State) (n : Nat) : Bool :=
  let q := s.shqAt n
  decide (q.rxq.length ≤ nowN s q.rxNew) && (nowL s q.rxClr).isEmpty
def rxFull (s : State) (n : Nat) : Bool :=
  let q := s.shqAt n
  q.rxq.length + nowN s q.rxPop + (nowL s q.rxClr).length ≥ rxDepth s n
def txLevel (s : State) (n : Nat) : Nat :=
  let q := s.shqAt n
  if txDepth s n = 0 then 0 else q.txq.length + nowN s q.txPop + (nowL s q.txClr).length - nowN s q.txNew

/-- STATUS is all ones (R277). -/
def shqStatus (s : State) (n : Nat) : Bool := txLevel s n < s.rf (Reg.SHQ_SHIFT n) 11 8

def txPopOp (s : State) (n : Nat) : Word × State :=
  match nowL s (s.shqAt n).txClr with
  | w :: r => (w, s.modShq n fun q => { q with txClr := (s.cc, r), txPop := noteNew s.cc q.txPop })
  | [] => ((s.shqAt n).txq.headD 0, s.modShq n fun q => { q with txq := q.txq.tail, txPop := noteNew s.cc q.txPop })

def rxPushOp (s : State) (n : Nat) (w : Word) : State :=
  s.modShq n fun q => { q with rxq := q.rxq ++ [w], rxNew := noteNew s.cc q.rxNew }

/-- A write to SHQn_TXQ (R281). -/
def txWrite (s : State) (n : Nat) (w : Word) : State :=
  if txFull s n then shqEvent s n qeTxOvf
  else s.modShq n fun q => { q with txq := q.txq ++ [w], txNew := noteNew s.cc q.txNew }

/-- A read of SHQn_RXQ (R281). -/
def rxRead (s : State) (n : Nat) : Word × State :=
  if rxEmpty s n then (0, shqEvent s n qeRxUnf)
  else match nowL s (s.shqAt n).rxClr with
  | w :: r => (w, s.modShq n fun q => { q with rxClr := (s.cc, r), rxPop := noteNew s.cc q.rxPop })
  | [] => ((s.shqAt n).rxq.headD 0, s.modShq n fun q => { q with rxq := q.rxq.tail, rxPop := noteNew s.cc q.rxPop })

/-- The entries that are not pushes of this core edge. -/
def oldOf (s : State) (q : List Word) (nw : Nat × Nat) : List Word := q.take (q.length - nowN s nw)

/-- Both queues are emptied; a push of the same core edge is kept, and the edge still sees what they held (R281, R371). -/
def shqClear (s : State) (n : Nat) : State :=
  s.modShq n fun q => { q with
    txq := keepNew s.cc q.txq q.txNew, rxq := keepNew s.cc q.rxq q.rxNew,
    txClr := (s.cc, nowL s q.txClr ++ oldOf s q.txq q.txNew), rxClr := (s.cc, nowL s q.rxClr ++ oldOf s q.rxq q.rxNew) }

def shqBase (s : State) (n : Nat) : Nat := s.rf (Reg.SHQ_PINS n) 30 24
def shqCount (s : State) (n : Nat) : Nat := s.rf (Reg.SHQ_PINS n) 21 16
def shqObase (s : State) (n : Nat) : Nat := s.rf (Reg.SHQ_PINS n) 12 8
def shqIbase (s : State) (n : Nat) : Nat := s.rf (Reg.SHQ_PINS n) 4 0

/-- The level of window pin `i`; outside the window the manual gives none (log entry 2). -/
def windowLevel (s : State) (n i : Nat) : Bool × State :=
  if i < shqCount s n then (seqIn s (shqBase s n + i), s) else s.drawBool

/-- Pins from IBASE (R277). -/
def pinsFrom (s : State) (n : Nat) : Word :=
  let ib := shqIbase s n
  BitVec.ofNat 32 (((List.range 32).map fun i =>
    if ib + i < shqCount s n && seqIn s (shqBase s n + ib + i) then 2 ^ i else 0).sum)

/-- The latches change; their levels are at the ball 3 tb after the core edge (R271). -/
def shqDrive (s : State) (n : Nat) : State :=
  { s with due := s.due ++ [(s.cc + 3, .shq n (s.reg (Reg.SHQ_PINOUT n)) (s.reg (Reg.SHQ_DIRS n)))] }

/-- The latches reach the ball (R271). -/
def shqReach (s : State) (n : Nat) (out dir : Word) : State :=
  settlePins (s.modShq n fun q => { q with bOut := out, bDir := dir }) (windowPins s n)

/-- A sequencer changes one of its registers at its tick: lost where software wrote the register in that cc (R371; log entry 88). -/
def seqSet (s : State) (a : Nat) (w : Word) : State := if s.wroteNow a then s else s.setReg a w

/-- OSR and its count, or ISR and its count, change together. -/
def osrSet (s : State) (n : Nat) (w : Word) (cnt : Nat) : State :=
  if s.wroteNow (Reg.SHQ_OSR n) then s else (s.setReg (Reg.SHQ_OSR n) w).modShq n fun q => { q with ocount := cnt }
def isrSet (s : State) (n : Nat) (w : Word) (cnt : Nat) : State :=
  if s.wroteNow (Reg.SHQ_ISR n) then s else (s.setReg (Reg.SHQ_ISR n) w).modShq n fun q => { q with icount := cnt }

/-- `cnt` bits of `v` go to bits `first` upward of a latch; bits at COUNT and above are discarded (R277). -/
def latchPut (s : State) (n a first cnt : Nat) (v : Word) : State :=
  let hi := min (first + cnt) (shqCount s n)
  let m : Word := if first < hi then mkw (2 ^ (hi - first) - 1) first else 0
  shqDrive (seqSet s a (mergeBits (s.reg a) (v <<< first) m)) n

/-- Bit-reverse and byte-reverse (R277). -/
def bitRev (w : Word) : Word := BitVec.ofNat 32 (((List.range 32).map fun i => if bitAt w (31 - i) then 2 ^ i else 0).sum)
def byteRev (w : Word) : Word := ofBytes (byteOf w 3) (byteOf w 2) (byteOf w 1) (byteOf w 0)

def xferOp (op : Nat) (w : Word) : Word :=
  match op with
  | 0 => w
  | 1 => ~~~ w
  | 2 => bitRev w
  | _ => byteRev w

/-- What an instruction did at its tick (R275). -/
inductive SeqRes where
  | illegal
  | stall
  | done (pc : Option Nat)
  deriving DecidableEq, Repr

def seqDone (s : State) : State × SeqRes := (s, .done none)

/-- Whether a COND holds (Table 8-4). -/
def seqCond (s : State) (n cond pin : Nat) : Bool × State :=
  let cx := s.reg (Reg.SHQ_CX n)
  let cy := s.reg (Reg.SHQ_CY n)
  let q := s.shqAt n
  match cond with
  | 0 => (true, s)
  | 1 => (cx == 0, s)
  | 2 => (cx != 0, s)
  | 3 => (cy == 0, s)
  | 4 => (cy != 0, s)
  | 5 => (cx == cy, s)
  | 6 => (cx != cy, s)
  | 7 => windowLevel s n pin
  | 8 => let (l, t) := windowLevel s n pin; (!l, t)
  | 9 => (decide (q.ocount ≥ shqOthr s n), s)
  | 10 => (decide (q.ocount < shqOthr s n), s)
  | 11 => (decide (q.icount ≥ shqIthr s n), s)
  | 12 => (!txEmpty s n, s)
  | 13 => (rxFull s n, s)
  | _ => (shqStatus s n, s)

/-- br (R278, Table 8-2). -/
def seqBr (s : State) (n cond pin addr : Nat) : State × SeqRes :=
  if cond = 15 ∨ (cond ≠ 7 ∧ cond ≠ 8 ∧ pin ≠ 0) then (s, .illegal) else
  let (t, s1) := seqCond s n cond pin
  (s1, .done (if t then some addr else none))

/-- dec (R278). -/
def seqDec (s : State) (n : Nat) (cy : Bool) (addr : Nat) : State × SeqRes :=
  let a := if cy then Reg.SHQ_CY n else Reg.SHQ_CX n
  let v := s.reg a - 1
  (seqSet s a v, .done (if v = 0 then none else some addr))

/-- The opposite level has been seen in this execution of await (R280). -/
def seqSeen (s : State) (n : Nat) (inj : Bool) : Bool := if inj then (s.shqAt n).injSeen else (s.shqAt n).seen
def setSeen (s : State) (n : Nat) (inj : Bool) : State :=
  s.modShq n fun q => if inj then { q with injSeen := true } else { q with seen := true }

/-- await (Table 8-5, R287). -/
def seqAwait (s : State) (n : Nat) (lvl : Bool) (src p : Nat) (inj : Bool) : State × SeqRes :=
  if src = 3 ∨ (src ≠ 1 ∧ p ≥ 32) ∨ (shqCompat s n ∧ src ≠ 0) then (s, .illegal) else
  let (l, s1) := if src = 1 then (seqIn s p, s) else windowLevel s n p
  if src = 2 then
    if l = lvl then (s1, if seqSeen s1 n inj then .done none else .stall) else (setSeen s1 n inj, .stall)
  else (s1, if l = lvl then .done none else .stall)

/-- The data of an emit reach their destination (Table 8-3). -/
def emitTo (s : State) (n dst b : Nat) (d : Word) : State × SeqRes :=
  match dst with
  | 0 => seqDone (latchPut s n (Reg.SHQ_PINOUT n) (shqObase s n) b d)
  | 1 => seqDone (latchPut s n (Reg.SHQ_DIRS n) (shqObase s n) b d)
  | 2 => seqDone (seqSet s (Reg.SHQ_CX n) d)
  | 3 => seqDone (seqSet s (Reg.SHQ_CY n) d)
  | 5 => seqDone (isrSet s n d b)
  | 6 => (s, .done (some (d.toNat % 64)))
  | _ => seqDone s

/-- emit (R279). -/
def seqEmit (s : State) (n dst bits : Nat) : State × SeqRes :=
  if dst = 7 then (s, .illegal) else
  let b := thrBits bits
  let refill := shqAutoTake s n && decide ((s.shqAt n).ocount ≥ shqOthr s n)
  if refill && txEmpty s n then (s, .stall) else
  let s1 := if refill then
      let (w, t) := txPopOp s n
      osrSet t n w 0
    else s
  let osr := s1.reg (Reg.SHQ_OSR n)
  let lsb := s1.rb (Reg.SHQ_SHIFT n) 5
  let d := if lsb then wordN (osr.toNat % 2 ^ b) else osr >>> (32 - b)
  emitTo (osrSet s1 n (if lsb then osr >>> b else osr <<< b) (min 32 ((s1.shqAt n).ocount + b))) n dst b d

/-- The source of a gather (Table 8-3). -/
def gatherFrom (s : State) (n src : Nat) : Word :=
  match src with
  | 0 => pinsFrom s n
  | 1 => s.reg (Reg.SHQ_CX n)
  | 2 => s.reg (Reg.SHQ_CY n)
  | 4 => 0xFFFFFFFF
  | 5 => s.reg (Reg.SHQ_OSR n)
  | _ => 0

/-- gather (R279). -/
def seqGather (s : State) (n src bits : Nat) : State × SeqRes :=
  if src ≥ 6 then (s, .illegal) else
  let b := thrBits bits
  let full := decide (min 32 ((s.shqAt n).icount + b) ≥ shqIthr s n)
  if shqAutoGive s n && full && rxFull s n then (s, .stall) else
  let d := (gatherFrom s n src).toNat % 2 ^ b
  let isr := s.reg (Reg.SHQ_ISR n)
  let v := if s.rb (Reg.SHQ_SHIFT n) 4 then (isr >>> b) ||| mkw d (32 - b) else (isr <<< b) ||| wordN d
  if shqAutoGive s n && full then
    seqDone (isrSet (rxPushOp s n v) n 0 0)
  else seqDone (isrSet s n v (min 32 ((s.shqAt n).icount + b)))

/-- The source of XFER (Table 8-4). -/
def xferFrom (s : State) (n src : Nat) : Word :=
  match src with
  | 0 => pinsFrom s n
  | 1 => s.reg (Reg.SHQ_CX n)
  | 2 => s.reg (Reg.SHQ_CY n)
  | 3 => s.reg (Reg.SHQ_ISR n)
  | 4 => s.reg (Reg.SHQ_OSR n)
  | 6 => if shqStatus s n then 0xFFFFFFFF else 0
  | _ => 0

/-- The destination of XFER takes the value (Table 8-4). -/
def xferTo (s : State) (n dst : Nat) (v : Word) : State × SeqRes :=
  match dst with
  | 0 => seqDone (latchPut s n (Reg.SHQ_PINOUT n) (shqObase s n) 32 v)
  | 1 => seqDone (latchPut s n (Reg.SHQ_DIRS n) (shqObase s n) 32 v)
  | 2 => seqDone (seqSet s (Reg.SHQ_CX n) v)
  | 3 => seqDone (seqSet s (Reg.SHQ_CY n) v)
  | 4 => seqDone (isrSet s n v 0)
  | 5 => seqDone (osrSet s n v 0)
  | _ => (s, .done (some (v.toNat % 64)))

/-- xfer (R277, Table 8-3). -/
def seqXfer (s : State) (n dst src op : Nat) : State × SeqRes :=
  if dst = 7 ∨ src = 7 ∨ op > 3 then (s, .illegal) else
  xferTo s n dst (xferOp op (xferFrom s n src))

/-- take (Table 8-5). -/
def seqTake (s : State) (n : Nat) (wait ifx : Bool) : State × SeqRes :=
  if ifx && decide ((s.shqAt n).ocount < shqOthr s n) then seqDone s
  else if !txEmpty s n then
    let (w, t) := txPopOp s n
    seqDone (osrSet t n w 0)
  else if wait then (s, .stall)
  else seqDone (shqEvent s n qeTakeMiss)

/-- give (Table 8-5). -/
def seqGive (s : State) (n : Nat) (wait iff : Bool) : State × SeqRes :=
  let clear (t : State) : State := isrSet t n 0 0
  if iff && decide ((s.shqAt n).icount < shqIthr s n) then seqDone s
  else if !rxFull s n then seqDone (clear (rxPushOp s n (s.reg (Reg.SHQ_ISR n))))
  else if wait then (s, .stall)
  else seqDone (shqEvent (clear s) n qeGiveDrop)

/-- drv and dirs on the latch at `a` (R277). -/
def seqDrv (s : State) (n a first cnt : Nat) (data : BitVec 7) : State × SeqRes :=
  if cnt = 0 ∨ data.toNat ≥ 2 ^ cnt ∨ first + cnt > shqCount s n then (s, .illegal)
  else seqDone (latchPut s n a first cnt (data.setWidth 32))

/-- ldc (R277). -/
def seqLdc (s : State) (n : Nat) (cy : Bool) (imm : BitVec 14) : State × SeqRes :=
  seqDone (seqSet s (if cy then Reg.SHQ_CY n else Reg.SHQ_CX n) (imm.setWidth 32))

/-- flag (Table 8-2). -/
def seqFlag (s : State) (n k : Nat) : State × SeqRes := seqDone (shqEvent s n k)

/-- One instruction of sequencer `n`; `inj` tells an injected one (Tables 8-2 to 8-5). -/
def seqExec (s : State) (n : Nat) (inj : Bool) : SeqIns → State × SeqRes
  | .br cond pin addr => seqBr s n cond.val pin.val addr.val
  | .dec cy addr => seqDec s n cy addr.val
  | .await lvl src p => seqAwait s n lvl src.val p.val inj
  | .emit dst bits => seqEmit s n dst.val bits.val
  | .gather src bits => seqGather s n src.val bits.val
  | .xfer dst src op => seqXfer s n dst.val src.val op.val
  | .take wait ifx => seqTake s n wait ifx
  | .give wait iff => seqGive s n wait iff
  | .drv first cnt data => seqDrv s n (Reg.SHQ_PINOUT n) first.val cnt.val data
  | .dirs first cnt data => seqDrv s n (Reg.SHQ_DIRS n) first.val cnt.val data
  | .ldc cy imm => seqLdc s n cy imm
  | .flag k => seqFlag s n k.val
  | .stop => seqDone s

/-- An instruction word (Table 8-2): none where its OP or a field marked 0 makes it illegal. -/
def seqDecode (w : Nat) : Option SeqIns :=
  let f (hi lo : Nat) : Nat := (w >>> lo) % 2 ^ (hi - lo + 1)
  let z (hi lo : Nat) (i : SeqIns) : Option SeqIns := if f hi lo = 0 then some i else none
  match f 23 20 with
  | 0 => some (.br (Fin.ofNat 16 (f 19 16)) (Fin.ofNat 32 (f 15 11)) (Fin.ofNat 64 (f 10 5)))
  | 1 => z 18 11 (.dec (f 19 19 == 1) (Fin.ofNat 64 (f 10 5)))
  | 2 => z 16 12 (.await (f 19 19 == 1) (Fin.ofNat 4 (f 18 17)) (Fin.ofNat 128 (f 11 5)))
  | 3 => z 16 10 (.emit (Fin.ofNat 8 (f 19 17)) (Fin.ofNat 32 (f 9 5)))
  | 4 => z 16 10 (.gather (Fin.ofNat 8 (f 19 17)) (Fin.ofNat 32 (f 9 5)))
  | 5 => z 11 5 (.xfer (Fin.ofNat 8 (f 19 17)) (Fin.ofNat 8 (f 16 14)) (Fin.ofNat 4 (f 13 12)))
  | 6 => z 17 5 (.take (f 19 19 == 1) (f 18 18 == 1))
  | 7 => z 17 5 (.give (f 19 19 == 1) (f 18 18 == 1))
  | 8 => some (.drv (Fin.ofNat 32 (f 19 15)) (Fin.ofNat 8 (f 14 12)) (BitVec.ofNat 7 (f 11 5)))
  | 9 => some (.dirs (Fin.ofNat 32 (f 19 15)) (Fin.ofNat 8 (f 14 12)) (BitVec.ofNat 7 (f 11 5)))
  | 10 => some (.ldc (f 19 19 == 1) (BitVec.ofNat 14 (f 18 5)))
  | 11 => z 19 7 (.flag (Fin.ofNat 4 (f 6 5)))
  | 12 => z 19 5 .stop
  | _ => none

/-- Entry to HALTED with a cause (R273); a stalled injection is discarded by the caller that the manual names. -/
def shqHalts (s : State) (n cause : Nat) : State :=
  shqEvent (s.modShq n fun q => { q with st := .halted, cause := cause, stall := false, seen := false }) n qeHalted

/-- What follows the execution of an instruction; ILLEGAL and HALTED set at one edge (R275, R288). -/
def seqAfter (s : State) (n : Nat) (inj : Bool) (hold : Nat) (stop : Bool) (r : SeqRes) : State :=
  match r with
  | .illegal =>
    let s1 := s.modShq n fun q => { q with inj := if inj then none else q.inj, injSeen := false, injTried := false }
    shqEvent (shqHalts (s1.hwSetBit (Reg.SHQ_EVT n) qeIllegal) n 3) n qeIllegal
  | .stall => s.modShq n fun q => { q with stall := true, injTried := q.injTried || inj }
  | .done pc =>
    let cur := (s.reg (Reg.SHQ_PC n)).toNat % 64
    let s1 := match pc with
      | some v => seqSet s (Reg.SHQ_PC n) (wordN v)
      | none => if inj then s else seqSet s (Reg.SHQ_PC n) (wordN ((cur + 1) % 64))
    let s2 := s1.modShq n fun q =>
      { q with stall := false, hold := if shqCompat s n then 0 else hold, inj := if inj then none else q.inj,
               injSeen := if inj then false else q.injSeen, injTried := if inj then false else q.injTried,
               seen := if inj && pc.isNone then q.seen else false }
    if stop then shqHalts s2 n 2 else s2

/-- Sequencer `n` executes an instruction of its program (R275). -/
def seqRun (s : State) (n : Nat) (inj : Bool) (i : SeqIns) (hold : Nat) : State :=
  let (t, r) := seqExec s n inj i
  seqAfter t n inj hold (i == .stop) r

/-- The step of R275 on an instruction word. -/
def seqWord (s : State) (n : Nat) (inj : Bool) (w : Nat) : State :=
  match seqDecode w with
  | some i => seqRun s n inj i (w % 32)
  | none => seqAfter s n inj 0 false .illegal

def shqRunning (s : State) (n : Nat) : Bool := (s.shqAt n).st == .running

/-- The next tick of the divider (R274). -/
def divNext (s : State) (n : Nat) : State :=
  let q := s.shqAt n
  let a := q.acc + shqFrac s n
  let int := max 1 (s.rf (Reg.SHQ_DIV n) 31 16)
  s.modShq n fun q => { q with acc := a % 256, nextTb := q.nextTb + 2 * (int + a / 256) }

/-- A new tick phase: the next tick is at the next core edge with acc = 0 (R274). -/
def divRstOp (s : State) (n : Nat) : State :=
  if shqOn s n then s.modShq n fun q => { q with acc := 0, nextTb := s.cc + 2 } else s.modShq n fun q => { q with acc := 0 }

/-- EN = 1 (R268, R273). -/
def shqEnableOp (s : State) (n : Nat) : State :=
  if shqCount s n = 0 ∨ shqCount s n > 32 ∨ shqBase s n + shqCount s n > 128 then shqEvent s n qeCfgErr else
  let s1 := (s.setRf (Reg.SHQ_CTL n) 0 0 1).modShq n fun q =>
    { q with st := .running, acc := 0, nextTb := s.cc + 2, hold := 0, inj := none, stall := false, seen := false, injSeen := false,
             injTried := false }
  let s2 := if s1.rb (Reg.SHQ_CTL n) 16 then s1 else shqHalts s1 n 0
  settlePins s2 (windowPins s2 n)

/-- EN = 0 (R273). -/
def shqDisableOp (s : State) (n : Nat) : State :=
  let s1 := shqClear (s.setRf (Reg.SHQ_CTL n) 0 0 0) n
  let s2 := s1.modShq n fun q => { q with st := .disabled, hold := 0, inj := none, stall := false, seen := false, injSeen := false,
                                          injTried := false }
  settlePins s2 (windowPins s2 n)

/-- SHQn_CTL lands (R268, R273, R281, locked fields). -/
def shqCtlWrite (s : State) (n : Nat) (w : Word) : State :=
  let a := Reg.SHQ_CTL n
  let old := s.reg a
  let bad := fld w 13 12 == 3
  let locked : Word := 0x3100
  let on := bitAt old 0
  let m0 : Word := if on then 0x10000 else 0x13100
  let m := if bad then m0 &&& ~~~ (0x3000 : Word) else m0
  let s1 := s.setReg a (mergeBits old w m)
  let s2 := if bad && !on then shqEvent s1 n qeCfgErr else s1
  let s3 := if on && (w ^^^ old) &&& locked != 0 then shqEvent s2 n qeLocked else s2
  let s4 := if fld (s3.reg a) 13 12 != fld old 13 12 then shqClear s3 n else s3
  if bitAt w 0 && !on then shqEnableOp s4 n
  else if !bitAt w 0 && on then shqDisableOp s4 n
  else s4

/-- SHQn_DIV lands (R274). -/
def shqDivWrite (s : State) (n : Nat) (w : Word) : State :=
  let a := Reg.SHQ_DIV n
  if fld w 31 16 = 0 then shqEvent (s.setReg a (mergeBits (s.reg a) w 0xFF00)) n qeCfgErr
  else s.setReg a (mergeBits (s.reg a) w 0xFFFFFF00)

/-- SHQn_PINS lands (R284, locked fields); both event bits set before either raises (R288). -/
def shqPinsWrite (s : State) (n : Nat) (w : Word) : State :=
  let a := Reg.SHQ_PINS n
  let old := s.reg a
  let win : Word := 0x7F3F0000
  let half : Word := 0x1F1F
  let m := (if shqOn s n then 0 else win) ||| (if shqRunning s n then 0 else half)
  let s1 := s.setReg a (mergeBits old w m)
  let lock := shqOn s n && (w ^^^ old) &&& win != 0
  let bits := mkb lock qeLocked ||| mkb (shqRunning s n) qeWrDisc
  let s2 := if bits = 0 then s1 else s1.hwSet (Reg.SHQ_EVT n) bits
  let s3 := if lock then shqEvent s2 n qeLocked else s2
  if shqRunning s n then shqEvent s3 n qeWrDisc else s3

/-- A halt-only register lands (R284). -/
def shqHaltWrite (s : State) (n o : Nat) (w : Word) : State :=
  let a := 0x00870000 + 0x200 * n + o
  if shqRunning s n then shqEvent s n qeWrDisc else
  let s1 := (s.markWr a).setReg a (w &&& (regDesc a).rw)
  if o = 0x28 then s1.modShq n fun q => { q with ocount := 0 }
  else if o = 0x2C then s1.modShq n fun q => { q with icount := 32 }
  else if o = 0x30 ∨ o = 0x34 then shqDrive s1 n
  else s1

/-- A HALT of sequencer `n` is taken at this core edge: it stands among what acts after the writes, or the queue brings it. -/
def haltComing (s : State) (n : Nat) : Bool :=
  (s.shqAt n).owed.contains .halt || (writesComing s).any fun p => p.2.1 == Reg.SHQ_CMD n && bitAt p.2.2 1

/-- SHQn_PROGk lands; at the edge of a HALT it is accepted (R284, R286). -/
def shqProgWrite (s : State) (n k : Nat) (w : Word) : State :=
  if shqRunning s n && !haltComing s n then shqEvent s n qeProgLocked else s.setReg (Reg.SHQ_PROG n k) (w &&& 0xFFFFFF)

/-- CMD.SHIFT_CLEAR (R284). -/
def shiftClearOp (s : State) (n : Nat) : State :=
  if shqRunning s n then shqEvent s n qeWrDisc else
  ((s.setReg (Reg.SHQ_OSR n) 0).setReg (Reg.SHQ_ISR n) 0).modShq n fun q => { q with ocount := 32, icount := 0 }

/-- A sequencer start (R282). -/
def shqStartOp (s : State) (n addr : Nat) : State :=
  if (s.shqAt n).st == .disabled then shqEvent s n qeStartDisc else
  (s.setReg (Reg.SHQ_PC n) (wordN (addr % 64))).modShq n fun q =>
    { q with st := .running, stall := false, hold := 0, seen := false }

/-- CMD.RESUME (R273). -/
def shqResumeOp (s : State) (n : Nat) : State :=
  if (s.shqAt n).st == .halted then s.modShq n fun q => { q with st := .running } else s

/-- CMD.HALT (R273, R283, R285). -/
def shqHaltOp (s : State) (n : Nat) : State :=
  let s1 := if (s.shqAt n).st == .disabled then s else
    s.modShq n fun q => { q with hold := 0, stall := false, seen := false, inj := if q.injTried then none else q.inj, injSeen := false,
                                 injTried := false }
  if shqRunning s n then shqHalts s1 n 1 else s1

/-- The sequencer can execute its program's instruction now: RUNNING, no delay counting and no injection pending (R275). -/
def shqReady (s : State) (n : Nat) : Bool :=
  let q := s.shqAt n
  shqOn s n && q.st == .running && q.hold == 0 && q.inj.isNone

/-- The instruction of a row: sequencer `n` executes `i`, unless it cannot execute one now (log entry 12). -/
def shqInsOp (s : State) (n : Nat) (i : SeqIns) (hold : Nat) : State :=
  if shqReady s n then seqRun s n false i hold else s

/-- A divider tick (R274, R275). -/
def shqTickOp (s : State) (n : Nat) : State :=
  let q := s.shqAt n
  if !shqOn s n || q.st == .disabled || s.tb < q.nextTb then s else
  let s1 := divNext s n
  if q.hold > 0 then s1.modShq n fun q => { q with hold := q.hold - 1 }
  else match q.inj with
    | some w => seqWord s1 n true w.toNat
    | none =>
      if q.st == .running then seqWord s1 n false (s1.reg (Reg.SHQ_PROG n ((s1.reg (Reg.SHQ_PC n)).toNat % 64))).toNat
      else s1

/-- One of the things that follow the writes of a core edge. -/
def shqActOp (s : State) (n : Nat) (a : ShqAct) : State :=
  match a with
  | .clear => shiftClearOp s n
  | .start addr => shqStartOp s n (addr.getD (s.rf (Reg.SHQ_START n) 5 0))
  | .halt => shqHaltOp s n
  | .resume => shqResumeOp s n
  | .tick => shqTickOp s n
  | .ins i hold => shqInsOp s n i hold
  | .divRst => divRstOp s n

/-- Their order at one core edge (R286). DIV_RST moves what follows the tick of its edge. -/
def shqRank : ShqAct → Nat
  | .clear => 0
  | .start _ => 1
  | .halt => 2
  | .resume => 3
  | .tick => 4
  | .ins _ _ => 4
  | .divRst => 5

/-- What waits for the writes of the edge is done, in the order of R286. -/
def shqSettle (s : State) (n : Nat) : State :=
  let acts := (s.shqAt n).owed
  if acts.isEmpty then s else
  forEach ((List.range 6).flatMap fun r => acts.filter fun a => shqRank a == r) (s.modShq n fun q => { q with owed := [] }) fun s a =>
    shqActOp s n a

/-- The queue still holds something that precedes the tick of sequencer `n` at this edge: a write of one of its registers or a
command, or a turn of the calendar, which may start it (R282, R286). -/
def shqRivals (s : State) (n : Nat) : Bool :=
  s.pending.contains .entryDispatch
  || (writesComing s).any fun p => 0x00870000 + 0x200 * n ≤ p.2.1 && p.2.1 < 0x00870200 + 0x200 * n

/-- Something that follows the writes of its core edge: it acts at once where the queue holds no more of them, and with the last of
them otherwise, at the latest at the end of the tb (R286). -/
def shqAct (s : State) (n : Nat) (a : ShqAct) : State :=
  let s1 := s.modShq n fun q => { q with owed := q.owed ++ [a] }
  if shqRivals s n then s1 else shqSettle s1 n

/-- SHQn_CMD lands; a write of HALT and RESUME acts as HALT (R286). -/
def shqCmdWrite (s : State) (n : Nat) (w : Word) : State :=
  let s1 := if bitAt w 3 then shqClear s n else s
  let acts := (if bitAt w 2 then [ShqAct.clear] else []) ++ (if bitAt w 5 then [.start none] else [])
    ++ (if bitAt w 1 then [.halt] else if bitAt w 0 then [.resume] else []) ++ (if bitAt w 4 then [.divRst] else [])
  let s2 := s1.modShq n fun q => { q with owed := q.owed ++ acts }
  if shqRivals s n then s2 else shqSettle s2 n

/-- A row of the divider's tick (R274, R275), or of an instruction (log entry 12). -/
def shqTick (s : State) (n : Nat) : State := shqAct s n .tick
def shqIssue (s : State) (n : Nat) (i : SeqIns) (hold : Nat) : State := shqAct s n (.ins i hold)

/-- The sequencers at the end of a tb: nothing more lands in it. -/
def shqSettleAll (s : State) : State := forEach (List.range 32) s shqSettle

/-- SHQn_INJ lands (R285). -/
def shqInjWrite (s : State) (n : Nat) (w : Word) : State :=
  let q := s.shqAt n
  if q.st == .disabled || q.inj.isSome then shqEvent s n qeInjRefused
  else s.modShq n fun q => { q with inj := some (w &&& 0xFFFFFF), injSeen := false, injTried := false }

/-- A register of sequencer `n` takes a write (Table 8-8). -/
def shqStore (s : State) (n o : Nat) (w : Word) : State :=
  if o = 0 then shqCtlWrite s n w
  else if o = 0x0C then shqCmdWrite s n w
  else if o = 0x10 then shqDivWrite s n w
  else if o = 0x14 then shqPinsWrite s n w
  else if 0x18 ≤ o ∧ o ≤ 0x34 then shqHaltWrite s n o w
  else if o = 0x38 then txWrite s n w
  else if o = 0x40 then shqInjWrite s n w
  else if 0x100 ≤ o ∧ o < 0x200 then shqProgWrite s n ((o - 0x100) / 4) w
  else
    let a := 0x00870000 + 0x200 * n + o
    s.setReg a (mergeBits (s.reg a) w (regDesc a).rw)

/-- A register of sequencer `n` lands; what waited for it follows (R286). -/
def shqWrite (s : State) (n o : Nat) (w : Word) : State :=
  let s1 := shqStore s n o w
  if (s.shqAt n).owed.isEmpty || shqRivals s n then s1 else shqSettle s1 n

def SeqState.code : SeqState → Nat
  | .disabled => 0
  | .halted => 1
  | .running => 2

/-- SHQn_STAT. -/
def shqStat (s : State) (n : Nat) : Word :=
  let q := s.shqAt n
  mkw q.ocount 26 ||| mkw q.icount 20 ||| mkw (if txDepth s n = 0 then 0 else q.txq.length) 16 ||| mkw q.rxq.length 12 ||| mkb q.inj.isSome 11
  ||| mkb q.stall 10 ||| mkw q.cause 8 ||| mkw q.st.code 0

end Sys2Proof.Machine
end

