-- ==== Sys2Proof/Machine/CalLoad.lean ====
section
/-! DEFINITION. The turns of the calendar's load stage: loads of slots, hand-overs to links and to the fix unit, local contact
edges, and dispatches (R111, R137, R143, R148–R151, R224–R227). -/

namespace Sys2Proof.Machine

/-- A load or hand-over whose fire time falls before its first evaluation (R143). -/
def lateLoad (s : State) (e : CalEntry) : State :=
  if e.fire < (s.tb + 1) * 16 then calEvent s evLateLoad (dTag e.d0) e.id else s

/-- The entry goes to WAITING (R148). -/
def calWait (s : State) (e : CalEntry) : State :=
  calEvent (s.modCal fun c => c.modEntry e.id fun f => { f with st := .waiting }) evSlotWait (dTag e.d0) e.id

/-- The load in slot `x` gives way to another: its entry returns to WAITING (R148). -/
def slotDisplaced (s : State) (n x : Nat) : State :=
  match ((s.chAt n).slotAt x).load with
  | some l => match s.cal.find l.id with
    | some f => calWait s f
    | none => s
  | none => s

/-- Slot `x` is loaded (R111, R140): a loaded entry re-timed by R142 takes the tooth's stamp as its compare value. -/
def slotLoad (s : State) (e : CalEntry) (x : Nat) : State :=
  let n := fld e.d1 6 0
  let own := e.st == .loaded
  let s1 := if own then s else slotDisplaced s n x
  let at_ : Nat := match e.retimed, own with
    | some c, true => c * 16
    | _, _ => e.fire
  let l : CalLoad := { id := e.id, act := dAct e.d0, frac := at_ % 16, width := e.d4, tb := s.tb, bnd := (0, 0) }
  let s2 := setSlotFrac (s1.modSlot n x fun t => { t with armed := true, cmp := lo32 (at_ / 16), load := some l }) n x (at_ % 16)
  lateLoad (s2.modCal fun c => c.modEntry e.id fun f => { f with st := .loaded, slot := x, retimed := none }) e

/-- A KIND 1 entry is offered to its link (R226, R227, R229). -/
def cellHandover (s : State) (e : CalEntry) : State :=
  let s0 := if e.st == .loaded then linkWithdraw s (fld e.d1 9 0 / 128) e.id else s
  match linkOffer s0 e with
  | (.gone, s1) => s1.modCal fun c => c.remove e.id
  | (.full, s1) => s1.modCal fun c => c.modEntry e.id fun f => { f with st := .armed, slot := 1 }
  | (.taken late, s1) =>
    let s2 := s1.modCal fun c => c.modEntry e.id fun f => { f with st := .loaded, slot := 0, retimed := none }
    if late then calEvent s2 evLateLoad (dTag e.d0) e.id else s2

/-- A converted fix point is handed to the fix unit, late when it has passed; a chain point goes out as FIX_TIME
(R36, R37, R150, R418). -/
def fixHandover (s : State) (e : CalEntry) : State :=
  let k := e.id - poolSize
  let t := (e.fire + 15) / 16
  let late := decide (t ≤ s.tb)
  let p := if late then s.tb + 1 else t
  let chained := (s.fixAt k).chained
  let s1 := setPoint (s.modCal fun c => c.modEntry e.id fun f => { f with st := .loaded, retimed := none }) k (.at (p % 2 ^ 64)) chained
  let s2 := if late then (calEvent s1 evLateLoad (dTag e.d0) e.id).hwSetBit (Reg.FIX_STAT k) fsLate else s1
  if chained && casMaster s then sendFixTime s2 k p else s2

/-- A local row change reaches slot D (R224). -/
def localEdgeLoad (s : State) (l : LocalEdge) : State :=
  let s1 := s.modCal fun c => { c with locals := c.locals.erase l }
  if localUsable s l.ch then
    let ld : CalLoad := { id := localId, act := if l.lvl then 1 else 2, frac := l.time % 16, width := 0, tb := s.tb, bnd := (l.lane, l.q) }
    setSlotFrac (s1.modSlot l.ch 3 fun t => { t with armed := true, cmp := lo32 (l.time / 16), load := some ld }) l.ch 3
      (l.time % 16)
  else ctEvent s1 8

/-- A turn of the load stage (R150). An entry that goes to WAITING takes no turn. -/
def entryLoadOp (s : State) : State :=
  match nextLoad s with
  | some (.entry e) =>
    match dKind e.d0 with
    | 0 => match serveKind0 s e with
      | .unusable => stageTaken (calUnusable (calUnload s e) e)
      | .load x => stageTaken (slotLoad s e x)
      | .wait => calWait s e
    | 1 => stageTaken (cellHandover s e)
    | _ => stageTaken (fixHandover s e)
  | some (.edge l) => stageTaken (localEdgeLoad s l)
  | _ => s

/-- The action of a dispatched entry (Table 4-1; a group's FIX lands 3 tb after the edge, Table 7-3). -/
def dispatchAct (s : State) (e : CalEntry) : State :=
  match dKind e.d0 with
  | 2 => wakePush s (fld e.d1 5 0) (e.d4.setWidth 16)
  | 3 => shqAct s (fld e.d1 4 0) (.start (some (fld e.d4 5 0)))
  | 4 => { s with due := s.due ++ [(s.cc + 3, .exgFix (fld e.d1 3 0))] }
  | _ => ctJumpTo s (fld e.d4 14 0)

/-- A dispatch (R151). LATE_LOAD marks an entry armed after its edge; DISP_LATE a delivery more than 2 cc after its edge or,
for an entry armed only after it, after the stage can first serve it: 8 tb after a tooth that arms it (R143, Table 4-4). -/
def entryDispatchOp (s : State) : State :=
  match nextDispatch s with
  | some e =>
    let due := dispatchTb e.fire
    let tag := dTag e.d0
    let late := decide (due < e.armTb)
    let ready := if late then e.readyTb - e.readyTb % 2 else due
    let s1 := if late then calEvent s evLateLoad tag e.id else s
    let s2 := if ready + 4 < s.cc then calEvent s1 evDispLate tag e.id else s1
    stageTaken (calFired (dispatchAct s2 e) e.id)
  | none => s

end Sys2Proof.Machine
end

