-- ==== Sys2Proof/Machine/Evr.lean ====
section
/-! DEFINITION. The event record controller: latching raises, the levels of LEVEL sources, deliveries, rings, claims and
completions (R311–R327). -/

namespace Sys2Proof.Machine

/-- Some bit of `w` among `m` is 1. -/
def anyOf (w m : Word) : Bool := w &&& m != 0

/-- CAL_EVT bits that raise source `src` (Table 4-6, CAL_EVTEN). -/
def calLevel (s : State) (src : Nat) : Bool :=
  (List.range 14).any fun b =>
    calSource b == src && s.rb Reg.CAL_EVT b
    && (b == evRefused || b == evLateLoad || b == evFireRec || (s.rb Reg.CAL_EVTEN b && (b != evLateTooth || s.rb Reg.CAL_CTL 16)))

/-- LINKn_EVT and CT_EVT bits that raise source 272 + n (R240). -/
def linkLevel (s : State) (n : Nat) : Bool :=
  anyOf (s.reg (Reg.LINK_EVT n)) (if s.rb (Reg.LINK_CTL n) 5 then 0xFFFF else 0xFF3F)
  || (s.rf Reg.CT_CTL 18 16 == n && anyOf (s.reg Reg.CT_EVT) (if s.rb Reg.CT_CTL 19 then 0xFFFF else 0xFFF7))

/-- The levels of sources 296–303 (R307). -/
def protectLevel (s : State) (src : Nat) : Bool :=
  match src with
  | 296 => (List.range 8).any fun k => s.reg (Reg.MTR_HIT k) != 0
  | 298 => anyOf (s.reg Reg.REL_EVT) 0xFF
  | 299 => (List.range 4).any fun k => s.reg (Reg.GUARD_HIT k) != 0
  | 300 => s.rb Reg.SAFE_EVT 0
  | 301 => anyOf (s.reg Reg.SAFE_EVT) 6
  | 302 => anyOf (hwdStat s) 3
  | _ => false

/-- Source 320 + i and its CAS_EVT bits (R422). -/
def casSourceBits (i : Nat) : Word :=
  match i with
  | 0 => 0x300F
  | 1 => 0x03C0
  | 2 => 0x0030
  | 3 => 0x0800
  | 4 => 0x0400
  | _ => 0

/-- The EVR_EVT bits that raise source 335: rings of Safelight's own raise nothing (R326). -/
def evrLevel (s : State) : Bool :=
  anyOf (s.reg (Reg.EVR_EVT 0)) 0x7F || anyOf (s.reg (Reg.EVR_EVT 1)) 0x7F || anyOf (s.reg (Reg.EVR_EVT 2)) 0x70

/-- The sprocket source's SPKn_EVT bits (Table 2-7). -/
def spkSourceBits (i : Nat) : Word := (List.range 16).foldl (fun w b => if spkGroup b = some i then setBit w b else w) 0

/-- The level of a LEVEL source (Table 10-2). -/
def levelHigh (s : State) (src : Nat) : Bool :=
  if src < 128 then anyOf (s.reg (Reg.CH_STAT src) &&& s.reg (Reg.CH_EVTEN src)) 0xFFFF
  else if src < 144 then
    let g := src - 128
    anyOf (s.reg (Reg.EXG_EVT g)) ((s.reg (Reg.EXG_EVTEN g)) ||| mkw 1 xeTrip ||| mkw 1 xeCbcLatch ||| mkw 1 xeComm)
  else if src < 176 then
    let n := (src - 144) / 4
    let i := (src - 144) % 4
    if i = 3 then !(s.spkAt n).fifo.isEmpty || s.rb (Reg.SPK_PH_STAT n) 2
    else anyOf (s.reg (Reg.SPK_EVT n)) (spkSourceBits i)
  else if src < 240 then
    let t := src - 176
    (s.thrAt t).st == .fault || (s.thrAt t).st == .debug || anyOf (s.reg (Reg.ENL_TSTAT (t / 4) (t % 4))) (mkw 3 14)
  else if src < 272 then
    let n := src - 240
    anyOf (s.reg (Reg.SHQ_EVT n)) (s.reg (Reg.SHQ_EVTEN n) ||| mkw 1 qeIllegal)
  else if src < 280 then linkLevel s (src - 272)
  else if src < 288 then calLevel s src
  else if src < 296 then
    let n := src - 288
    anyOf (s.reg (Reg.SPL_EVT n)) (s.reg (Reg.SPL_EVTEN n) ||| 0x26) || anyOf (s.reg (Reg.CPY_STAT n)) 6
  else if src < 304 then protectLevel s src
  else match src with
    | 304 => anyOf (s.reg Reg.HP_EVT) (s.reg Reg.HP_EVTEN ||| 0x85)
    | 312 => anyOf (s.reg Reg.BOOT_EVT) 0xF
    | 313 => anyOf (s.reg Reg.FMT_EVT) 0x1F
    | 314 => anyOf (s.reg Reg.FMT_EVT) 0x60
    | 335 => evrLevel s
    | _ => if 320 ≤ src ∧ src < 325 then
        anyOf (s.reg Reg.CAS_EVT) (casSourceBits (src - 320)) else false

/-- The part of a LEVEL record's detail that is a register as it stands at the write (R83, R124, R376). -/
def levelDetail (src : Nat) : Detail :=
  if src < 128 then .reg (Reg.CH_STAT src) 0xFFFF
  else if 144 ≤ src ∧ src < 176 then .reg (Reg.SPK_EVT ((src - 144) / 4)) 0xFFFF
  else if src = 304 then .reg Reg.HP_EVT 0xFFFF
  else .word 0

def State.modEvr (s : State) (f : Evr → Evr) : State := { s with evr := f s.evr }

/-- What the raises of a LEVEL source since its last completion give (R312). -/
def spanOf (e : Evr) (src : Nat) : Option (Detail × Bool) := (e.spans.find? fun p => p.1 == src).map fun p => p.2

def dropSpan (e : Evr) (src : Nat) : Evr := { e with spans := e.spans.filter fun p => p.1 != src }

/-- A record or pending state of the source is held. -/
def Evr.busy (e : Evr) (src : Nat) : Bool := e.opens.any (fun o => o.src == src) || e.pend.any fun p => p.src == src

/-- The level as the core sees it: flags of the TB domain as Table 1-4 shows them. -/
def levelSeen (s : State) (src : Nat) : Bool := levelHigh (if tbSource src then s.sampled else s) src

/-- The state whose delivery in this cc a full ring has lost: its kind, and whether it was safety-class (R317). -/
def lostNow (s : State) (src : Nat) : Option (Nat × Bool) :=
  match s.evr.lost with
  | some (c, q, k, safety) => if c = s.cc ∧ q = src then some (k, safety) else none
  | none => none

/-- A LEVEL source is sampled: a high level with nothing pending or open latches kind 1 (R312, R324); the sample of a cc precedes
its delivery (R317). -/
def levelSample (s : State) (src : Nat) : State :=
  if !(s.route src).level || s.evr.busy src || (lostNow s src).isSome || !levelSeen s src then s else
  let sp := (spanOf s.evr src).getD (levelDetail src, false)
  match s.bankOf src sp.2 with
  | none => s
  | some _ => s.modEvr fun e =>
      { e with pend := e.pend ++ [{ src := src, kind := 1, detail := sp.1, tb := s.cc, rep := 0, safety := sp.2, at_ := s.cc }] }

/-- The latest raise of a source since its last completion, and whether one was a safety raise; kept whatever the source's type
and target, which may change before a level is latched (R312). -/
def noteSpan (s : State) (r : Raised) : State :=
  s.modEvr fun e =>
    let was := match spanOf e r.src with | some p => p.2 | none => false
    { dropSpan e r.src with spans := (r.src, r.detail, was || r.safety) :: (dropSpan e r.src).spans }

/-- A raise on a LEVEL source gives only the parts of its detail and its safety class (R312). -/
def levelRaise (s : State) (r : Raised) : State :=
  s.modEvr fun e =>
    { e with
      pend := e.pend.map (fun p => if p.src = r.src then { p with safety := p.safety || r.safety } else p)
      opens := e.opens.map fun o => if o.src = r.src then { o with safety := o.safety || r.safety } else o }

def Bank.ring (k : Bank) (fast : Bool) : Ring := if fast then k.fast else k.norm

def State.ring (s : State) (b : Nat) (fast : Bool) : Ring := (s.bankAt b).ring fast

def State.modRing (s : State) (b : Nat) (fast : Bool) (f : Ring → Ring) : State :=
  s.modBank b fun k => if fast then { k with fast := f k.fast } else { k with norm := f k.norm }

/-- The address of the record with pointer value `p` (R318, R319). -/
def recordAddr (s : State) (b : Nat) (fast : Bool) (p : Nat) : Nat :=
  ringBase s b fast + 16 * (p % ringSize s b fast)

/-- EVR_LOST counts (R313, R319, R321). -/
def lostCount (s : State) (b : Nat) (fast : Bool) : State := s.bump (Reg.EVR_LOST b (ofBool fast)) 15 0

/-- RING_ERR of the class sets, and the record counts as lost (R321). -/
def ringErr (s : State) (b : Nat) (fast : Bool) : State :=
  lostCount (s.evrEvt b (2 + ofBool fast) 3 (ofBool fast) 0) b fast

/-- The class of a safety-class fault by its source (Table 9-4). -/
def safetyClass (src : Nat) : Nat :=
  if src < 144 then 1 else if src < 176 then 3 else if src < 240 then 0 else if src < 280 then 4 else if src < 304 then 2 else 5

/-- A raise escalates under R325. -/
def raiseEscalates (s : State) (r : Raised) : State := if r.safety && r.esc then escalate s (safetyClass r.src) r.src else s

/-- No record is formed: MERGED sets, and the raise counts as lost (R313 rule 3). -/
def mergeAway (s : State) (r : Raised) (b : Nat) : State :=
  raiseEscalates (lostCount (s.evrEvt b 4 4 (ofBool (s.route r.src).fast) 0) b (s.route r.src).fast) r

/-- A state delivered in this cc still counts as pending for the raises of the cc, which come before the delivery (R317). -/
def deliveredNow (s : State) (src : Nat) : Bool := s.evr.opens.any (fun o => o.src == src && o.at_ == s.cc) || (lostNow s src).isSome

/-- A repeat count is to be written into its record, unless word 0 of the record is still to be written (R320). -/
def Evr.noteRep (e : Evr) (o : OpenRec) : Evr :=
  if e.reps.contains (o.bank, o.fast, o.ptr) || e.writes.any (fun w => w.bank == o.bank && w.fast == o.fast && w.ptr == o.ptr && !w.done.contains 0) then e
  else { e with reps := e.reps ++ [(o.bank, o.fast, o.ptr)] }

/-- A raise that repeats an open record or a pending state of its kind (R313 rules 1 and 2), or one that a full ring has lost in this
cc, with which it is lost (R317, R319, R325). -/
def raiseRepeats (s : State) (r : Raised) : Option State :=
  match s.evr.opens.find? fun o => o.src == r.src && o.kind == r.kind with
  | some o =>
    some (s.modEvr fun e => ({ e with opens := e.opens.map fun (q : OpenRec) =>
      if q.src = r.src ∧ q.kind = r.kind then { q with rep := satInc 8 q.rep, safety := q.safety || r.safety } else q } : Evr).noteRep o)
  | none =>
    match s.evr.pend.find? fun p => p.src == r.src && p.kind == r.kind with
    | some _ =>
      some (s.modEvr fun e => { e with pend := e.pend.map fun q =>
        if q.src = r.src then { q with rep := satInc 8 q.rep, safety := q.safety || r.safety } else q })
    | none =>
      match lostNow s r.src with
      | some (k, safety) => if k = r.kind then some (if safety then s else raiseEscalates s r) else none
      | none => none

/-- A raise on an EDGE source (R313), and its escalation: lost under rule 3, or latched while another safety-class record
or pending state is in handling (R325). -/
def edgeRaise (s : State) (r : Raised) (b : Nat) : State :=
  match raiseRepeats s r with
  | some t => t
  | none =>
    if s.evr.pend.any (fun p => p.src == r.src) || deliveredNow s r.src then mergeAway s r b else
    let s1 := s.modEvr fun e =>
      { e with pend := e.pend ++ [{ src := r.src, kind := r.kind, detail := r.detail, tb := r.tb, rep := 0, safety := r.safety, at_ := s.cc }] }
    if s.evr.anySafety then raiseEscalates s1 r else s1

/-- A raise is handled at the end of its cc (R311–R313). On a LEVEL source a safety raise escalates while a safety-class
record or pending state of another source is in handling (R312, R325). Without a target nothing latches, and a repeat still counts
(R311, R313). -/
def latchRaise (s0 : State) (r : Raised) : State :=
  let s := noteSpan s0 r
  match s.bankOf r.src r.safety with
  | none => if (s.route r.src).level then s else (raiseRepeats s r).getD s
  | some b =>
    if (s.route r.src).level then
      let s1 := levelRaise s r
      if s.evr.otherSafety r.src then raiseEscalates s1 r else s1
    else edgeRaise s r b

/-- The raises whose cc ends with this tb (Table 10-3 step 2). -/
def latchRaises (s : State) : State :=
  let now := s.evr.cur.filter fun r => decide (r.tb ≤ s.tb)
  forEach now (s.modEvr fun e => { e with cur := e.cur.filter fun r => !decide (r.tb ≤ s.tb) }) latchRaise

/-- The end of a cc at the controller: its raises, and the LEVEL samples (R317). -/
def evrCycle (s : State) : State := forEach (List.range 336) (latchRaises s) levelSample

/-- The mask bit of a source holds in bank `b` (R314, R315). -/
def masked (s : State) (b src : Nat) : Bool := bitAt (s.startReg (Reg.EVR_MASK b (src / 32))) (src % 32)

/-- A pending state can be delivered in this cc (R314). -/
def deliverable (s : State) (p : Pend) : Bool :=
  decide (p.at_ < s.cc) &&
  match s.bankOf p.src p.safety with
  | none => false
  | some b => !masked s b p.src && !bitAt (s.startReg (Reg.EVR_CTL b)) 0
      && bitAt (s.startReg (Reg.EVR_RING_CFG b (ofBool (s.route p.src).fast))) 8

/-- Fast class first, then the lower source (R314). -/
def nextPend (s : State) : Option Pend :=
  (s.evr.pend.filter (deliverable s)).foldl (fun best p =>
    match best with
    | none => some p
    | some q =>
      let fp := (s.route p.src).fast
      let fq := (s.route q.src).fast
      if (fp && !fq) || (fp == fq && decide (p.src < q.src)) then some p else some q) none

/-- The detail word in the delivery cc, a register of the TB domain as the core sees it (R309, Table 1-4). -/
def detailNow (s : State) : Detail → Word
  | .word w => w
  | .reg a m => (if tbDomain a then s.sampled else s).reg a &&& m

/-- Word 0 of a record (Table 10-4). -/
def recWord0 (src : Nat) (fast : Bool) (kind rep seq : Nat) : Word :=
  mkw src 0 ||| mkb fast 9 ||| mkw kind 10 ||| mkw rep 16 ||| mkw (seq % 256) 24

/-- The masters that reach the register at `a`: engines none, and the host not bank S (R327). -/
def evrReach (m : Master) (a : Nat) : Bool :=
  match m with
  | .engine _ => false
  | .host _ => a < 0x00893000
  | _ => true

/-- A completion that waits among the commands of this tb lands before the delivery (R317): the class is at the top of the stack,
and the index is that of the oldest record. -/
def doneComing (s : State) (b : Nat) (fast : Bool) : Bool :=
  let k := s.bankAt b
  decide (k.stack.head? = some fast) && (writesComing s).any fun p =>
    p.2.1 == Reg.EVR_DONE b (ofBool fast) && evrReach p.1 p.2.1 && fld p.2.2 11 0 == (k.ring fast).rptr % ringSize s b fast

/-- The delivery of `p` to bank `b` (R314, R319). -/
def deliver (s : State) (p : Pend) (b : Fin 3) : State :=
  let fast := (s.route p.src).fast
  let g := s.ring b.val fast
  let s1 := (s.modEvr fun e => { e with pend := e.pend.filter (fun q => q.src != p.src), lastTb := some s.cc }).modRing b.val fast
    fun g => { g with seq := (g.seq + 1) % 256 }
  if (g.wptr + g.res + 65536 - g.rptr) % 65536 ≥ ringSize s b.val fast + ofBool (doneComing s b.val fast) then
    let s2 := (lostCount (s1.evrEvt b.val (ofBool fast) 2 (ofBool fast) 0) b.val fast).modEvr fun e =>
      { e with lost := some (s.cc, p.src, p.kind, p.safety) }
    if p.safety then escalate s2 (safetyClass p.src) p.src else s2
  else
    let ptr := (g.wptr + g.res) % 65536
    let w : RecWrite :=
      { bank := b, fast := fast, ptr := ptr, src := p.src, kind := p.kind, w0 := recWord0 p.src fast p.kind p.rep g.seq,
        w1 := lo32 p.tb, w2 := hi32 p.tb &&& 0xFFFF, w3 := detailNow s p.detail, done := [] }
    (s1.modRing b.val fast fun g => { g with res := g.res + 1 }).modEvr fun e =>
      { e with
        opens := e.opens ++ [⟨p.src, p.kind, b, fast, ptr, p.rep, p.safety, s.cc⟩]
        writes := e.writes ++ [w] }

/-- RECORD_DELIVERY: at most one in every 2 cc (R314). -/
def deliveryOp (s : State) : State :=
  let soon := match s.evr.lastTb with | some t => decide (s.cc < t + 4) | none => false
  if soon then s else
  match nextPend s with
  | none => s
  | some p =>
    match s.bankOf p.src p.safety with
    | some 0 => deliver s p 0
    | some 1 => deliver s p 1
    | some _ => deliver s p 2
    | none => s

/-- Word `i` of the record, with the repeat count then held (R318, R320). -/
def recordWord (s : State) (w : RecWrite) (i : Nat) : Word :=
  let rep := match s.evr.opens.find? fun o => o.bank == w.bank && o.fast == w.fast && o.ptr == w.ptr with | some o => o.rep | none => 0
  match i with | 0 => setFld w.w0 23 16 rep | 1 => w.w1 | 2 => w.w2 | _ => w.w3

/-- The oldest record write has ended. -/
def recordOver (s : State) (w : RecWrite) : State :=
  (s.modEvr fun e => { e with writes := e.writes.drop 1 }).modRing w.bank.val w.fast fun g => { g with res := g.res - 1 }

/-- A word of the oldest record write is not admitted: words written stay, the record counts as unwritten, and those delivered after
it take its place (R321). -/
def recordFail (s : State) (w : RecWrite) : State :=
  let here (o : OpenRec) : Bool := o.bank == w.bank && o.fast == w.fast && o.ptr == w.ptr
  let back (p : Nat) : Nat := (p + 65535) % 65536
  let rest := s.evr.writes.drop 1
  let s1 := (recordOver s w).modEvr fun e =>
    { e with
      opens := (e.opens.filter fun o => !here o).map fun o =>
        if rest.any fun v => v.bank == o.bank && v.fast == o.fast && v.ptr == o.ptr && o.bank == w.bank && o.fast == w.fast
        then { o with ptr := back o.ptr } else o
      writes := rest.map fun v => if v.bank = w.bank ∧ v.fast = w.fast then { v with ptr := back v.ptr } else v
      reps := e.reps.filter fun q => !(q.1 == w.bank && q.2.1 == w.fast && q.2.2 == w.ptr) }
  ringErr s1 w.bank.val w.fast

def recordAddr4 (s : State) (w : RecWrite) (i : Nat) : Nat := recordAddr s w.bank.val w.fast w.ptr + 4 * i

/-- Word `i` of the oldest record write is written (R318, R321). -/
def recordPut (s : State) (w : RecWrite) (i : Nat) : State :=
  let a := recordAddr4 s w i
  match bankAccess s .recordCtl (ringClass w.bank.val) a a (some (0, wordBytes (recordWord s w i))) with
  | (.ok _, s1) => s1.modEvr fun e =>
    { e with writes := match e.writes with | v :: r => { v with done := i :: v.done } :: r | [] => [] }
  | (_, s1) => recordFail s1 w

/-- All words of the oldest record write have been written: WPTR advances (R314). -/
def recordEnd (s : State) (w : RecWrite) : State :=
  (recordOver s w).modRing w.bank.val w.fast fun g => { g with wptr := (g.wptr + 1) % 65536 }

/-- The words of the oldest record write that are still to be written. -/
def recordLeft (w : RecWrite) : List Nat := (List.range 4).filter fun i => !w.done.contains i

/-- The byte of the record's repeat count (R320): bits 23:16 of word 0. -/
def repAddr (s : State) (q : Fin 3 × Bool × Nat) : Nat := recordAddr s q.1.val q.2.1 q.2.2 + 2

/-- The oldest repeat count that waits is written (R320); an uncorrectable error in word 0 discards the write with RING_ERR (R321). -/
def repWrite (s : State) (q : Fin 3 × Bool × Nat) : State :=
  let a := repAddr s q
  let rep := match s.evr.opens.find? fun o => o.bank == q.1 && o.fast == q.2.1 && o.ptr == q.2.2 with | some o => o.rep | none => 0
  match bankAccess s .recordCtl (ringClass q.1.val) (a - 2) a (some (2, [BitVec.ofNat 8 rep])) with
  | (.uncorr, s1) => ringErr (s1.modEvr fun e => { e with reps := e.reps.drop 1 }) q.1.val q.2.1
  | (_, s1) => s1.modEvr fun e => { e with reps := e.reps.drop 1 }

/-- The stack rule admits a claim of the class (R323). -/
def claimFree (k : Bank) (fast : Bool) : Bool := if fast then !k.stack.contains true else k.stack.isEmpty

/-- A read of EVR_CLAIM (R323). -/
def claimOp (s : State) (b : Nat) (fast : Bool) : Word × State :=
  let k := s.bankAt b
  let g := k.ring fast
  if g.wptr = g.rptr then (0, s)
  else if !claimFree k fast then (mkw 1 30, s)
  else
    let src := match s.evr.opens.find? fun o => o.bank.val == b && o.fast == fast && o.ptr == g.rptr with
      | some o => o.src
      | none => 0
    (mkw 1 31 ||| mkw src 16 ||| mkw (g.rptr % ringSize s b fast) 0, s.modBank b fun k => { k with stack := fast :: k.stack })

/-- A write of EVR_DONE (R323, R324). -/
def doneOp (s : State) (b : Nat) (fast : Bool) (idx : Nat) : State :=
  let k := s.bankAt b
  let g := k.ring fast
  if k.stack.head? = some fast ∧ idx = g.rptr % ringSize s b fast then
    let here (o : OpenRec) : Bool := o.bank.val == b && o.fast == fast && o.ptr == g.rptr
    let src := (s.evr.opens.find? here).map fun o => o.src
    let s1 := (s.modRing b fast fun g => { g with rptr := (g.rptr + 1) % 65536 }).modBank b fun k => { k with stack := k.stack.drop 1 }
    let s2 := s1.modEvr fun e => { e with
      opens := e.opens.filter fun o => !here o
      reps := e.reps.filter fun q => !(q.1.val == b && q.2.1 == fast && q.2.2 == g.rptr) }
    match src with
    | some n => levelSample (s2.modEvr fun e => dropSpan e n) n
    | none => s2
  else s.evrEvt b 5 1 (ofBool fast) idx

/-- CFG_ERR of a bank (R321, R326). -/
def evrCfgErr (s : State) (b : Nat) (fast : Bool) : State := s.evrEvt b 6 5 (ofBool fast) 0

/-- The ring may be enabled with LOG2 = `l` (R321). -/
def ringOk (s : State) (b : Nat) (fast : Bool) (l : Nat) : Bool :=
  let base := ringBase s b fast
  let last := base + 16 * 2 ^ l - 1
  decide (4 ≤ l) && decide (l ≤ 12) && decide (last < 0x800000) && spoolOf base == spoolOf last
  && (ringClass b).contains (splOwner s (spoolOf base))

/-- A write of EVR_RING_BASE (R321). -/
def ringBaseWrite (s : State) (b : Nat) (fast : Bool) (w : Word) : State :=
  let a := Reg.EVR_RING_BASE b (ofBool fast)
  let v := w &&& 0xFFFFFFF0
  if s.rb (Reg.EVR_RING_CFG b (ofBool fast)) 8 then (if v = s.reg a then s else evrCfgErr s b fast)
  else (s.markWr a).setReg a v

/-- A write of EVR_RING_CFG (R321). -/
def ringCfgWrite (s : State) (b : Nat) (fast : Bool) (w : Word) : State :=
  let a := Reg.EVR_RING_CFG b (ofBool fast)
  let g := s.ring b fast
  let s1 := s.markWr a
  if s.rb a 8 then
    let s2 := if fld w 3 0 = s.rf a 3 0 then s1 else evrCfgErr s1 b fast
    if bitAt w 8 then s2
    else if g.wptr = g.rptr then s2.setRf a 8 8 0 else evrCfgErr s2 b fast
  else
    let s2 := s1.setRf a 3 0 (fld w 3 0)
    if !bitAt w 8 then s2
    else if ringOk s2 b fast (fld w 3 0) then s2.setRf a 8 8 1 else evrCfgErr s2 b fast

/-- CLR_LOST_N and CLR_LOST_F (R371). -/
def clrLost (s : State) (b : Nat) (fast : Bool) : State := s.clearCnt (Reg.EVR_LOST b (ofBool fast))

/-- A write of EVR_CTL (R316). -/
def evrCtlWrite (s : State) (b : Nat) (w : Word) : State :=
  let a := Reg.EVR_CTL b
  let s1 := if bitAt w 1 then clrLost s b false else s
  let s2 := if bitAt w 2 then clrLost s1 b true else s1
  (s2.markWr a).setReg a (w &&& 1)

/-- A write of EVR_MASKk governs from the next delivery on (R315). -/
def maskWriteOp (s : State) (b k : Nat) (w : Word) : State := (s.markWr (Reg.EVR_MASK b k)).setReg (Reg.EVR_MASK b k) w

/-- A write of EVR_ROUTEs by a secure master (R311, R327). -/
def routeWriteOp (s : State) (src : Nat) (w : Word) : State :=
  let a := Reg.EVR_ROUTE src
  if src ≥ 336 then s else (s.markWr a).setReg a (w &&& if src ≥ 328 then 0x110 else 0x113)

/-- A register of the block lands (Table 10-6). -/
def evrWrite (s : State) (m : Master) (a : Nat) (w : Word) : State :=
  if !evrReach m a then s
  else if a < 0x00890800 then routeWriteOp s ((a - 0x00890000) / 4) w
  else if a < 0x00891000 then s
  else
    let b := (a - 0x00891000) / 0x1000
    let o := (a - 0x00891000) % 0x1000
    let fast := decide (0x80 ≤ o)
    if o = 0 then evrCtlWrite s b w
    else if o = 0x40 ∨ o = 0x80 then ringBaseWrite s b fast w
    else if o = 0x44 ∨ o = 0x84 then ringCfgWrite s b fast w
    else if o = 0x54 ∨ o = 0x94 then doneOp s b fast (fld w 11 0)
    else if 0x100 ≤ o ∧ o < 0x140 then maskWriteOp s b ((o - 0x100) / 4) w
    else s

/-- The line of a target (R316, R322). -/
def evrLine (s : State) (b : Nat) : Bool :=
  let k := s.bankAt b
  !s.rb (Reg.EVR_CTL b) 0
  && ((k.fast.wptr != k.fast.rptr && !k.stack.contains true) || (k.norm.wptr != k.norm.rptr && k.stack.isEmpty))

/-- Bit j: source 32k + j belongs to bank `b` (R311, EVR_MASKk). -/
def bankBits (s : State) (b k : Nat) : Word :=
  (List.range 32).foldl (fun w j =>
    let t := (s.route (32 * k + j)).target
    if 32 * k + j < 336 ∧ (t = b + 1 ∨ (b = 2 ∧ t = 0)) then setBit w j else w) 0

/-- EVR_PENDk. -/
def evrPend (s : State) (b k : Nat) : Word :=
  s.evr.pend.foldl (fun w p => if p.src / 32 = k ∧ s.bankOf p.src p.safety = some b then setBit w (p.src % 32) else w) 0

/-- EVR_STAT. -/
def evrStat (s : State) (b : Nat) : Word :=
  let k := s.bankAt b
  mkb (evrLine s b) 7 ||| mkb (k.stack.head? == some true) 4 ||| mkw k.stack.length 0

/-- A register of the block as it reads; EVR_CLAIM's effect is `claimOp` (R327). -/
def evrRead (s : State) (m : Master) (a : Nat) : Word :=
  if !evrReach m a then 0
  else if a < 0x00890800 then
    let src := (a - 0x00890000) / 4
    if src ≥ 336 then 0 else if src ≥ 328 then (s.reg a &&& 0x110) ||| 3 else s.reg a
  else if a = Reg.EVR_GSTAT then mkw s.evr.safeCount 16
  else if a < 0x00891000 then 0
  else
    let b := (a - 0x00891000) / 0x1000
    let o := (a - 0x00891000) % 0x1000
    let fast := decide (0x80 ≤ o)
    let g := s.ring b fast
    if o = 4 then evrStat s b
    else if o = 0x48 ∨ o = 0x88 then mkw g.seq 16 ||| mkw g.wptr 0
    else if o = 0x4C ∨ o = 0x8C then mkw g.rptr 0
    else if 0x100 ≤ o ∧ o < 0x140 then s.reg a &&& bankBits s b ((o - 0x100) / 4)
    else if 0x140 ≤ o ∧ o < 0x180 then evrPend s b ((o - 0x140) / 4)
    else s.reg a &&& ~~~ (regDesc a).wo

end Sys2Proof.Machine
end

