-- ==== Sys2Proof/Machine/Negative.lean ====
section
/-! DEFINITION. The flash directory, the validity of negatives and of Safelight firmware images, and writes of the flash
(R378–R384, R424, R439, R440). -/

namespace Sys2Proof.Machine

/-! The flash directory (R378). -/

/-- Offset and size of region `i` of the directory at `d`: negatives A and B, firmware A and B, log, certificate. -/
def dirRegion (s : State) (d i : Nat) : Nat × Nat := (flashNat s (d + 8 + 8 * i) 4, flashNat s (d + 12 + 8 * i) 4)

def disjoint (a b : Nat × Nat) : Bool := a.2 == 0 || b.2 == 0 || decide (a.1 + a.2 ≤ b.1) || decide (b.1 + b.2 ≤ a.1)

def allDisjoint : List (Nat × Nat) → Bool
  | [] => true
  | a :: r => r.all (disjoint a) && allDisjoint r

/-- The copy at `d` is valid: a correct magic and CRC, and its regions aligned and apart. -/
def dirCopyOk (s : State) (d : Nat) : Bool :=
  let rs := (List.range 6).map (dirRegion s d)
  s.flash.facts.answers && flashNat s d 4 == 0x44465153 && crc32 (flashRun s d 60) == flashNat s (d + 60) 4
  && (rs.all fun r => r.1 % 4096 == 0) && allDisjoint rs

/-- The directory in use: the first valid copy (log entry 90). -/
def flashDir (s : State) : Option Nat := if dirCopyOk s 0 then some 0 else if dirCopyOk s 0x1000 then some 0x1000 else none

/-- Offset and size of region `i`; size 0 without a valid directory. -/
def region (s : State) (i : Nat) : Nat × Nat :=
  match flashDir s with
  | some d => dirRegion s d i
  | none => (0, 0)

/-! The negative (R380–R384). -/

/-- The sections from offset `o` of the image, until one breaks R382, runs past `stop`, or fails its CRC: the failure code, or
the sections (Table 13-6). -/
def readSections (s : State) (base stop nfmt : Nat) : Nat → Nat → List Section → Nat × List Section
  | 0, _, acc => (0, acc)
  | n + 1, o, acc =>
    let a := base + o
    let c : Section := { typ := flashNat s a 1, flags := flashNat s (a + 1) 1, fmask := flashNat s (a + 2) 2,
                         addr := flashNat s (a + 4) 4, len := flashNat s (a + 8) 4, ofs := a + 16 }
    if o + 16 + c.len > stop || !sectionOk nfmt c || (c.typ == 1 && !(regsRecords s c).all recordNamed) then (4, acc)
    else if crc32 (flashRun s (a + 16) c.len) != flashNat s (a + 12) 4 then (5, acc)
    else readSections s base stop nfmt n (o + 16 + c.len) (acc ++ [c])

/-- The SHA-256 digest over the range that the signature covers (R383). -/
def signedDigest (s : State) (base len : Nat) : List Byte := (Config.sha256 (flashRun s base (len - 64))).toList

/-- PUBKEY and SIG of the image (R383, R384). -/
def ownerOk (s : State) (base len : Nat) : Bool :=
  match s.ownerKey with
  | none => true
  | some h =>
    let key := flashRun s (base + len - 128) 64
    (Config.sha256 key).toList == h && Config.ecdsaVerify (signedDigest s base len) (flashRun s (base + len - 64) 64) key

/-- The failure code of a negative slot and its sections (R384, Table 13-6); 0 when the image is valid. -/
def negCheck (s : State) (slot : Nat) : Nat × List Section :=
  if !s.flash.facts.answers then (8, []) else
  let (base, size) := region s slot
  if size = 0 then (1, []) else
  let len := flashNat s (base + 8) 4
  let nfmt := flashNat s (base + 0x10) 1
  let minStep := flashNat s (base + 0x12) 1
  let dir := flashNat s (base + 0x14) 4
  let sec := flashNat s (base + 0x18) 4
  if flashNat s base 4 != 0x474E5153 || flashNat s (base + 4) 2 != 1 || flashNat s (base + 6) 2 != 0x9648
      || crc32 (flashRun s base 60) != flashNat s (base + 60) 4 then (2, [])
  else if minStep > (regDesc Reg.ID_STEP).rst.toNat % 256 then (3, [])
  else if len > size || nfmt = 0 || nfmt > 16 || flashNat s (base + 0x11) 1 ≥ nfmt then (2, [])
  else if len < 200 || dir < 64 || dir + 32 * nfmt > len - 136 || sec < 64 || sec > len - 136 then (4, [])
  else
    let (code, cs) := readSections s base (len - 136) nfmt (flashNat s (base + 0x1C) 4) sec []
    if code != 0 then (code, [])
    else if crc32 (flashRun s base (len - 136)) != flashNat s (base + len - 136) 4 then (6, [])
    else if !ownerOk s base len then (7, [])
    else (0, cs)

/-- Entry `f` of the format directory (Table 13-3). -/
def readFormat (s : State) (a : Nat) : Format :=
  { reqVer := flashWord s (a + 0x0C), fly := flashNat s (a + 0x10) 1 % 2 == 1, chgSpk := Fin.ofNat 8 (flashNat s (a + 0x11) 1),
    flushTag := BitVec.ofNat 8 (flashNat s (a + 0x12) 1), flushMask := BitVec.ofNat 8 (flashNat s (a + 0x13) 1),
    rdThr := flashNat s (a + 0x14) 1, swThr := flashNat s (a + 0x15) 1,
    rdPc := BitVec.ofNat 12 (flashNat s (a + 0x16) 2), swPc := BitVec.ofNat 12 (flashNat s (a + 0x18) 2) }

/-! Safelight firmware (R424, R440). -/

/-- Failure code of firmware slot 0 or 1: 2 header, 5 code CRC, 6 image CRC, 7 signature, 0 valid. The image of Table 15-1 has
one CRC over header and code: code 6 (log entry 31). -/
def fwCheck (s : State) (slot : Nat) : Nat :=
  let (base, size) := region s (2 + slot)
  let len := flashNat s (base + 0x0C) 4
  if size = 0 || flashNat s base 4 != 0x4C535153 || flashNat s (base + 4) 2 != 1 || crc32 (flashRun s base 60) != flashNat s (base + 60) 4
      || len % 4 != 0 || len > 196608 || len > size || len < 0x84 || flashNat s (base + 6) 2 > Config.romVersion.toNat then 2
  else if crc32 (flashRun s base (len - 68)) != flashNat s (base + len - 68) 4 then 6
  else if !Config.ecdsaVerify (signedDigest s base len) (flashRun s (base + len - 64) 64) Config.vuzacaKey then 7
  else 0

/-- FW_VER of a firmware slot. -/
def fwVersion (s : State) (slot : Nat) : Word := flashWord s ((region s (2 + slot)).1 + 8)

/-! Writes of the flash (R431, R439). -/

/-- Bytes are programmed: bits only fall. -/
def flashProgram (s : State) (a : Nat) : List Byte → State
  | [] => s
  | b :: r =>
    let s1 := if a < flashLimit s.flash.facts then
        { s with flash := { s.flash with bytes := sparseWrite erasedByte s.flash.bytes a (flashByte s a &&& b) } }
      else s
    flashProgram s1 (a + 1) r

/-- Bytes `lo ≤ a < hi` are erased. -/
def flashErase (s : State) (lo hi : Nat) : State := { s with flash := { s.flash with bytes := clearRange s.flash.bytes lo hi } }

end Sys2Proof.Machine
end

