-- ==== Sys2Proof/Machine/Resets.lean ====
section
/-! DEFINITION. Resets (R16–R18, Table 1-6, R451, R452) and the OTP step of boot (R8, R385). -/

namespace Sys2Proof.Machine

/-- Bits of RST_CAUSE. -/
def rcPor : Nat := 0
def rcPin : Nat := 1
def rcSlt : Nat := 2
def rcSoft : Nat := 3
def rcClkfail : Nat := 4

/-- The place of a cause among the reset counters of Table 15-5: POR, PIN, SOFT, SLT, CLKFAIL. -/
def rcCounter (bit : Nat) : Nat := match bit with | 0 => 0 | 1 => 1 | 2 => 3 | 3 => 2 | _ => 4

/-- A register word after the OTP step: the fields of source F and N take their defaults (R385). -/
def otpWord (a : Nat) (w : Word) : Word := mergeBits w (regDesc a).dfl (regDesc a).otp

/-- The OTP defaults of the N fields that the channels hold, CHn_TOP and CHn_CMPx. -/
def Chan.otp (c : Chan) : Chan := { c with top := 0, topPend := none, slots := c.slots.map fun t => { t with cmp := 0, pend := none } }

/-- The OTP default of ENLn_TPCt. -/
def Eng.otp (g : Eng) : Eng := { g with thr := g.thr.map fun h => { h with pc := 0 } }

/-- The registers of Safelight and of the host port, which a core reset keeps (Table 1-6). -/
def coreKept : List Nat :=
  ((List.range 192).map fun i => 0x008E0000 + 4 * i) ++ ((List.range 6).map fun i => 0x008B0000 + 4 * i)

/-- Spools owned by SAFELIGHT (owner class 3). -/
def sltSpools (s : State) : List Nat := (List.range 8).filter fun n => s.rf (Reg.SPL_OWN n) 2 0 == 3

/-- The registers of spool `n` (chapter 11). -/
def spoolRegs (n : Nat) : List Nat := (List.range 11).map fun i => 0x008A0000 + 0x40 * n + 4 * i

/-- A register that a core reset keeps and whose OTP step, in the boot that follows, leaves it as it is (Table 1-6, SPL_OWNn; log
entry 53). -/
def keptAtBoot (s : State) (a : Nat) : Bool :=
  s.boot.core && (coreKept.contains a || (sltSpools s).any fun n => (spoolRegs n).contains a)

/-- The OTP step: F and N fields take their OTP defaults, and the safe levels apply (R385, R386). -/
def otpLoad (s : State) : State :=
  settlePins { s with
    otp := true
    ch := s.ch.map Chan.otp
    eng := s.eng.map Eng.otp
    regs := (s.regs.map fun p => (p.1, if keptAtBoot s p.1 then p.2 else otpWord p.1 p.2)).filter fun p => p.2 != (regDesc p.1).dfl } allPins

/-- The inputs of a pin survive a reset: they are the outside's. -/
def Pin.afterReset (p : Pin) : Pin := { Pin.reset with ext := p.ext, acc := p.acc }

def Spk.afterReset (u : Spk) : Spk := { Spk.reset with lvlA := u.lvlA, lvlB := u.lvlB, lvlZ := u.lvlZ }

/-- Everything at its reset value but the keep store, the OTP, and what lies outside the device (Table 1-6). -/
def resetAll (s : State) : State :=
  { State.reset with
    regs := []
    answer := s.answer
    spk := s.spk.map Spk.afterReset
    pin := s.pin.map Pin.afterReset
    vdet := s.vdet
    host := { HostPort.reset with hsec := s.host.hsec, modePin := s.host.modePin, rolePin := s.host.rolePin }
    keep := s.keep
    flash := s.flash
    order := s.order
    ownerKey := s.ownerKey
    free := s.free
    pending := s.pending }

/-- A reset counts among the resets by cause (Table 15-5). -/
def countReset (s : State) (bit : Nat) : State :=
  { s with slt := { s.slt with lifeRst := vmodN s.slt.lifeRst (rcCounter bit) fun n => n + 1 } }

/-- RST_CAUSE after a reset other than power-on: the bits not yet read, and the cause (R16). -/
def causeAfter (s : State) (bit : Nat) : Word := setBit (s.reg Reg.RST_CAUSE) bit

/-- The levels at the strap pins. -/
def strapPins (s : State) (hostMode : Bool) (role : Fin 8) : State := { s with host := { s.host with modePin := hostMode, rolePin := role } }

/-- The straps are sampled at the release of a reset other than a core reset (R353, R402). -/
def strap (s : State) : State := { s with host := { s.host with parallel := s.host.modePin }, cas := { s.cas with role := s.host.rolePin.val } }

/-- Power-on reset (R16, R451): RST_CAUSE reads POR alone. -/
def powerOnOp (s : State) (hostMode : Bool) (role : Fin 8) : State :=
  countReset (strap (strapPins ((resetAll s).setReg Reg.RST_CAUSE (mkw 1 rcPor)) hostMode role)) rcPor

/-- Safe state before a reset other than power-on (R18). -/
def safeFirst (s : State) : State := enterSafe s causeReset

/-- Pin reset: TB is 0 until PLL_LOCK sets again (R20, Table 1-6). -/
def pinResetOp (s0 : State) (hostMode : Bool) (role : Fin 8) : State :=
  let s := safeFirst s0
  let s1 := strap (strapPins ((resetAll s).setReg Reg.RST_CAUSE (causeAfter s rcPin)) hostMode role)
  countReset { s1 with boot := { s1.boot with powerOn := false } } rcPin

/-- The monitored clocks' bits of CLK_STAT. -/
def clkMonitored : Word := 0x1D

/-- Full reset: the PLLs keep their lock, so that TB counts from the release (R20, Table 1-6); boot begins at step 2,
which after a clock monitor's reset waits for PLL_LOCK (R427). -/
def fullResetOp (s0 : State) (cause : Nat) : State :=
  let s := safeFirst s0
  let clk := s.reg Reg.CLK_STAT &&& clkMonitored
  let s1 := strap (((resetAll s).setReg Reg.RST_CAUSE (causeAfter s cause)).setReg Reg.CLK_STAT clk)
  countReset { s1 with
    tbRun := bitAt clk 2
    boot := { s1.boot with step := if cause = rcClkfail && !bitAt clk 2 then 1 else 2, powerOn := false }
    slt := { s1.slt with clkBad := s.slt.clkBad, wdExpired := s.slt.wdExpired } } cause

/-- The spools' words that lie in one of `ns`. -/
def spoolPart {α : Type} (ns : List Nat) (m : List (Nat × α)) : List (Nat × α) := m.filter fun p => ns.contains (p.1 / 0x100000)

/-- CLK_EVT across a core reset, which Table 1-6 does not list among what it resets: kept, with the bits whose CLK_STAT bit
falls (R19). -/
def coreClkEvt (s : State) : Word := s.reg Reg.CLK_EVT ||| (s.reg Reg.CLK_STAT &&& ~~~ clkMonitored)

/-- Core reset (Table 1-6): TB counting, Safelight, its RAM and spools, the keep store, the host port and the PLLs are kept.
What Table 1-6 names in neither column is reset but for CLK_EVT (log entry 53). -/
def coreResetOp (s0 : State) (cause : Nat) : State :=
  let s := safeFirst s0
  let ns := sltSpools s
  let s0 := (resetAll s).setReg Reg.RST_CAUSE (causeAfter s cause)
  let s1 := { s0 with cas := { s0.cas with role := s.cas.role } }
  let s2 := (forEach coreKept s1 fun t a => t.setReg a (s.reg a)).setReg Reg.CLK_STAT (s.reg Reg.CLK_STAT &&& clkMonitored)
  let s3 := forEach ns (s2.setReg Reg.CLK_EVT (coreClkEvt s)) fun t n =>
    (forEach (spoolRegs n) t fun t a => t.setReg a (s.reg a)).modSpl n fun _ => s.splAt n
  countReset { s3 with
    tb := s.tb
    tbRun := s.tbRun
    host := s.host
    slt := s.slt
    sram := s.sram
    mem := spoolPart ns s.mem
    ecc := spoolPart ns s.ecc
    spl := Vector.ofFn fun n => if ns.contains n.val then s3.splAt n.val else { s3.splAt n.val with ready := s.tb + 131072 }
    boot := { s3.boot with step := 2, powerOn := false, startTb := s.tb, core := true } } cause

/-- RST_CTL with its KEY (R17): FULL prevails over CORE. A wrong key raises a record on the host and security sources. -/
def rstCtlWrite (s : State) (w : Word) : State :=
  if !bitAt w 0 && !bitAt w 1 then s
  else if fld w 31 16 != 0xA5C3 then
    (s.hwSetBit Reg.HP_EVT 7).raise0 304 8 (.reg Reg.HP_EVT 0xFFFF)
  else if bitAt w 0 then fullResetOp s rcSoft
  else coreResetOp s rcSoft

/-- PLL A locks: TB counts from the next tb (R20). The clocks found good show in CLK_STAT (Table 15-3). -/
def pllLockOp (s : State) : State :=
  if s.rb Reg.CLK_STAT 2 then s else
  let on (c : ClockId) : Bool := !s.slt.clkBad.contains c
  let w := s.reg Reg.CLK_STAT ||| mkb (on .refclk) 0 ||| mkw 1 2 ||| mkb (on .pllB) 3 ||| mkb (on .sltOsc) 4
  { s.setReg Reg.CLK_STAT w with tbRun := true, boot := { s.boot with step := if s.boot.step = 1 then 2 else s.boot.step } }

end Sys2Proof.Machine
end

