-- ==== Sys2Proof/Machine/Safelight.lean ====
section
/-! DEFINITION. Safelight (chapter 15): sensors and clock monitors, the log, lifetime accounting, the mailbox and its services,
updates and identity. -/

namespace Sys2Proof.Machine

def State.modSlt (s : State) (f : Slt → Slt) : State := { s with slt := f s.slt }

/-! The log (R430–R432). -/

/-- The log region serves (R430). -/
def logUsable (s : State) : Bool := let r := region s 4; r.2 % 4096 == 0 && 16384 ≤ r.2

def logSize (s : State) : Nat := (region s 4).2

/-- The entry at byte `o` of the log region, if its CRC is correct. -/
def logEntryAt (s : State) (o : Nat) : Option (List Byte) :=
  let e := flashRun s ((region s 4).1 + o) 32
  if crc32 (e.take 28) = leNat (e.drop 28) then some e else none

def entrySeq (e : List Byte) : Nat := leNat (e.take 4)

/-- The entries of the log region, with their places. -/
def logEntries (s : State) : List (Nat × List Byte) :=
  if !logUsable s then [] else
  (List.range (logSize s / 32)).filterMap fun i => (logEntryAt s (32 * i)).map fun e => (32 * i, e)

/-- The entry with the highest sequence number. -/
def logLast (s : State) : Option (Nat × List Byte) :=
  (logEntries s).foldl (fun m p => match m with
    | some q => if entrySeq q.2 < entrySeq p.2 then some p else some q
    | none => some p) none

/-- The log pointers: offset of the next entry, next sequence number, entries lost; rebuilt from the log region when their
CRC fails (R432). -/
def logPtrs (s : State) : Nat × Nat × Nat :=
  if keepRecOk s 0x220 then
    ((memWord s.keep 0x220).toNat, (memWord s.keep 0x224).toNat, (memWord s.keep 0x228).toNat)
  else match logLast s with
    | some (o, e) => ((o + 32) % max 1 (logSize s), entrySeq e + 1, 0)
    | none => (0, 0, 0)

def logPtrsPut (s : State) (o q lost : Nat) : State := keepRecPut s 0x220 [wordN o, wordN q, wordN lost, 0, 0, 0, 0]

def bootCount (s : State) : Word := bootRecWord s 2

/-- The highest of the last temperature readings, in whole °C. -/
def topTemp (s : State) : Int :=
  let t (k : Nat) : Int := toInt 16 (s.rf (Reg.SNS_TEMP k) 15 0)
  (max (max (t 0) (t 1)) (max (t 2) (t 3))) / 4

/-- An entry of Table 15-4: its type, the word at +0x10 and the detail. -/
def logBytes (s : State) (q : Nat) (typ : Nat) (w d : Word) : List Byte :=
  let body := wordBytes (wordN q) ++ wordBytes (bootCount s) ++ wordBytes (lo32 s.tb) ++ wordBytes (hi32 s.tb)
    ++ wordBytes w ++ wordBytes d ++ [BitVec.ofInt 8 (topTemp s), BitVec.ofNat 8 typ]
    ++ (wordBytes (mkw (satN 16 s.slt.logLost) 0)).take 2
  body ++ wordBytes (wordN (crc32 body))

/-- Safelight forms an entry; one that finds the queue full is lost (R431, Table 15-10). -/
def logForm (s : State) (typ : Nat) (w d : Word) : State :=
  let o := (logPtrs s).1
  let q := (logPtrs s).2.1
  let lost := (logPtrs s).2.2
  if s.slt.log.length ≥ 256 then
    let s1 := (logPtrsPut s o q (lost + 1)).modSlt fun t => { t with logLost := t.logLost + 1 }
    s1.raise0 330 1 (.word (wordN s1.slt.logLost))
  else
    let e := logBytes s q typ w d
    (logPtrsPut s o (q + 1) lost).modSlt fun t => { t with log := t.log ++ [e], logLost := 0 }

/-- A service event of Table 15-6. -/
def logService (s : State) (code : Nat) (d : Word) : State := logForm s 1 (mkw code 0) d

/-- Flash may be programmed or erased now (R431, R439). -/
def flashFree (s : State) : Bool := s.flash.facts.suspend || s.safe.safe

/-- The oldest waiting entry is appended, and the sector after the one being filled is kept erased (R431). Where the flash fails
the write, source 330 raises kind 2 (Table 15-10); the entry is then lost as one that finds the queue full (log entry 70). -/
def logDrain (s : State) : State :=
  match s.slt.log with
  | [] => s
  | e :: r =>
    if !s.slt.logOk || !flashFree s then s else
    let (base, size) := region s 4
    let (o0, q, lost) := logPtrs s
    let o := o0 % max 1 size
    let nxt := (o / 4096 + 1) * 4096 % max 1 size
    let s1 := if o % 4096 = 0 then
        (flashErase s (base + nxt) (base + nxt + 4096)).modSlt fun t => { t with lifeSec := t.lifeSec + 1 }
      else s
    let (good, s2) := (s1.modSlt fun t => { t with log := r }).drawBool
    if good then logPtrsPut (flashProgram s2 (base + o) e) ((o + 32) % max 1 size) q lost
    else
      let s3 := (logPtrsPut s2 o0 q (lost + 1)).modSlt fun t => { t with logLost := t.logLost + 1 }
      s3.raise0 330 2 (.word (wordN s3.slt.logLost))

/-- A record that Safelight claims from its own ring is to be read, for the log (R431). -/
def logClaimed (s : State) (b : Nat) (fast : Bool) : State :=
  let a := recordAddr s b fast (s.ring b fast).rptr
  s.modSlt fun t => { t with ringReads := t.ringReads ++ [a] }

/-! The Safelight record (Table 15-5). -/

def sltRec (s : State) : Word := if keepRecOk s 0x200 then memWord s.keep 0x200 else 0

def fwPref (s : State) : Nat := fld (sltRec s) 0 0

/-- The Safelight record is written: FW_PREF, the arms, and the firmware slot loaded. -/
def sltRecPut (s : State) (pref neg fw slot : Nat) : State :=
  let q := (fld (sltRec s) 31 24 + 1) % 256
  keepRecPut s 0x200 [mkw pref 0 ||| mkw neg 4 ||| mkw fw 8 ||| mkw q 24, wordN slot, 0, 0, 0, 0, 0]

def sltSlot (s : State) : Nat := if keepRecOk s 0x200 then (memWord s.keep 0x204).toNat else 0

/-- The arms of the Safelight record show in SLT_STAT (R440). -/
def armsLoad (s : State) : State := s.modSlt fun t => { t with armNeg := fld (sltRec s) 5 4, armFw := fld (sltRec s) 9 8 }

/-- Detail word of service event 5. -/
def armDetail (neg fw : Nat) : Word := mkw neg 0 ||| mkw fw 4

/-- The armed switch is performed (R441). -/
def performSwitch (s : State) : State :=
  let neg := s.slt.armNeg
  let fw := s.slt.armFw
  let w0 := bootRecWord s 0
  let s1 := if neg = 0 then s else
    bootRecPut s (mergeBits w0 (mkw (neg - 1) 0) 1) (bootRecWord s 1) (bootRecWord s 2) (bootRecWord s 3)
  let s2 := sltRecPut s1 (if fw = 0 then fwPref s else fw - 1) 0 0 (sltSlot s)
  let s3 := logService { armsLoad s2 with boot := { s2.boot with switched := true } } 5 (armDetail neg fw)
  s3.raise0 331 3 (.word (armDetail neg fw))

/-! Status words. -/

/-- SLT_VER. -/
def sltVer (s : State) : Word :=
  let v := if s.slt.fwRun then fwVersion s (s.slt.fwSlot - 1) else 0
  mkw (fld v 31 24) 24 ||| mkw (fld v 15 8) 16 ||| mkw Config.romVersion.toNat 8

def sensorBits (n : Nat) (v : Nat → Bool) : Nat := ((List.range n).filter v).foldl (fun w i => w + 2 ^ i) 0

/-- SLT_STAT. -/
def sltStat (s : State) : Word :=
  let t := s.slt
  mkb (!t.clkBad.isEmpty) 30 ||| mkw (sensorBits 6 fun k => (vget t.volts k Sensor.reset).alarm) 24
  ||| mkw (sensorBits 4 fun k => (vget t.temps k Sensor.reset).alarm) 20 ||| mkw (sensorBits 4 fun k => (vget t.temps k Sensor.reset).warn) 16
  ||| mkb t.logOk 10 ||| mkb t.certOk 9 ||| mkb (s.otp && s.ownerKey.isSome) 8 ||| mkw t.armFw 6 ||| mkw t.armNeg 4
  ||| mkw t.fwSlot 1 ||| mkb t.fwRun 0

/-- MBX_STAT. -/
def mbxStat (s : State) : Word := mkw s.slt.status 8 ||| mkb s.slt.done 1 ||| mkb s.slt.busy 0

/-! Firmware load (R424, R442). -/

/-- The certificate region: magic, length, DER bytes and CRC-32 (R443). -/
def certLen (s : State) : Nat := flashNat s ((region s 5).1 + 4) 4

def certGood (s : State) : Bool :=
  let (base, size) := region s 5
  let l := certLen s
  let p := (l + 3) / 4 * 4
  12 + p ≤ size && flashNat s base 4 == 0x54435153 && crc32 (flashRun s base (8 + p)) == flashNat s (base + 8 + p) 4
  && Config.certKeyOk (flashRun s (base + 8) l)

/-- Firmware slot `k` starts: its code is in Safelight RAM; an expiry of the watchdog before it is logged (R425). -/
def fwStart (s : State) (k : Nat) : State :=
  let base := (region s (2 + k)).1
  let len := flashNat s (base + 0x0C) 4
  let s1 := { s with sram := setBytes s.sram 0 (flashRun s (base + 0x40) (len - 68 - 0x40)) }
  let s2 := sltRecPut s1 (fwPref s) s.slt.armNeg s.slt.armFw (k + 1)
  let s3 := if s2.slt.wdExpired then (logService s2 7 0).modSlt fun t => { t with wdExpired := false } else s2
  logService (s3.modSlt fun t => { t with fwRun := true, fwSlot := k + 1 }) 3 (fwVersion s k)

/-- FIRMWARE_LOAD: after step 7 of boot the ROM tries the preferred slot, then the other (R424, R431, R442). -/
def firmwareLoadOp (s : State) : State :=
  if !s.boot.done || s.slt.fwTried then s else
  let s1 := s.modSlt fun t => { t with fwTried := true, logOk := logUsable s, certOk := certGood s }
  let s2 := if s1.slt.certOk then s1 else s1.raise0 334 3 (.word 0)
  let s3 := logService s2 2 (s2.reg Reg.RST_CAUSE)
  let p := fwPref s3
  if fwCheck s3 p = 0 then fwStart s3 p
  else if fwCheck s3 (1 - p) = 0 then
    let s4 := fwStart s3 (1 - p)
    if s4.boot.switched then
      let (d, s5) := (sltRecPut s4 (1 - p) s4.slt.armNeg s4.slt.armFw (2 - p)).drawWord
      logService s5 4 d
    else s4
  else s3

/-! The watchdog and the clock monitors (R425, R427). -/

/-- SAFELIGHT_WATCHDOG: safe state, and a full reset 1 ms later. -/
def sltWatchdogOp (s : State) : State :=
  (enterSafe s causeSlt).modSlt fun t => { t with wdExpired := true, resetTb := some (s.tb + 1000000) }

/-- The CLK_STAT bit of a monitored clock (Table 15-3). -/
def clkBit : ClockId → Nat
  | .refclk => 0
  | .pllA => 2
  | .pllB => 3
  | .sltOsc => 4

/-- Record and log of a sensor or clock condition (R428, R446, service event 8). -/
def sensorRaise (s : State) (src kind : Nat) (safety : Bool) (d : Word) : State :=
  let s1 := logService s 8 d
  if safety then raiseSafety s1 5 src kind (.word d) else s1.raise0 src kind (.word d)

/-- CLOCK_FAULT: the condition of Table 15-3 has held for 2 µs (R19, R427). -/
def clockFaultOp (s : State) (c : ClockId) : State :=
  if s.slt.clkBad.contains c || (c == .sltOsc && s.slt.clkBad.contains .refclk) then s else
  let b := clkBit c
  let s1 := s.modSlt fun t => { t with clkBad := t.clkBad ++ [c], clkTb := t.clkTb ++ [(c, s.tb)] }
  let s2 := if s1.rb Reg.CLK_STAT b then (s1.setRf Reg.CLK_STAT b b 0).hwSetBit Reg.CLK_EVT b else s1
  let kind := match c with | .refclk => 1 | .pllA => 1 | .pllB => 2 | .sltOsc => 3
  sensorRaise s2 329 kind (kind == 1) (s2.reg Reg.CLK_STAT)

/-- CLOCK_FAULT_CLEARED: the bit rises. -/
def clockClearedOp (s : State) (c : ClockId) : State :=
  if !s.slt.clkBad.contains c then s else
  let b := clkBit c
  let s1 := s.modSlt fun t => { t with clkBad := t.clkBad.filter fun d => d != c, clkTb := t.clkTb.filter fun p => p.1 != c }
  let s2 := s1.setRf Reg.CLK_STAT b b 1
  let step := if s2.boot.step = 1 then 2 else s2.boot.step
  sensorRaise (if c = .pllA then { s2 with tbRun := true, boot := { s2.boot with step := step } } else s2) 329 4 false (s2.reg Reg.CLK_STAT)

/-- CLOCK_FAULT_RESET: in this tb a fault of REFCLK or PLL A has persisted for 100 µs; while TB does not count the command says so. -/
def clockResetOp (s : State) (c : ClockId) : State :=
  match s.slt.clkTb.find? fun p => p.1 == c with
  | some (_, t) => if (c = .refclk ∨ c = .pllA) ∧ (t + 100000 = s.tb ∨ s.tbRun = false) then fullResetOp s rcClkfail else s
  | none => s

/-! Sensors (R426, R428, R429). -/

/-- A condition that `n` consecutive readings set and clear: its new value and count. -/
def judge (on : Bool) (cnt n : Nat) (sets clears : Bool) : Bool × Nat :=
  let go := if on then clears else sets
  if go then (if cnt + 1 ≥ n then (!on, 0) else (on, cnt + 1)) else (on, 0)

/-- Detail word of source 328. -/
def sensorDetail (k : Nat) (r : BitVec 16) : Word := mkw k 0 ||| mkw r.toNat 16

/-- A temperature reading of sensor `k`, in quarters of °C (Table 15-2). -/
def tempReading (s : State) (k : Nat) (r : BitVec 16) : State :=
  let q : Int := r.toInt
  let lim := s.reg Reg.SNS_TLIM
  let warn : Int := 4 * toInt 8 (fld lim 7 0)
  let alarm : Int := 4 * toInt 8 (fld lim 15 8)
  let m := vget s.slt.temps k Sensor.reset
  let a := Reg.SNS_TEMP k
  let ext : Int := if m.seen then max (toInt 16 (s.rf a 31 16)) q else q
  let (w, wn) := judge m.warn m.warnN 2 (decide (warn ≤ q)) (decide (q < warn - 8))
  let (al, an) := judge m.alarm m.alarmN 4 (decide (alarm ≤ q)) (decide (q < alarm - 8))
  let s1 := (s.setReg a (mkw (BitVec.ofInt 16 ext).toNat 16 ||| mkw r.toNat 0)).modSlt fun t => { t with temps := vmodN t.temps k fun m =>
    { m with warn := w, warnN := wn, alarm := al, alarmN := an, seen := true, since := if w && !m.warn then s.tb else m.since } }
  let d := sensorDetail k r
  let s2 := if w != m.warn then sensorRaise s1 328 (if w then 1 else 2) false d else s1
  if al != m.alarm then sensorRaise s2 328 (if al then 3 else 5) al d else s2

def temperatureSampleOp (s : State) (rs : Vector (BitVec 16) 4) : State :=
  forEach [0, 1, 2, 3] s fun s k => tempReading s k (vget rs k 0)

/-- The window of rail `k` (R426). -/
def railWindow (s : State) (k : Nat) : Word :=
  if k = 0 then s.reg Reg.SNS_VWIN0
  else if k = 1 then s.reg Reg.SNS_VWIN1
  else if s.rb (Reg.TIO_BANK (k - 2)) 0 then s.reg Reg.SNS_VWIN1
  else s.reg (Reg.SNS_VWIN2 (k - 2))

/-- A voltage reading of rail `k`, in mV (Table 15-2). -/
def voltReading (s : State) (k : Nat) (r : BitVec 16) : State :=
  let win := railWindow s k
  let out := decide (r.toNat < fld win 15 0) || decide (fld win 31 16 < r.toNat)
  let m := vget s.slt.volts k Sensor.reset
  let a := Reg.SNS_VOLT k
  let ext := if m.seen then min (s.rf a 31 16) r.toNat else r.toNat
  let (al, an) := judge m.alarm m.alarmN 3 out (!out)
  let s1 := (s.setReg a (mkw ext 16 ||| mkw r.toNat 0)).modSlt fun t => { t with volts := vmodN t.volts k fun m =>
    { m with alarm := al, alarmN := an, seen := true } }
  if al != m.alarm then sensorRaise s1 328 (if al then 4 else 5) al (sensorDetail k r) else s1

def voltageSampleOp (s : State) (rs : Vector (BitVec 16) 6) : State :=
  forEach [0, 1, 2, 3, 4, 5] s fun s k => voltReading s k (vget rs k 0)

/-- RUNDOWN would end with STATE (R437). -/
def rundownBarred (s : State) : Bool := !s.boot.done || s.safe.rundown.isSome || s.safe.safe

/-- WARN_RUNDOWN (R429). -/
def warnRundownOp (s : State) : State :=
  let hold := max 1 (s.rf Reg.SLT_CFG 15 8) * 1000000000
  let held := [0, 1, 2, 3].any fun k => let m := vget s.slt.temps k Sensor.reset; m.warn && decide (m.since + hold ≤ s.tb)
  if s.rb Reg.SLT_CFG 0 && held && !rundownBarred s then rundownStart s .slt else s

/-! Lifetime accounting (R433). -/

/-- The unit of the fixed-point arithmetic below. -/
def fxOne : Int := 2 ^ 96

/-- The Taylor sum of the exponential: `n` terms more, from term `t` of index `i`. -/
def expSum (y : Int) : Nat → Int → Int → Int → Int
  | 0, _, _, acc => acc
  | n + 1, i, t, acc => expSum y n (i + 1) (t * y / (fxOne * (i + 1))) (acc + t)

def squareN : Nat → Int → Int
  | 0, v => v
  | n + 1, v => squareN n (v * v / fxOne)

/-- 60 × AF rounded to nearest, for a temperature in quarters of °C (R433): with T = q / 4, the exponent is
162,470 × (5q − 2,100) / (7,563 × (5q + 5,463)). -/
def minuteSeconds (q : Int) : Nat :=
  let den := 7563 * (5 * q + 5463)
  if den ≤ 0 then 0 else
  let x := 162470 * (5 * q - 2100) * fxOne / den
  if x < -(50 * fxOne) then 0
  else ((60 * squareN 6 (expSum (x / 64) 40 0 fxOne 0) + fxOne / 2) / fxOne).toNat

/-- The histogram bin of a temperature in quarters of °C. -/
def tempBin (q : Int) : Nat := if q < -160 then 0 else if q ≥ 600 then 39 else ((q + 160) / 20 + 1).toNat

/-- The lifetime counters' record is intact (Table 15-5); one that is not is rebuilt from zero. -/
def lifeOk (s : State) : Bool := crc32 ((List.range 60).map fun i => byteAt s.keep (0x240 + i)) == (memWord s.keep 0x27C).toNat

def lifeNat (s : State) (o n : Nat) : Nat := if lifeOk s then leNat ((List.range n).map fun i => byteAt s.keep (0x240 + o + i)) else 0

/-- `n` little-endian bytes of a number. -/
def natBytes : Nat → Nat → List Byte
  | 0, _ => []
  | n + 1, v => BitVec.ofNat 8 v :: natBytes n (v / 256)

/-- LIFETIME_UPDATE: once per minute of power-on time (R433). -/
def lifetimeOp (s : State) : State :=
  if s.tb < (s.slt.lifeMin + 1) * 60000000000 then s else
  let t := s.slt
  let q : Int := let v (k : Nat) : Int := toInt 16 (s.rf (Reg.SNS_TEMP k) 15 0); max (max (v 0) (v 1)) (max (v 2) (v 3))
  let rst (i : Nat) : List Byte := natBytes 2 (lifeNat s (8 + 2 * i) 2 + vget t.lifeRst i 0)
  let body := natBytes 4 (lifeNat s 0 4 + 1) ++ natBytes 4 (lifeNat s 4 4 + t.lifeSafe) ++ rst 0 ++ rst 1 ++ rst 2 ++ rst 3 ++ rst 4
    ++ natBytes 2 0 ++ natBytes 4 (lifeNat s 0x14 4 + t.lifeFmt) ++ natBytes 8 (lifeNat s 0x18 8 + minuteSeconds q)
    ++ natBytes 4 (lifeNat s 0x20 4 + t.lifeSec) ++ natBytes 4 (lifeNat s 0x24 4 + t.lifeSlot) ++ natBytes 20 0
  let h := 0x280 + 4 * tempBin q
  let keep := setMemWord (setBytes s.keep 0x240 (body ++ wordBytes (wordN (crc32 body)))) h (memWord s.keep h + 1)
  { s with keep := keep, slt := { t with lifeMin := s.slt.lifeMin + 1, lifeSafe := 0, lifeRst := Vector.replicate 5 0, lifeFmt := 0,
                                         lifeSec := 0, lifeSlot := 0 } }

/-! The mailbox (R434–R436). -/

/-- The claim has lapsed: 100 ms have passed without a GO since the claim or the last completion (R434). -/
def claimLapsed (s : State) : Bool := s.slt.claim.isSome && !s.slt.busy && decide (s.slt.claimTb + 100000000 ≤ s.tb)

def holdsMbx (s : State) (m : Master) : Bool := s.slt.claim == some (shadowKey m) && !claimLapsed s

/-- MBX_CLAIM as it reads with a grant or without. -/
def claimWord (s : State) (granted : Bool) : Word :=
  match s.slt.claim with
  | some m => mkb granted 31 ||| mkw 1 30 ||| mkw (masterThread m) 24 ||| mkw (masterCode m) 16
  | none => 0

/-- The claim ends 100 ms after the claim or the last completion without a GO. -/
def mbxTimeoutOp (s : State) : State :=
  if claimLapsed s then s.modSlt fun t => { t with claim := none } else s

/-- A read of MBX_CLAIM: host and engine threads may claim (R434). -/
def mbxClaimRead (s0 : State) (m : Master) : Word × State :=
  let s := mbxTimeoutOp s0
  let may := match m with | .host _ => true | .engine _ => true | _ => false
  if s.slt.claim.isNone && may then
    let s1 := s.modSlt fun t => { t with claim := some (shadowKey m), claimTb := s.tb }
    (claimWord s1 true, s1)
  else (claimWord s false, s)

def mbxReleaseOp (s : State) (m : Master) : State := if holdsMbx s m then s.modSlt fun t => { t with claim := none } else s

def stOk : Nat := 0x00
def stUnknown : Nat := 0x01
def stNotSecure : Nat := 0x02
def stBadParam : Nat := 0x03
def stBusy : Nat := 0x04
def stState : Nat := 0x05
def stFlashErr : Nat := 0x06
def stInvalid : Nat := 0x07
def stAlready : Nat := 0x08
def stBusErr : Nat := 0x09
def stRomOnly : Nat := 0x0A

def reqWord (s : State) (i : Nat) : Word := s.reg (Reg.MBX_REQ i)

def reqCode (s : State) : Nat := fld (reqWord s 0) 7 0

/-- The command completes: the response, then DONE and STATUS (R435). -/
def complete (s : State) (st : Nat) (ws : List Word) : State :=
  let w0 := mkw st 0 ||| mkw (fld (reqWord s 0) 15 8) 8 ||| mkw (4 * ws.length) 16
  let s1 := forEach (List.range (ws.length + 1)) s fun s i => s.setReg (Reg.MBX_RSP i) ((w0 :: ws).getD i 0)
  s1.modSlt fun t => { t with busy := false, done := true, status := st, claimTb := s.tb }

/-- The commands of Table 15-7 and whether each is secure. -/
def mbxCodes : List (Nat × Bool) :=
  [(0x01, false), (0x02, false), (0x03, false), (0x04, false), (0x05, false), (0x10, true), (0x11, true), (0x12, true), (0x20, true),
   (0x21, true), (0x22, true), (0x23, true), (0x24, true), (0x30, true)]

/-- Codes served in ROM mode. -/
def romServes (c : Nat) : Bool := c == 0x01 || c == 0x12 || (0x20 ≤ c && c ≤ 0x24)

/-- MBX_CTL.GO from the claimant; an unknown CODE ends at once (R435, R436). -/
def mbxGoOp (s : State) (m : Master) : State :=
  if !holdsMbx s m || s.slt.busy then s else
  let s1 := s.modSlt fun t => { t with busy := true, done := false, goSec := masterSecure m, goMaster := some m, goOwn := sltSpools s }
  if mbxCodes.any fun c => c.1 == reqCode s1 then s1 else complete s1 stUnknown []

/-- Safelight serves the command in progress when its CODE is `code`. -/
def serve (s : State) (code : Nat) (f : State → State) : State :=
  if !s.slt.busy || reqCode s != code then s
  else if (mbxCodes.any fun c => c.1 == code && c.2) && !s.slt.goSec then
    let w := mkw code 0 ||| mkw (match s.slt.goMaster with | some m => masterCode m | none => 0) 16
    (complete s stNotSecure []).raise0 333 1 (.word w)
  else if !s.slt.fwRun && !romServes code then complete s stRomOnly []
  else f s

/-- MBX_CTL lands: RELEASE, then GO. -/
def mbxCtlWrite (s : State) (m : Master) (w : Word) : State :=
  let s1 := if bitAt w 1 then mbxReleaseOp s m else s
  if bitAt w 0 then mbxGoOp s1 m else s1

/-- A register of the block lands. -/
def sltWrite (s : State) (m : Master) (a : Nat) (w : Word) : State :=
  if a = Reg.MBX_CTL then mbxCtlWrite s m w
  else if 0x008E0100 ≤ a ∧ a < 0x008E0200 then (if holdsMbx s m then s.setReg a w else s)
  else s.setReg a (mergeBits (s.reg a) w ((regDesc a).rw ||| (regDesc a).rws))

/-! Services (Table 15-7). -/

/-- The words of a byte list, the last one padded with zeros. -/
def packWords : Nat → List Byte → List Word
  | 0, _ => []
  | _ + 1, [] => []
  | n + 1, b0 :: r => ofBytes b0 (r.getD 0 0) (r.getD 1 0) (r.getD 2 0) :: packWords n (r.drop 3)

def infoOp (s : State) : State :=
  serve s 0x01 fun s =>
    let v (k : Nat) : Word := if s.slt.fwRun && fwCheck s k = 0 then fwVersion s k else 0
    complete s stOk [sltVer s, sltStat s, bootStat s, s.reg Reg.NEG_VER, s.reg Reg.NEG_CRC, v 0, v 1]

def insertSeq (e : List Byte) : List (List Byte) → List (List Byte)
  | [] => [e]
  | f :: r => if entrySeq e ≤ entrySeq f then e :: f :: r else f :: insertSeq e r

def logReadOp (s : State) : State :=
  serve s 0x02 fun s =>
    let first := (reqWord s 1).toNat
    let all := (((logEntries s).map Prod.snd) ++ s.slt.log).filter fun e => decide (first ≤ entrySeq e)
    let es := (all.foldl (fun acc e => insertSeq e acc) []).take 7
    complete s stOk (wordN es.length :: packWords 64 es.flatten)

def lifeReadOp (s : State) : State :=
  serve s 0x03 fun s =>
    let o := (reqWord s 1).toNat
    if o < 0x240 ∨ 0x320 ≤ o then complete s stBadParam []
    else complete s stOk (packWords 64 ((List.range (0x320 - o)).map fun i => byteAt s.keep (o + i)))

def certReadOp (s : State) : State :=
  serve s 0x04 fun s =>
    let o := (reqWord s 1).toNat
    let l := if 8 ≤ (region s 5).2 then min (certLen s) ((region s 5).2 - 8) else 0
    if l < o then complete s stBadParam []
    else complete s stOk (wordN l :: packWords 64 (flashRun s ((region s 5).1 + 8 + o) (min 224 (l - o))))

/-- The statement of Table 15-9. -/
def attestBytes (s : State) : List Byte :=
  let dg := if s.boot.image = 3 || s.boot.imgLen = 0 then natBytes 32 0 else signedDigest s s.boot.imgOfs s.boot.imgLen
  let fw := if s.slt.fwRun then fwVersion s (s.slt.fwSlot - 1) else 0
  let facts := mkb s.boot.unsigned 0 ||| mkb s.ownerKey.isSome 1 ||| mkb (s.rb Reg.HP_SEC 0) 2 ||| mkb s.safe.safe 3
  natBytes 4 0x54415153 ++ natBytes 2 1 ++ natBytes 2 0x9648 ++ natBytes 8 Config.serial.toNat
    ++ [BitVec.ofNat 8 (regDesc Reg.ID_STEP).rst.toNat, BitVec.ofNat 8 s.order, BitVec.ofNat 8 s.boot.image, BitVec.ofNat 8 s.boot.active]
    ++ wordBytes (s.reg Reg.NEG_VER) ++ wordBytes (s.reg Reg.NEG_CRC) ++ wordBytes (bootCount s) ++ dg
    ++ natBytes 4 Config.romVersion.toNat ++ wordBytes fw ++ natBytes 4 s.slt.fwSlot ++ wordBytes facts ++ natBytes 8 s.tb ++ natBytes 8 0
    ++ (List.range 8).flatMap fun i => wordBytes (reqWord s (1 + i))

def attestOp (s : State) : State :=
  serve s 0x05 fun s =>
    let body := attestBytes s
    let sig := (Config.ecdsaSign (Config.sha256 body).toList s.free).toList
    let s1 := { s with free := s.free + 1 }
    (complete s1 stOk (packWords 64 (body ++ sig))).raise0 334 1 (.word 0)

/-- POST (R438): `chPass` and `unitPass` are what the loopback found, `fail` its first failure. -/
def postOp (s : State) (chPass : BitVec 128) (unitPass : BitVec 8) (fail : Word) : State :=
  serve s 0x10 fun s =>
    if !s.safe.safe || s.safe.rundown.isSome || s.rf Reg.VCAL_STAT 4 0 != 0x1F then complete s stState [] else
    let mask (i : Nat) : Bool := bitAt (reqWord s (1 + i / 32)) (i % 32)
    let um (i : Nat) : Bool := bitAt (reqWord s 5) i
    let chTest (i : Nat) : Bool := mask i && !chOn s i
    let uTest (i : Nat) : Bool := um i && !spkEn s i
    let bits (p : Nat → Bool) (k : Nat) : Word := wordN (sensorBits 32 fun j => p (32 * k + j))
    let chOk (i : Nat) : Bool := chTest i && chPass.getLsbD i
    let uOk (i : Nat) : Bool := uTest i && unitPass.getLsbD i
    let bad := ((List.range 128).any fun i => chTest i && !chOk i) || (List.range 8).any fun i => uTest i && !uOk i
    let w9 := mkw (sensorBits 8 uOk) 0 ||| mkw (sensorBits 8 fun i => um i && spkEn s i) 8
    let w10 := if bad then fail else 0
    let s1 := forEach ((List.range 128).filter chTest) s fun s i => s.modCh i fun c => { c with fifo := [] }
    let (d, s2) := if bad then s1.drawWord else (0, s1)
    let s3 := logService s2 6 d
    (complete s3 stOk ([bits chOk 0, bits chOk 1, bits chOk 2, bits chOk 3] ++ ((List.range 4).map fun k => bits (fun i => mask i && chOn s i) k)
      ++ [w9, w10])).raise0 332 (if bad then 2 else 1) (.word w10)

def rundownCmdOp (s : State) : State :=
  serve s 0x11 fun s => if rundownBarred s then complete s stState [] else rundownStart (complete s stOk []) .slt

/-- RESET (R437): the reset follows the completion. -/
def resetCmdOp (s : State) : State :=
  serve s 0x12 fun s =>
    match (reqWord s 1).toNat with
    | 1 => coreResetOp (complete s stOk []) rcSlt
    | 2 => fullResetOp (complete s stOk []) rcSlt
    | _ => complete s stBadParam []

/-! Updates (R439–R442). -/

/-- The target is the negative that was loaded or the firmware that is running (R439). -/
def targetInUse (s : State) (t : Nat) : Bool :=
  if t < 2 then s.boot.image == t + 1 else s.slt.fwRun && s.slt.fwSlot == t - 1

/-- An update command ends: logged, and with its record on source 331 where one belongs (Table 15-6, Table 15-10). -/
def updEnd (s : State) (st : Nat) (ws : List Word) (kind : Nat) : State :=
  let d := mkw (reqCode s) 0 ||| mkw st 8
  let s1 := logService (complete s st ws) 4 d
  if kind = 0 then s1 else s1.raise0 331 kind (.word d)

def setVerified (s : State) (t : Nat) (b : Bool) : State := s.modSlt fun x => { x with verified := vmodN x.verified t fun _ => b }

/-- What bars UPD_ERASE and UPD_WRITE of target `t`, if anything: status BUSY or STATE. -/
def updBarred (s : State) (t : Nat) : Option Nat :=
  if s.boot.phase = 1 then some stBusy
  else if targetInUse s t || (region s t).2 = 0 || !flashFree s then some stState
  else none

def updEraseOp (s : State) (ok : Bool) : State :=
  serve s 0x20 fun s =>
    let t := (reqWord s 1).toNat
    if t ≥ 4 then updEnd s stBadParam [] 0 else
    match updBarred s t with
    | some st => updEnd s st [] 0
    | none =>
      let r := region s t
      let s1 := setVerified s t false
      let erased (s : State) : State := (flashErase s r.1 (r.1 + r.2)).modSlt fun x => { x with lifeSlot := x.lifeSlot + 1 }
      if ok then updEnd (erased s1) stOk [] 0
      else
        let (b, s2) := s1.drawBool
        updEnd (if b then erased s2 else s2) stFlashErr [] 0

/-- The words of a spool range as Safelight reads them, and whether a bus error ended it. -/
def spoolRun : Nat → State → Nat → List Byte → Bool × List Byte × State
  | 0, s, _, acc => (false, acc, s)
  | n + 1, s, a, acc =>
    let (w, err, s1) := spoolAccessOp s .safelight a 4 none
    if err then (true, acc, hpError s1 0 .safelight a .b4 false) else spoolRun n s1 (a + 4) (acc ++ wordBytes w)

/-- UPD_WRITE (R439): a region in test that its source meets is aborted, and Safelight reads it once the region is released (R346). -/
def updWriteOp (s : State) (ok : Bool) : State :=
  serve s 0x21 fun s =>
    let t := (reqWord s 1).toNat
    let o := (reqWord s 2).toNat
    let a := (reqWord s 3).toNat
    let len := (reqWord s 4).toNat
    if t ≥ 4 || o % 256 != 0 || len % 4 != 0 || len < 4 || len > 1048576 || (t < 4 && o + len > (region s t).2) then updEnd s stBadParam [] 0 else
    match updBarred s t with
    | some st => updEnd s st [] 0
    | none =>
      let n := a / 0x100000
      if a + len > 0x800000 || (a + len - 1) / 0x100000 != n || !s.slt.goOwn.contains n then updEnd s stState [] 0 else
      if (wordRun a (len / 4)).any (inBorrowed s) then testAbort s n else
      let (err, bs, s1) := spoolRun (len / 4) (setVerified s t false) a []
      if err then updEnd s1 stBusErr [] 0 else
      let base := (region s t).1 + o
      if ok then updEnd (handoverOp (flashProgram s1 base bs) .safelight n 0) stOk [] 1
      else
        let (b, s2) := s1.drawBool
        updEnd (if b then flashProgram s2 base bs else s2) stFlashErr [] 0

def updVerifyOp (s : State) : State :=
  serve s 0x22 fun s =>
    let t := (reqWord s 1).toNat
    if t ≥ 4 then updEnd s stBadParam [] 0 else
    let code := if t < 2 then (negCheck s t).1 else fwCheck s (t - 2)
    updEnd (setVerified s t (code == 0)) (if code = 0 then stOk else stInvalid) [wordN code] 2

/-- The arm that a field of UPD_ARM leaves: 0 keeps, 3 clears, and the preferred slot clears (R440). -/
def armOf (old pref f : Nat) : Nat := if f = 0 then old else if f = 3 || f = pref + 1 then 0 else f

def updArmOp (s : State) : State :=
  serve s 0x23 fun s =>
    let neg := fld (reqWord s 1) 1 0
    let fw := fld (reqWord s 1) 5 4
    let bad (f base : Nat) : Bool := (f == 1 || f == 2) && !vget s.slt.verified (base + f - 1) false
    if bad neg 0 || bad fw 2 then updEnd s stInvalid [] 0 else
    let n := armOf s.slt.armNeg (prefSlot s) neg
    let f := armOf s.slt.armFw (fwPref s) fw
    let s1 := sltRecPut s (fwPref s) n f (sltSlot s)
    updEnd (s1.modSlt fun x => { x with armNeg := n, armFw := f }) stOk [] 0

def updActivateOp (s : State) : State :=
  serve s 0x24 fun s =>
    if rundownBarred s || (s.slt.armNeg = 0 && s.slt.armFw = 0) then updEnd s stState [] 0
    else rundownStart (updEnd s stOk [] 0) .activate

/-- The run-down of UPD_ACTIVATE has ended in safe state: the switch, and a full reset (R441). -/
def activateOp (s : State) : State :=
  let s1 := fullResetOp (performSwitch s) rcSlt
  { s1 with boot := { s1.boot with switched := true } }

/-- KEY_OWNER (R445). -/
def keyOwnerOp (s : State) : State :=
  serve s 0x30 fun s =>
    if s.ownerKey.isSome then complete s stAlready [] else
    let h := (List.range 8).flatMap fun i => wordBytes (reqWord s (1 + i))
    (complete { s with ownerKey := some h } stOk []).raise0 334 2 (.word 0)

end Sys2Proof.Machine
end

