-- ==== Sys2Proof/Machine/RegRead.lean ====
section
/-! DEFINITION. What a register reads as: stored words, words composed from typed state, latch groups, pops, claims and
clear-on-read (R5, R22, R364, R366, R367, R370). -/

namespace Sys2Proof.Machine

/-- HP_SEC for master `m` (R373). -/
def hpSec (s : State) (m : Master) : Word := (s.reg Reg.HP_SEC &&& 1) ||| mkb s.host.hsec 1 ||| mkb (masterSecure m) 2

/-- TIO_INk. -/
def tioInWord (s : State) (k : Nat) : Word :=
  (List.range 32).foldl (fun w j => if tioIn s (32 * k + j) then setBit w j else w) 0

/-- CAL_STAT. -/
def calStat (s : State) : Word :=
  mkb (decide (s.cal.used ≥ tableSize)) 0 ||| mkb (s.cal.spillBad || (spillOn s && decide (s.cal.spill.length ≥ spillSize s))) 1
  ||| mkb (s.cal.spill.any fun e => e.waited) 2 ||| mkb s.cal.flushing 3

/-- A period register before its first measurement reads its reset value (SPKn_TLAST, SPKn_TPREV). -/
def periodWord (t : Option Nat) : Word := match t with | some v => showPeriod v | none => 0xFFFFFFFF

/-- The words of sprocket unit `n` that typed state gives, by offset. -/
def readSpk (s : State) (n o a : Nat) : Option Word :=
  let u := s.spkAt n
  match o with
  | 0x40 => some (spkPosNow s n).1
  | 0x44 => some (spkPosNow s n).2
  | 0x48 => some (spkStateWord s n)
  | 0x50 => some (wordN u.vis.phys)
  | 0x54 => some (spkTpredWord s n)
  | 0x58 => some (periodWord u.vis.tLast)
  | 0x5C => some (periodWord u.vis.tPrior)
  | 0x60 => some (lo32 (u.vis.stamp / 16))
  | 0x64 => some (hi32 (u.vis.stamp / 16))
  | 0x68 => some (wordN (u.vis.stamp % 16))
  | 0x90 => some (match u.phOld s.tb with | e :: _ => e.pos | [] => 0)
  | 0x94 => some (match u.phOld s.tb with | e :: _ => e.cyc | [] => 0)
  | 0x98 => some (match u.phOld s.tb with | e :: _ => e.err | [] => 0)
  | 0x9C => some (s.reg a ||| mkw u.fifo.length 0)
  | _ => none

/-- The words of exposure group `g` that typed state gives, by offset. -/
def readExg (s : State) (g o a : Nat) : Option Word :=
  match o with
  | 0x04 => some (exgStat s g)
  | 0x14 => some ((s.reg a &&& 0x1FF) ||| mkw (s.exgAt g).phase 16)
  | 0x6C => some (mkw (exgCount s g) 0)
  | _ => none

/-- The words of blocks 0x80 to 0x83 that typed state gives; none where the stored word is read. -/
def readTimed (s : State) (a : Nat) : Option Word :=
  if a < 0x00800170 then
    if a = Reg.ID_ORDER then some (if s.otp then mkw s.order 0 else 0)
    else if a = Reg.ID_SERIAL_LO then some (if s.otp then Config.serial.setWidth 32 else 0)
    else if a = Reg.ID_SERIAL_HI then some (if s.otp then (Config.serial >>> 32).setWidth 32 else 0)
    else if a = Reg.TB_LO then some (lo32 s.tb)
    else if a = Reg.TB_HI then some (hi32 s.tb)
    else if a = Reg.CS_STAT then some (csStat s)
    else if inArr (a - 0x00800000) 0x10C 0x20 4 then some (fixStat s ((a - 0x0080010C) / 0x20))
    else none
  else if 0x00810000 ≤ a ∧ a < 0x00812000 then readSpk s ((a - 0x00810000) / 0x400) ((a - 0x00810000) % 0x400) a
  else if 0x00820000 ≤ a ∧ a < 0x00822000 then readCh s ((a - 0x00820000) / 0x40) ((a - 0x00820000) % 0x40) a
  else if 0x00822200 ≤ a ∧ a < 0x00822210 then some (tioInWord s ((a - 0x00822200) / 4))
  else if 0x00822210 ≤ a ∧ a < 0x00822220 then
    let k := (a - 0x00822210) / 4
    some (s.reg a ||| mkb (vget s.vdet k false) 1 ||| mkb (bankMismatch s k) 2)
  else if 0x00830000 ≤ a ∧ a < 0x00831000 then readExg s ((a - 0x00830000) / 0x100) ((a - 0x00830000) % 0x100) a
  else if a = Reg.TRIP_IN then some (s.trip.setWidth 32)
  else none

/-- A register that keeps its reserved bits, which read 0, for a later check: CAL_D0 (R126), CPY_SRCk and CPY_DSTk (R350). -/
def keptWhole (a : Nat) : Bool :=
  a == Reg.CAL_D0 0 || a == Reg.CAL_D0 1 || (0x008A0400 ≤ a && a < 0x008A0500 && (a % 0x20 == 8 || a % 0x20 == 0xC))

/-- The words of blocks 0x84 to 0x8E that typed state gives. -/
def readCore (s : State) (m : Master) (a : Nat) : Option Word :=
  if a = Reg.CAL_STAT then some (calStat s)
  else if a = Reg.CAL_OCC then some (mkw s.cal.armedN 16 ||| mkw s.cal.occ 0)
  else if a = Reg.CAL_SPOCC then some (mkw s.cal.spill.length 0)
  else if 0x00850000 ≤ a ∧ a < 0x00860000 then some (engRead s a)
  else if a = Reg.CT_STAT then some (ctStat s)
  else if a = Reg.CT_COL then some (ctCol s)
  else if 0x00868000 ≤ a ∧ a < 0x00869000 ∧ a % 0x200 = 4 then some (linkStat s ((a - 0x00868000) / 0x200))
  else if 0x00870000 ≤ a ∧ a < 0x00874000 ∧ a % 0x200 = 4 then some (shqStat s ((a - 0x00870000) / 0x200))
  else if a = Reg.SAFE_STAT then some (safeStat s)
  else if a = Reg.HWD_STAT then some (hwdStat s)
  else if 0x00881000 ≤ a ∧ a < 0x00883000 ∧ a % 0x20 = 0x0C then some (wordN (mtrE s ((a - 0x00881000) / 0x20)))
  else if 0x00881000 ≤ a ∧ a < 0x00883000 ∧ a % 0x20 = 0x10 then some (mkb (s.mtrAt ((a - 0x00881000) / 0x20)).forced 0)
  else if 0x00890000 ≤ a ∧ a < 0x00894000 then some (evrRead s m a)
  else if 0x008A0000 ≤ a ∧ a < 0x008A0200 ∧ a % 0x40 = 4 then
    some ((s.reg a &&& 3) ||| mkw (pwrNow s ((a - 0x008A0000) / 0x40)).code 8)
  else if 0x008A0000 ≤ a ∧ a < 0x008A0200 ∧ a % 0x40 = 0x20 then some (splTstat s ((a - 0x008A0000) / 0x40))
  else if keptWhole a then some (s.reg a &&& (regDesc a).rw)
  else if 0x008A0400 ≤ a ∧ a < 0x008A0500 ∧ a % 0x20 = 4 then some (cpyStat s ((a - 0x008A0400) / 0x20))
  else if a = Reg.HP_CFG then some (mkb s.host.parallel 0)
  else if a = Reg.HP_SEC then some (hpSec s m)
  else if a = Reg.BOOT_STAT then some (bootStat s)
  else if a = Reg.BOOT_CFG then some ((s.reg a &&& 0xFF00) ||| mkb s.boot.startGate 2 ||| mkb s.boot.autoExit 1)
  else if a = Reg.FMT_STAT then some (fmtStat s)
  else if a = Reg.CAS_STAT then some (casStat s)
  else if a = Reg.MBX_STAT then some (mbxStat s)
  else if a = Reg.SLT_VER then some (sltVer s)
  else if a = Reg.SLT_STAT then some (sltStat s)
  else if 0x008E0200 ≤ a ∧ a < 0x008E0300 ∧ !holdsMbx s m then some 0
  else none

/-- The register as it reads for master `m`, without the effects of the read: WO bits are 0, RWS bits are 0 for a master that
is not secure (Table 0-4), and the fields of source F and N are 0 before the OTP step of boot (R8). A register of the TB domain
shows the start of the tb before the core edge (R13, R116, Table 1-4). -/
def regShow (s0 : State) (m : Master) (a : Nat) : Word :=
  let s := if tbDomain a then s0.sampled else s0
  let d := regDesc a
  let w := (readTimed s a).getD ((readCore s m a).getD (s.reg a))
  w &&& ~~~ d.wo &&& (if masterSecure m then 0xFFFFFFFF else ~~~ d.rws) &&& (if s.otp then 0xFFFFFFFF else ~~~ d.otp)

/-- The registers returned from a shadow (Table 12-4). -/
def isLatched (a : Nat) : Bool :=
  a == Reg.TB_HI || a == Reg.ID_SERIAL_HI
  || (0x00810000 ≤ a && a < 0x00812000 && [0x44, 0x64, 0x68, 0x94, 0x98].contains (a % 0x400))
  || (0x00820000 ≤ a && a < 0x00822000 && a % 0x40 == 0x30)

/-- The registers that a read of the group's first register latches (Table 12-4). -/
def latchGroup (a : Nat) : List Nat :=
  if a = Reg.TB_LO then [Reg.TB_HI]
  else if a = Reg.ID_SERIAL_LO then [Reg.ID_SERIAL_HI]
  else if 0x00810000 ≤ a ∧ a < 0x00812000 then
    match a % 0x400 with
    | 0x40 => [a + 4]
    | 0x60 => [a + 4, a + 8]
    | 0x90 => [a + 4, a + 8]
    | _ => []
  else []

/-- The group's other registers go to the reader's shadow (R367). -/
def latch (s : State) (m : Master) (a : Nat) : State :=
  forEach (latchGroup a) s fun t b => t.putShadow m b (regShow s m b)

/-- A window of the register space that is no register: the snapshot buffer, the user area of the keep store, or an
engine's memory (R31, R175, R392). -/
def isSnapshot (a : Nat) : Bool := 0x00801000 ≤ a && a < 0x00802000
def isKeep (a : Nat) : Bool := 0x008C8000 ≤ a && a < 0x008D0000
def isWindow (a : Nat) : Bool := 0x00850000 ≤ a && a < 0x00860000 && 0x800 ≤ a % 0x1000

/-- EVR_CLAIM of a bank (R323): bank and class. -/
def claimReg (a : Nat) : Option (Nat × Bool) :=
  if 0x00891000 ≤ a ∧ a < 0x00894000 then
    match a % 0x1000 with
    | 0x50 => some ((a - 0x00891000) / 0x1000, false)
    | 0x90 => some ((a - 0x00891000) / 0x1000, true)
    | _ => none
  else none

/-- A read of EVR_CLAIM by a master that reaches it; Safelight's claim on bank S feeds the log (R323, R431). -/
def claimRead (s : State) (m : Master) (a b : Nat) (fast : Bool) : Word × State :=
  if !evrReach m a then (0, s)
  else
    let (w, s1) := claimOp s b fast
    (w, if m = .safelight ∧ b = 2 ∧ bitAt w 31 then logClaimed s1 b fast else s1)

/-- A read of the word at `a` (a multiple of 4 in the register space) of which the bits `ret` are returned (R364, R370). -/
def regRead (s : State) (m : Master) (a : Nat) (ret : Word) : Word × State :=
  if isSnapshot a then snapRead s (a - 0x00801000)
  else if isKeep a then (memWord s.keep (a - 0x008C0000), s)
  else if isWindow a then windowRead s ((a - 0x00850000) / 0x1000) (a % 0x1000 - 0x800)
  else if isLatched a then (s.shadow m a, s)
  else if a = Reg.MBX_CLAIM then mbxClaimRead s m
  else if 0x00820000 ≤ a ∧ a < 0x00822000 ∧ a % 0x40 = 0x2C then
    let (w, x, s1) := capRead s ((a - 0x00820000) / 0x40)
    (w, s1.putShadow m (a + 4) x)
  else if 0x00870000 ≤ a ∧ a < 0x00874000 ∧ a % 0x200 = 0x3C then rxRead s ((a - 0x00870000) / 0x200)
  else match claimReg a with
    | some (b, fast) => claimRead s m a b fast
    | none =>
      let w := regShow s m a
      let s1 := latch s m a
      let s2 := if 0x00810000 ≤ a ∧ a < 0x00812000 ∧ a % 0x400 = 0x90 then
          phasePop s1 ((a - 0x00810000) / 0x400) else s1
      let rc := (regDesc a).rc
      if rc = 0 ∨ (0x00890000 ≤ a ∧ a < 0x008A0000 ∧ !evrReach m a) then (w, s2)
      else
        s2.rcRead a ret w

end Sys2Proof.Machine
end

