-- ==== Sys2Proof/Machine/RegWrite.lean ====
section
/-! DEFINITION. What a register write does when it lands: one handler per block, below the rules of access (R5, R32, R84,
R122, R159, R363–R368, R375). -/

namespace Sys2Proof.Machine

/-- The stored word takes the RW and RWS bits of `w`. -/
def regStore (s : State) (a : Nat) (w : Word) : State :=
  let d := regDesc a
  s.setReg a (mergeBits (s.reg a) w (d.rw ||| d.rws))

/-- The global block. -/
def globalWrite (s : State) (m : Master) (a : Nat) (w : Word) : State :=
  if a = Reg.CS_CTL then csCtlWrite s m w
  else if a = Reg.RST_CTL then rstCtlWrite s w
  else if inArr (a - 0x00800000) 0x100 0x20 4 then fixCtlWrite s ((a - 0x00800100) / 0x20) w
  else regStore s a w

/-- The fields of a sprocket unit's registers that are live (R84); SPKn_CTL and SPKn_PH_CTL have handlers of their own. -/
def spkLive (o : Nat) : Word :=
  match o with
  | 0x10 => 0x0F700F0F
  | 0x14 => 0xFF000000
  | 0x18 => 0xFFFFFFFF
  | 0x1C => 0x0000FFFF
  | 0x24 => 0xFFFFFFFF
  | 0x28 => 0xFFFFFFFF
  | 0x84 => 0xFFFFFFFF
  | 0x88 => 0xFFFFFFFF
  | 0x8C => 0xFFFFFFFF
  | _ => 0

/-- SPKn_CMD.CLR_CNT: the error counters and OUTSIDE (R84). -/
def spkClrOp (s : State) (n : Nat) : State :=
  let s1 := (s.clearCnt (Reg.SPK_ERRCNT0 n)).clearCnt (Reg.SPK_ERRCNT1 n)
  (s1.setRf (Reg.SPK_PH_STAT n) 31 16 0).markWr (Reg.SPK_PH_STAT n)

/-- SPKn_CMD lands: CLR_CNT, then RESYNC, then DROP_JOURNAL. -/
def spkCmdWrite (s : State) (n : Nat) (w : Word) : State :=
  let s1 := if bitAt w 1 then spkClrOp s n else s
  let s2 := if bitAt w 0 then spkResync s1 n else s1
  if bitAt w 2 then journalVoid s2 n else s2

/-- A register of sprocket unit `n` lands (R84). -/
def spkWrite (s : State) (n o : Nat) (w : Word) : State :=
  let a := 0x00810000 + 0x400 * n + o
  if o = 0 then spkWriteCtl s n w
  else if o = 0x80 then phaseWriteCtl s n w
  else if o = 0x2C then spkCmdWrite s n w
  else if o = 0x18 then spkStopWrite s n w
  else if !spkEn s n then regStore s a w
  else
    let d := regDesc a
    let v := w &&& (d.rw ||| d.rws)
    let locked := (v ^^^ s.reg a) &&& (d.rw ||| d.rws) &&& ~~~ (spkLive o)
    let s1 := s.setReg a (mergeBits (s.reg a) v (spkLive o &&& (d.rw ||| d.rws)))
    if locked != 0 then spkEvent s1 n seCfgLocked else s1

/-- A register of channel `n` that is not staged lands. -/
def chWrite (s : State) (n o : Nat) (w : Word) : State :=
  match o with
  | 0x04 => chWriteCnt s n w
  | 0x34 => chCommand s n w
  | _ => regStore s (0x00820000 + 0x40 * n + o) w

/-- The outcome of bank k's latest round applies to its channels (R119, R120). -/
def vcalApply (s : State) (k : Nat) : State :=
  if k ≥ 4 then s else
  let mask : BitVec 128 := BitVec.ofNat 128 (0xFFFFFFFF * 2 ^ (32 * k))
  let fail : BitVec 128 := BitVec.ofNat 128 ((s.reg (Reg.VCAL_FAIL k)).toNat * 2 ^ (32 * k))
  { s with vcalOff := (s.vcalOff &&& ~~~ mask) ||| fail }

/-- VCAL_CTL lands: at the end of HOLD the latest rounds apply (R119). -/
def vcalCtlWrite (s : State) (w : Word) : State :=
  let held := s.rb Reg.VCAL_CTL 1
  let s1 := regStore s Reg.VCAL_CTL w
  if held && !bitAt w 1 then forEach [0, 1, 2, 3] s1 vcalApply else s1

/-- TIO_CFGn lands: a pin that leaves SEQUENCER meets its gate, and a new OINV changes the level before it (R122, R298). -/
def tioCfgWrite (s : State) (n : Nat) (w : Word) : State :=
  settleBall (gateJoin (regStore s (Reg.TIO_CFG n) w) n) n (beforeGate s n (s.pinAt n).post)

/-- A pin or calibration register lands (R122, R123). -/
def tioWrite (s : State) (a : Nat) (w : Word) : State :=
  let o := a - 0x00822000
  if o < 0x200 then tioCfgWrite s (o / 4) w
  else if 0x210 ≤ o ∧ o < 0x220 then
    settlePins (regStore s a w) ((List.range 32).map fun j => 32 * ((o - 0x210) / 4) + j)
  else if a = Reg.VCAL_CTL then vcalCtlWrite s w
  else regStore s a w

/-- A shared register of the exposure groups lands. -/
def exgSharedWrite (s : State) (a : Nat) (w : Word) : State :=
  let o := a - 0x00831000
  if o = 0 then exgGoOp s w
  else if 0x100 ≤ o ∧ o < 0x140 then tripCfgWrite s ((o - 0x100) / 4) w
  else regStore s a w

/-- The request that bank `b`'s registers describe. -/
def bankReq (s : State) (b : Fin 2) (cancel : Bool) (h : Word) : CalReq :=
  let r (a : Nat → Nat) : Word := s.reg (a b.val)
  { who := .bank b, cancel := cancel, d0 := if cancel then h else r Reg.CAL_D0, d1 := r Reg.CAL_D1, d2 := r Reg.CAL_D2,
    d3 := r Reg.CAL_D3, d4 := r Reg.CAL_D4, tb := s.cc }

/-- Bank 0 is the host's and bank 1 Safelight's (R159). -/
def bankMaster (b : Fin 2) (m : Master) : Bool :=
  match m with
  | .host _ => b == 0
  | .safelight => b == 1
  | _ => false

/-- A register of a descriptor bank lands (R159). The reserved bits of CAL_D0 read 0, and are kept for the check of the
descriptor (R126). -/
def calBankWrite (s : State) (m : Master) (a : Nat) (w : Word) : State :=
  let b : Fin 2 := if a < 0x00840140 then 0 else 1
  let o := (a - 0x00840100) % 0x40
  if !bankMaster b m then calEvent s evBankErr 0 0
  else if o = 0x14 ∨ o = 0x18 then
    if s.rf (Reg.CAL_RES b.val) 31 28 = 15 then calEvent s evIssueBusy 0 0
    else calAsk s (bankReq s b (o == 0x18) w)
  else if o = 0 then s.setReg a w
  else regStore s a w

/-- CAL_CMD.CLR_CNT (R158). -/
def calClrOp (s : State) : State :=
  (forEach (List.range 8) s fun t n => t.clearCnt (Reg.CAL_UCNT n)).clearCnt Reg.CAL_REFCNT

/-- CAL_FLUSH lands (R136). -/
def calFlushWrite (s : State) (w : Word) : State :=
  if bitAt w 0 then calFlush s (fld w 31 24) (fld w 23 16) (if bitAt w 15 then some (fld w 14 12) else none) else s

/-- A register of the calendar lands. -/
def calWrite (s : State) (m : Master) (a : Nat) (w : Word) : State :=
  if (0x00840100 ≤ a ∧ a < 0x00840120) ∨ (0x00840140 ≤ a ∧ a < 0x00840160) then calBankWrite s m a w
  else if a = Reg.CAL_FLUSH then calFlushWrite s w
  else if a = Reg.CAL_CMD then (if bitAt w 0 then calClrOp s else s)
  else if a = Reg.CAL_SPILL_CTL then spillCtlWrite s w
  else if a = Reg.CAL_SPILL_BASE then (if spillOn s then s else regStore s a w)
  else regStore s a w

/-- A register of the boot block lands. -/
def bootWrite (s : State) (a : Nat) (w : Word) : State :=
  if a = Reg.FMT_REQ then fmtRequestOp s w
  else if a = Reg.FMT_CMD then fmtCmdWrite s w
  else regStore s a w

/-- The bits of `w` that are not staged, or all of a register with none, land in the block of `a`. -/
def blockWrite (s : State) (m : Master) (a : Nat) (w : Word) : State :=
  if a < 0x00800170 then globalWrite s m a w
  else if 0x00810000 ≤ a ∧ a < 0x00812000 then spkWrite s ((a - 0x00810000) / 0x400) (a % 0x400) w
  else if 0x00820000 ≤ a ∧ a < 0x00822000 then chWrite s ((a - 0x00820000) / 0x40) (a % 0x40) w
  else if 0x00822000 ≤ a ∧ a < 0x00822320 then tioWrite s a w
  else if 0x00830000 ≤ a ∧ a < 0x00831000 then exgWrite s ((a - 0x00830000) / 0x100) (a % 0x100) w
  else if 0x00831000 ≤ a ∧ a < 0x00831220 then exgSharedWrite s a w
  else if 0x00840000 ≤ a ∧ a < 0x00840180 then calWrite s m a w
  else if 0x00850000 ≤ a ∧ a < 0x00860000 then engWrite s a w
  else if 0x00860000 ≤ a ∧ a < 0x00860600 then ctWrite s a w
  else if 0x00868000 ≤ a ∧ a < 0x00869000 then casLinkNote s (linkWrite s a w)
  else if 0x00870000 ≤ a ∧ a < 0x00874000 then shqWrite s ((a - 0x00870000) / 0x200) (a % 0x200) w
  else if 0x00880000 ≤ a ∧ a < 0x00883000 then safeWrite s m a w
  else if 0x00890000 ≤ a ∧ a < 0x00894000 then evrWrite s m a w
  else if 0x008A0000 ≤ a ∧ a < 0x008A0500 then splWrite s m a w
  else if 0x008B0000 ≤ a ∧ a < 0x008B0018 then regStore s a w
  else if 0x008C0000 ≤ a ∧ a < 0x008C0080 then bootWrite s a w
  else if 0x008D0000 ≤ a ∧ a < 0x008D00C0 then casWrite s a w
  else if 0x008E0000 ≤ a ∧ a < 0x008E0300 then sltWrite s m a w
  else s

/-- The RWS bits of `a` that master `m` writes: all for a secure master; SAFE_CMD.ENTER for an engine thread (R373). -/
def rwsFor (m : Master) (a : Nat) : Word :=
  let r := (regDesc a).rws
  if masterSecure m then r else match m with
    | .engine _ => if a = Reg.SAFE_CMD then r &&& 1 else 0
    | _ => 0

/-- The word that lands: writable bits from `w`, other stored bits kept (Table 0-4). -/
def landing (s : State) (m : Master) (a : Nat) (w : Word) : Word :=
  if keptWhole a then w else
  let d := regDesc a
  let wr := d.rw ||| d.wo ||| rwsFor m a
  mergeBits (s.reg a &&& (d.rw ||| d.rws)) w wr

/-- RWS bits that a master may not write are discarded with SEC_DENY (R375). -/
def regDeny (s : State) (m : Master) (a : Nat) (w : Word) : State :=
  let d := regDesc a
  if !masterSecure m && w &&& d.rws &&& ~~~ (rwsFor m a) != 0 then hpError s 2 m a .b4 true else s

/-- A register write lands: the staged fields by `sel`, or the block's registers (R5, R32). -/
def regLand (s : State) (m : Master) (sel : Option (Fin 4)) (a : Nat) (w : Word) : State :=
  let d := regDesc a
  let w1 := landing s m a w
  match memberReg s a with
  | some n => chEvent s n stWrDisc
  | none =>
  if d.sth != 0 then stagedWriteOp s sel a (w1 &&& d.sth)
  else if d.rw ||| d.wo ||| rwsFor m a = 0 ∧ !(0x00840100 ≤ a ∧ a < 0x00840160) then s
  else blockWrite s m a w1

/-- A 4-byte write of a register by a master whose staged fields go by `sel`, in the tb in which it lands (R5, R32, R375). -/
def regWrite (s : State) (m : Master) (sel : Option (Fin 4)) (a : Nat) (w : Word) : State :=
  if isSnapshot a then s
  else if isKeep a then { s with keep := setMemWord s.keep (a - 0x008C0000) w }
  else if isWindow a then engWrite s a w
  else regLand (regDeny s m a w) m sel a w

/-- A core write of a register completes: in a TB-domain block it lands 3 tb after the core edge, elsewhere at once (R14). -/
def regCross (s : State) (m : Master) (sel : Option (Fin 4)) (a : Nat) (w : Word) : State :=
  if tbDomain a then
    let s1 := regDeny s m a w
    { s1 with due := s1.due ++ [(s.cc + 3, .land m sel a w)] }
  else regWrite s m sel a w

end Sys2Proof.Machine
end

