-- ==== Sys2Proof/Machine/Bus.lean ====
section
/-! DEFINITION. Accesses of the masters: spools and register space, width and alignment, the host port in its two forms, and
the completion of an engine's fabric accesses (R41, R173, R337–R339, R353–R366, R373–R375). -/

namespace Sys2Proof.Machine

/-- The bytes lie at reserved locations of the register space, where an access is no error and sets no flag, whatever its width and
alignment (R366; log entry 91). -/
def reservedAt (a n : Nat) : Bool :=
  let word (a : Nat) : Bool :=
    regDesc (a / 4 * 4) == RegDesc.none && !isSnapshot (a / 4 * 4) && !isKeep (a / 4 * 4) && !isWindow (a / 4 * 4)
  word a && word (a + n - 1)

/-- A read of 1, 2 or 4 bytes (R337, R363–R366). Addresses from 0x0100_0000 are reserved (R41). -/
def busRead (s : State) (m : Master) (a : Nat) (sz : Size) : BusStatus × Word × State :=
  let n := sizeBytes sz
  if a < 0x800000 then
    match spoolAccessOp s m a n none with
    | (_, true, s1) => (.buserr, 0, hpError s1 0 m a sz false)
    | (w, false, s1) => (.ok, w, s1)
  else if decide (a ≥ 0x1000000) || reservedAt a n then (.ok, 0, s)
  else if a % n != 0 then (.buserr, 0, hpError s 0 m a sz false)
  else
    let sh := 8 * (a % 4)
    let ret : Word := BitVec.ofNat 32 ((2 ^ (8 * n) - 1) * 2 ^ sh)
    let (w, s1) := regRead s m (a / 4 * 4) ret
    (.ok, (w &&& ret) >>> sh, s1)

/-- A write of 1, 2 or 4 bytes; `sel` is the writer's fix channel, none where staged fields go through (R32). A write of a
TB-domain register crosses to its domain (R14). -/
def busWrite (s : State) (m : Master) (sel : Option (Fin 4)) (a : Nat) (sz : Size) (w : Word) : BusStatus × State :=
  let n := sizeBytes sz
  if a < 0x800000 then
    match spoolAccessOp s m a n (some w) with
    | (_, true, s1) => (.buserr, hpError s1 0 m a sz true)
    | (_, false, s1) => (.ok, s1)
  else if decide (a ≥ 0x1000000) || reservedAt a n then (.ok, s)
  else if a % n != 0 then (.buserr, hpError s 0 m a sz true)
  else if n = 4 then (.ok, regCross s m sel a w)
  else (.discarded, hpError s 1 m a sz true)

/-- The answer of the access, as the model shows it. -/
def answered (st : BusStatus) (d : Word) (s : State) : State := { s with answer := { status := st, data := d } }

/-- An access of the host, an engine thread or Safelight that reads. -/
def readOp (s : State) (m : Master) (a : Nat) (sz : Size) : State :=
  if !reachesRegs m then s else
  let (st, w, s1) := busRead s m a sz
  answered st w s1

/-- An access of the host, an engine thread or Safelight that writes. -/
def writeOp (s : State) (m : Master) (a : Nat) (sz : Size) (w : Word) : State :=
  if !reachesRegs m then s else
  let (st, s1) := busWrite s m (fixSelOf s m) a sz w
  answered st 0 s1

/-- A 4-byte write of a register in the tb in which it lands: the form of the rows that name what lands. -/
def writeReg (s : State) (m : Master) (a : Nat) (w : Word) : State :=
  if !reachesRegs m then s else answered .ok 0 (regWrite s (masterNow s m) (fixSelOf s m) a w)

/-- A 4-byte read of a register by the master of a row. -/
def readReg (s : State) (m : Master) (a : Nat) : State := readOp s (masterNow s m) a .b4

/-- A spool access by any master (R331, R337): an uncorrectable error is a bus error of the host, an engine thread or Safelight only
(R329), one that crosses spools of every master (R339, R365). -/
def spoolOp (s : State) (m : Master) (a : Nat) (sz : Size) (wr : Option Word) : State :=
  if a ≥ 0x800000 then s else
  if reachesRegs m then
    match wr with
    | none => readOp s m a sz
    | some w => writeOp s m a sz w
  else
    let (w, err, s1) := spoolAccessOp s m a (sizeBytes sz) wr
    if crossesSpool a (sizeBytes sz) then answered .buserr 0 (hpError s1 0 m a sz wr.isSome)
    else answered .ok (if err then 0 else w) s1

/-! The host port (R353–R361, R373, R374). -/

/-- The security of a host transaction: SECHOST and HSEC at its start, and HSEC unchanged (R373, R374); with the pin's change
and HSEC_CHG. -/
def hostBegin (s : State) (chg : Bool) : Bool × State :=
  let sec := s.rb Reg.HP_SEC 0 && s.host.hsec
  let s1 := if chg then { s with host := { s.host with hsec := !s.host.hsec } } else s
  (sec && !chg, if sec && chg then hpEvent s1 5 else s1)

/-- The port accepts transactions (R353). -/
def portOpen (s : State) : Bool := decide (s.host.openIn = 0)

/-- The command byte of a QSPI access (Table 12-1). -/
def qspiCommand (wr : Bool) : Size → Byte
  | .b4 => if wr then 0x32 else 0x0B
  | .b2 => if wr then 0x33 else 0x0C
  | .b1 => if wr then 0x34 else 0x0D

/-- The access that a command byte asks for; a transaction with any other byte sets PROTO (Table 12-1, R357). -/
def qspiAccess (b : Byte) : Option (Bool × Size) :=
  ([true, false].flatMap fun wr => [Size.b4, .b2, .b1].map fun sz => (wr, sz)).find? fun p => qspiCommand p.1 p.2 == b

/-- The answer byte of a QSPI transaction (Table 12-2). -/
def qspiAnswer (wr : Bool) : BusStatus → Byte
  | .ok => if wr then 0x5A else 0xA5
  | .discarded => 0xC3
  | .buserr => 0xE1
  | _ => 0

/-- The port drives an answer byte (R356). -/
def driveByte (b : Byte) (s : State) : State := { s with host := { s.host with byte := b } }

/-- A QSPI transaction; nCS that rises before the answer sets ABORT (R355–R357). -/
def qspiOp (s : State) (a : Nat) (sz : Size) (wr : Option Word) (chg abort : Bool) : State :=
  if s.host.parallel then s else
  let (sec, s1) := hostBegin s chg
  let s2 := match wr with
    | none => readOp s1 (.host sec) a sz
    | some w => writeOp s1 (.host sec) a sz w
  if abort then hpEvent s2 3 else driveByte (qspiAnswer wr.isSome s2.answer.status) s2

/-- A transaction with a command byte that is none, or a write cut short (R357). Whether HSEC changes during it, as it may (R374), its
row does not say: it is free (log entry 92). -/
def protoOp (s : State) : State :=
  if s.host.parallel || !portOpen s then s else
  let (chg, s1) := s.drawBool
  hpEvent (hostBegin s1 chg).2 4

/-- The held half-word is written alone (R360). -/
def halfAloneOp (s : State) : State :=
  match s.host.half with
  | none => s
  | some (a, d, sec) =>
    hpEvent (writeOp { s with host := { s.host with half := none } } (.host sec) a .b2 (d.setWidth 32)) 6

/-- HALF_ALONE: no cycle has begun within 1 µs (R360). -/
def halfAloneDue (s : State) : State := if s.tb < s.host.halfTb + 1000 then s else halfAloneOp s

/-- A parallel write cycle (R358–R360). -/
def parWriteOp (s : State) (a0 : Nat) (be0 be1 : Bool) (d : BitVec 16) (chg : Bool) : State :=
  if !s.host.parallel then s else
  let (sec, s0) := hostBegin { s with host := { s.host with kept := none } } chg
  let a := a0 / 2 * 2
  match s0.host.half, be0 && be1 && decide (a % 4 = 2) with
  | some (b, lo, hs), true =>
    if b + 2 = a ∧ s0.tb < s0.host.halfTb + 1000 then
      writeOp { s0 with host := { s0.host with half := none } } (.host (hs && sec)) b .b4 (d ++ lo)
    else writeOp (halfAloneOp s0) (.host sec) a .b2 (d.setWidth 32)
  | _, _ =>
    let s1 := halfAloneOp s0
    if be0 && be1 then
      if a % 4 = 0 then answered .held 0 { s1 with host := { s1.host with half := some (a, d, sec), halfTb := s1.tb } }
      else writeOp s1 (.host sec) a .b2 (d.setWidth 32)
    else if be0 then writeOp s1 (.host sec) a .b1 (d.setWidth 32 &&& 0xFF)
    else if be1 then writeOp s1 (.host sec) (a + 1) .b1 ((d >>> 8).setWidth 32)
    else s1

/-- A byte in the high lane reads on AD15:8. -/
def highLane (s : State) : State := answered s.answer.status (s.answer.data <<< 8) s

/-- A parallel read cycle (R358, R359, R361). -/
def parReadOp (s : State) (a0 : Nat) (be0 be1 chg : Bool) : State :=
  if !s.host.parallel then s else
  let (sec, s0) := hostBegin s chg
  let s1 := halfAloneOp s0
  let a := a0 / 2 * 2
  let s2 : State := { s1 with host := { s1.host with kept := none } }
  if be0 && be1 then
    if a % 4 = 0 then
      let r := readOp s2 (.host sec) a .b4
      let w := r.answer.data
      answered r.answer.status (w &&& 0xFFFF) { r with host := { r.host with kept := some (a + 2, (w >>> 16).setWidth 16) } }
    else match s1.host.kept with
      | some (b, hi) => if b = a then answered .ok (hi.setWidth 32) s2 else readOp s2 (.host sec) a .b2
      | none => readOp s2 (.host sec) a .b2
  else if be0 then readOp s2 (.host sec) a .b1
  else if be1 then highLane (readOp s2 (.host sec) (a + 1) .b1)
  else s2

/-! Engine accesses (R172, R173). -/

/-- A bus error faults the thread BUS with TPC at the access; a thread already in FAULT stays as it is (R164, R172, R201). -/
def accFault (s : State) (t : Fin 64) (c : FabAcc) : State :=
  if (s.thrAt t.val).st == .fault then s
  else thrFault (s.modThr t.val fun h => { h with pc := c.pc }) t.val 4 c.addr

/-- A store reaches the fabric with the fix selection of its issue (R196). -/
def accStore (s : State) (t : Fin 64) (c : FabAcc) : State :=
  let sel := if c.fs then some c.fk else none
  match busWrite s (.engine t) sel c.addr.toNat c.size c.data with
  | (.buserr, s1) => accFault s1 t c
  | (_, s1) => s1

/-- A load reaches the fabric, and its result returns. -/
def accLoad (s : State) (t : Fin 64) (c : FabAcc) : State :=
  match busRead s (.engine t) c.addr.toNat c.size with
  | (.buserr, _, s1) => accFault s1 t c
  | (_, w, s1) => s1.modThr t.val fun h => h.setW c.rd.val (loadExtend c.op w)

/-- A cap reaches its channel: the count and the tag in one access (R116, R117, R194). -/
def accCap (s : State) (t : Fin 64) (c : FabAcc) : State :=
  let (v, tag, s1) := capRead s c.ch.val
  (s1.putShadow (.engine t) (Reg.CH_CAPX c.ch.val) tag).modThr t.val fun h =>
    { h.setPair c.rd v tag with c := bitAt tag 15 }

/-- An access of thread `t` is performed. -/
def accPerform (s : State) (t : Fin 64) (c : FabAcc) : State :=
  match c.kind with
  | .load => accLoad s t c
  | .store => accStore s t c
  | .cap => accCap s t c
  | .snrel => csReleaseOp s

/-- FABRIC_ACCESS_COMPLETE: the thread's oldest access is performed (R173); stalled threads of the engine try again. -/
def fabricOp (s : State) (t : Fin 64) : State :=
  match (s.thrAt t.val).fab with
  | [] => s
  | c :: r =>
    let s1 := s.modThr t.val fun h => { h with fab := r }
    retryStalls (stepDone (accPerform s1 t c) t.val) (Fin.ofNat 16 (t.val / 4))

end Sys2Proof.Machine
end

