-- ==== Sys2Proof/Machine/Boot.lean ====
section
/-! DEFINITION. Boot and the exit gate (R377, R385–R391, R441, R442). -/

namespace Sys2Proof.Machine

/-! Flash discovery (R377). -/

/-- A list of flash cells in canonical form. -/
def canonFlash (bs : List (Nat × Byte)) : List (Nat × Byte) := forEach bs [] fun m p => sparseWrite erasedByte m p.1 p.2

/-- A valid SFDP header was found. -/
def sfdpFound (f : NvmFacts) : Bool := f.answers && f.sfdp

/-- NVM_INFO: what was found, or the read instruction 0x03 alone. -/
def nvmInfo (f : NvmFacts) : Word :=
  if sfdpFound f then mkw f.log2 16 ||| mkb f.addr4 8 ||| mkw f.readInstr.toNat 0 else mkw 3 0

/-- Discovery: `chip` is the flash now attached, none where it is the one attached before. -/
def discover (s : State) (chip : Option FlashChip) : State :=
  let c := match chip with
    | some c => { c with bytes := canonFlash c.bytes }
    | none => s.flash
  ({ s with flash := c, boot := { s.boot with noSfdp := !sfdpFound c.facts } }).setReg Reg.NVM_INFO (nvmInfo c.facts)

/-! Slots (R388). -/

/-- BOOT_STAT.FAIL_A or FAIL_B. -/
def setFail (s : State) (slot code : Nat) : State :=
  { s with boot := if slot = 0 then { s.boot with failA := code } else { s.boot with failB := code } }

/-- Spools and engine memories are zeroed and the OTP step repeats before the next attempt. -/
def bootClean (s : State) : State :=
  let s1 := forEach (List.range 8) s fun s n => spoolInit (s.modSpl n fun p => { p with init := true }) n
  otpLoad { s1 with eng := s1.eng.map fun e => { e with iram := [], tray := [], iecc := [], tecc := [] } }

/-- The boot count goes up at step 4 (Table 13-9). -/
def countBoot (s : State) : State :=
  bootRecPut s (bootRecWord s 0) (bootRecWord s 1) (bootRecWord s 2 + 1) (bootRecWord s 3)

/-- An armed switch is performed before step 4 of a power-on boot (R441). -/
def bootSwitch (s : State) : State :=
  let s1 := armsLoad s
  if s1.boot.powerOn && (s1.slt.armNeg != 0 || s1.slt.armFw != 0) then performSwitch s1 else s1

/-! Loading an image (R386, R389, R390). -/

/-- The start format of the image at `base` (R389). -/
def startFormat (s : State) (base len : Nat) : Nat :=
  let w := bootRecWord s 0
  if bitAt w 8 && bootRecWord s 1 == flashWord s (base + len - 136) && fld w 15 12 < flashNat s (base + 0x10) 1 then fld w 15 12
  else flashNat s (base + 0x11) 1

/-- A cc of the boot passes: what was written in it has taken effect (R333, R370). -/
def bootCc (s : State) : State := { s with fresh := s.fresh.filter fun f => tbDomain f.addr }

/-- A section of the start format is loaded; a SPOOL section between its two handovers (R390). -/
def loadSection (s : State) (c : Section) : State :=
  if c.typ = 1 then s
  else if c.typ = 4 then
    let give (s : State) (o : Nat) : State := bootCc (forEach (spoolsOf c) (bootCc s) fun s n => handoverOp s .safelight n (mkw o 0))
    let s1 := writeSection (give s 3) c
    if c.flags ≥ 8 then give s1 (c.flags % 8) else s1
  else writeSection s c

/-- A 4-byte write of the REGS step, whose records are applied in their order (R385): a register write has landed before the next. -/
def bootWrite4 (s : State) (a : Nat) (w : Word) : State :=
  if 0x800000 ≤ a ∧ a < 0x1000000 ∧ a % 4 = 0 then regWrite s .safelight none a w else (busWrite s .safelight none a .b4 w).2

/-- A REGS record is applied: one write, or one read and one write (R385), in a cc of its own. -/
def applyRecord (s0 : State) (r : Nat × Word × Word) : State :=
  let s := bootCc s0
  if r.2.1 = 0xFFFFFFFF then bootWrite4 s r.1 r.2.2
  else
    let (_, w, s1) := busRead s .safelight r.1 .b4
    bootWrite4 (bootCc s1) r.1 (mergeBits w r.2.2 r.2.1)

/-- The first pass of the REGS step (R386). -/
def firstPass (r : Nat × Word × Word) : Bool := 0x00880000 ≤ r.1 && r.1 ≤ 0x0088FFFF

/-- What the header and the format directory of the image at `base` give the registers (Table 13-2, FMT_VERf). -/
def headerLoad (s : State) (base len : Nat) : State :=
  let nfmt := flashNat s (base + 0x10) 1
  let flags := flashNat s (base + 0x13) 1
  let dir := base + flashNat s (base + 0x14) 4
  let s1 := { s with boot := { s.boot with
    nfmt := nfmt, formats := (List.range nfmt).map fun i => readFormat s (dir + 32 * i), imgOfs := base, imgLen := len,
    unsigned := s.ownerKey.isNone, autoExit := flags.testBit 1, startGate := flags.testBit 2 } }
  let s2 := (s1.setReg Reg.NEG_VER (flashWord s (base + 0x0C))).setReg Reg.NEG_CRC (flashWord s (base + len - 136))
  let s3 := s2.setReg Reg.HP_SEC (mkb (flags.testBit 0) 0)
  forEach (List.range nfmt) s3 fun t i => t.setReg (Reg.FMT_VER i) (readFormat s (dir + 32 * i)).reqVer

/-- The valid image of `slot` with sections `cs` is loaded, and its REGS records are applied. -/
def loadImage (s : State) (slot : Nat) (cs : List Section) : State :=
  let base := (region s slot).1
  let len := flashNat s (base + 8) 4
  let f := startFormat s base len
  let mine := cs.filter fun c => c.belongs f
  let s1 := headerLoad (forEach mine s loadSection) base len
  let s2 := { s1 with boot := { s1.boot with step := 6, image := slot + 1, startFmt := f, active := f, sections := cs } }
  let recs := (mine.filter fun c => c.typ = 1).flatMap (regsRecords s)
  let s3 := forEach (recs.filter fun r => firstPass r) s2 applyRecord
  let s4 := forEach (recs.filter fun r => !firstPass r) s3 applyRecord
  startSwThr s4 f

/-- The other slot has loaded (R388); after a switch the preferred slot follows it (R442; the detail word of that entry is left open, log entry 70). -/
def fellBack (s : State) (slot : Nat) : State :=
  let s1 := bootEvent s 1
  if s1.boot.switched then
    let w0 := mergeBits (bootRecWord s1 0) (mkw slot 0) 1
    let (d, s2) := (bootRecPut s1 w0 (bootRecWord s1 1) (bootRecWord s1 2) (bootRecWord s1 3)).drawWord
    logService s2 4 d
  else s1

/-- The factory safe image: what the OTP step leaves (R387). -/
def factoryImage (s : State) : State := bootEvent { s with boot := { s.boot with step := 6, image := 3 } } 2

/-- Every spool is initialised, and no region of one is in test: a boot writes spools from then on (R330, R346). -/
def spoolsReady (s : State) : Bool := (List.range 8).all fun n => !(s.splAt n).init && !regionHeld s n

/-- BOOT: steps 2 to 6 of Table 13-7; the load starts no earlier than the end of spool initialisation (R330). -/
def bootOp (s0 : State) (chip : Option FlashChip) : State :=
  if s0.boot.step != 2 || s0.boot.done then s0 else
  let s := forEach (List.range 8) (forEach (List.range 8) s0 testAbort) spoolInitOp
  if !spoolsReady s then s else
  let s2 := countBoot (bootSwitch (discover (otpLoad s) chip))
  let p := prefSlot s2
  match negCheck s2 p with
  | (0, cs) => loadImage s2 p cs
  | (c, _) =>
    let s3 := bootClean (setFail s2 p c)
    match negCheck s3 (1 - p) with
    | (0, cs) => fellBack (loadImage s3 (1 - p) cs) (1 - p)
    | (c, _) => factoryImage (bootClean (setFail s3 (1 - p) c))

/-! The exit gate (R391, R410). -/

/-- Safelight makes the exit request; a refused one is due again 10 ms later. -/
def exitRequest (s : State) : State :=
  let s0 := { s with boot := { s.boot with exitWait := false, exitDue := none } }
  if !s0.safe.safe then s0 else
  let s1 := safeExitOp s0
  if s1.safe.safe then bootEvent { s1 with boot := { s1.boot with exitDue := some (s1.tb + 10000000) } } 3 else s1

/-- Whether Safelight still waits before an exit request. -/
def gateShut (s : State) : Bool := (s.boot.startGate && !s.safe.startPin) || (casMember s && !s.cas.tbLock)

/-- The exit gate of an image with AUTO_EXIT. -/
def exitGate (s : State) : State :=
  if gateShut s then { s with boot := { s.boot with exitWait := true } } else exitRequest s

/-- BOOT_DONE: step 7 (R390, R391). -/
def bootDoneOp (s : State) : State :=
  if s.boot.step != 6 || s.boot.done then s else
  let s1 := bootEvent { s with boot := { s.boot with step := 7, done := true } } 0
  let s2 := bootRecPut s1 (bootRecWord s1 0) (bootRecWord s1 1) (bootRecWord s1 2) (bootStat s1)
  let s3 := logService s2 1 (bootStat s2)
  if s3.boot.autoExit then exitGate s3 else s3

/-- A waiting gate opens once what it waited for has come. -/
def gatePoll (s : State) : State := if s.boot.exitWait && !gateShut s then exitRequest s else s

/-- START_GATE: the START pin has been held low for START_MS ms, counted from the release of the reset at the earliest (R391;
log entries 69, 73). -/
def startGateOp (s : State) : State :=
  if s.tb < s.boot.startTb + max 1 (s.rf Reg.BOOT_CFG 15 8) * 1000000 then s
  else gatePoll { s with safe := { s.safe with startPin := true } }

/-- EXIT_RETRY: the request repeats every 10 ms until it is accepted (R391). -/
def exitRetryOp (s : State) : State :=
  match s.boot.exitDue with
  | some t => if t ≤ s.tb then exitGate s else s
  | none => s

end Sys2Proof.Machine
end

