-- ==== Sys2Proof/Machine/ExecBoot.lean ====
section
/-! DEFINITION. Boot, the exit gate and format changes (chapter 13). -/

namespace Sys2Proof.Machine

/-- BOOT (R390). -/
def execBoot (chip : Option FlashChip) (s : State) : Host.Outcome State Fault Refusal := .next (bootOp s chip)

/-- BOOT_DONE (R391). -/
def execBootDone (s : State) : Host.Outcome State Fault Refusal := .next (bootDoneOp s)

/-- START_GATE (R391). -/
def execStartGate (s : State) : Host.Outcome State Fault Refusal := .next (startGateOp s)

/-- EXIT_RETRY (R391). -/
def execExitRetry (s : State) : Host.Outcome State Fault Refusal := .next (exitRetryOp s)

/-- FMT_REQUEST (R394). -/
def execFmtRequest (m : Master) (w : Word) (s : State) : Host.Outcome State Fault Refusal :=
  .next (writeReg s m Reg.FMT_REQ (setBit w 31))

/-- FORMAT_PREP_DONE (R397). -/
def execFormatPrepDone (err : Bool) (s : State) : Host.Outcome State Fault Refusal := .next (prepDoneOp s err)

/-- ABANDON (R399). -/
def execAbandon (m : Master) (s : State) : Host.Outcome State Fault Refusal := .next (writeReg s m Reg.FMT_CMD (mkw 1 0))

end Sys2Proof.Machine
end

