-- ==== Sys2Proof/Machine/Column.lean ====
section
/-! DEFINITION. Column fetches of the contact engine, word by word (R210, R212, R220). -/

namespace Sys2Proof.Machine

/-- The converted boundary next in order of X whose column is not fetched (R215). -/
def nextFetch (s : State) : Option CtConv :=
  (s.ct.conv.filter fun c => !c.fetched).foldl (fun m c =>
    match m with
    | none => some c
    | some d => if c.x < d.x then some c else some d) none

/-- The words of a column that hold rows of the lane group. -/
def laneWords (s : State) (cv : CtConv) : List Nat := ((laneRows s cv.lane).map fun r => r / 32).eraseDups

/-- Word `i` of the column is read from memory: a blank column, and rows at or above 128 × RB, have none (R212, R214). -/
def hasWord (cv : CtConv) (i : Nat) : Bool := cv.b.col.isSome && decide (i < 4 * cv.b.geo.rb)

def colAddr (cv : CtConv) (i : Nat) : Nat := cv.b.geo.base + cv.b.col.getD 0 * 16 * cv.b.geo.rb + 4 * i

/-- The words of the boundary's column that are still to be read. -/
def fetchLeft (s : State) (cv : CtConv) : List Nat :=
  (laneWords s cv).filter fun i => hasWord cv i && !cv.got.any fun p => p.1 == i

def modConv (s : State) (cv : CtConv) (f : CtConv → CtConv) : State :=
  s.modCt fun c => { c with conv := c.conv.map fun d => if d.lane = cv.lane ∧ d.b.q = cv.b.q then f d else d }

/-- A fetch finds a spool that is not CONTACT's: RUN clears, and rows hold their levels (R220). -/
def planeOwn (s : State) : State :=
  ctStop (ctEvent (s.modCt fun c => { c with conv := c.conv.filter fun d => d.fetched }) 7)

/-- Word `i` of the column is read: one in error leaves its rows, a spool that is not ON reads 0, and one that is not CONTACT's
stops playback whatever its power state (R220). -/
def fetchWord (s : State) (cv : CtConv) (i : Nat) : State :=
  let a := colAddr cv i
  let put (w : Option Word) (s : State) : State := modConv s cv fun d => { d with got := d.got ++ [(i, w)] }
  match bankAccess s .contact [2] a a none with
  | (.ok w, s1) => put (some w) s1
  | (.uncorr, s1) => put none s1
  | (.nonowner, s1) => planeOwn s1
  | (.power, s1) => if splOwner s (spoolOf a) = 2 then put (some 0) s1 else planeOwn s1

/-- The rows of word `i` take their levels; a word that could not be corrected leaves them (R220). -/
def playWord (s : State) (cv : CtConv) (i : Nat) : State :=
  let w : Option Word := if hasWord cv i then ((cv.got.find? fun p => p.1 == i).map fun p => p.2).getD (some 0) else some 0
  match w with
  | some w =>
    forEach ((laneRows s cv.lane).filter fun r => r / 32 == i) s fun s r =>
      match s.ct.rowQ.find? fun p => p.1 == r with
      | some p => if cv.b.q < p.2 then s else rowEdge s r (bitAt w (r % 32)) cv.t cv.lane cv.b.q
      | none => rowEdge s r (bitAt w (r % 32)) cv.t cv.lane cv.b.q
  | none => ctEvent s 6

/-- All words of the column have come: its rows take their levels (R220). -/
def columnPlay (s : State) (cv : CtConv) : State :=
  forEach (laneWords s cv) (modConv s cv fun d => { d with fetched := true }) fun s i => playWord s cv i

end Sys2Proof.Machine
end

