-- ==== Sys2Proof/Machine/Spill.lean ====
section
/-! DEFINITION. The calendar's accesses to its spill region, and what a loss does (R153–R155). -/

namespace Sys2Proof.Machine

/-- The entry can no longer be read: a word of it lies in a spool that is lost or not ON, or is in error (R154). -/
def spillGone (s : State) (e : CalEntry) : Bool :=
  (spillWords s e.slot).any fun a => splOwner s (spoolOf a) != 1 || pwrNow s (spoolOf a) != .on || eccAt s a == 2

/-- An access has met a loss: SPILL_ERR, and the entries that cannot be read any more are gone (R154). -/
def spillLost (s : State) : State :=
  let s1 := forEach (s.cal.spill.filter (spillGone s)) s fun s e => calDropSpill s e.id
  calEventDetail (s1.modCal fun c => { c with spillBad := true, spillAt := none }) evSpillErr
    (mkw s1.cal.spill.length 0 ||| mkw evSpillErr 20)

/-- One word of the region is accessed (R153, R154). -/
def spillAccess (s : State) (a : Nat) (wr : Option (Nat × List Byte)) : State :=
  match bankAccess s .spill [1] a a wr with
  | (.ok _, s1) => s1.modCal fun c => { c with spillAt := c.spillAt.map fun o => { o with done := a :: o.done } }
  | (_, s1) => spillLost s1

/-- A word of an entry is written: what the region holds is unspecified (R153). -/
def spillWrite (s : State) (a : Nat) : State :=
  let (w, s1) := s.drawWord
  spillAccess s1 a (some (0, wordBytes w))

/-- The words done of the placement or move at `place`. -/
def spillDone (s : State) (put : Bool) (place : Nat) : List Nat :=
  match s.cal.spillAt with
  | some o => if o.put == put && o.place == place then o.done else []
  | none => []

/-- The words that the placement or move at `place` still has to access. -/
def spillLeft (s : State) (put : Bool) (place : Nat) : List Nat :=
  (spillWords s place).filter fun a => !(spillDone s put place).contains a

/-- The placement or move is under way. -/
def spillBegin (s : State) (put : Bool) (place : Nat) : State :=
  s.modCal fun c => { c with spillAt := some { put := put, place := place, done := spillDone s put place } }

/-- The insert whose turn it is, when it spills and the stage can have completed it (R130, R131). -/
def spillTurn (s : State) : Option CalReq :=
  match nextTurn s with
  | some (.req q) =>
    match q.who, q.cancel with
    | .fix _, _ => none
    | _, true => none
    | _, false => if insertFate s q = .spill ∧ opReady s (some q.tb) 32 = true then some q else none
  | _ => none

end Sys2Proof.Machine
end

