-- ==== Sys2Proof/Machine/Fabric.lean ====
section
/-! DEFINITION. The arbitration of spool banks and register blocks (R39). The accesses that compete in a cc are those that the
queue presents in the present tb (log entry 64). An access that is not granted has no effect: its master presents it again. -/

namespace Sys2Proof.Machine

/-- The rest of an access that spans two words (R337). -/
structure Span where
  m  : Master
  a  : Nat
  w  : Nat
  wr : Option Word
  deriving DecidableEq, Repr

/-- A request: its rank in the order of R39 (0 engine threads, 1 contact engine, 2 Safelight and record controller, 3 host,
4 copy engine), the requester within the rank, the places it takes, and the spool words it reaches. -/
structure FabReq where
  rank   : Nat
  who    : Nat
  places : List Nat
  /-- The spool words that it reaches (R346). -/
  words  : List Nat
  /-- The places that it holds for a second cc: those of narrow writes (R338). -/
  narrow : List Nat
  /-- The access, where it is the first word of two. -/
  two    : Option Span
  deriving DecidableEq, Repr

/-- A request of master `m`; the background test makes none. -/
def masterReq (m : Master) (ps ws nw : List Nat) (two : Option Span) : Option FabReq :=
  (masterRank m).map fun r => ⟨r.1, r.2, ps, ws, nw, two⟩

/-- The request for the second word of an access (R337). -/
def secondReq (x : Span) : Option FabReq :=
  let b := x.a / 4 * 4 + 4
  masterReq x.m [placeOf b] [b] (if x.wr.isSome then [placeOf b] else []) none

/-- The tray that an access of the memory window reaches (R175, R176). -/
def trayOf (s : State) (a : Nat) : List Nat :=
  let e := (a - 0x00850000) / 0x1000
  if isWindow a && bitAt (s.reg (Reg.ENL_WIN e)) 0 then [trayPlace e] else []

/-- An access of a master to `w` bytes at an address: one word, or the first of two that has not been made (R337); one that crosses
spools reaches none (R339). -/
def accReq (s : State) (m : Master) (a w : Nat) (wr : Option Word) : Option FabReq :=
  if 0x800000 ≤ a then masterReq m (placeOf a :: trayOf s a) [] [] none
  else if crossesSpool a w then masterReq m [] [] [] none
  else
    let b := a / 4 * 4
    let x : Span := ⟨m, a, w, wr⟩
    if firstLen a w = w then masterReq m [placeOf b] [b] (if wr.isSome && w != 4 then [placeOf b] else []) none
    else if (madePart s m a w).isSome then secondReq x
    else masterReq m [placeOf b] [b] (if wr.isSome then [placeOf b] else []) (some x)

/-- A whole word that a unit of the device accesses on its own. -/
def wordReq (m : Master) (a : Nat) : Option FabReq := masterReq m [placeOf a] [a] [] none

/-- Whole words, each a request of its own. -/
def wordsReq (m : Master) (as : List Nat) : Option FabReq := if as.isEmpty then none else masterReq m (as.map placeOf) as [] none

/-- The access of a parallel cycle, beside that of a half-word still held: the first half of a word written or kept for a
read makes none (R360, R361). -/
def parReq (s : State) (a0 : Nat) (be0 be1 wr : Bool) : Option FabReq :=
  let a := a0 / 2 * 2
  let whole := be0 && be1
  let kept := !wr && whole && decide (a % 4 = 2) && (match s.host.kept with | some (b, _) => b == a | none => false)
  let held := match s.host.half with | some (b, _, _) => [b] | none => []
  let here := if !(be0 || be1) || (wr && whole && decide (a % 4 = 0)) || kept then [] else [a]
  let pair := wr && whole && decide (a % 4 = 2) && held.contains (a - 2)
  let ps := (held ++ here).map placeOf
  let narrow := if pair then [] else (held ++ if wr then here else []).filter fun b => b < 0x800000
  masterReq (.host false) (ps ++ here.flatMap (trayOf s)).eraseDups (((held ++ here).filter fun b => b < 0x800000).map fun b => b / 4 * 4)
    (narrow.map placeOf) none

/-- The contact engine may present no further request to the bank: it has had 2 in 16 cc (R340). -/
def contactSpent (s : State) (p : Nat) : Bool := 2 ≤ (s.fabric.contact.filter fun g => g.1 == p && decide (s.cc < g.2 + 32)).length

/-- The words that the next column fetch presents (R220, R340). -/
def columnWords (s : State) : List Nat :=
  match nextFetch s with
  | some cv => ((fetchLeft s cv).map (colAddr cv)).filter fun a => !contactSpent s (placeOf a)
  | none => []

/-- The words of the oldest record write that are still to be written (R314, R318). -/
def recordWords4 (s : State) : List Nat :=
  match s.evr.writes with
  | w :: _ => (recordLeft w).map (recordAddr4 s w)
  | [] => []

/-- The words of the spill region that an insert presents (R153). -/
def putWords (s : State) : List Nat := if (spillTurn s).isSome then spillLeft s true (spillPlace s) else []

/-- The words of the spill region that a move presents (R155). -/
def moveWords (s : State) : List Nat := match spillNext s with | some e => spillLeft s false e.slot | none => []

/-- The access of the thread that stands first in its order (R173). -/
def threadReq (s : State) (t : Fin 64) : Option FabReq :=
  match (s.thrAt t.val).fab with
  | a :: _ => accReq s (.engine t) a.addr.toNat (sizeBytes a.size) (if a.kind == .store then some a.data else none)
  | [] => none

/-- The request of a copy channel with a word to move (R349); the background test goes before it (R345). -/
def copyReq (s : State) (k : Unit3) : Option FabReq :=
  if !cpyMoves s k.val || cpyWaits s k.val then none else wordReq (.copy k) (cpyAddr s k.val)

/-- An access of a master at an address. -/
def busReq (s : State) (m : Master) (a : Nat) (sz : Size) (wr : Option Word) : Option FabReq := accReq s m a (sizeBytes sz) wr

/-- An access of the host. -/
def hostReq (s : State) (a : Fin 16777216) (sz : Size) (wr : Option Word) : Option FabReq := busReq s (.host false) a.val sz wr

/-- The access of a held half-word whose 1 µs has passed (R360). -/
def halfReq (s : State) : Option FabReq := if s.tb < s.host.halfTb + 1000 then none else parReq s 0 false false true

/-- A request of the host in the form `par`: none while the port is not open or is strapped the other way (R353). -/
def ofForm (s : State) (par : Bool) (q : Option FabReq) : Option FabReq :=
  if s.host.parallel != par || !portOpen s then none else q

def spoolReq (s : State) (m : Master) (a : Nat) (sz : Size) (wr : Option Word) : Option FabReq :=
  if a < 0x800000 then busReq s m a sz wr else none

/-- The address of a word of an engine's memory window. -/
def windowAddr (e : Fin 16) (off : Fin 512) : Nat := 0x00850800 + 0x1000 * e.val + 4 * off.val

/-- The request that a row presents, for the rows that are accesses of a master to a place. -/
def fabReqOf (s : State) : Instr → Option FabReq
  | .fabricAccessComplete t => threadReq s t
  | .columnFetch => wordsReq .contact (columnWords s)
  | .recordWriteComplete => wordsReq .recordCtl (recordWords4 s)
  | .copyWord k => copyReq s k
  | .calInsert => wordsReq .spill (putWords s)
  | .spillMove => wordsReq .spill (moveWords s)
  | .spoolAccess m a sz wr => spoolReq s m a sz wr
  | .read4 a _ _ => ofForm s false (hostReq s a .b4 none)
  | .read2 a _ _ => ofForm s false (hostReq s a .b2 none)
  | .read1 a _ _ => ofForm s false (hostReq s a .b1 none)
  | .write4 a w _ _ => ofForm s false (hostReq s a .b4 (some w))
  | .write2 a w _ _ => ofForm s false (hostReq s a .b2 (some (w.setWidth 32)))
  | .write1 a w _ _ => ofForm s false (hostReq s a .b1 (some (w.setWidth 32)))
  | .parallelReadCycle a be0 be1 _ => ofForm s true (parReq s a.val be0 be1 false)
  | .parallelWriteCycle a be0 be1 _ _ => ofForm s true (parReq s a.val be0 be1 true)
  | .halfAlone => halfReq s
  | .clearOnRead m a sz => busReq s m a sz none
  | .registerWrite m a w => busReq s m a .b4 (some w)
  | .stagedWrite m a w => busReq s m a .b4 (some w)
  | .snapshotRead m o => busReq s m (0x00801000 + o.val) .b4 none
  | .windowAccess m e off wr => busReq s m (windowAddr e off) .b4 wr
  | _ => none

/-- The word that holds the repeat count to be written next. -/
def repWord (s : State) : Option Nat := s.evr.reps.head?.map fun q => repAddr s q / 4 * 4

/-- The words of a claimed record that Safelight reads next for the log (R431). -/
def logWords (s : State) : List Nat := match s.slt.ringReads with | a :: _ => [a, a + 12] | [] => []

/-- The requests that come with no row: a repeat count of the record controller, and Safelight's reads for the log. -/
def rowless (s : State) : List FabReq :=
  ((repWord s).bind fun a => masterReq .recordCtl [placeOf a] [a] [placeOf a] none).toList ++ (wordsReq .safelight (logWords s)).toList

/-- The present cc is the reserved slot of the bank: (TB / 2) mod 4 is the bank's number in its spool (R39). -/
def reservedSlot (s : State) (p : Nat) : Bool := decide (p < 32) && s.cc / 2 % 4 == p % 4

/-- A host request has waited 8 cc at the place (R340). -/
def hostLate (s : State) (p : Nat) : Bool :=
  s.fabric.host.any fun h => h.1 == p && decide (h.2.1 + 16 ≤ s.cc) && decide (s.cc ≤ h.2.2 + 2)

/-- The order of ranks at a place: in the reserved slot the contact engine and those below it come before engine threads, with a
host that has waited 8 cc ahead of Safelight and the record controller; the copy engine is last always (R39, R340). -/
def rankAt (s : State) (p rank : Nat) : Nat :=
  if !reservedSlot s p then 2 * rank
  else if rank = 3 && hostLate s p then 1
  else if rank = 4 then 8 else 2 * ((rank + 3) % 4)

/-- The order within a rank: engine requesters after the one last granted here; Safelight and the record controller by their
alternation; copy channels after the one last served (R39, R349). -/
def orderAt (s : State) (p : Nat) (q : FabReq) : Nat :=
  match q.rank with
  | 0 => (q.who + 64 - sparseRead (fun _ => 64) s.fabric.last p) % 65
  | 2 => (q.who + sparseRead zeroNat s.fabric.alt p) % 2
  | 4 => (q.who + 7 - s.fabric.copy) % 8
  | _ => 0

/-- `q` goes before `r` at place `p`. -/
def goesFirst (s : State) (p : Nat) (q r : FabReq) : Bool :=
  decide (rankAt s p q.rank < rankAt s p r.rank) || (q.rank == r.rank && decide (orderAt s p q < orderAt s p r))

/-- The requests that wait for place `p`. -/
def rivals (s : State) (p : Nat) : List FabReq :=
  (s.pending.filterMap (fabReqOf s) ++ rowless s).filter fun r => r.places.contains p

/-- The place is a tray whose engine accesses it in this cc (R176). -/
def trayHeld (s : State) (p : Nat) : Bool := decide (trayPlace 0 ≤ p) && trayWanted s (p - trayPlace 0)

/-- The request has each of its places in this cc: none has been granted there, and nothing goes first (R39, R176). -/
def granted (s : State) (q : FabReq) : Bool :=
  q.places.all fun p => !s.fabric.used.contains p && !trayHeld s p && (rivals s p).all fun r => !goesFirst s p r q

/-- The requester of rank 2 other than `q` has requested the place in this cc, or is about to (R39). -/
def contest (s : State) (q : FabReq) (p : Nat) : Bool :=
  (rivals s p).any (fun r => r.rank == 2 && r.who != q.who) || s.fabric.asked.any fun r => r.1 == p && r.2.1 != q.who

/-- A grant at place `p`: the round robin moves on, a contest of Safelight with the record controller turns their order, a narrow
write holds the place for the next cc, and the contact engine has a request fewer (R39, R338, R340). -/
def grantAt (s : State) (q : FabReq) (p : Nat) : State :=
  let f := s.fabric
  let f1 : Fabric := { f with used := p :: f.used, next := if q.narrow.contains p then p :: f.next else f.next }
  let f2 : Fabric := if q.rank = 0 then { f1 with last := sparseWrite (fun _ => 64) f1.last p q.who } else f1
  let f3 : Fabric := if q.rank = 1 then { f2 with contact := (p, s.cc) :: f2.contact.filter fun g => decide (s.cc < g.2 + 32) } else f2
  let f4 : Fabric :=
    if q.rank = 2 then
      { f3 with
        asked := (p, q.who, true) :: f3.asked
        alt := if contest s q p then sparseWrite zeroNat f3.alt p (1 - q.who) else f3.alt }
    else f3
  { s with fabric := if q.rank = 4 then { f4 with copy := q.who } else f4 }

/-- The place is not granted to Safelight or the record controller: where the other has had it in this cc, it has lost the contest
(R39). -/
def noteAsked (s : State) (q : FabReq) (p : Nat) : State :=
  let f := s.fabric
  let lost := f.asked.any fun r => r.1 == p && r.2.1 != q.who && r.2.2
  { s with fabric := { f with
    asked := (p, q.who, false) :: f.asked
    alt := if lost then sparseWrite zeroNat f.alt p q.who else f.alt } }

/-- The place waits from its first presentation on (R176, R340). -/
def noteHost (s : State) (p : Nat) : State :=
  let first := match s.fabric.host.find? fun h => h.1 == p && decide (s.cc ≤ h.2.2 + 2) with
    | some h => h.2.1
    | none => s.cc
  { s with fabric := { s.fabric with host := (p, first, s.cc) :: s.fabric.host.filter fun h => h.1 != p } }

/-- A request that is not granted: the host's waits at its places, any at a tray, and one of rank 2 has asked (R39, R176, R340). -/
def noteWait (s : State) (q : FabReq) : State :=
  forEach q.places s fun s p =>
    let s1 := if q.rank = 2 then noteAsked s q p else s
    if q.rank = 3 || decide (trayPlace 0 ≤ p) then noteHost s1 p else s1

/-- A request that is granted waits no longer. -/
def waitOver (s : State) (q : FabReq) : State :=
  { s with fabric := { s.fabric with
    host := s.fabric.host.filter fun h => !(q.places.contains h.1 && (q.rank == 3 || decide (trayPlace 0 ≤ h.1))) } }

/-- The request is granted in this cc and reaches no region in test; in place of a grant such a region is aborted, and the request
waits for its release (R39, R346). -/
def taken (s : State) (q : FabReq) : Bool × State :=
  if !granted s q then (false, noteWait s q)
  else match testsHit s q.words with
    | [] => (true, forEach q.places (waitOver s q) fun s p => grantAt s q p)
    | ns => (false, forEach ns s testAbort)

/-- The second word of an access that has made its first, in the same cc where its bank is granted too (R337). -/
def takeSecond (x : Span) (s : State) (lost f : State → State) : State :=
  match secondReq x with
  | none => f s
  | some q => match taken s q with
    | (true, s1) => f s1
    | (false, s1) => lost s1

/-- The first word of an access has its bank: an error that cannot be corrected ends the access there (R329, R337). -/
def takeFirst (x : Span) (s : State) (lost f : State → State) : State :=
  match spoolFirst s x.m x.a x.w x.wr with
  | (.uncorr, _, _) => f s
  | (_, lo, s1) => takeSecond x (putPart s1 x.m x.a x.w lo) lost f

/-- The access `f` that presents the request `q`, where it is granted in this cc; otherwise `lost`. -/
def arbitrate (q : Option FabReq) (s : State) (lost : State → State) (f : State → State) : State :=
  match q with
  | none => f s
  | some q => match taken s q with
    | (false, s1) => lost s1
    | (true, s1) => match q.two with
      | none => f s1
      | some x => takeFirst x s1 lost f

/-- Words that a unit accesses in turn, each where it is granted, while `more` holds. -/
def takeWords (m : Master) (as : List Nat) (s : State) (more : State → Bool) (f : State → Nat → State) : State :=
  forEach as s fun s a => if more s then arbitrate (wordReq m a) s id fun s => f s a else s

/-- A request of some master waits on the spool, in the queue or where a unit of the device holds it (R345). -/
def spoolWanted (s : State) (n : Nat) : Bool :=
  let qs := s.pending.filterMap (fabReqOf s) ++ rowless s ++ (List.finRange 64).filterMap (threadReq s)
    ++ (List.finRange 8).filterMap (copyReq s)
    ++ [wordsReq .contact (columnWords s), wordsReq .recordCtl (recordWords4 s), wordsReq .spill (putWords s),
        wordsReq .spill (moveWords s)].filterMap id
  (qs.any fun q => q.places.any fun p => decide (p / 4 = n)) || s.fabric.host.any fun h => decide (h.1 / 4 = n) && decide (s.cc ≤ h.2.2 + 2)

/-- A bus access that is not granted is held. -/
def heldOff (s : State) : State := answered .held 0 s

/-- A QSPI access that is not granted: the port drives 0x00 meanwhile (R356). -/
def qspiHeld (s : State) : State := driveByte 0 (heldOff s)

/-! The accesses of units of the device, word by word. -/

/-- COLUMN_FETCH: the words of this cc, and the column once all have come (R220). -/
def columnFetchOp (s : State) : State :=
  match nextFetch s with
  | none => s
  | some cv =>
    let is := fetchLeft s cv
    let s1 := forEach is s fun s i =>
      if nextFetch s = none ∨ contactSpent s (placeOf (colAddr cv i)) = true then s
      else arbitrate (wordReq .contact (colAddr cv i)) s id fun s => fetchWord s cv i
    match nextFetch s1 with
    | some c => if c.lane = cv.lane ∧ c.b.q = cv.b.q ∧ fetchLeft s1 c = [] then columnPlay s1 c else s1
    | none => s1

/-- RECORD_WRITE_COMPLETE: the words of this cc, and the end of the write once all are written (R314, R321). -/
def recordWriteOp (s : State) : State :=
  match s.evr.writes with
  | [] => s
  | w :: rest =>
    let same (s : State) : Bool := decide (s.evr.writes.length = rest.length + 1)
    let s1 := forEach (recordLeft w) s fun s i =>
      if same s then arbitrate (wordReq .recordCtl (recordAddr4 s w i)) s id fun s => recordPut s w i else s
    match s1.evr.writes with
    | v :: _ => if same s1 && (recordLeft v).isEmpty then recordEnd s1 v else s1
    | [] => s1

/-- COPY_WORD: a word is read and written, each where its bank is granted (R349). -/
def cpyWordOp (s : State) (k : Unit3) : State :=
  let put (s : State) : State :=
    match cpyWord s k.val with
    | some w => if !cpyMoves s k.val || cpyWaits s k.val then s else arbitrate (copyReq s k) s id fun s => cpyWriteOp s k w
    | none => s
  if !cpyMoves s k.val || cpyWaits s k.val then s
  else if (cpyWord s k.val).isSome then put s
  else put (arbitrate (copyReq s k) s id fun s => cpyReadOp s k)

/-- The insert `q`, whose turn it is and which spills: its entry is written to the region, and then counts among the spilled; where
the region meets a loss the list is full (R133, R153, R154). -/
def spillPut (s : State) (q : CalReq) : State :=
  let k := spillPlace s
  let s1 := takeWords .spill (spillLeft s true k) (spillBegin s true k) (fun s => !s.cal.spillBad) spillWrite
  if s1.cal.spillBad then
    let (r, s2) := calRefuse (servedReq s1 q) q.who q.d0 4
    calResult s2 q.who r
  else if (spillLeft s1 true k).isEmpty then
    let (r, s2) := calSpilled (servedReq s1 q) q k
    calResult s2 q.who r
  else s1

/-- SPILL_MOVE: doomed entries expire, a due entry that finds the table full waits, and in the mover's turn its entry is read and
moves into the table, unless the reads meet a loss (R130, R147, R154–R156). -/
def spillMoveOp (s0 : State) : State :=
  let s := spillFull (spillExpire s0)
  match spillNext s with
  | none => s
  | some e =>
    let here (s : State) : Bool := s.cal.spill.any fun f => f.id == e.id
    let s1 := takeWords .spill (spillLeft s false e.slot) (spillBegin s false e.slot) here fun s a => spillAccess s a none
    let ended (s : State) : State := s.modCal fun c => { c with rr := 19, opTb := some s.cc, spillAt := none }
    if !here s1 then ended s1
    else if (spillLeft s1 false e.slot).isEmpty then spillTake (ended s1) e
    else s1

/-! The accesses that come with no row, at the end of a cc. -/

/-- The oldest repeat count that waits is written where its bank is free (R320). -/
def repStep (s : State) : State :=
  match s.evr.reps with
  | [] => s
  | q :: _ => arbitrate ((repWord s).bind fun a => masterReq .recordCtl [placeOf a] [a] [placeOf a] none) s id fun s => repWrite s q

/-- Safelight reads the claimed record that the log takes next, and forms its entry (R431); an error that cannot be corrected is a bus
error (R329). -/
def logRead (s : State) (a : Nat) : State :=
  let s0 := s.modSlt fun t => { t with ringReads := t.ringReads.drop 1 }
  let get (s : State) (a : Nat) : Word × State :=
    match spoolAccessOp s .safelight a 4 none with
    | (_, true, s1) => (0, hpError s1 0 .safelight a .b4 false)
    | (w, false, s1) => (w, s1)
  let (w0, s1) := get s0 a
  let (w3, s2) := get s1 (a + 12)
  logForm s2 0 w0 w3

def logStep (s : State) : State :=
  match s.slt.ringReads with
  | [] => s
  | a :: _ => arbitrate (wordsReq .safelight (logWords s)) s id fun s => logRead s a

/-- The end of a cc at the spools: the accesses without a row, write-backs, and the cycles of the background test. -/
def spoolCycle (s : State) : State := testCycles (writeBacks (logStep (repStep s)))

end Sys2Proof.Machine
end

