-- ==== Sys2Proof/Machine/ExecCalendar.lean ====
section
/-! DEFINITION. The event calendar (chapter 4). -/

namespace Sys2Proof.Machine

/-- An insert or cancel is performed: its result word (none for the fix unit, whose insert is never refused), and the
state (R131, R133, R135). -/
def calPerform (s : State) (q : CalReq) : Word × State :=
  match q.who with
  | .fix k => (0, calFixInsert s k.val q)
  | _ => if q.cancel then calCancelOp s q.d0 else calInsertOp s q

/-- The request is an insert into the spill list (R133). -/
def spills (s : State) (q : CalReq) : Bool :=
  match q.who with
  | .fix _ => false
  | _ => !q.cancel && insertFate s q == .spill

/-- The calendar serves the request whose turn it is, when it is of the kind asked for and the stage can have completed it:
2 cc for it, 16 cc for a spill placement (R130, R131). -/
def calServe (s : State) (cancel : Bool) : State :=
  match nextTurn s with
  | some (.req q) =>
    if q.cancel != cancel || !opReady s (some q.tb) 4 then s
    else if spills s q then (if (spillTurn s).isSome then spillPut s q else s)
    else
      let (r, s2) := calPerform (servedReq s q) q
      calResult s2 q.who r
  | _ => s

/-- CAL_ARM (R159). -/
def execCalArm (m : Master) (bank : Fin 2) (s : State) : Host.Outcome State Fault Refusal :=
  .next (writeReg s m (Reg.CAL_ARM bank.val) 0)

/-- CAL_CANCEL (R159). -/
def execCalCancel (m : Master) (bank : Fin 2) (handle : Word) (s : State) : Host.Outcome State Fault Refusal :=
  .next (writeReg s m (Reg.CAL_CANCEL bank.val) handle)

/-- CAL_INSERT (R133). -/
def execCalInsert (s : State) : Host.Outcome State Fault Refusal := .next (calServe s false)

/-- ENTRY_CANCEL (R135). -/
def execEntryCancel (s : State) : Host.Outcome State Fault Refusal := .next (calServe s true)

/-- CAL_FLUSH (R136). -/
def execCalFlush (m : Master) (w : Word) (s : State) : Host.Outcome State Fault Refusal :=
  .next (writeReg s m Reg.CAL_FLUSH (setBit w 0))

/-- FLUSH_COMPLETE (R136). -/
def execFlushComplete (s : State) : Host.Outcome State Fault Refusal := .next { s with cal := { s.cal with flushing := false } }

/-- CAL_CLR_CNT (R158). -/
def execCalClrCnt (m : Master) (s : State) : Host.Outcome State Fault Refusal := .next (writeReg s m Reg.CAL_CMD (mkw 1 0))

/-- ENTRY_LOAD (R150). -/
def execEntryLoad (s : State) : Host.Outcome State Fault Refusal := .next (entryLoadOp s)

/-- ENTRY_DISPATCH (R151). -/
def execEntryDispatch (s : State) : Host.Outcome State Fault Refusal := .next (entryDispatchOp s)

/-- SPILL_ENABLE (R153). -/
def execSpillEnable (m : Master) (w : Word) (s : State) : Host.Outcome State Fault Refusal :=
  .next (writeReg s m Reg.CAL_SPILL_CTL (setBit w 0))

/-- SPILL_MOVE (R155). -/
def execSpillMove (s : State) : Host.Outcome State Fault Refusal := .next (spillMoveOp s)

end Sys2Proof.Machine
end

