-- ==== Sys2Proof/Machine/ExecCascade.lean ====
section
/-! DEFINITION. The cascade (chapter 14). -/

namespace Sys2Proof.Machine

/-- CASCADE_ENABLE (R402). -/
def execCascadeEnable (m : Master) (w : Word) (s : State) : Host.Outcome State Fault Refusal :=
  .next (writeReg s m Reg.CAS_CTL (setBit w 0))

/-- CASCADE_TRAINING (R404). -/
def execCascadeTraining (version _role : BitVec 8) (crcOk : Bool) (rtt : Nat) (s : State) : Host.Outcome State Fault Refusal :=
  .next (cascadeTrainingOp s version crcOk rtt)

/-- DOWN_FRAME_SEND (R405). -/
def execDownFrameSend (s : State) : Host.Outcome State Fault Refusal := .next (downFrameSendOp s)

/-- DOWN_FRAME (R408). -/
def execDownFrame (f : DownFrame) (s : State) : Host.Outcome State Fault Refusal := .next (downFrameOp s f)

/-- UP_FRAME (R407). -/
def execUpFrame (f : UpFrame) (s : State) : Host.Outcome State Fault Refusal := .next (upFrameOp s f)

/-- FIX_PREP (R416). -/
def execFixPrep (c : CasCommand) (s : State) : Host.Outcome State Fault Refusal := .next (fixPrepOp s c)

/-- FIX_TIME (R418). -/
def execFixTime (c : CasCommand) (s : State) : Host.Outcome State Fault Refusal := .next (fixTimeOp s c)

/-- FIX_CANCEL (R417). -/
def execFixCancel (c : CasCommand) (s : State) : Host.Outcome State Fault Refusal := .next (fixCancelCmdOp s c)

/-- FMT_PREP (R420). -/
def execFmtPrep (c : CasCommand) (s : State) : Host.Outcome State Fault Refusal := .next (fmtPrepOp s c)

/-- FMT_ABANDON (R420). -/
def execFmtAbandon (c : CasCommand) (s : State) : Host.Outcome State Fault Refusal := .next (fmtAbandonOp s c)

/-- COMMAND_TIMEOUT (R415). -/
def execCommandTimeout (s : State) : Host.Outcome State Fault Refusal := .next (commandTimeoutOp s)

/-- SPLIT (R418). -/
def execSplit (s : State) : Host.Outcome State Fault Refusal := .next (splitOp s)

/-- MEMBER_LOST (R411). -/
def execMemberLost (role : Fin 8) (s : State) : Host.Outcome State Fault Refusal := .next (memberLostOp s role.val)

/-- CASCADE_LINK_LOSS (R421). -/
def execCascadeLinkLoss (s : State) : Host.Outcome State Fault Refusal := .next (cascadeLinkLossOp s)

/-- CASCADE_REQUEST_ANSWER (R404). -/
def execCascadeRequestAnswer (version _role : BitVec 8) (crcOk : Bool) (s : State) : Host.Outcome State Fault Refusal :=
  .next (cascadeAnswerOp s version crcOk)

/-- UP_FRAME_REPEAT (R407). -/
def execUpFrameRepeat (f : UpFrame) (s : State) : Host.Outcome State Fault Refusal := .next (upFrameRepeatOp s f)

end Sys2Proof.Machine
end

