-- ==== Sys2Proof/Machine/ExecChannel.lean ====
section
/-! DEFINITION. Channels, TIO pins and calibration of the verniers (chapter 3). -/

namespace Sys2Proof.Machine

/-- A level change at a ball (R122): it is accepted in tb ⌈s⌉ + FLT when the level has held since; where the device drives the ball the change is its own. -/
def inputChangeOp (s : State) (n : Nat) (lvl : Bool) (e : InEdge) : State :=
  let p := s.pinAt n
  let flt := s.rf (Reg.TIO_CFG n) 15 8
  if s.tb ≠ cdiv e.stamp 16 + flt ∨ !gfHolds flt e.stamp e.back ∨ p.acc = lvl then s
  else match p.ball with
    | .z => tioAccept (s.modPin n fun p => { p with ext := lvl }) n lvl e.stamp
    | l => if l.high == lvl then tioAccept s n lvl e.stamp else s

/-- A calibration round of bank `k` ends, 4 being the sprocket units' monitor (R119, R120). -/
def vcalRoundOp (s : State) (k : Nat) (fails : Word) : State :=
  if !s.rb Reg.VCAL_CTL 0 || !s.tbRun then s else
  let s1 := s.setRf Reg.VCAL_STAT k k 1
  let s2 := if k < 4 then s1.setReg (Reg.VCAL_FAIL k) fails else s1
  let s3 := if k = 0 then s2.setRf Reg.VCAL_STAT 31 16 ((s2.rf Reg.VCAL_STAT 31 16 + 1) % 65536) else s2
  if s3.rb Reg.VCAL_CTL 1 then s3 else vcalApply s3 k

/-- The detected supply of bank `k` changes (R123). -/
def supplyOp (s : State) (k : Nat) (v : Bool) : State :=
  settlePins { s with vdet := vmodN s.vdet k fun _ => v } ((List.range 32).map fun j => 32 * k + j)

/-- A write of CHn_CMD. -/
def chCmd (s : State) (m : Master) (n : Nat) (w : Word) : State := writeReg s m (Reg.CH_CMD n) w

/-- CHANNEL_CTL_WRITE (R93). -/
def execChannelCtlWrite (m : Master) (ch : Fin 128) (w : Word) (s : State) : Host.Outcome State Fault Refusal :=
  .next (writeReg s m (Reg.CH_CTL ch.val) w)

/-- COUNTER_WRITE (R94). -/
def execCounterWrite (m : Master) (ch : Fin 128) (w : Word) (s : State) : Host.Outcome State Fault Refusal :=
  .next (writeReg s m (Reg.CH_CNT ch.val) w)

/-- COMPARE_WRITE (R100). -/
def execCompareWrite (m : Master) (ch : Fin 128) (slot : Fin 4) (w : Word) (s : State) : Host.Outcome State Fault Refusal :=
  .next (writeReg s m (Reg.CH_CMP ch.val slot.val) w)

/-- COMPARE_FIRE (R97). -/
def execCompareFire (ch : Fin 128) (slot : Fin 4) (s : State) : Host.Outcome State Fault Refusal :=
  .next (compareFire (fixAhead s) ch.val slot.val)

/-- COMPARE_FIRE_WRAP (R104). -/
def execCompareFireWrap (ch : Fin 128) (slot : Fin 4) (s : State) : Host.Outcome State Fault Refusal :=
  .next (wrapFire (fixAhead s) ch.val slot.val)

/-- COMPARE_FIRE_UPDOWN (R105). -/
def execCompareFireUpdown (ch : Fin 128) (slot : Fin 4) (s : State) : Host.Outcome State Fault Refusal :=
  .next (updownFire (fixAhead s) ch.val slot.val)

/-- PULSE_END (R108). -/
def execPulseEnd (ch : Fin 128) (s : State) : Host.Outcome State Fault Refusal := .next (pulseEnds (fixAhead s) ch.val)

/-- FORCE (R107). -/
def execForce (m : Master) (ch : Fin 128) (f : Fin 4) (s : State) : Host.Outcome State Fault Refusal :=
  .next (chCmd s m ch.val (mkw f.val 6))

/-- FLUSH (R117). -/
def execFlush (m : Master) (ch : Fin 128) (s : State) : Host.Outcome State Fault Refusal := .next (chCmd s m ch.val (mkw 1 5))

/-- CAPNOW (R113). -/
def execCapnow (m : Master) (ch : Fin 128) (s : State) : Host.Outcome State Fault Refusal := .next (chCmd s m ch.val (mkw 1 4))

/-- DISARM (R102). -/
def execDisarm (m : Master) (ch : Fin 128) (slots : BitVec 4) (s : State) : Host.Outcome State Fault Refusal :=
  .next (chCmd s m ch.val (mkw slots.toNat 0))

/-- TIO_INPUT_CHANGE (R122). -/
def execTioInputChange (pin : Fin 128) (lvl : Bool) (e : InEdge) (s : State) : Host.Outcome State Fault Refusal :=
  .next (inputChangeOp (fixAhead s) pin.val lvl e)

/-- CAPTURE_READ (R116). -/
def execCaptureRead (m : Master) (ch : Fin 128) (s : State) : Host.Outcome State Fault Refusal :=
  .next (readReg s m (Reg.CH_CAP ch.val))

/-- VCAL_ROUND (R119). -/
def execVcalRound (bank : Fin 5) (fails : Word) (s : State) : Host.Outcome State Fault Refusal :=
  .next (vcalRoundOp s bank.val fails)

/-- BANK_SUPPLY_MISMATCH (R123). -/
def execBankSupplyMismatch (bank : Fin 4) (vdet : Bool) (s : State) : Host.Outcome State Fault Refusal :=
  .next (supplyOp s bank.val vdet)

/-- TB_EVENT_TICK (R90). -/
def execTbEventTick (ch : Fin 128) (s : State) : Host.Outcome State Fault Refusal := .next (tbEvent (fixAhead s) ch.val)

end Sys2Proof.Machine
end

