-- ==== Sys2Proof/Machine/ExecContact.lean ====
section
/-! DEFINITION. The contact engine and the Korok links (chapter 6). -/

namespace Sys2Proof.Machine

/-- CT_ENABLE (R211). -/
def execCtEnable (m : Master) (w : Word) (s : State) : Host.Outcome State Fault Refusal :=
  .next (writeReg s m Reg.CT_CTL (setBit w 0))

/-- CT_GO (R216). -/
def execCtGo (m : Master) (s : State) : Host.Outcome State Fault Refusal := .next (writeReg s m Reg.CT_CMD (mkw 1 0))

/-- CT_HALT (R219). -/
def execCtHalt (m : Master) (s : State) : Host.Outcome State Fault Refusal := .next (writeReg s m Reg.CT_CMD (mkw 1 1))

/-- CT_BLANK (R219). -/
def execCtBlank (m : Master) (s : State) : Host.Outcome State Fault Refusal := .next (writeReg s m Reg.CT_CMD (mkw 1 2))

/-- CT_JUMP (R214). -/
def execCtJump (m : Master) (s : State) : Host.Outcome State Fault Refusal := .next (writeReg s m Reg.CT_CMD (mkw 1 3))

/-- CT_CLR_CNT (R240). -/
def execCtClrCnt (m : Master) (s : State) : Host.Outcome State Fault Refusal := .next (writeReg s m Reg.CT_CMD (mkw 1 4))

/-- COLUMN_FETCH (R220). -/
def execColumnFetch (s : State) : Host.Outcome State Fault Refusal :=
  .next (columnFetchOp s)

/-- FRAME_SAMPLE (R233). -/
def execFrameSample (n : Unit3) (s : State) : Host.Outcome State Fault Refusal := .next (frameSampleOp s n.val)

/-- STATUS_FRAME (R234). -/
def execStatusFrame (n : Unit3) (f : StatusFrame) (s : State) : Host.Outcome State Fault Refusal :=
  .next (statusFrameOp s n.val f)

/-- LINK_MODE_WRITE (R235). -/
def execLinkModeWrite (m : Master) (n : Unit3) (w : Word) (s : State) : Host.Outcome State Fault Refusal :=
  .next (writeReg s m (Reg.LINK_CTL n.val) w)

/-- LINK_ALIGN (R235). -/
def execLinkAlign (n : Unit3) (s : State) : Host.Outcome State Fault Refusal := .next (linkAlignOp s n.val)

/-- TRAINING_REQUEST (R236). -/
def execTrainingRequest (n : Unit3) (s : State) : Host.Outcome State Fault Refusal := .next (trainingRequestOp s n.val)

/-- TRAINING_ANSWER (R236). -/
def execTrainingAnswer (n : Unit3) (ans : TrainAnswer) (s : State) : Host.Outcome State Fault Refusal :=
  .next (trainingAnswerOp s n.val ans)

/-- LINK_LOSS (R239). -/
def execLinkLoss (n : Unit3) (lockLost : Bool) (s : State) : Host.Outcome State Fault Refusal :=
  .next (linkLossAll s n.val lockLost)

/-- AUTO_RETRAIN (R235). -/
def execAutoRetrain (n : Unit3) (s : State) : Host.Outcome State Fault Refusal := .next (autoRetrainOp s n.val)

/-- RETRAIN (R235). -/
def execRetrain (m : Master) (n : Unit3) (s : State) : Host.Outcome State Fault Refusal :=
  .next (writeReg s m (Reg.LINK_CMD n.val) (mkw 1 0))

/-- LINK_CLR_CNT (R235). -/
def execLinkClrCnt (m : Master) (n : Unit3) (s : State) : Host.Outcome State Fault Refusal :=
  .next (writeReg s m (Reg.LINK_CMD n.val) (mkw 1 1))

end Sys2Proof.Machine
end

