-- ==== Sys2Proof/Machine/ExecEngine.lean ====
section
/-! DEFINITION. Enlarger engines: instructions, threads and their commands (chapter 5). -/

namespace Sys2Proof.Machine

/-- A write of the thread's control register that keeps its configuration; a master that is not secure carries no 1 in the
secure fields (R164, R205, R375). -/
def tctlCmd (s : State) (m : Master) (t : Nat) (bit : Nat) : State :=
  writeReg s m (Reg.ENL_TCTL (t / 4) (t % 4)) (setBit (tctl s t &&& (if masterSecure (masterNow s m) then 0xFF010120 else 0x120)) bit)

/-- ADD (R182). -/
def execAdd (t : Fin 64) (rd ra rb : Reg5) (s : State) : Host.Outcome State Fault Refusal :=
  .next (engIssue s t (.alu .add rd ra rb))

/-- SUB (R182). -/
def execSub (t : Fin 64) (rd ra rb : Reg5) (s : State) : Host.Outcome State Fault Refusal :=
  .next (engIssue s t (.alu .sub rd ra rb))

/-- SLL (R182). -/
def execSll (t : Fin 64) (rd ra rb : Reg5) (s : State) : Host.Outcome State Fault Refusal :=
  .next (engIssue s t (.alu .sll rd ra rb))

/-- SRL (R182). -/
def execSrl (t : Fin 64) (rd ra rb : Reg5) (s : State) : Host.Outcome State Fault Refusal :=
  .next (engIssue s t (.alu .srl rd ra rb))

/-- SRA (R182). -/
def execSra (t : Fin 64) (rd ra rb : Reg5) (s : State) : Host.Outcome State Fault Refusal :=
  .next (engIssue s t (.alu .sra rd ra rb))

/-- SLT (R182). -/
def execSlt (t : Fin 64) (rd ra rb : Reg5) (s : State) : Host.Outcome State Fault Refusal :=
  .next (engIssue s t (.alu .slt rd ra rb))

/-- SLTU (R182). -/
def execSltu (t : Fin 64) (rd ra rb : Reg5) (s : State) : Host.Outcome State Fault Refusal :=
  .next (engIssue s t (.alu .sltu rd ra rb))

/-- MIN (R182). -/
def execMin (t : Fin 64) (rd ra rb : Reg5) (s : State) : Host.Outcome State Fault Refusal :=
  .next (engIssue s t (.alu .min rd ra rb))

/-- MAX (R182). -/
def execMax (t : Fin 64) (rd ra rb : Reg5) (s : State) : Host.Outcome State Fault Refusal :=
  .next (engIssue s t (.alu .max rd ra rb))

/-- MINU (R182). -/
def execMinu (t : Fin 64) (rd ra rb : Reg5) (s : State) : Host.Outcome State Fault Refusal :=
  .next (engIssue s t (.alu .minu rd ra rb))

/-- MAXU (R182). -/
def execMaxu (t : Fin 64) (rd ra rb : Reg5) (s : State) : Host.Outcome State Fault Refusal :=
  .next (engIssue s t (.alu .maxu rd ra rb))

/-- MUL (R182). -/
def execMul (t : Fin 64) (rd ra rb : Reg5) (s : State) : Host.Outcome State Fault Refusal :=
  .next (engIssue s t (.alu .mul rd ra rb))

/-- MULH (R182). -/
def execMulh (t : Fin 64) (rd ra rb : Reg5) (s : State) : Host.Outcome State Fault Refusal :=
  .next (engIssue s t (.alu .mulh rd ra rb))

/-- MULHU (R182). -/
def execMulhu (t : Fin 64) (rd ra rb : Reg5) (s : State) : Host.Outcome State Fault Refusal :=
  .next (engIssue s t (.alu .mulhu rd ra rb))

/-- AND (R182). -/
def execEngAnd (t : Fin 64) (rd ra rb : Reg5) (s : State) : Host.Outcome State Fault Refusal :=
  .next (engIssue s t (.alu .and rd ra rb))

/-- OR (R182). -/
def execEngOr (t : Fin 64) (rd ra rb : Reg5) (s : State) : Host.Outcome State Fault Refusal :=
  .next (engIssue s t (.alu .or rd ra rb))

/-- XOR (R182). -/
def execEngXor (t : Fin 64) (rd ra rb : Reg5) (s : State) : Host.Outcome State Fault Refusal :=
  .next (engIssue s t (.alu .xor rd ra rb))

/-- DIV (R183). -/
def execDiv (t : Fin 64) (rd ra rb : Reg5) (s : State) : Host.Outcome State Fault Refusal :=
  .next (engIssue s t (.divide .div rd ra rb))

/-- DIVU (R183). -/
def execDivu (t : Fin 64) (rd ra rb : Reg5) (s : State) : Host.Outcome State Fault Refusal :=
  .next (engIssue s t (.divide .divu rd ra rb))

/-- REM (R183). -/
def execRem (t : Fin 64) (rd ra rb : Reg5) (s : State) : Host.Outcome State Fault Refusal :=
  .next (engIssue s t (.divide .rem rd ra rb))

/-- REMU (R183). -/
def execRemu (t : Fin 64) (rd ra rb : Reg5) (s : State) : Host.Outcome State Fault Refusal :=
  .next (engIssue s t (.divide .remu rd ra rb))

/-- ADDI (R184). -/
def execAddi (t : Fin 64) (rd ra : Reg5) (i : BitVec 16) (s : State) : Host.Outcome State Fault Refusal :=
  .next (engIssue s t (.imm .addi rd ra i))

/-- ANDI (R184). -/
def execAndi (t : Fin 64) (rd ra : Reg5) (i : BitVec 16) (s : State) : Host.Outcome State Fault Refusal :=
  .next (engIssue s t (.imm .andi rd ra i))

/-- ORI (R184). -/
def execOri (t : Fin 64) (rd ra : Reg5) (i : BitVec 16) (s : State) : Host.Outcome State Fault Refusal :=
  .next (engIssue s t (.imm .ori rd ra i))

/-- XORI (R184). -/
def execXori (t : Fin 64) (rd ra : Reg5) (i : BitVec 16) (s : State) : Host.Outcome State Fault Refusal :=
  .next (engIssue s t (.imm .xori rd ra i))

/-- CMPI (R184). -/
def execCmpi (t : Fin 64) (ra : Reg5) (i : BitVec 16) (s : State) : Host.Outcome State Fault Refusal :=
  .next (engIssue s t (.imm .cmpi 0 ra i))

/-- LUI (R184). -/
def execLui (t : Fin 64) (rd : Reg5) (i : BitVec 16) (s : State) : Host.Outcome State Fault Refusal :=
  .next (engIssue s t (.imm .lui rd 0 i))

/-- SLLI (R184). -/
def execSlli (t : Fin 64) (rd ra : Reg5) (sh : Fin 32) (s : State) : Host.Outcome State Fault Refusal :=
  .next (engIssue s t (.shift .slli rd ra sh))

/-- SRLI (R184). -/
def execSrli (t : Fin 64) (rd ra : Reg5) (sh : Fin 32) (s : State) : Host.Outcome State Fault Refusal :=
  .next (engIssue s t (.shift .srli rd ra sh))

/-- SRAI (R184). -/
def execSrai (t : Fin 64) (rd ra : Reg5) (sh : Fin 32) (s : State) : Host.Outcome State Fault Refusal :=
  .next (engIssue s t (.shift .srai rd ra sh))

/-- LDT (R171). -/
def execLdt (t : Fin 64) (rd ra : Reg5) (off : BitVec 16) (s : State) : Host.Outcome State Fault Refusal :=
  .next (engIssue s t (.trayLoad .w rd ra off))

/-- LD (R172). -/
def execLd (t : Fin 64) (rd ra : Reg5) (off : BitVec 16) (s : State) : Host.Outcome State Fault Refusal :=
  .next (engIssue s t (.load .w rd ra off))

/-- LDTH (R171). -/
def execLdth (t : Fin 64) (rd ra : Reg5) (off : BitVec 16) (s : State) : Host.Outcome State Fault Refusal :=
  .next (engIssue s t (.trayLoad .h rd ra off))

/-- LDH (R172). -/
def execLdh (t : Fin 64) (rd ra : Reg5) (off : BitVec 16) (s : State) : Host.Outcome State Fault Refusal :=
  .next (engIssue s t (.load .h rd ra off))

/-- LDTHU (R171). -/
def execLdthu (t : Fin 64) (rd ra : Reg5) (off : BitVec 16) (s : State) : Host.Outcome State Fault Refusal :=
  .next (engIssue s t (.trayLoad .hu rd ra off))

/-- LDHU (R172). -/
def execLdhu (t : Fin 64) (rd ra : Reg5) (off : BitVec 16) (s : State) : Host.Outcome State Fault Refusal :=
  .next (engIssue s t (.load .hu rd ra off))

/-- LDTB (R171). -/
def execLdtb (t : Fin 64) (rd ra : Reg5) (off : BitVec 16) (s : State) : Host.Outcome State Fault Refusal :=
  .next (engIssue s t (.trayLoad .b rd ra off))

/-- LDB (R172). -/
def execLdb (t : Fin 64) (rd ra : Reg5) (off : BitVec 16) (s : State) : Host.Outcome State Fault Refusal :=
  .next (engIssue s t (.load .b rd ra off))

/-- LDTBU (R171). -/
def execLdtbu (t : Fin 64) (rd ra : Reg5) (off : BitVec 16) (s : State) : Host.Outcome State Fault Refusal :=
  .next (engIssue s t (.trayLoad .bu rd ra off))

/-- LDBU (R172). -/
def execLdbu (t : Fin 64) (rd ra : Reg5) (off : BitVec 16) (s : State) : Host.Outcome State Fault Refusal :=
  .next (engIssue s t (.load .bu rd ra off))

/-- STT (R171). -/
def execStt (t : Fin 64) (rd ra : Reg5) (off : BitVec 16) (s : State) : Host.Outcome State Fault Refusal :=
  .next (engIssue s t (.trayStore .w rd ra off))

/-- ST (R172). -/
def execSt (t : Fin 64) (rd ra : Reg5) (off : BitVec 16) (s : State) : Host.Outcome State Fault Refusal :=
  .next (engIssue s t (.store .w rd ra off))

/-- STTH (R171). -/
def execStth (t : Fin 64) (rd ra : Reg5) (off : BitVec 16) (s : State) : Host.Outcome State Fault Refusal :=
  .next (engIssue s t (.trayStore .h rd ra off))

/-- STH (R172). -/
def execSth (t : Fin 64) (rd ra : Reg5) (off : BitVec 16) (s : State) : Host.Outcome State Fault Refusal :=
  .next (engIssue s t (.store .h rd ra off))

/-- STTB (R171). -/
def execSttb (t : Fin 64) (rd ra : Reg5) (off : BitVec 16) (s : State) : Host.Outcome State Fault Refusal :=
  .next (engIssue s t (.trayStore .b rd ra off))

/-- STB (R172). -/
def execStb (t : Fin 64) (rd ra : Reg5) (off : BitVec 16) (s : State) : Host.Outcome State Fault Refusal :=
  .next (engIssue s t (.store .b rd ra off))

/-- B_COND (R180). -/
def execBCond (t : Fin 64) (cond : Fin 16) (off : BitVec 16) (s : State) : Host.Outcome State Fault Refusal :=
  .next (engIssue s t (.bcond cond off))

/-- JAL (R186). -/
def execJal (t : Fin 64) (rd : Reg5) (tgt : BitVec 12) (s : State) : Host.Outcome State Fault Refusal :=
  .next (engIssue s t (.jal rd tgt))

/-- JALR (R186). -/
def execJalr (t : Fin 64) (rd ra : Reg5) (s : State) : Host.Outcome State Fault Refusal := .next (engIssue s t (.jalr rd ra))

/-- WAIT (R168). -/
def execWait (t : Fin 64) (rd : Reg5) (mask : BitVec 16) (s : State) : Host.Outcome State Fault Refusal :=
  .next (engIssue s t (.wait rd mask))

/-- CARM (R188). -/
def execCarm (t : Fin 64) (rd ra : Reg5) (s : State) : Host.Outcome State Fault Refusal := .next (engIssue s t (.carm rd ra))

/-- CCAN (R188). -/
def execCcan (t : Fin 64) (rd ra : Reg5) (s : State) : Host.Outcome State Fault Refusal := .next (engIssue s t (.ccan rd ra))

/-- POS (R190). -/
def execPos (t : Fin 64) (rd : Reg5) (n : Unit3) (s : State) : Host.Outcome State Fault Refusal :=
  .next (engIssue s t (.pos rd n))

/-- SPKR (R190). -/
def execSpkr (t : Fin 64) (rd : Reg5) (n : Unit3) (sel : Fin 16) (s : State) : Host.Outcome State Fault Refusal :=
  .next (engIssue s t (.spkr rd n sel))

/-- P2T (R191). -/
def execP2t (t : Fin 64) (rd ra : Reg5) (n : Unit3) (s : State) : Host.Outcome State Fault Refusal :=
  .next (engIssue s t (.p2t rd ra n))

/-- T2P (R192). -/
def execT2p (t : Fin 64) (rd ra : Reg5) (n : Unit3) (s : State) : Host.Outcome State Fault Refusal :=
  .next (engIssue s t (.t2p rd ra n))

/-- PDIST (R193). -/
def execPdist (t : Fin 64) (rd ra rb : Reg5) (n : Unit3) (s : State) : Host.Outcome State Fault Refusal :=
  .next (engIssue s t (.pdist rd ra rb n))

/-- CAP (R194). -/
def execCap (t : Fin 64) (rd : Reg5) (ch : Fin 128) (s : State) : Host.Outcome State Fault Refusal :=
  .next (engIssue s t (.cap rd ch))

/-- SNAP (R195). -/
def execSnap (t : Fin 64) (rd ra : Reg5) (mode k : Fin 4) (s : State) : Host.Outcome State Fault Refusal :=
  .next (engIssue s t (.snap rd ra mode k))

/-- SNREL (R195). -/
def execSnrel (t : Fin 64) (s : State) : Host.Outcome State Fault Refusal := .next (engIssue s t .snrel)

/-- FIXARM (R197). -/
def execFixarm (t : Fin 64) (rd ra : Reg5) (k kind : Fin 4) (u : Unit3) (s : State) : Host.Outcome State Fault Refusal :=
  .next (engIssue s t (.fixarm rd ra k kind u))

/-- SEND (R170). -/
def execSend (t : Fin 64) (rd ra rb : Reg5) (s : State) : Host.Outcome State Fault Refusal :=
  .next (engIssue s t (.send rd ra rb))

/-- RECV (R170). -/
def execRecv (t : Fin 64) (rd : Reg5) (s : State) : Host.Outcome State Fault Refusal := .next (engIssue s t (.recv rd))

/-- MFS (R199). -/
def execMfs (t : Fin 64) (rd : Reg5) (sel : Fin 16) (s : State) : Host.Outcome State Fault Refusal :=
  .next (engIssue s t (.mfs rd sel))

/-- MTS (R199). -/
def execMts (t : Fin 64) (sel : Fin 16) (ra : Reg5) (s : State) : Host.Outcome State Fault Refusal :=
  .next (engIssue s t (.mts sel ra))

/-- FENCE (R174). -/
def execFence (t : Fin 64) (s : State) : Host.Outcome State Fault Refusal := .next (engIssue s t .fence)

/-- HALT (R200). -/
def execHalt (t : Fin 64) (s : State) : Host.Outcome State Fault Refusal := .next (engIssue s t .halt)

/-- FIXSEL (R196). -/
def execFixsel (t : Fin 64) (k : Fin 4) (st : Bool) (s : State) : Host.Outcome State Fault Refusal :=
  .next (engIssue s t (.fixsel k st))

/-- REC (R198). -/
def execEngRec (t : Fin 64) (ra : Reg5) (kind : Fin 64) (s : State) : Host.Outcome State Fault Refusal :=
  .next (engIssue s t (.record ra kind))

/-- FABRIC_ACCESS_COMPLETE (R173). -/
def execFabricAccessComplete (t : Fin 64) (s : State) : Host.Outcome State Fault Refusal :=
  .next (arbitrate (threadReq s t) s id fun s => fabricOp s t)

/-- THREAD_WAKE (R168). -/
def execThreadWake (t : Fin 64) (s : State) : Host.Outcome State Fault Refusal := .next (wakeOp s t.val)

/-- THREAD_WATCHDOG (R203). -/
def execThreadWatchdog (t : Fin 64) (s : State) : Host.Outcome State Fault Refusal := .next (watchdogOp s t.val)

/-- BREAKPOINT (R204). -/
def execBreakpoint (t : Fin 64) (s : State) : Host.Outcome State Fault Refusal := .next (breakpointOp s t.val)

/-- THREAD_START (R164). -/
def execThreadStart (m : Master) (t : Fin 64) (s : State) : Host.Outcome State Fault Refusal := .next (tctlCmd s m t.val 0)

/-- THREAD_STOP (R164). -/
def execThreadStop (m : Master) (t : Fin 64) (s : State) : Host.Outcome State Fault Refusal := .next (tctlCmd s m t.val 1)

/-- STEP (R205). -/
def execStep (m : Master) (t : Fin 64) (s : State) : Host.Outcome State Fault Refusal := .next (tctlCmd s m t.val 2)

/-- DBELL (R167). -/
def execDbell (m : Master) (t : Fin 64) (s : State) : Host.Outcome State Fault Refusal := .next (tctlCmd s m t.val 3)

/-- CLR_EV (R167). -/
def execClrEv (m : Master) (t : Fin 64) (s : State) : Host.Outcome State Fault Refusal := .next (tctlCmd s m t.val 4)

/-- CLR_ECC (R162). -/
def execClrEcc (m : Master) (e : Fin 16) (s : State) : Host.Outcome State Fault Refusal :=
  .next (writeReg s m (Reg.ENL_CTL e.val) (setBit (s.reg (Reg.ENL_CTL e.val) &&& (if masterSecure (masterNow s m) then 0x1FFF0001 else 1)) 1))

/-- ENGINE_DISABLE (R207). -/
def execEngineDisable (m : Master) (e : Fin 16) (w : Word) (s : State) : Host.Outcome State Fault Refusal :=
  .next (writeReg s m (Reg.ENL_CTL e.val) (clearBit w 0))

/-- TMSG_WRITE (R170). -/
def execTmsgWrite (m : Master) (t : Fin 64) (w : Word) (s : State) : Host.Outcome State Fault Refusal :=
  .next (writeReg s m (Reg.ENL_TMSG (t.val / 4) (t.val % 4)) w)

/-- WINDOW_ACCESS (R175). -/
def execWindowAccess (m : Master) (e : Fin 16) (off : Fin 512) (wr : Option Word)
    (s : State) : Host.Outcome State Fault Refusal :=
  .next (arbitrate (busReq s m (windowAddr e off) .b4 wr) s heldOff fun s =>
    match wr with | none => readReg s m (windowAddr e off) | some w => writeReg s m (windowAddr e off) w)

/-- WORK_REGISTER_WRITE (R206). -/
def execWorkRegisterWrite (m : Master) (t : Fin 64) (r : Option Reg5) (w : Word) (s : State) : Host.Outcome State Fault Refusal :=
  .next (match r with | some r => writeReg s m (Reg.ENL_W (t.val / 4) (32 * (t.val % 4) + r.val)) w | none => writeReg s m (Reg.ENL_TPC (t.val / 4) (t.val % 4)) w)

/-- DIVIDER_FREE (R183). -/
def execDividerFree (e : Fin 16) (s : State) : Host.Outcome State Fault Refusal := .next (dividerFreeOp s e)

end Sys2Proof.Machine
end

