-- ==== Sys2Proof/Machine/ExecExposure.lean ====
section
/-! DEFINITION. Exposure groups, triggers and trips (chapter 7). -/

namespace Sys2Proof.Machine

/-- A write of EXGn_CMD. -/
def exgCmd (s : State) (m : Master) (g : Nat) (w : Word) : State := writeReg s m (Reg.EXG_CMD g) w

/-- EXG_ENABLE (R246). -/
def execExgEnable (m : Master) (g : Fin 16) (w : Word) (s : State) : Host.Outcome State Fault Refusal :=
  .next (writeReg s m (Reg.EXG_CTL g.val) (setBit w 0))

/-- EXG_DISABLE (R246). -/
def execExgDisable (m : Master) (g : Fin 16) (w : Word) (s : State) : Host.Outcome State Fault Refusal :=
  .next (writeReg s m (Reg.EXG_CTL g.val) (clearBit w 0))

/-- EXG_GO (R246). -/
def execExgGo (m : Master) (w : Word) (s : State) : Host.Outcome State Fault Refusal := .next (writeReg s m Reg.EXG_GO w)

/-- EXG_STAGED_WRITE (R247). -/
def execExgStagedWrite (m : Master) (g : Fin 16) (off : Nat) (w : Word) (s : State) : Host.Outcome State Fault Refusal :=
  .next (if exgStagedOffsets.contains off then writeReg s m (exgBase g.val + off) w else s)

/-- EXG_FIX (R252). -/
def execExgFix (m : Master) (g : Fin 16) (s : State) : Host.Outcome State Fault Refusal := .next (exgCmd s m g.val (mkw 1 0))

/-- FIX_FORCE (R252). -/
def execFixForce (m : Master) (g : Fin 16) (s : State) : Host.Outcome State Fault Refusal := .next (exgCmd s m g.val (mkw 1 1))

/-- EXG_DISCARD (R252). -/
def execExgDiscard (m : Master) (g : Fin 16) (s : State) : Host.Outcome State Fault Refusal := .next (exgCmd s m g.val (mkw 1 2))

/-- TRIP_CLR (R263). -/
def execTripClr (m : Master) (g : Fin 16) (s : State) : Host.Outcome State Fault Refusal := .next (exgCmd s m g.val (mkw 1 3))

/-- COMM_SET (R255). -/
def execCommSet (m : Master) (g : Fin 16) (mp : Fin 8) (s : State) : Host.Outcome State Fault Refusal :=
  .next (exgCmd s m g.val (mkw 1 4 ||| mkw mp.val 8))

/-- PERIOD_START (R243). -/
def execPeriodStart (g : Fin 16) (s : State) : Host.Outcome State Fault Refusal := .next (periodStartOp s g.val)

/-- RELOAD (R250). -/
def execReload (g : Fin 16) (s : State) : Host.Outcome State Fault Refusal := .next (exgReloadOp s g.val)

/-- TRIGGER_FIRE (R253). -/
def execTriggerFire (g : Fin 16) (k : Fin 4) (s : State) : Host.Outcome State Fault Refusal := .next (triggerFireOp s g.val k.val)

/-- TRG_PULSE_END (R254). -/
def execTrgPulseEnd (p : Fin 8) (s : State) : Host.Outcome State Fault Refusal := .next (trgPulseEndOp s p.val)

/-- COMMUTATION_EVENT (R255). -/
def execCommutationEvent (g : Fin 16) (src : Fin 4) (s : State) : Host.Outcome State Fault Refusal :=
  .next (commutationOp s g.val src.val)

/-- TRIP_ASSERT (R257). -/
def execTripAssert (c : TripEdge) (s : State) : Host.Outcome State Fault Refusal := .next (tripAssertOp s c)

/-- TRIP_DEASSERT (R257). -/
def execTripDeassert (i : Fin 16) (s : State) : Host.Outcome State Fault Refusal := .next (tripSet s i.val false)

/-- BLANKING_END (R260). -/
def execBlankingEnd (g : Fin 16) (s : State) : Host.Outcome State Fault Refusal := .next (blankingEndOp s g.val)

end Sys2Proof.Machine
end

