-- ==== Sys2Proof/Machine/ExecGlobal.lean ====
section
/-! DEFINITION. Resets, timebase and identity reads, general register accesses, contact sheets and fix channels (chapter 1, R32–R38, R367–R371). -/

namespace Sys2Proof.Machine

/-- POWER_ON_RESET (R451). -/
def execPowerOnReset (hostMode : Bool) (role : Fin 8) (s : State) : Host.Outcome State Fault Refusal :=
  .next (powerOnOp s hostMode role)

/-- PIN_RESET (R452). -/
def execPinReset (hostMode : Bool) (role : Fin 8) (s : State) : Host.Outcome State Fault Refusal :=
  .next (pinResetOp s hostMode role)

/-- CORE_RESET (R17). -/
def execCoreReset (m : Master) (key : BitVec 16) (s : State) : Host.Outcome State Fault Refusal :=
  .next (writeReg s m Reg.RST_CTL (mkw key.toNat 16 ||| mkw 1 1))

/-- FULL_RESET (R17). -/
def execFullReset (m : Master) (key : BitVec 16) (s : State) : Host.Outcome State Fault Refusal :=
  .next (writeReg s m Reg.RST_CTL (mkw key.toNat 16 ||| mkw 1 0))

/-- PLL_LOCK (R20). -/
def execPllLock (s : State) : Host.Outcome State Fault Refusal := .next (pllLockOp s)

/-- TB_LO_READ (R21). -/
def execTbLoRead (m : Master) (s : State) : Host.Outcome State Fault Refusal := .next (readReg s m Reg.TB_LO)

/-- ID_SERIAL_LO_READ (R367). -/
def execIdSerialLoRead (m : Master) (s : State) : Host.Outcome State Fault Refusal := .next (readReg s m Reg.ID_SERIAL_LO)

/-- CLEAR_ON_READ (R370). -/
def execClearOnRead (m : Master) (addr : Nat) (sz : Size) (s : State) : Host.Outcome State Fault Refusal :=
  .next (arbitrate (busReq s m addr sz none) s heldOff fun s => readOp s (masterNow s m) addr sz)

/-- REGISTER_WRITE (R371). -/
def execRegisterWrite (m : Master) (addr : Nat) (w : Word) (s : State) : Host.Outcome State Fault Refusal :=
  .next (if addr < 0x800000 then s
    else arbitrate (busReq s m addr .b4 (some w)) s heldOff fun s => writeOp s (masterNow s m) addr .b4 w)

/-- STAGED_WRITE (R32). -/
def execStagedWrite (m : Master) (addr : Nat) (w : Word) (s : State) : Host.Outcome State Fault Refusal :=
  .next (if (regDesc addr).sth = 0 then s
    else arbitrate (busReq s m addr .b4 (some w)) s heldOff fun s => writeOp s (masterNow s m) addr .b4 w)

/-- CS_TAKE (R28). -/
def execCsTake (m : Master) (mode fx : Fin 4) (s : State) : Host.Outcome State Fault Refusal :=
  .next (writeReg s m Reg.CS_CTL (mkw 1 0 ||| mkw mode.val 2 ||| mkw fx.val 4))

/-- CS_RELEASE (R28). -/
def execCsRelease (m : Master) (s : State) : Host.Outcome State Fault Refusal :=
  .next (writeReg s m Reg.CS_CTL (mkw 1 1 ||| (s.reg Reg.CS_CTL &&& 0x3C)))

/-- CONTACT_SHEET_FREEZE (R26). -/
def execContactSheetFreeze (s : State) : Host.Outcome State Fault Refusal := .next (csFreezeOp s)

/-- CS_READY (R27). -/
def execCsReady (s : State) : Host.Outcome State Fault Refusal := .next (csReadyOp s)

/-- SNAPSHOT_READ (R27). -/
def execSnapshotRead (m : Master) (off : Fin 4096) (s : State) : Host.Outcome State Fault Refusal :=
  .next (arbitrate (busReq s m (0x00801000 + off.val) .b4 none) s heldOff fun s => readReg s m (0x00801000 + off.val))

/-- FIX_CHANNEL_ARM (R37). -/
def execFixChannelArm (m : Master) (k : Fin 4) (s : State) : Host.Outcome State Fault Refusal :=
  .next (writeReg s m (Reg.FIX_CTL k.val) (mkw 1 0))

/-- FIX_CHANNEL_CANCEL (R38). -/
def execFixChannelCancel (m : Master) (k : Fin 4) (s : State) : Host.Outcome State Fault Refusal :=
  .next (writeReg s m (Reg.FIX_CTL k.val) (mkw 1 1))

/-- FIX_CHANNEL_DISCARD (R38). -/
def execFixChannelDiscard (m : Master) (k : Fin 4) (s : State) : Host.Outcome State Fault Refusal :=
  .next (writeReg s m (Reg.FIX_CTL k.val) (mkw 1 2))

/-- FIX_COMMIT (R34). -/
def execFixCommit (k : Fin 4) (s : State) : Host.Outcome State Fault Refusal := .next (fixCommitOp s k.val)

end Sys2Proof.Machine
end

