-- ==== Sys2Proof/Machine/ExecHost.lean ====
section
/-! DEFINITION. The host port (chapter 12). -/

namespace Sys2Proof.Machine

/-- A transaction of the form that is strapped is not taken until the port accepts; one of the other form does not come (R353). -/
def hostRow (par : Bool) (s : State) (f : State → State) : State :=
  if s.host.parallel != par then s else if portOpen s then f s else heldOff s

/-- READ4 (R355). -/
def execRead4 (addr : Fin 16777216) (hsecChg abort : Bool) (s : State) : Host.Outcome State Fault Refusal :=
  .next (hostRow false s fun s => arbitrate (hostReq s addr .b4 none) s qspiHeld fun s => qspiOp s addr.val .b4 none hsecChg abort)

/-- READ2 (R355). -/
def execRead2 (addr : Fin 16777216) (hsecChg abort : Bool) (s : State) : Host.Outcome State Fault Refusal :=
  .next (hostRow false s fun s => arbitrate (hostReq s addr .b2 none) s qspiHeld fun s => qspiOp s addr.val .b2 none hsecChg abort)

/-- READ1 (R355). -/
def execRead1 (addr : Fin 16777216) (hsecChg abort : Bool) (s : State) : Host.Outcome State Fault Refusal :=
  .next (hostRow false s fun s => arbitrate (hostReq s addr .b1 none) s qspiHeld fun s => qspiOp s addr.val .b1 none hsecChg abort)

/-- WRITE4 (R355). -/
def execWrite4 (addr : Fin 16777216) (w : Word) (hsecChg abort : Bool) (s : State) : Host.Outcome State Fault Refusal :=
  .next (hostRow false s fun s => arbitrate (hostReq s addr .b4 (some w)) s qspiHeld fun s => qspiOp s addr.val .b4 (some w) hsecChg abort)

/-- WRITE2 (R355). -/
def execWrite2 (addr : Fin 16777216) (w : BitVec 16) (hsecChg abort : Bool) (s : State) : Host.Outcome State Fault Refusal :=
  .next (hostRow false s fun s => arbitrate (hostReq s addr .b2 (some (w.setWidth 32))) s qspiHeld fun s => qspiOp s addr.val .b2 (some (w.setWidth 32)) hsecChg abort)

/-- WRITE1 (R355). -/
def execWrite1 (addr : Fin 16777216) (w : Byte) (hsecChg abort : Bool) (s : State) : Host.Outcome State Fault Refusal :=
  .next (hostRow false s fun s => arbitrate (hostReq s addr .b1 (some (w.setWidth 32))) s qspiHeld fun s => qspiOp s addr.val .b1 (some (w.setWidth 32)) hsecChg abort)

/-- PROTO (R357). -/
def execProto (s : State) : Host.Outcome State Fault Refusal := .next (protoOp s)

/-- PARALLEL_READ_CYCLE (R361). -/
def execParallelReadCycle (addr : Fin 16777216) (be0 be1 hsecChg : Bool) (s : State) : Host.Outcome State Fault Refusal :=
  .next (hostRow true s fun s => arbitrate (parReq s addr.val be0 be1 false) s heldOff fun s => parReadOp s addr.val be0 be1 hsecChg)

/-- PARALLEL_WRITE_CYCLE (R360). -/
def execParallelWriteCycle (addr : Fin 16777216) (be0 be1 : Bool) (d : BitVec 16) (hsecChg : Bool)
    (s : State) : Host.Outcome State Fault Refusal :=
  .next (hostRow true s fun s => arbitrate (parReq s addr.val be0 be1 true) s heldOff fun s => parWriteOp s addr.val be0 be1 d hsecChg)

/-- HALF_ALONE (R360). -/
def execHalfAlone (s : State) : Host.Outcome State Fault Refusal :=
  .next (arbitrate (halfReq s) s heldOff halfAloneDue)

end Sys2Proof.Machine
end

