-- ==== Sys2Proof/Machine/ExecProtect.lean ====
section
/-! DEFINITION. Exposure meters, the release limiter, guarded gates, safe state and the host watchdog (chapter 9, R400). -/

namespace Sys2Proof.Machine

/-- METER_BOUNDARY (R290). -/
def execMeterBoundary (s : State) : Host.Outcome State Fault Refusal := .next (meterBoundaryOp s)

/-- MTR_RELEASE (R293). -/
def execMtrRelease (m : Master) (n : Fin 256) (s : State) : Host.Outcome State Fault Refusal :=
  .next (writeReg s m Reg.MTR_CMD (mkw n.val 0 ||| mkw 1 8))

/-- CLR_E (R290). -/
def execClrE (m : Master) (n : Fin 256) (s : State) : Host.Outcome State Fault Refusal :=
  .next (writeReg s m Reg.MTR_CMD (mkw n.val 0 ||| mkw 1 9))

/-- RELEASE_WINDOW_START (R296). -/
def execReleaseWindowStart (s : State) : Host.Outcome State Fault Refusal := .next (windowStartOp s)

/-- DELAYED_EDGE (R296). -/
def execDelayedEdge (pin : Fin 128) (s : State) : Host.Outcome State Fault Refusal := .next (delayedEdgeOp s pin.val)

/-- GUARD_GATE_OPEN (R299). -/
def execGuardGateOpen (pin : Fin 128) (s : State) : Host.Outcome State Fault Refusal := .next (gateOpenOp s pin.val)

/-- SAFE_PIN_ASSERT (R301). -/
def execSafePinAssert (s : State) : Host.Outcome State Fault Refusal := .next (safePinOp s)

/-- STOP_PIN_ASSERT (R301). -/
def execStopPinAssert (s : State) : Host.Outcome State Fault Refusal := .next (stopPinOp s)

/-- SAFE_CMD_ENTER (R301). -/
def execSafeCmdEnter (m : Master) (s : State) : Host.Outcome State Fault Refusal := .next (writeReg s m Reg.SAFE_CMD (mkw 1 0))

/-- SAFE_CMD_EXIT (R305). -/
def execSafeCmdExit (m : Master) (key : BitVec 16) (s : State) : Host.Outcome State Fault Refusal :=
  .next (writeReg s m Reg.SAFE_CMD (mkw key.toNat 16 ||| mkw 1 1))

/-- RUNDOWN_TIMEOUT (R303). -/
def execRundownTimeout (s : State) : Host.Outcome State Fault Refusal := .next (rundownTimeoutOp s)

/-- RD_DONE (R400). -/
def execRdDone (m : Master) (s : State) : Host.Outcome State Fault Refusal := .next (writeReg s m Reg.FMT_CMD (mkw 1 1))

/-- HWD_ENABLE (R306). -/
def execHwdEnable (m : Master) (w : Word) (s : State) : Host.Outcome State Fault Refusal :=
  .next (writeReg s m Reg.HWD_CTL (setBit w 31))

/-- HWD_KICK (R306). -/
def execHwdKick (m : Master) (v : BitVec 8) (s : State) : Host.Outcome State Fault Refusal :=
  .next (writeReg s m Reg.HWD_KICK (mkw v.toNat 0))

/-- HWD_REARM (R306). -/
def execHwdRearm (m : Master) (s : State) : Host.Outcome State Fault Refusal :=
  .next (writeReg s m Reg.HWD_CTL (setBit (s.reg Reg.HWD_CTL) 29))

/-- HWD_EXPIRY (R306). -/
def execHwdExpiry (s : State) : Host.Outcome State Fault Refusal := .next (hwdExpiryOp s)

/-- SAFE_PIN_RELEASE (R301). -/
def execSafePinRelease (s : State) : Host.Outcome State Fault Refusal :=
  .next { s with safe := { s.safe with safePin := false, safeUp := s.tb } }

/-- STOP_PIN_RELEASE (R301). -/
def execStopPinRelease (s : State) : Host.Outcome State Fault Refusal :=
  .next { s with safe := { s.safe with stopPin := false, stopUp := s.tb } }

end Sys2Proof.Machine
end

