-- ==== Sys2Proof/Machine/ExecRecords.lean ====
section
/-! DEFINITION. Event records (chapter 10). -/

namespace Sys2Proof.Machine

/-- RECORD_DELIVERY (R314). -/
def execRecordDelivery (s : State) : Host.Outcome State Fault Refusal := .next (deliveryOp s)

/-- RECORD_WRITE_COMPLETE (R314). -/
def execRecordWriteComplete (s : State) : Host.Outcome State Fault Refusal := .next (recordWriteOp s)

/-- EVR_CLAIM (R323). -/
def execEvrClaim (m : Master) (bank : Fin 3) (fast : Bool) (s : State) : Host.Outcome State Fault Refusal :=
  .next (readReg s m (Reg.EVR_CLAIM bank.val (ofBool fast)))

/-- EVR_DONE (R323). -/
def execEvrDone (m : Master) (bank : Fin 3) (fast : Bool) (idx : BitVec 12) (s : State) : Host.Outcome State Fault Refusal :=
  .next (writeReg s m (Reg.EVR_DONE bank.val (ofBool fast)) (mkw idx.toNat 0))

/-- CLR_LOST_N (R319). -/
def execClrLostN (m : Master) (bank : Fin 3) (s : State) : Host.Outcome State Fault Refusal :=
  .next (writeReg s m (Reg.EVR_CTL bank.val) (setBit (s.reg (Reg.EVR_CTL bank.val) &&& 1) 1))

/-- CLR_LOST_F (R319). -/
def execClrLostF (m : Master) (bank : Fin 3) (s : State) : Host.Outcome State Fault Refusal :=
  .next (writeReg s m (Reg.EVR_CTL bank.val) (setBit (s.reg (Reg.EVR_CTL bank.val) &&& 1) 2))

/-- RING_CFG_WRITE (R321). -/
def execRingCfgWrite (m : Master) (bank : Fin 3) (fast isBase : Bool) (w : Word) (s : State) : Host.Outcome State Fault Refusal :=
  .next (writeReg s m (if isBase then Reg.EVR_RING_BASE bank.val (ofBool fast) else Reg.EVR_RING_CFG bank.val (ofBool fast)) w)

/-- MASK_WRITE (R315). -/
def execMaskWrite (m : Master) (bank : Fin 3) (k : Fin 16) (w : Word) (s : State) : Host.Outcome State Fault Refusal :=
  .next (writeReg s m (Reg.EVR_MASK bank.val k.val) w)

/-- ROUTE_WRITE (R311). -/
def execRouteWrite (m : Master) (src : Fin 512) (w : Word) (s : State) : Host.Outcome State Fault Refusal :=
  .next (writeReg s m (Reg.EVR_ROUTE src.val) w)

end Sys2Proof.Machine
end

