-- ==== Sys2Proof/Machine/ExecSafelight.lean ====
section
/-! DEFINITION. Safelight (chapter 15). -/

namespace Sys2Proof.Machine

/-- FIRMWARE_LOAD (R424). -/
def execFirmwareLoad (s : State) : Host.Outcome State Fault Refusal := .next (firmwareLoadOp s)

/-- SAFELIGHT_WATCHDOG (R425). -/
def execSafelightWatchdog (s : State) : Host.Outcome State Fault Refusal := .next (sltWatchdogOp s)

/-- TEMPERATURE_SAMPLE (R426). -/
def execTemperatureSample (readings : Vector (BitVec 16) 4) (s : State) : Host.Outcome State Fault Refusal :=
  .next (temperatureSampleOp s readings)

/-- VOLTAGE_SAMPLE (R426). -/
def execVoltageSample (readings : Vector (BitVec 16) 6) (s : State) : Host.Outcome State Fault Refusal :=
  .next (voltageSampleOp s readings)

/-- CLOCK_FAULT (R427). -/
def execClockFault (c : ClockId) (s : State) : Host.Outcome State Fault Refusal := .next (clockFaultOp s c)

/-- CLOCK_FAULT_RESET (R427). -/
def execClockFaultReset (c : ClockId) (s : State) : Host.Outcome State Fault Refusal := .next (clockResetOp s c)

/-- WARN_RUNDOWN (R429). -/
def execWarnRundown (s : State) : Host.Outcome State Fault Refusal := .next (warnRundownOp s)

/-- LIFETIME_UPDATE (R433). -/
def execLifetimeUpdate (s : State) : Host.Outcome State Fault Refusal := .next (lifetimeOp s)

/-- MBX_CLAIM (R434). -/
def execMbxClaim (m : Master) (s : State) : Host.Outcome State Fault Refusal := .next (readReg s m Reg.MBX_CLAIM)

/-- MBX_RELEASE (R434). -/
def execMbxRelease (m : Master) (s : State) : Host.Outcome State Fault Refusal := .next (writeReg s m Reg.MBX_CTL (mkw 1 1))

/-- MBX_CLAIM_TIMEOUT (R434). -/
def execMbxClaimTimeout (s : State) : Host.Outcome State Fault Refusal := .next (mbxTimeoutOp s)

/-- MBX_GO (R435). -/
def execMbxGo (m : Master) (s : State) : Host.Outcome State Fault Refusal := .next (writeReg s m Reg.MBX_CTL (mkw 1 0))

/-- INFO (R435). -/
def execInfo (s : State) : Host.Outcome State Fault Refusal := .next (infoOp s)

/-- LOG_READ (R435). -/
def execLogRead (s : State) : Host.Outcome State Fault Refusal := .next (logReadOp s)

/-- LIFE_READ (R435). -/
def execLifeRead (s : State) : Host.Outcome State Fault Refusal := .next (lifeReadOp s)

/-- CERT_READ (R435). -/
def execCertRead (s : State) : Host.Outcome State Fault Refusal := .next (certReadOp s)

/-- ATTEST (R444). -/
def execAttest (s : State) : Host.Outcome State Fault Refusal := .next (attestOp s)

/-- POST (R438). -/
def execPost (chPass : BitVec 128) (unitPass : BitVec 8) (firstFail : Word) (s : State) : Host.Outcome State Fault Refusal :=
  .next (postOp s chPass unitPass firstFail)

/-- RUNDOWN (R437). -/
def execRundown (s : State) : Host.Outcome State Fault Refusal := .next (rundownCmdOp s)

/-- RESET (R437). -/
def execReset (s : State) : Host.Outcome State Fault Refusal := .next (resetCmdOp s)

/-- UPD_ERASE (R439). -/
def execUpdErase (flashOk : Bool) (s : State) : Host.Outcome State Fault Refusal := .next (updEraseOp s flashOk)

/-- UPD_WRITE (R439). -/
def execUpdWrite (flashOk : Bool) (s : State) : Host.Outcome State Fault Refusal := .next (updWriteOp s flashOk)

/-- UPD_VERIFY (R440). -/
def execUpdVerify (s : State) : Host.Outcome State Fault Refusal := .next (updVerifyOp s)

/-- UPD_ARM (R440). -/
def execUpdArm (s : State) : Host.Outcome State Fault Refusal := .next (updArmOp s)

/-- UPD_ACTIVATE (R441). -/
def execUpdActivate (s : State) : Host.Outcome State Fault Refusal := .next (updActivateOp s)

/-- KEY_OWNER (R445). -/
def execKeyOwner (s : State) : Host.Outcome State Fault Refusal := .next (keyOwnerOp s)

/-- CLOCK_FAULT_CLEARED (R427). -/
def execClockFaultCleared (c : ClockId) (s : State) : Host.Outcome State Fault Refusal := .next (clockClearedOp s c)

end Sys2Proof.Machine
end

