-- ==== Sys2Proof/Machine/ExecShutter.lean ====
section
/-! DEFINITION. Shutter sequencers (chapter 8). -/

namespace Sys2Proof.Machine

/-- A write of SHQn_CMD. -/
def shqCmd (s : State) (m : Master) (n : Nat) (w : Word) : State := writeReg s m (Reg.SHQ_CMD n) w

/-- SHQ_ENABLE (R268). -/
def execShqEnable (m : Master) (n : Fin 32) (w : Word) (s : State) : Host.Outcome State Fault Refusal :=
  .next (writeReg s m (Reg.SHQ_CTL n.val) (setBit w 0))

/-- SHQ_DISABLE (R273). -/
def execShqDisable (m : Master) (n : Fin 32) (w : Word) (s : State) : Host.Outcome State Fault Refusal :=
  .next (writeReg s m (Reg.SHQ_CTL n.val) (clearBit w 0))

/-- SEQUENCER_TICK (R275). -/
def execSequencerTick (n : Fin 32) (s : State) : Host.Outcome State Fault Refusal := .next (shqTick s n.val)

/-- BR (R278). -/
def execBr (n : Fin 32) (cond : Fin 16) (pin : Fin 32) (addr : Fin 64) (hold : Fin 32)
    (s : State) : Host.Outcome State Fault Refusal :=
  .next (shqIssue s n.val (.br cond pin addr) hold.val)

/-- DEC (R278). -/
def execDec (n : Fin 32) (cy : Bool) (addr : Fin 64) (hold : Fin 32) (s : State) : Host.Outcome State Fault Refusal :=
  .next (shqIssue s n.val (.dec cy addr) hold.val)

/-- AWAIT (R280). -/
def execAwait (n : Fin 32) (lvl : Bool) (src : Fin 4) (p : Fin 128) (hold : Fin 32)
    (s : State) : Host.Outcome State Fault Refusal :=
  .next (shqIssue s n.val (.await lvl src p) hold.val)

/-- EMIT (R279). -/
def execEmit (n : Fin 32) (code : Fin 8) (bits : Fin 32) (hold : Fin 32) (s : State) : Host.Outcome State Fault Refusal :=
  .next (shqIssue s n.val (.emit code bits) hold.val)

/-- GATHER (R279). -/
def execGather (n : Fin 32) (code : Fin 8) (bits : Fin 32) (hold : Fin 32) (s : State) : Host.Outcome State Fault Refusal :=
  .next (shqIssue s n.val (.gather code bits) hold.val)

/-- XFER (R277). -/
def execXfer (n : Fin 32) (dst src : Fin 8) (op : Fin 4) (hold : Fin 32) (s : State) : Host.Outcome State Fault Refusal :=
  .next (shqIssue s n.val (.xfer dst src op) hold.val)

/-- TAKE (R280). -/
def execTake (n : Fin 32) (wait ifx : Bool) (hold : Fin 32) (s : State) : Host.Outcome State Fault Refusal :=
  .next (shqIssue s n.val (.take wait ifx) hold.val)

/-- GIVE (R280). -/
def execGive (n : Fin 32) (wait iff : Bool) (hold : Fin 32) (s : State) : Host.Outcome State Fault Refusal :=
  .next (shqIssue s n.val (.give wait iff) hold.val)

/-- DRV (R277). -/
def execDrv (n : Fin 32) (first : Fin 32) (cnt : Fin 8) (data : BitVec 7) (hold : Fin 32)
    (s : State) : Host.Outcome State Fault Refusal :=
  .next (shqIssue s n.val (.drv first cnt data) hold.val)

/-- DIRS (R277). -/
def execDirs (n : Fin 32) (first : Fin 32) (cnt : Fin 8) (data : BitVec 7) (hold : Fin 32)
    (s : State) : Host.Outcome State Fault Refusal :=
  .next (shqIssue s n.val (.dirs first cnt data) hold.val)

/-- LDC (R277). -/
def execLdc (n : Fin 32) (cy : Bool) (imm : BitVec 14) (hold : Fin 32) (s : State) : Host.Outcome State Fault Refusal :=
  .next (shqIssue s n.val (.ldc cy imm) hold.val)

/-- FLAG (R276). -/
def execFlag (n : Fin 32) (k : Fin 4) (hold : Fin 32) (s : State) : Host.Outcome State Fault Refusal :=
  .next (shqIssue s n.val (.flag k) hold.val)

/-- STOP (R273). -/
def execStop (n : Fin 32) (hold : Fin 32) (s : State) : Host.Outcome State Fault Refusal :=
  .next (shqIssue s n.val .stop hold.val)

/-- RESUME (R273). -/
def execResume (m : Master) (n : Fin 32) (s : State) : Host.Outcome State Fault Refusal := .next (shqCmd s m n.val (mkw 1 0))

/-- SHQ_HALT (R283). -/
def execShqHalt (m : Master) (n : Fin 32) (s : State) : Host.Outcome State Fault Refusal := .next (shqCmd s m n.val (mkw 1 1))

/-- SHIFT_CLEAR (R284). -/
def execShiftClear (m : Master) (n : Fin 32) (s : State) : Host.Outcome State Fault Refusal := .next (shqCmd s m n.val (mkw 1 2))

/-- QCLR (R281). -/
def execQclr (m : Master) (n : Fin 32) (s : State) : Host.Outcome State Fault Refusal := .next (shqCmd s m n.val (mkw 1 3))

/-- DIV_RST (R274). -/
def execDivRst (m : Master) (n : Fin 32) (s : State) : Host.Outcome State Fault Refusal := .next (shqCmd s m n.val (mkw 1 4))

/-- SHQ_START (R282). -/
def execShqStart (m : Master) (n : Fin 32) (s : State) : Host.Outcome State Fault Refusal := .next (shqCmd s m n.val (mkw 1 5))

/-- TXQ_WRITE (R281). -/
def execTxqWrite (m : Master) (n : Fin 32) (w : Word) (s : State) : Host.Outcome State Fault Refusal :=
  .next (writeReg s m (Reg.SHQ_TXQ n.val) w)

/-- RXQ_READ (R281). -/
def execRxqRead (m : Master) (n : Fin 32) (s : State) : Host.Outcome State Fault Refusal :=
  .next (readReg s m (Reg.SHQ_RXQ n.val))

/-- INJECTION (R285). -/
def execInjection (m : Master) (n : Fin 32) (w : Word) (s : State) : Host.Outcome State Fault Refusal :=
  .next (writeReg s m (Reg.SHQ_INJ n.val) w)

/-- PROG_WRITE (R284). -/
def execProgWrite (m : Master) (n : Fin 32) (off : Nat) (w : Word) (s : State) : Host.Outcome State Fault Refusal :=
  .next (if off < 64 then writeReg s m (Reg.SHQ_PROG n.val off) w else s)

end Sys2Proof.Machine
end

