-- ==== Sys2Proof/Machine/ExecSpools.lean ====
section
/-! DEFINITION. Spools and the copy engine (chapter 11). -/

namespace Sys2Proof.Machine

/-- SPOOL_ACCESS (R337). -/
def execSpoolAccess (m : Master) (addr : Nat) (sz : Size) (wr : Option Word) (s : State) : Host.Outcome State Fault Refusal :=
  .next (arbitrate (spoolReq s m addr sz wr) s heldOff fun s => spoolOp s (masterNow s m) addr sz wr)

/-- HANDOVER (R332). -/
def execHandover (m : Master) (n : Unit3) (w : Word) (s : State) : Host.Outcome State Fault Refusal :=
  .next (writeReg s m (Reg.SPL_OWN n.val) w)

/-- POWER_REQUEST (R335). -/
def execPowerRequest (m : Master) (n : Unit3) (w : Word) (s : State) : Host.Outcome State Fault Refusal :=
  .next (writeReg s m (Reg.SPL_PWR n.val) w)

/-- POWER_CHANGE_DONE (R335). -/
def execPowerChangeDone (n : Unit3) (s : State) : Host.Outcome State Fault Refusal := .next (powerDoneOp s n.val)

/-- SPOOL_INIT_DONE (R330). -/
def execSpoolInitDone (n : Unit3) (s : State) : Host.Outcome State Fault Refusal := .next (spoolInitOp s n.val)

/-- TEST_REGION_BORROW (R344): not while a request waits on the spool (R345). -/
def execTestRegionBorrow (n : Unit3) (s : State) : Host.Outcome State Fault Refusal :=
  .next (if spoolWanted s n.val then s else testBorrowOp s n.val)

/-- TEST_REGION_RELEASE (R344). -/
def execTestRegionRelease (n : Unit3) (fail : Option (Fin 64 × Fin 39)) (s : State) : Host.Outcome State Fault Refusal :=
  .next (testReleaseOp s n.val fail)

/-- RESTART (R348). -/
def execRestart (m : Master) (n : Unit3) (s : State) : Host.Outcome State Fault Refusal :=
  .next (writeReg s m (Reg.SPL_TSTCTL n.val) (setBit (s.reg (Reg.SPL_TSTCTL n.val) &&& 0xFFFF0003) 2))

/-- SPL_CLR_CNT (R348). -/
def execSplClrCnt (m : Master) (n : Unit3) (s : State) : Host.Outcome State Fault Refusal :=
  .next (writeReg s m (Reg.SPL_TSTCTL n.val) (setBit (s.reg (Reg.SPL_TSTCTL n.val) &&& 0xFFFF0003) 3))

/-- COPY_GO (R350). -/
def execCopyGo (m : Master) (k : Unit3) (w : Word) (s : State) : Host.Outcome State Fault Refusal :=
  .next (writeReg s m (Reg.CPY_CTL k.val) (setBit w 0))

/-- COPY_STOP (R351). -/
def execCopyStop (m : Master) (k : Unit3) (s : State) : Host.Outcome State Fault Refusal :=
  .next (writeReg s m (Reg.CPY_CTL k.val) (mkw 1 1))

/-- COPY_WORD (R349). -/
def execCopyWord (k : Unit3) (s : State) : Host.Outcome State Fault Refusal :=
  .next (cpyWordOp s k)

/-- COPY_DONE (R351). -/
def execCopyDone (k : Unit3) (s : State) : Host.Outcome State Fault Refusal := .next (cpyDoneOp s k.val)

end Sys2Proof.Machine
end

