-- ==== Sys2Proof/Machine/ExecSprocket.lean ====
section
/-! DEFINITION. Sprocket units and phase measurement (chapter 2). -/

namespace Sys2Proof.Machine

/-- SPK_ENABLE (R85). -/
def execSpkEnable (m : Master) (n : Unit3) (w : Word) (s : State) : Host.Outcome State Fault Refusal :=
  .next (writeReg s m (Reg.SPK_CTL n.val) (setBit w 0))

/-- SPK_DISABLE (R65). -/
def execSpkDisable (m : Master) (n : Unit3) (w : Word) (s : State) : Host.Outcome State Fault Refusal :=
  .next (writeReg s m (Reg.SPK_CTL n.val) (clearBit w 0))

/-- SPK_TOOTH_EDGE (R63). -/
def execSpkToothEdge (n : Unit3) (e : SpkEdge) (s : State) : Host.Outcome State Fault Refusal := .next (spkEdgeOp s n.val e)

/-- SPK_INDEX_EDGE (R61). -/
def execSpkIndexEdge (n : Unit3) (e : SpkEdge) (s : State) : Host.Outcome State Fault Refusal := .next (spkIndexOp s n.val e)

/-- INPUT_FAULT (R46). -/
def execInputFault (n : Unit3) (input : SpkInput) (s : State) : Host.Outcome State Fault Refusal :=
  .next (spkFaultOp s n.val input)

/-- MISSED_TOOTH (R57). -/
def execMissedTooth (n : Unit3) (s : State) : Host.Outcome State Fault Refusal := .next (spkMissedOp s n.val)

/-- VIRTUAL_TOOTH (R52). -/
def execVirtualTooth (n : Unit3) (s : State) : Host.Outcome State Fault Refusal := .next (spkVirtualOp s n.val)

/-- STOP_DETECT (R74). -/
def execStopDetect (n : Unit3) (s : State) : Host.Outcome State Fault Refusal := .next (spkStopOp s n.val)

/-- RESYNC (R66). -/
def execResync (m : Master) (n : Unit3) (s : State) : Host.Outcome State Fault Refusal :=
  .next (writeReg s m (Reg.SPK_CMD n.val) (mkw 1 0))

/-- SPK_CLR_CNT (R84). -/
def execSpkClrCnt (m : Master) (n : Unit3) (s : State) : Host.Outcome State Fault Refusal :=
  .next (writeReg s m (Reg.SPK_CMD n.val) (mkw 1 1))

/-- DROP_JOURNAL (R75). -/
def execDropJournal (m : Master) (n : Unit3) (s : State) : Host.Outcome State Fault Refusal :=
  .next (writeReg s m (Reg.SPK_CMD n.val) (mkw 1 2))

/-- SPK_POS_READ (R51). -/
def execSpkPosRead (m : Master) (n : Unit3) (s : State) : Host.Outcome State Fault Refusal :=
  .next (readReg s m (Reg.SPK_POS n.val))

/-- SPK_TS_LO_READ (R47). -/
def execSpkTsLoRead (m : Master) (n : Unit3) (s : State) : Host.Outcome State Fault Refusal :=
  .next (readReg s m (Reg.SPK_TS_LO n.val))

/-- PHASE_ENABLE (R82). -/
def execPhaseEnable (m : Master) (n : Unit3) (w : Word) (s : State) : Host.Outcome State Fault Refusal :=
  .next (writeReg s m (Reg.SPK_PH_CTL n.val) (setBit w 0))

/-- PHASE_MARK (R79). -/
def execPhaseMark (n : Unit3) (mark : Mark) (s : State) : Host.Outcome State Fault Refusal := .next (phaseMarkOp s n.val mark)

/-- PH_POS_READ (R81). -/
def execPhPosRead (m : Master) (n : Unit3) (s : State) : Host.Outcome State Fault Refusal :=
  .next (readReg s m (Reg.SPK_PH_POS n.val))

end Sys2Proof.Machine
end

