-- ==== Sys2Proof/Machine/Dispatch.lean ====
section
/-! DEFINITION. One arm per command of spec/opcode_table.json. -/

namespace Sys2Proof.Machine

def exec (i : Instr) (s : State) : Host.Outcome State Fault Refusal :=
  match i with
  | .powerOnReset hostMode role => Sys2Proof.Machine.execPowerOnReset hostMode role s
  | .pinReset hostMode role => Sys2Proof.Machine.execPinReset hostMode role s
  | .coreReset m key => Sys2Proof.Machine.execCoreReset m key s
  | .fullReset m key => Sys2Proof.Machine.execFullReset m key s
  | .pllLock => Sys2Proof.Machine.execPllLock s
  | .tbLoRead m => Sys2Proof.Machine.execTbLoRead m s
  | .idSerialLoRead m => Sys2Proof.Machine.execIdSerialLoRead m s
  | .clearOnRead m addr sz => Sys2Proof.Machine.execClearOnRead m addr sz s
  | .registerWrite m addr w => Sys2Proof.Machine.execRegisterWrite m addr w s
  | .stagedWrite m addr w => Sys2Proof.Machine.execStagedWrite m addr w s
  | .csTake m mode fx => Sys2Proof.Machine.execCsTake m mode fx s
  | .csRelease m => Sys2Proof.Machine.execCsRelease m s
  | .contactSheetFreeze => Sys2Proof.Machine.execContactSheetFreeze s
  | .csReady => Sys2Proof.Machine.execCsReady s
  | .snapshotRead m off => Sys2Proof.Machine.execSnapshotRead m off s
  | .fixChannelArm m k => Sys2Proof.Machine.execFixChannelArm m k s
  | .fixChannelCancel m k => Sys2Proof.Machine.execFixChannelCancel m k s
  | .fixChannelDiscard m k => Sys2Proof.Machine.execFixChannelDiscard m k s
  | .fixCommit k => Sys2Proof.Machine.execFixCommit k s
  | .spkEnable m n w => Sys2Proof.Machine.execSpkEnable m n w s
  | .spkDisable m n w => Sys2Proof.Machine.execSpkDisable m n w s
  | .spkToothEdge n e => Sys2Proof.Machine.execSpkToothEdge n e s
  | .spkIndexEdge n e => Sys2Proof.Machine.execSpkIndexEdge n e s
  | .inputFault n input => Sys2Proof.Machine.execInputFault n input s
  | .missedTooth n => Sys2Proof.Machine.execMissedTooth n s
  | .virtualTooth n => Sys2Proof.Machine.execVirtualTooth n s
  | .stopDetect n => Sys2Proof.Machine.execStopDetect n s
  | .resync m n => Sys2Proof.Machine.execResync m n s
  | .spkClrCnt m n => Sys2Proof.Machine.execSpkClrCnt m n s
  | .dropJournal m n => Sys2Proof.Machine.execDropJournal m n s
  | .spkPosRead m n => Sys2Proof.Machine.execSpkPosRead m n s
  | .spkTsLoRead m n => Sys2Proof.Machine.execSpkTsLoRead m n s
  | .phaseEnable m n w => Sys2Proof.Machine.execPhaseEnable m n w s
  | .phaseMark n mark => Sys2Proof.Machine.execPhaseMark n mark s
  | .phPosRead m n => Sys2Proof.Machine.execPhPosRead m n s
  | .channelCtlWrite m ch w => Sys2Proof.Machine.execChannelCtlWrite m ch w s
  | .counterWrite m ch w => Sys2Proof.Machine.execCounterWrite m ch w s
  | .compareWrite m ch slot w => Sys2Proof.Machine.execCompareWrite m ch slot w s
  | .compareFire ch slot => Sys2Proof.Machine.execCompareFire ch slot s
  | .compareFireWrap ch slot => Sys2Proof.Machine.execCompareFireWrap ch slot s
  | .compareFireUpdown ch slot => Sys2Proof.Machine.execCompareFireUpdown ch slot s
  | .pulseEnd ch => Sys2Proof.Machine.execPulseEnd ch s
  | .force m ch f => Sys2Proof.Machine.execForce m ch f s
  | .flush m ch => Sys2Proof.Machine.execFlush m ch s
  | .capnow m ch => Sys2Proof.Machine.execCapnow m ch s
  | .disarm m ch slots => Sys2Proof.Machine.execDisarm m ch slots s
  | .tioInputChange pin lvl e => Sys2Proof.Machine.execTioInputChange pin lvl e s
  | .captureRead m ch => Sys2Proof.Machine.execCaptureRead m ch s
  | .vcalRound bank fails => Sys2Proof.Machine.execVcalRound bank fails s
  | .bankSupplyMismatch bank vdet => Sys2Proof.Machine.execBankSupplyMismatch bank vdet s
  | .calArm m bank => Sys2Proof.Machine.execCalArm m bank s
  | .calCancel m bank handle => Sys2Proof.Machine.execCalCancel m bank handle s
  | .calInsert => Sys2Proof.Machine.execCalInsert s
  | .entryCancel => Sys2Proof.Machine.execEntryCancel s
  | .calFlush m w => Sys2Proof.Machine.execCalFlush m w s
  | .flushComplete => Sys2Proof.Machine.execFlushComplete s
  | .calClrCnt m => Sys2Proof.Machine.execCalClrCnt m s
  | .entryLoad => Sys2Proof.Machine.execEntryLoad s
  | .entryDispatch => Sys2Proof.Machine.execEntryDispatch s
  | .spillEnable m w => Sys2Proof.Machine.execSpillEnable m w s
  | .spillMove => Sys2Proof.Machine.execSpillMove s
  | .add t rd ra rb => Sys2Proof.Machine.execAdd t rd ra rb s
  | .sub t rd ra rb => Sys2Proof.Machine.execSub t rd ra rb s
  | .engAnd t rd ra rb => Sys2Proof.Machine.execEngAnd t rd ra rb s
  | .engOr t rd ra rb => Sys2Proof.Machine.execEngOr t rd ra rb s
  | .engXor t rd ra rb => Sys2Proof.Machine.execEngXor t rd ra rb s
  | .sll t rd ra rb => Sys2Proof.Machine.execSll t rd ra rb s
  | .srl t rd ra rb => Sys2Proof.Machine.execSrl t rd ra rb s
  | .sra t rd ra rb => Sys2Proof.Machine.execSra t rd ra rb s
  | .slt t rd ra rb => Sys2Proof.Machine.execSlt t rd ra rb s
  | .sltu t rd ra rb => Sys2Proof.Machine.execSltu t rd ra rb s
  | .min t rd ra rb => Sys2Proof.Machine.execMin t rd ra rb s
  | .max t rd ra rb => Sys2Proof.Machine.execMax t rd ra rb s
  | .minu t rd ra rb => Sys2Proof.Machine.execMinu t rd ra rb s
  | .maxu t rd ra rb => Sys2Proof.Machine.execMaxu t rd ra rb s
  | .mul t rd ra rb => Sys2Proof.Machine.execMul t rd ra rb s
  | .mulh t rd ra rb => Sys2Proof.Machine.execMulh t rd ra rb s
  | .mulhu t rd ra rb => Sys2Proof.Machine.execMulhu t rd ra rb s
  | .div t rd ra rb => Sys2Proof.Machine.execDiv t rd ra rb s
  | .divu t rd ra rb => Sys2Proof.Machine.execDivu t rd ra rb s
  | .rem t rd ra rb => Sys2Proof.Machine.execRem t rd ra rb s
  | .remu t rd ra rb => Sys2Proof.Machine.execRemu t rd ra rb s
  | .addi t rd ra im => Sys2Proof.Machine.execAddi t rd ra im s
  | .cmpi t ra im => Sys2Proof.Machine.execCmpi t ra im s
  | .andi t rd ra im => Sys2Proof.Machine.execAndi t rd ra im s
  | .ori t rd ra im => Sys2Proof.Machine.execOri t rd ra im s
  | .xori t rd ra im => Sys2Proof.Machine.execXori t rd ra im s
  | .lui t rd im => Sys2Proof.Machine.execLui t rd im s
  | .slli t rd ra sh => Sys2Proof.Machine.execSlli t rd ra sh s
  | .srli t rd ra sh => Sys2Proof.Machine.execSrli t rd ra sh s
  | .srai t rd ra sh => Sys2Proof.Machine.execSrai t rd ra sh s
  | .ldt t rd ra off => Sys2Proof.Machine.execLdt t rd ra off s
  | .ldth t rd ra off => Sys2Proof.Machine.execLdth t rd ra off s
  | .ldthu t rd ra off => Sys2Proof.Machine.execLdthu t rd ra off s
  | .ldtb t rd ra off => Sys2Proof.Machine.execLdtb t rd ra off s
  | .ldtbu t rd ra off => Sys2Proof.Machine.execLdtbu t rd ra off s
  | .stt t rd ra off => Sys2Proof.Machine.execStt t rd ra off s
  | .stth t rd ra off => Sys2Proof.Machine.execStth t rd ra off s
  | .sttb t rd ra off => Sys2Proof.Machine.execSttb t rd ra off s
  | .ld t rd ra off => Sys2Proof.Machine.execLd t rd ra off s
  | .ldh t rd ra off => Sys2Proof.Machine.execLdh t rd ra off s
  | .ldhu t rd ra off => Sys2Proof.Machine.execLdhu t rd ra off s
  | .ldb t rd ra off => Sys2Proof.Machine.execLdb t rd ra off s
  | .ldbu t rd ra off => Sys2Proof.Machine.execLdbu t rd ra off s
  | .st t rd ra off => Sys2Proof.Machine.execSt t rd ra off s
  | .sth t rd ra off => Sys2Proof.Machine.execSth t rd ra off s
  | .stb t rd ra off => Sys2Proof.Machine.execStb t rd ra off s
  | .fabricAccessComplete t => Sys2Proof.Machine.execFabricAccessComplete t s
  | .bCond t cond off => Sys2Proof.Machine.execBCond t cond off s
  | .jal t rd tgt => Sys2Proof.Machine.execJal t rd tgt s
  | .jalr t rd ra => Sys2Proof.Machine.execJalr t rd ra s
  | .wait t rd mask => Sys2Proof.Machine.execWait t rd mask s
  | .threadWake t => Sys2Proof.Machine.execThreadWake t s
  | .carm t rd ra => Sys2Proof.Machine.execCarm t rd ra s
  | .ccan t rd ra => Sys2Proof.Machine.execCcan t rd ra s
  | .pos t rd n => Sys2Proof.Machine.execPos t rd n s
  | .spkr t rd n sel => Sys2Proof.Machine.execSpkr t rd n sel s
  | .p2t t rd ra n => Sys2Proof.Machine.execP2t t rd ra n s
  | .t2p t rd ra n => Sys2Proof.Machine.execT2p t rd ra n s
  | .pdist t rd ra rb n => Sys2Proof.Machine.execPdist t rd ra rb n s
  | .cap t rd ch => Sys2Proof.Machine.execCap t rd ch s
  | .snap t rd ra mode k => Sys2Proof.Machine.execSnap t rd ra mode k s
  | .snrel t => Sys2Proof.Machine.execSnrel t s
  | .fixsel t k st => Sys2Proof.Machine.execFixsel t k st s
  | .fixarm t rd ra k kind u => Sys2Proof.Machine.execFixarm t rd ra k kind u s
  | .send t rd ra rb => Sys2Proof.Machine.execSend t rd ra rb s
  | .recv t rd => Sys2Proof.Machine.execRecv t rd s
  | .engRec t ra kind => Sys2Proof.Machine.execEngRec t ra kind s
  | .mfs t rd sel => Sys2Proof.Machine.execMfs t rd sel s
  | .mts t sel ra => Sys2Proof.Machine.execMts t sel ra s
  | .fence t => Sys2Proof.Machine.execFence t s
  | .halt t => Sys2Proof.Machine.execHalt t s
  | .threadWatchdog t => Sys2Proof.Machine.execThreadWatchdog t s
  | .breakpoint t => Sys2Proof.Machine.execBreakpoint t s
  | .threadStart m t => Sys2Proof.Machine.execThreadStart m t s
  | .threadStop m t => Sys2Proof.Machine.execThreadStop m t s
  | .step m t => Sys2Proof.Machine.execStep m t s
  | .clrEv m t => Sys2Proof.Machine.execClrEv m t s
  | .dbell m t => Sys2Proof.Machine.execDbell m t s
  | .clrEcc m e => Sys2Proof.Machine.execClrEcc m e s
  | .engineDisable m e w => Sys2Proof.Machine.execEngineDisable m e w s
  | .tmsgWrite m t w => Sys2Proof.Machine.execTmsgWrite m t w s
  | .windowAccess m e off wr => Sys2Proof.Machine.execWindowAccess m e off wr s
  | .workRegisterWrite m t r w => Sys2Proof.Machine.execWorkRegisterWrite m t r w s
  | .ctEnable m w => Sys2Proof.Machine.execCtEnable m w s
  | .ctGo m => Sys2Proof.Machine.execCtGo m s
  | .ctHalt m => Sys2Proof.Machine.execCtHalt m s
  | .ctBlank m => Sys2Proof.Machine.execCtBlank m s
  | .ctJump m => Sys2Proof.Machine.execCtJump m s
  | .ctClrCnt m => Sys2Proof.Machine.execCtClrCnt m s
  | .columnFetch => Sys2Proof.Machine.execColumnFetch s
  | .frameSample n => Sys2Proof.Machine.execFrameSample n s
  | .statusFrame n f => Sys2Proof.Machine.execStatusFrame n f s
  | .linkModeWrite m n w => Sys2Proof.Machine.execLinkModeWrite m n w s
  | .linkAlign n => Sys2Proof.Machine.execLinkAlign n s
  | .trainingRequest n => Sys2Proof.Machine.execTrainingRequest n s
  | .trainingAnswer n ans => Sys2Proof.Machine.execTrainingAnswer n ans s
  | .linkLoss n lockLost => Sys2Proof.Machine.execLinkLoss n lockLost s
  | .autoRetrain n => Sys2Proof.Machine.execAutoRetrain n s
  | .retrain m n => Sys2Proof.Machine.execRetrain m n s
  | .linkClrCnt m n => Sys2Proof.Machine.execLinkClrCnt m n s
  | .exgEnable m g w => Sys2Proof.Machine.execExgEnable m g w s
  | .exgDisable m g w => Sys2Proof.Machine.execExgDisable m g w s
  | .exgGo m w => Sys2Proof.Machine.execExgGo m w s
  | .exgStagedWrite m g off w => Sys2Proof.Machine.execExgStagedWrite m g off w s
  | .exgFix m g => Sys2Proof.Machine.execExgFix m g s
  | .fixForce m g => Sys2Proof.Machine.execFixForce m g s
  | .exgDiscard m g => Sys2Proof.Machine.execExgDiscard m g s
  | .commSet m g mp => Sys2Proof.Machine.execCommSet m g mp s
  | .tripClr m g => Sys2Proof.Machine.execTripClr m g s
  | .periodStart g => Sys2Proof.Machine.execPeriodStart g s
  | .reload g => Sys2Proof.Machine.execReload g s
  | .triggerFire g k => Sys2Proof.Machine.execTriggerFire g k s
  | .trgPulseEnd p => Sys2Proof.Machine.execTrgPulseEnd p s
  | .commutationEvent g src => Sys2Proof.Machine.execCommutationEvent g src s
  | .tripAssert im => Sys2Proof.Machine.execTripAssert im s
  | .shqEnable m n w => Sys2Proof.Machine.execShqEnable m n w s
  | .shqDisable m n w => Sys2Proof.Machine.execShqDisable m n w s
  | .sequencerTick n => Sys2Proof.Machine.execSequencerTick n s
  | .br n cond pin addr hold => Sys2Proof.Machine.execBr n cond pin addr hold s
  | .dec n cy addr hold => Sys2Proof.Machine.execDec n cy addr hold s
  | .await n lvl src p hold => Sys2Proof.Machine.execAwait n lvl src p hold s
  | .emit n code bits hold => Sys2Proof.Machine.execEmit n code bits hold s
  | .gather n code bits hold => Sys2Proof.Machine.execGather n code bits hold s
  | .xfer n dst src op hold => Sys2Proof.Machine.execXfer n dst src op hold s
  | .take n wait ifx hold => Sys2Proof.Machine.execTake n wait ifx hold s
  | .give n wait iff hold => Sys2Proof.Machine.execGive n wait iff hold s
  | .drv n first cnt data hold => Sys2Proof.Machine.execDrv n first cnt data hold s
  | .dirs n first cnt data hold => Sys2Proof.Machine.execDirs n first cnt data hold s
  | .ldc n cy imm hold => Sys2Proof.Machine.execLdc n cy imm hold s
  | .flag n k hold => Sys2Proof.Machine.execFlag n k hold s
  | .stop n hold => Sys2Proof.Machine.execStop n hold s
  | .resume m n => Sys2Proof.Machine.execResume m n s
  | .shqHalt m n => Sys2Proof.Machine.execShqHalt m n s
  | .shqStart m n => Sys2Proof.Machine.execShqStart m n s
  | .divRst m n => Sys2Proof.Machine.execDivRst m n s
  | .qclr m n => Sys2Proof.Machine.execQclr m n s
  | .shiftClear m n => Sys2Proof.Machine.execShiftClear m n s
  | .txqWrite m n w => Sys2Proof.Machine.execTxqWrite m n w s
  | .rxqRead m n => Sys2Proof.Machine.execRxqRead m n s
  | .injection m n w => Sys2Proof.Machine.execInjection m n w s
  | .progWrite m n off w => Sys2Proof.Machine.execProgWrite m n off w s
  | .meterBoundary => Sys2Proof.Machine.execMeterBoundary s
  | .mtrRelease m n => Sys2Proof.Machine.execMtrRelease m n s
  | .clrE m n => Sys2Proof.Machine.execClrE m n s
  | .releaseWindowStart => Sys2Proof.Machine.execReleaseWindowStart s
  | .delayedEdge pin => Sys2Proof.Machine.execDelayedEdge pin s
  | .guardGateOpen pin => Sys2Proof.Machine.execGuardGateOpen pin s
  | .safePinAssert => Sys2Proof.Machine.execSafePinAssert s
  | .stopPinAssert => Sys2Proof.Machine.execStopPinAssert s
  | .safeCmdEnter m => Sys2Proof.Machine.execSafeCmdEnter m s
  | .safeCmdExit m key => Sys2Proof.Machine.execSafeCmdExit m key s
  | .rundownTimeout => Sys2Proof.Machine.execRundownTimeout s
  | .rdDone m => Sys2Proof.Machine.execRdDone m s
  | .hwdEnable m w => Sys2Proof.Machine.execHwdEnable m w s
  | .hwdKick m v => Sys2Proof.Machine.execHwdKick m v s
  | .hwdRearm m => Sys2Proof.Machine.execHwdRearm m s
  | .hwdExpiry => Sys2Proof.Machine.execHwdExpiry s
  | .recordDelivery => Sys2Proof.Machine.execRecordDelivery s
  | .recordWriteComplete => Sys2Proof.Machine.execRecordWriteComplete s
  | .evrClaim m bank fast => Sys2Proof.Machine.execEvrClaim m bank fast s
  | .evrDone m bank fast idx => Sys2Proof.Machine.execEvrDone m bank fast idx s
  | .clrLostN m bank => Sys2Proof.Machine.execClrLostN m bank s
  | .clrLostF m bank => Sys2Proof.Machine.execClrLostF m bank s
  | .ringCfgWrite m bank fast isBase w => Sys2Proof.Machine.execRingCfgWrite m bank fast isBase w s
  | .maskWrite m bank k w => Sys2Proof.Machine.execMaskWrite m bank k w s
  | .routeWrite m src w => Sys2Proof.Machine.execRouteWrite m src w s
  | .spoolAccess m addr sz wr => Sys2Proof.Machine.execSpoolAccess m addr sz wr s
  | .handover m n w => Sys2Proof.Machine.execHandover m n w s
  | .powerRequest m n w => Sys2Proof.Machine.execPowerRequest m n w s
  | .powerChangeDone n => Sys2Proof.Machine.execPowerChangeDone n s
  | .spoolInitDone n => Sys2Proof.Machine.execSpoolInitDone n s
  | .testRegionBorrow n => Sys2Proof.Machine.execTestRegionBorrow n s
  | .testRegionRelease n fail => Sys2Proof.Machine.execTestRegionRelease n fail s
  | .restart m n => Sys2Proof.Machine.execRestart m n s
  | .splClrCnt m n => Sys2Proof.Machine.execSplClrCnt m n s
  | .copyGo m k w => Sys2Proof.Machine.execCopyGo m k w s
  | .copyStop m k => Sys2Proof.Machine.execCopyStop m k s
  | .copyWord k => Sys2Proof.Machine.execCopyWord k s
  | .copyDone k => Sys2Proof.Machine.execCopyDone k s
  | .read4 addr hsecChg abort => Sys2Proof.Machine.execRead4 addr hsecChg abort s
  | .read2 addr hsecChg abort => Sys2Proof.Machine.execRead2 addr hsecChg abort s
  | .read1 addr hsecChg abort => Sys2Proof.Machine.execRead1 addr hsecChg abort s
  | .write4 addr w hsecChg abort => Sys2Proof.Machine.execWrite4 addr w hsecChg abort s
  | .write2 addr w hsecChg abort => Sys2Proof.Machine.execWrite2 addr w hsecChg abort s
  | .write1 addr w hsecChg abort => Sys2Proof.Machine.execWrite1 addr w hsecChg abort s
  | .proto => Sys2Proof.Machine.execProto s
  | .parallelReadCycle addr be0 be1 hsecChg => Sys2Proof.Machine.execParallelReadCycle addr be0 be1 hsecChg s
  | .parallelWriteCycle addr be0 be1 d hsecChg => Sys2Proof.Machine.execParallelWriteCycle addr be0 be1 d hsecChg s
  | .halfAlone => Sys2Proof.Machine.execHalfAlone s
  | .boot chip => Sys2Proof.Machine.execBoot chip s
  | .bootDone => Sys2Proof.Machine.execBootDone s
  | .startGate => Sys2Proof.Machine.execStartGate s
  | .exitRetry => Sys2Proof.Machine.execExitRetry s
  | .fmtRequest m w => Sys2Proof.Machine.execFmtRequest m w s
  | .formatPrepDone err => Sys2Proof.Machine.execFormatPrepDone err s
  | .abandon m => Sys2Proof.Machine.execAbandon m s
  | .cascadeEnable m w => Sys2Proof.Machine.execCascadeEnable m w s
  | .cascadeTraining version role crcOk rtt => Sys2Proof.Machine.execCascadeTraining version role crcOk rtt s
  | .downFrameSend => Sys2Proof.Machine.execDownFrameSend s
  | .downFrame f => Sys2Proof.Machine.execDownFrame f s
  | .upFrame f => Sys2Proof.Machine.execUpFrame f s
  | .fixPrep c => Sys2Proof.Machine.execFixPrep c s
  | .fixTime c => Sys2Proof.Machine.execFixTime c s
  | .fixCancel c => Sys2Proof.Machine.execFixCancel c s
  | .fmtPrep c => Sys2Proof.Machine.execFmtPrep c s
  | .fmtAbandon c => Sys2Proof.Machine.execFmtAbandon c s
  | .commandTimeout => Sys2Proof.Machine.execCommandTimeout s
  | .split => Sys2Proof.Machine.execSplit s
  | .memberLost role => Sys2Proof.Machine.execMemberLost role s
  | .cascadeLinkLoss => Sys2Proof.Machine.execCascadeLinkLoss s
  | .firmwareLoad => Sys2Proof.Machine.execFirmwareLoad s
  | .safelightWatchdog => Sys2Proof.Machine.execSafelightWatchdog s
  | .temperatureSample readings => Sys2Proof.Machine.execTemperatureSample readings s
  | .voltageSample readings => Sys2Proof.Machine.execVoltageSample readings s
  | .clockFault c => Sys2Proof.Machine.execClockFault c s
  | .clockFaultReset c => Sys2Proof.Machine.execClockFaultReset c s
  | .warnRundown => Sys2Proof.Machine.execWarnRundown s
  | .lifetimeUpdate => Sys2Proof.Machine.execLifetimeUpdate s
  | .mbxClaim m => Sys2Proof.Machine.execMbxClaim m s
  | .mbxRelease m => Sys2Proof.Machine.execMbxRelease m s
  | .mbxClaimTimeout => Sys2Proof.Machine.execMbxClaimTimeout s
  | .mbxGo m => Sys2Proof.Machine.execMbxGo m s
  | .info => Sys2Proof.Machine.execInfo s
  | .logRead => Sys2Proof.Machine.execLogRead s
  | .lifeRead => Sys2Proof.Machine.execLifeRead s
  | .certRead => Sys2Proof.Machine.execCertRead s
  | .attest => Sys2Proof.Machine.execAttest s
  | .post chPass unitPass firstFail => Sys2Proof.Machine.execPost chPass unitPass firstFail s
  | .rundown => Sys2Proof.Machine.execRundown s
  | .reset => Sys2Proof.Machine.execReset s
  | .updErase flashOk => Sys2Proof.Machine.execUpdErase flashOk s
  | .updWrite flashOk => Sys2Proof.Machine.execUpdWrite flashOk s
  | .updVerify => Sys2Proof.Machine.execUpdVerify s
  | .updArm => Sys2Proof.Machine.execUpdArm s
  | .updActivate => Sys2Proof.Machine.execUpdActivate s
  | .keyOwner => Sys2Proof.Machine.execKeyOwner s
  | .tbEventTick ch => Sys2Proof.Machine.execTbEventTick ch s
  | .dividerFree e => Sys2Proof.Machine.execDividerFree e s
  | .blankingEnd g => Sys2Proof.Machine.execBlankingEnd g s
  | .tripDeassert im => Sys2Proof.Machine.execTripDeassert im s
  | .safePinRelease => Sys2Proof.Machine.execSafePinRelease s
  | .stopPinRelease => Sys2Proof.Machine.execStopPinRelease s
  | .cascadeRequestAnswer version role crcOk => Sys2Proof.Machine.execCascadeRequestAnswer version role crcOk s
  | .upFrameRepeat f => Sys2Proof.Machine.execUpFrameRepeat f s
  | .clockFaultCleared c => Sys2Proof.Machine.execClockFaultCleared c s

end Sys2Proof.Machine
end

