-- ==== Sys2Proof/Machine/Tick.lean ====
section
/-! DEFINITION. The passing of one tb while no command waits (log entry 1): the end of the tb and of its cc, the effects that
the manual places a fixed number of tb after their cause, and the background work that has no row of its own. -/

namespace Sys2Proof.Machine

/-- An effect falls due. -/
def applyDue (s : State) (d : Due) : State :=
  match d with
  | .land m sel a w => regLand s m sel a w
  | .ctCommit ws => applyStagedCt s ws
  | .pin n => settlePin s n
  | .meter n forced => meterOut s n forced
  | .safeExit => safeExitReached s
  | .guard u ok => guardArrives s u ok
  | .fixDone k => s.hwSetBit (Reg.FIX_STAT k) fsDone
  | .exgDone g => exgEvent s g xeFixDone
  | .mask g => maskDue s g
  | .exgFix g => exgFixOp s g false
  | .judge g => exgJudge s g
  | .cap n e => capArrives s n e
  | .shq n out dir => shqReach s n out dir
  | .spkPub n v t rev => publishTooth s n v t rev
  | .evp t bit => evpSet s t bit
  | .unitRes t => unitResOp s t
  | .swThr f => startSwThr s f
  | .casAnswer => casAnswerOp s
  | .mirror f => mirrorsTake s f
  | .spkTooth n t real prev => toothArrives s n t real prev

/-- A landing that starts or stops exposure groups: membership holds for all of its tb (R242). -/
def setsMembers (d : Due) : Bool :=
  match d with
  | .land _ _ a _ => (0x00830000 ≤ a && a < 0x00831000 && a % 0x100 == 0) || a == 0x00831000
  | _ => false

/-- An effect that meets all that happens to its group in its tb: EXGn_CMD and a calendar's FIX, which come after a reload, an
assertion of a trip input and staged writes of the tb (R250, R252, R263), and the judgement of new trip maps (R260). -/
def atTbEnd (d : Due) : Bool :=
  match d with
  | .land _ _ a _ => 0x00830000 ≤ a && a < 0x00831000 && a % 0x100 == 0x0C
  | .exgFix _ | .judge _ => true
  | _ => false

/-- The effects that have fallen due at the start of the tb: what sets membership of groups first, else in the order of their
causes. -/
def applyAllDue (s : State) : State :=
  let here (p : Nat × Due) : Bool := passed s.tb p.1 && !atTbEnd p.2
  let now := s.due.filter here
  let ordered := now.filter (fun p => setsMembers p.2) ++ now.filter fun p => !setsMembers p.2
  forEach ordered { s with due := s.due.filter fun p => !here p } fun s p => applyDue s p.2

/-- The effects of the end of the tb. -/
def applyLate (s : State) : State :=
  let here (p : Nat × Due) : Bool := passed s.tb p.1 && atTbEnd p.2
  forEach (s.due.filter here) { s with due := s.due.filter fun p => !here p } fun s p => applyDue s p.2

/-- The current tb ends its cc; while TB does not count (R20) every pass does. -/
def endsCc (s : State) : Bool := !s.tbRun || s.tb % 2 == 1

/-- RESYNC commands of this cc are applied (Table 2-5). -/
def applyResyncs (s : State) : State :=
  forEach (List.range 8) s fun s n =>
    if (s.spkAt n).resync then spkResyncDo (s.modSpk n fun u => { u with resync := false }) n else s

/-- What the end of a tb does: its last commands to exposure groups act, captures enter their FIFOs and the outputs reach the pins (R107, R115); at the end of its cc waiting
steps issue, RESYNC is applied, the record controller acts (R317) and the spools do what no row brings (R320, R329, R344). -/
def endTb (s : State) : State :=
  let s1 := acceptCaps (drivePins (edgesPlaced (applyLate (shqSettleAll s))))
  if endsCc s then spoolCycle (evrCycle (applyResyncs (stepWaiting s1))) else s1

/-- The RC bits that hardware has set in this tb in registers of the TB domain. -/
def tbSets (s : State) : List (Nat × Word) := (s.fresh.filter fun f => tbDomain f.addr && f.set != 0).map fun f => (f.addr, f.set)

/-- The TB domain at the start of this tb. -/
def viewOf (s : State) : TbView :=
  { tb := s.tb, regs := s.regs, due := s.due, ch := s.ch, pin := s.pin, vdet := s.vdet, exg := s.exg, trip := s.trip, sets := [] }

/-- The views after `s`, whose tb ends, at the start of `t`, the next: the three that reads can need. -/
def viewsNext (s t : State) : List TbView :=
  viewOf t :: match s.seen.views with
    | v :: r => { v with sets := tbSets s } :: r.take 1
    | [] => []

/-- The registers of the core domain with RC fields that the state composes. -/
def beginAddrs : List Nat :=
  [Reg.CS_STAT] ++ (List.range 4).map Reg.FIX_STAT ++ (List.range 8).map Reg.SPK_PH_STAT ++ (List.range 16).map Reg.ENL_STAT
  ++ (List.range 64).map (fun t => Reg.ENL_TSTAT (t / 4) (t % 4)) ++ [Reg.HWD_STAT] ++ (List.range 8).map Reg.CPY_STAT

/-- Their words as a cc begins (R370). -/
def beginWords (s : State) : List (Nat × Word) := beginAddrs.map fun a => (a, regShow s .safelight a)

/-- TB counts (R20, R21), the host port comes nearer to its opening (R353; a pass with TB halted is a cc), and the bookkeeping of the cycles that have ended is dropped (R370). -/
def nextTb (s : State) : State :=
  let keep := s.fresh.filter fun f => !endsCc s && !tbDomain f.addr
  let free : Fabric := if endsCc s then { s.fabric with used := s.fabric.next, next := [], asked := [] } else s.fabric
  let t : State := { s with tb := if s.tbRun then (s.tb + 1) % 2 ^ 64 else s.tb, fresh := keep, fabric := free, host := { s.host with openIn := s.host.openIn - (if s.tbRun then 1 else 2) } }
  { t with seen := { t.seen with
      views := if s.tbRun then viewsNext s t else t.seen.views
      begun := if endsCc s then beginWords t else t.seen.begun } }

/-- A reset that Safelight has placed at a tb, or that follows the run-down of UPD_ACTIVATE (R425, R441). -/
def pendingReset (s : State) : State :=
  if s.slt.activate then activateOp s
  else match s.slt.resetTb with
    | some t => if passed s.tb t then fullResetOp s rcSlt else s
    | none => s

/-- One tb passes. -/
def tick (s : State) : State := pendingReset (gatePoll (logDrain (sheetLatch (formatFlush (applyAllDue (nextTb (endTb s)))))))

end Sys2Proof.Machine
end

