-- ==== Sys2Proof/Safety.lean ====
section
/-! DEFINITION. What the model counts as a safe run, and the words that the statements are made of. -/

namespace Sys2Proof

/-- A step from `s` answers a next state. -/
def SafeStep (s : Machine.State) : Prop := ∃ t, Machine.step s = .next t

namespace Machine

/-- Every memory of the machine is in its canonical form: addresses strictly rising, and no entry equal to what an unlisted
address reads as. -/
def State.Canonical (s : State) : Prop :=
  Memory.wf s.mem = true ∧ sparseWf zeroNat s.ecc = true ∧ Memory.wf s.keep = true ∧
  sparseWf erasedByte s.flash.bytes = true ∧ Memory.wf s.sram = true ∧
  ∀ g ∈ s.eng.toList, sparseWf zeroWord g.iram = true ∧ Memory.wf g.tray = true ∧
    sparseWf zeroNat g.iecc = true ∧ sparseWf zeroNat g.tecc = true

/-- The request has each of its places in this cc, and reaches no region in test (R39, R346). -/
def Clear (s : State) (r : FabReq) : Prop := granted s r = true ∧ testsHit s r.words = []

/-- `s` once the places of the request are taken for this cc: nothing but the arbitration has changed (R39). -/
def placed (s : State) (r : FabReq) : State := forEach r.places (waitOver s r) fun s p => grantAt s r p

/-- `s` once the first word of the access has been made, and its bank taken (R337). -/
def halfMade (s : State) (r : FabReq) (x : Span) : State :=
  let f := spoolFirst (placed s r) x.m x.a x.w x.wr
  putPart f.2.2 x.m x.a x.w f.2.1

/-- The first word of the access cannot be corrected (R329). -/
def FirstBad (s : State) (r : FabReq) (x : Span) : Prop := (spoolFirst (placed s r) x.m x.a x.w x.wr).1 = .uncorr

/-- The access that presents `q` is performed in this cc: it has each of its places, and reaches no region in test; an access to two
words has both, unless an error in the first ends it (R39, R337, R346). -/
def Grants (s : State) (q : Option FabReq) : Prop :=
  ∀ r, q = some r → Clear s r ∧
    ∀ x, r.two = some x → FirstBad s r x ∨ ∀ r2, secondReq x = some r2 → Clear (halfMade s r x) r2

/-- `s` once the access that presents `q` has its places: nothing but the arbitration has changed, and for an access to two words the
first has been made. -/
def afterGrant (s : State) (q : Option FabReq) : State :=
  match q with
  | none => s
  | some r =>
    match r.two with
    | none => placed s r
    | some x =>
      match (spoolFirst (placed s r) x.m x.a x.w x.wr).1 with
      | .uncorr => placed s r
      | _ => match secondReq x with
        | some r2 => placed (halfMade s r x) r2
        | none => halfMade s r x

/-- An access that is not granted in this cc waits, and a host's waiting is noted (R39, R340). -/
def afterWait (s : State) (q : Option FabReq) : State :=
  match q with
  | none => s
  | some r => answered .held 0 (noteWait s r)

/-- The engine takes instruction `i` of thread `t` in this cc: it is enabled, the thread is READY, no earlier result that `i` needs is
outstanding, its tray is free where it needs it, the choice of R165 falls on the thread, it does not stand at an enabled breakpoint, and its word can be corrected where it
is not good (R162, R163, R165, R166, R176, R204). -/
def Fetches (s : State) (t : Fin 64) (i : EngIns) : Prop :=
  enlOn s (t.val / 4) = true ∧ (s.thrAt t.val).st = .ready ∧ (s.thrAt t.val).stepOut = none ∧
  loadHazard (s.thrAt t.val) i = false ∧ (usesTray i = true → trayTaken s (t.val / 4) = false) ∧ chosen s t.val = true ∧ atBreak s t.val = false ∧
  (iramFetch s (t.val / 4) (s.thrAt t.val).pc.toNat).1.isSome = true

/-- Thread `t` issues `i`, and nothing makes it wait (R173, R174, R183). -/
def Issues (s : State) (t : Fin 64) (i : EngIns) : Prop := Fetches s t i ∧ mustStall s t.val i = false

/-- Thread `t` issues `i`, which has to wait in STALL. -/
def Stalls (s : State) (t : Fin 64) (i : EngIns) : Prop := Fetches s t i ∧ mustStall s t.val i = true

/-- `s` once thread `t` has issued: its engine's issue slot of this cc is taken, the thread is the one last issued, its instruction is
counted, and the word is fetched. -/
def issuing (s : State) (t : Fin 64) : State :=
  (iramFetch (countIssue (issueTake s t.val) t.val) (t.val / 4) (s.thrAt t.val).pc.toNat).2

/-- `s` once thread `t` completes its instruction with the effect `f` on the thread. -/
def Ended (s : State) (t : Fin 64) (f : Thr → Thr) : State :=
  s.modThr t.val fun h => ({ f h with pc := h.pc + 1 } : Thr).stepOver s.tb

/-- `s` once thread `t` has issued and completed an instruction whose effect on the thread is `f`: the PC is one further, and nothing
else has changed. -/
def Took (s : State) (t : Fin 64) (f : Thr → Thr) : State := Ended (issuing s t) t f

/-- `s` once thread `t` has issued instruction `i`, whose access or result is still outstanding, with the effect `f` on the thread;
`s1` is the state beside it. -/
def Sent (s1 : State) (t : Fin 64) (i : EngIns) (f : Thr → Thr) : State :=
  s1.modThr t.val fun h => ({ f h with pc := h.pc + 1 } : Thr).issued s1.tb i

/-- The thread with `v` in register `rd` (w0 discards it) and the flags Z and N of `v`. -/
def Thr.takeZN (h : Thr) (rd : Reg5) (v : Word) : Thr := { h.setW rd.val v with z := v == 0, n := v.msb }

/-- The thread with `v` in register `rd` (w0 discards it) and the flags Z and N of `v`, C and V as given. -/
def Thr.takeZNCV (h : Thr) (rd : Reg5) (v : Word) (c o : Bool) : Thr := { h.takeZN rd v with c := c, v := o }

/-- Register `r` of thread `t`. -/
def wreg (s : State) (t : Fin 64) (r : Reg5) : Word := (s.thrAt t.val).getW r.val

/-- An address of the register space that is no snapshot, no keep store, no memory window, no calendar bank and no copy address. -/
def plainReg (a : Nat) : Bool :=
  decide (0x800000 ≤ a) && decide (a < 0x1000000) && a % 4 == 0 && !isSnapshot a && !isKeep a && !isWindow a &&
    !(decide (0x00840100 ≤ a) && decide (a < 0x00840160)) && !keptWhole a

/-- Nothing competes for a spool word in this cc: no command waits, no access without a row does, and each place is free (R39). -/
def Uncontested (s : State) : Prop := s.pending = [] ∧ s.evr.reps = [] ∧ s.slt.ringReads = [] ∧ s.fabric.used = []

/-- The spool of word `a` is ON and owned by class `cls`, the word is good, and no test has borrowed it. -/
def GoodWord (s : State) (cls a : Nat) : Prop :=
  pwrNow s (a / 0x100000) = .on ∧ splOwner s (a / 0x100000) = cls ∧ sparseRead zeroNat s.ecc a = 0 ∧ inBorrowed s a = false

/-- No fix point that has been reached waits for its commit in the queue: the commits of a tb come before its other actions (R34). -/
def NoCommit (s : State) : Prop := ∀ c ∈ s.pending, ∀ k : Fin 4, c = .fixCommit k → fixReached s k.val = none

/-- Nothing of this core edge stands before what sequencer `n` does now: nothing waits, and no write of its registers, nor a turn of the
calendar, is still to come (R282, R286). -/
def SeqAlone (s : State) (n : Fin 32) : Prop := (s.shqAt n.val).owed = [] ∧ shqRivals s n.val = false

/-- `s` with `a` waiting for the writes of the core edge (R286). -/
def Owes (s : State) (n : Fin 32) (a : ShqAct) : State := s.modShq n.val fun q => { q with owed := q.owed ++ [a] }

/-- Sequencer `n` executes its program's instruction: it is enabled and RUNNING, no delay counts and no injection waits (R275). -/
def SeqReady (s : State) (n : Fin 32) : Prop :=
  s.rb (Reg.SHQ_CTL n.val) 0 = true ∧ (s.shqAt n.val).st = .running ∧ (s.shqAt n.val).hold = 0 ∧ (s.shqAt n.val).inj = none

/-- `s` once sequencer `n` has completed an instruction of its program: the PC stands at `pc`, or one further where there is none,
and the delay of `hold` ticks begins, unless COMPAT forbids it. A write of the PC in the same cc is kept (R371). -/
def Stepped (s : State) (n : Fin 32) (pc : Option (Fin 64)) (hold : Fin 32) : State :=
  let at_ := match pc with | some a => a.val | none => ((s.reg (Reg.SHQ_PC n.val)).toNat % 64 + 1) % 64
  (seqSet s (Reg.SHQ_PC n.val) (BitVec.ofNat 32 at_)).modShq n.val fun q =>
    { q with stall := false, hold := if s.rb (Reg.SHQ_CTL n.val) 8 then 0 else hold.val, seen := false }

/-- `s` with sequencer `n` waiting in an instruction that cannot complete yet (R275). -/
def Waits (s : State) (n : Fin 32) : State := s.modShq n.val fun q => { q with stall := true }

end Machine

end Sys2Proof
end

