-- ==== Sys2Proof/Certificates/Slice0/Obligations.lean ====
section
/-! DEFINITION. The statements for the provers. -/

open Sys2Proof Sys2Proof.Machine

/-- One step takes the command at the front of the queue and runs it with the queue's rest. On an empty queue one tb
passes (log entry 1). -/
def Obligations.StepRunsFront : Prop := ∀ (s : State) (c : Instr) (r : List Instr),
  step { s with pending := c :: r } = exec c { s with pending := r } ∧
  (s.pending = [] → step s = .next (tick s))

/-- Tables 1-6, 2-1, 5-1, 11-3, 13-7: the state right after power-on reset has empty memories, TB 0 and not counting, safe state, the
sequencers and threads stopped, the spools not initialised, boot at step 1 and no command waiting. Every register reads its reset
value, and every master's RST_CAUSE POR alone. Inputs not asserted and the empty keep store are the model's choice (log entries 5, 6). -/
def Obligations.ResetValues : Prop :=
  State.reset.mem = [] ∧ State.reset.sram = [] ∧ State.reset.tb = 0 ∧ State.reset.tbRun = false ∧ State.reset.safe.safe = true ∧
  State.reset.safe.sover = true ∧ State.reset.otp = false ∧ State.reset.boot.step = 1 ∧ State.reset.boot.done = false ∧
  State.reset.pending = [] ∧ State.reset.staged = [] ∧ State.reset.cal.tab = [] ∧ State.reset.due = [] ∧ State.reset.slt.claim = none ∧
  State.reset.cas.st = .off ∧ State.reset.reg Reg.RST_CAUSE = 1 ∧
  (∀ a, a ≠ Reg.RST_CAUSE → State.reset.reg a = (regDesc a).rst) ∧
  (∀ n : Fin 8, (State.reset.spkAt n.val).st = .off ∧ (State.reset.splAt n.val).st = .changing ∧ (State.reset.linkAt n.val).st = .off) ∧
  (∀ t : Fin 64, (State.reset.thrAt t.val).st = .stopped ∧ (State.reset.thrAt t.val).fab = []) ∧
  (∀ n : Fin 128, (State.reset.chAt n.val).cnt = 0 ∧ (State.reset.pinAt n.val).ball = .z) ∧
  (∀ n : Fin 32, (State.reset.shqAt n.val).st = .disabled) ∧ (∀ g : Fin 16, (State.reset.exgAt g.val).tripped = false)

/-- The memories at reset are in their canonical form. -/
def Obligations.ResetCanonical : Prop := State.reset.Canonical

/-- Every step from a state whose memories are in canonical form leads to one whose memories are: every command and every tb keeps the
form, in spools, check bits, keep store, flash, Safelight RAM and the engines' memories. -/
def Obligations.StepKeepsCanonical : Prop := ∀ s t : State, s.Canonical → step s = .next t → t.Canonical

/-- Every command of every row answers a next state, from every state, and leaves the queue of the commands that wait as it is. -/
def Obligations.CommandsComplete : Prop := ∀ (c : Instr) (s : State), ∃ t, exec c s = .next t ∧ t.pending = s.pending

/-- What only a few rows can change. The flash and its contents change by BOOT, UPD_ERASE and UPD_WRITE alone, the owner key by KEY_OWNER
alone, and no command changes the order code: whatever a master writes, and whatever reset it causes, they stay (R439, R445, Table 1-6). -/
def Obligations.RareState : Prop := ∀ (c : Instr) (s t : State), exec c s = .next t → t.order = s.order ∧
  ((∀ chip, c ≠ .boot chip) → (∀ ok, c ≠ .updErase ok) → (∀ ok, c ≠ .updWrite ok) → t.flash = s.flash) ∧
  (c ≠ .keyOwner → t.ownerKey = s.ownerKey)

/-- R16–R18, R20, R451, R452, Table 1-6: what the resets leave. A reset other than power-on enters safe state first. Every register
but those named reads its hardware reset value, the units are as after reset, and the keep store, the flash and the OTP survive; a core
reset keeps TB, the host port and Safelight's RAM. The reset command needs its key: another key resets nothing, and raises RST_KEY. R20: when PLL A locks, TB counts from then on, CLK_STAT shows the clocks that are good, and boot goes from step 1 to step 2; a
lock that CLK_STAT already shows changes nothing. -/
def Obligations.Resets : Prop := (∀ (s : State) (m : Master) (par : Bool) (role : Fin 8) (key : BitVec 16),
  let q := enterSafe s 6
  let anew (t : State) (cause : Word) (kept : Nat → Prop) : Prop := t.reg Reg.RST_CAUSE = cause ∧
    (∀ a, a ≠ Reg.RST_CAUSE → ¬kept a → t.reg a = (regDesc a).rst) ∧ t.safe.safe = true ∧ t.ch = Vector.replicate 128 Chan.reset ∧
    t.eng = Vector.replicate 16 Eng.reset ∧ t.shq = Vector.replicate 32 Shq.reset ∧ t.exg = Vector.replicate 16 Exg.reset ∧
    t.cal = Cal.reset ∧ t.staged = [] ∧ t.keep = s.keep ∧ t.flash = s.flash ∧ t.order = s.order ∧ t.ownerKey = s.ownerKey ∧
    t.pending = s.pending ∧ t.host.openIn = 10000
  (∃ t, exec (.powerOnReset par role) s = .next t ∧ anew t 1 (fun _ => False) ∧ t.tb = 0 ∧ t.tbRun = false ∧ t.mem = [] ∧
    t.sram = [] ∧ t.host.parallel = par ∧ t.cas.role = role.val) ∧
  (∃ t, exec (.pinReset par role) s = .next t ∧ anew t (q.reg Reg.RST_CAUSE ||| 2) (fun _ => False) ∧ t.tb = 0 ∧ t.tbRun = false ∧
    t.mem = [] ∧ t.sram = [] ∧ t.host.parallel = par ∧ t.cas.role = role.val) ∧
  (masterSecure (masterNow s m) = true →
    (∃ t, exec (.fullReset m 0xA5C3) s = .next t ∧ anew t (q.reg Reg.RST_CAUSE ||| 8) (· = Reg.CLK_STAT) ∧ t.tb = 0 ∧
      t.tbRun = (q.reg Reg.CLK_STAT).getLsbD 2 ∧ t.boot.step = 2 ∧ t.mem = [] ∧ t.sram = [] ∧ t.host.parallel = s.host.modePin ∧
      t.cas.role = s.host.rolePin.val) ∧
    (∃ t, exec (.coreReset m 0xA5C3) s = .next t ∧ t.tb = s.tb ∧ t.tbRun = s.tbRun ∧ t.host = s.host ∧ t.sram = s.sram ∧
      t.boot.step = 2 ∧ t.safe.safe = true ∧ t.ch = Vector.replicate 128 Chan.reset ∧ t.eng = Vector.replicate 16 Eng.reset ∧
      t.shq = Vector.replicate 32 Shq.reset ∧ t.cal = Cal.reset ∧ t.staged = [] ∧ t.keep = s.keep ∧ t.flash = s.flash) ∧
    (key ≠ 0xA5C3 → let t := answered .ok 0 ((s.hwSetBit Reg.HP_EVT 7).raise0 304 8 (.reg Reg.HP_EVT 0xFFFF))
      exec (.fullReset m key) s = .next t ∧ exec (.coreReset m key) s = .next t))) ∧
  (∀ (s : State),
  let good (c : ClockId) (i : Nat) : Word := if c ∈ s.slt.clkBad then 0 else 1#32 <<< i
  (s.rb Reg.CLK_STAT 2 = false → exec .pllLock s = .next { s.setReg Reg.CLK_STAT
      (s.reg Reg.CLK_STAT ||| good .refclk 0 ||| 4 ||| good .pllB 3 ||| good .sltOsc 4) with
    tbRun := true, boot := { s.boot with step := if s.boot.step = 1 then 2 else s.boot.step } }) ∧
  (s.rb Reg.CLK_STAT 2 = true → exec .pllLock s = .next s))

/-- R22, R47, R51, R81, R367: the first register of a latch group reads the quantity of this tb, and the registers behind it go to the
reader's own shadow; before the OTP step the serial number reads 0 (R8). A read of SPKn_PH_POS also takes the entry from the phase FIFO;
where it holds none, or marks of this tb alone, it reads 0 and takes none. A mark of this tb that had found the FIFO full then enters. Nothing else changes. -/
def Obligations.LatchedReads : Prop := ∀ (s : State) (m : Master) (n : Unit3),
  let u := s.spkAt n.val
  let p := spkPosNow s n.val
  let serial (v : BitVec 64) : State := s.putShadow m Reg.ID_SERIAL_HI ((v >>> 32).setWidth 32)
  let phase (e : PhEntry) : State := (s.putShadow m (Reg.SPK_PH_CYC n.val) e.cyc).putShadow m (Reg.SPK_PH_ERR n.val) e.err
  let took (e : PhEntry) : State := (phase e).modSpk n.val fun u => { u with fifo := u.fifo.tail }
  let again (e x : PhEntry) : State := (took e).modSpk n.val fun u =>
    { u with fifo := u.fifo ++ [x], phNew := noteNew s.tb u.phNew, phLost := none }
  reachesRegs m = true →
  exec (.tbLoRead m) s = .next (answered .ok (BitVec.ofNat 32 s.tb) (s.putShadow m Reg.TB_HI (BitVec.ofNat 32 (s.tb / 2 ^ 32)))) ∧
  (s.otp = true → exec (.idSerialLoRead m) s = .next (answered .ok (Config.serial.setWidth 32) (serial Config.serial))) ∧
  (s.otp = false → exec (.idSerialLoRead m) s = .next (answered .ok 0 (serial 0))) ∧
  exec (.spkPosRead m n) s = .next (answered .ok p.1 (s.putShadow m (Reg.SPK_CYC n.val) p.2)) ∧
  exec (.spkTsLoRead m n) s = .next (answered .ok (BitVec.ofNat 32 (u.vis.stamp / 16))
    ((s.putShadow m (Reg.SPK_TS_HI n.val) (BitVec.ofNat 32 (u.vis.stamp / 16 / 2 ^ 32))).putShadow m (Reg.SPK_TS_FR n.val)
      (BitVec.ofNat 32 (u.vis.stamp % 16)))) ∧
  (∀ e r, u.phOld s.tb = e :: r → u.phLost = none →
    exec (.phPosRead m n) s = .next (answered .ok e.pos (took e))) ∧
  (∀ e r x, u.phOld s.tb = e :: r → u.phLost = some x →
    exec (.phPosRead m n) s = .next (answered .ok e.pos (if x.1 ≠ s.tb then took e else if x.2.2 then again e x.2.1
      else (again e x.2.1).hwUnset (Reg.SPK_PH_STAT n.val) 4))) ∧
  (u.phOld s.tb = [] → exec (.phPosRead m n) s = .next (answered .ok 0 (phase { pos := 0, cyc := 0, err := 0 })))

/-- R26–R30: taking, freezing, copying, reading and releasing the contact sheet. A take is refused while the sheet is busy or ready, in
MODE 3, in MODE 2 with no point pending, and behind a request of the same cc that stands before it in the order of R29. In MODE 1 a tb
that has passed takes the next and sets LATE. The sheet freezes when its point is reached, with the timing state at the start of that tb,
under the next sequence number, and not before; a RELEASE from then on
keeps the number, and one earlier leaves it. A request before the one accepted in the same cc takes its place, and nothing but REFUSED
is left of the loser. When the copy is complete the sheet is READY, and an engine thread that took it sees the
event. Before READY the buffer reads 0 and sets EARLY; a read of it that is not aligned is a bus error. -/
def Obligations.ContactSheet : Prop := ∀ (s : State) (m : Master) (mode fx : Fin 4) (off : Fin 4096),
  let owner : Nat := match m with | .engine _ => 1 | .safelight => 2 | _ => 0
  let thread : Nat := match m with | .engine t => t.val | _ => 0
  let cfg : State := s.setReg Reg.CS_CTL (BitVec.ofNat 32 (mode.val * 4 + fx.val * 16))
  let asked (ok late : Bool) : Option SheetReq := some {
    cc := s.cc, rank := csRank m, ok := ok, rd := none, owner := s.sheet.owner, thread := s.sheet.thread, late := late }
  let armed (p : Option Nat) (f : Option (Fin 4)) : State := { cfg with sheet := { s.sheet with
    busy := true, filling := false, owner := owner, thread := thread, at_ := p, atFix := f, held := none, req := asked true false } }
  let late := cfg.hwSetBit Reg.CS_STAT 4
  let point := (s.reg Reg.CS_AT_LO).toNat + (s.reg Reg.CS_AT_HI).toNat * 2 ^ 32
  let free' : Prop := s.sheet.busy = false ∧ s.sheet.ready = false
  let taken : Prop := s.sheet.busy = true ∨ s.sheet.ready = true
  let alone : Prop := s.sheet.req.all (fun r => r.cc ≠ s.cc) = true
  let q := busReq s m (0x00801000 + off.val) .b4 none
  let refused : State := cfg.hwSetBit Reg.CS_STAT 2
  let lost (r : SheetReq) : State := if r.late then refused.hwUnset Reg.CS_STAT 16 else refused
  let gone (r : SheetReq) (ok : Bool) : Option SheetReq := some {
    cc := s.cc, rank := csRank m, ok := ok, rd := none, owner := r.owner, thread := r.thread, late := false }
  let early : State := s.setReg Reg.CS_CTL (s.reg Reg.CS_CTL &&& 0x3C)
  (reachesRegs m = true →
    (alone → free' → mode = 0 → exec (.csTake m mode fx) s = .next (answered .ok 0 (armed (some ((s.tb + 3) % 2 ^ 64)) none))) ∧
    (alone → free' → mode = 1 → passed s.tb point = false → exec (.csTake m mode fx) s =
      .next (answered .ok 0 (armed (some point) none))) ∧
    (alone → free' → mode = 1 → passed s.tb point = true → exec (.csTake m mode fx) s = .next (answered .ok 0
      { late with sheet := { (armed (some ((s.tb + 1) % 2 ^ 64)) none).sheet with req := asked true (!s.rb Reg.CS_STAT 4) } })) ∧
    (alone → free' → mode = 2 → (s.fixAt fx.val).point ≠ .none → fixReached s fx.val = none → (s.fixAt fx.val).lastT ≠ some s.tb →
      exec (.csTake m mode fx) s = .next (answered .ok 0 (armed none (some fx)))) ∧
    (alone → taken ∨ mode = 3 ∨ (mode = 2 ∧ fixPendingNow s fx.val = false) → exec (.csTake m mode fx) s = .next (answered .ok 0
      { refused with sheet := { s.sheet with req := asked false false } })) ∧
    (∀ r, s.sheet.req = some r → r.cc = s.cc → r.rank < csRank m → exec (.csTake m mode fx) s = .next (answered .ok 0 refused)) ∧
    (∀ r, s.sheet.req = some r → r.cc = s.cc → csRank m < r.rank → r.ok = true → r.rd = none → s.sheet.busy = true → s.sheet.filling = false →
      (mode = 0 → exec (.csTake m mode fx) s = .next (answered .ok 0 { lost r with sheet := { s.sheet with
        busy := true, ready := false, owner := owner, thread := thread, at_ := some ((s.tb + 3) % 2 ^ 64), atFix := none, held := none, req := gone r true } })) ∧
      (mode = 3 → exec (.csTake m mode fx) s = .next (answered .ok 0 { (lost r).hwSetBit Reg.CS_STAT 2 with sheet := { s.sheet with
        busy := false, ready := false, owner := r.owner, thread := r.thread, at_ := none, atFix := none, held := none, req := gone r false } }))) ∧
    (s.sheet.busy = false ∨ s.sheet.filling = true ∨ csReached s = false → exec (.csRelease m) s = .next (answered .ok 0 { early with
      sheet := { s.sheet with busy := false, ready := false, filling := false, at_ := none, atFix := none, held := none } })) ∧
    (s.sheet.busy = true → s.sheet.filling = false → csReached s = true → ∃ t, exec (.csRelease m) s = .next t ∧
      t = answered .ok 0 { early with sheet := t.sheet } ∧ t.sheet.seq = (s.sheet.seq + 1) % 256 ∧ t.sheet.busy = false ∧
      t.sheet.ready = false ∧ t.sheet.filling = false ∧ t.sheet.at_ = none ∧ t.sheet.atFix = none) ∧
    (Grants s q → off.val % 4 = 0 →
      (s.sheet.ready = true → exec (.snapshotRead m off) s = .next (answered .ok (wordAt s.sheet.snap off.val) (afterGrant s q))) ∧
      (s.sheet.ready = false → exec (.snapshotRead m off) s = .next (answered .ok 0 ((afterGrant s q).hwSetBit Reg.CS_STAT 3)))) ∧
    (Grants s q → off.val % 4 ≠ 0 → exec (.snapshotRead m off) s =
      .next (answered .buserr 0 (hpError (afterGrant s q) 0 (masterNow s m) (0x00801000 + off.val) .b4 false)))) ∧
  (s.sheet.busy = true → s.sheet.filling = false → csReached s = true →
    ∃ s1, exec .contactSheetFreeze s = .next s1 ∧ s1 = { s with sheet := s1.sheet } ∧ s1.sheet.filling = true ∧ s1.sheet.busy = true ∧
      s1.sheet.seq = (s.sheet.seq + 1) % 256 ∧ s1.sheet.at_ = none ∧ s1.sheet.atFix = none ∧
      (s.sheet.held = none → wordAt s1.sheet.snap 0 = BitVec.ofNat 32 s.tb ∧
        ∀ n : Unit3, wordAt s1.sheet.snap (0x10 + 0x10 * n.val) = (spkPosNow s n.val).1)) ∧
  (s.sheet.busy = false ∨ s.sheet.filling = true ∨ csReached s = false → exec .contactSheetFreeze s = .next s) ∧
  (s.sheet.busy = true → s.sheet.filling = true →
    let done : State := { s with sheet := { s.sheet with busy := false, ready := true, filling := false } }
    (s.sheet.owner ≠ 1 → exec .csReady s = .next done) ∧
    (s.sheet.owner = 1 → exec .csReady s = .next (evpAt done s.sheet.thread 12 0))) ∧
  (s.sheet.busy = false ∨ s.sheet.filling = false → exec .csReady s = .next s)

/-- R14, R32–R38, R416: a write of staged fields to a block of the core goes to a shadow at once, tagged with the writer's fix channel,
and leaves every active field as it is; where the writer's writes go through it sets the field, and the field's shadow goes; to a block
of the TB domain it lands 3 tb after the cc. What lands there does the same. DISCARD drops the shadows of its channel. ARM sets the point of
a channel that has none: KIND 0 the next tb, KIND 1 the tb given, or, where that has passed, the next with LATE, KIND 2 and 3 through the
calendar. It is refused while a point is pending, and across the cascade unless the master can order it. CANCEL disarms a point, and
sets CANCELLED. In the tb of the point CANCEL and DISCARD come too late: the commit and its shadows stand. The commit at a point empties the point. -/
def Obligations.FixChannels : Prop := (∀ (s : State) (m : Master) (k : Fin 4) (a : Nat) (w : Word),
  let d := regDesc a
  let q := busReq s m a .b4 (some w)
  let m' := masterNow s m
  let v := w &&& d.sth
  let shadow (s : State) : State := { s with staged := (s.staged.filter fun g => g.addr ≠ a) ++
    [{ addr := a, word := v, tag := k, tb := s.tb }] }
  let stageable : Prop := d.sth &&& ~~~d.rw = 0 ∧ d.rws = 0 ∧ memberReg s a = none
  let quiet : Prop := (∀ g ∈ s.staged, fixReached s g.tag.val = none) ∧ (s.fixAt k.val).lastT ≠ some s.tb
  reachesRegs m = true → Grants s q →
  (d.sth = 0 → exec (.stagedWrite m a w) s = .next s) ∧
  (plainReg a = true → tbDomain a = false → d.sth ≠ 0 → stageable → fixSelOf s m = some k → quiet →
    (∀ g ∈ s.staged, g.addr = a → g.tag = k) → exec (.stagedWrite m a w) s = .next (answered .ok 0 (shadow (afterGrant s q)))) ∧
  (plainReg a = true → tbDomain a = false → d.sth ≠ 0 → stageable → fixSelOf s m = none → (∀ g ∈ s.staged, g.addr ≠ a) →
    exec (.stagedWrite m a w) s = .next (answered .ok 0 (applyStaged { afterGrant s q with
      staged := s.staged.filter fun g => g.addr ≠ a } [(a, v)]))) ∧
  (plainReg a = true → tbDomain a = false → d.sth ≠ 0 →
    exec (.stagedWrite m a w) s = .next (answered .ok 0 (regWrite (afterGrant s q) m' (fixSelOf s m) a w))) ∧
  (plainReg a = true → tbDomain a = true → d.sth ≠ 0 → exec (.stagedWrite m a w) s = .next (answered .ok 0
    { regDeny (afterGrant s q) m' a w with
      due := (regDeny (afterGrant s q) m' a w).due ++ [(s.tb - s.tb % 2 + 3, .land m' (fixSelOf s m) a w)] })) ∧
  (plainReg a = true → d.sth ≠ 0 → stageable → quiet → (∀ g ∈ s.staged, g.addr = a → g.tag = k) →
    applyDue s (.land m (some k) a w) = shadow s)) ∧
  (∀ (s : State) (m : Master) (k : Fin 4),
  let c := s.reg (Reg.FIX_CTL k.val)
  let lo := s.reg (Reg.FIX_POINT_LO k.val)
  let hi := s.reg (Reg.FIX_POINT_HI k.val)
  let point := lo.toNat + hi.toNat * 2 ^ 32
  let kind := c.toNat / 16 % 4
  let unit' := c.toNat / 2 ^ 8 % 8
  let hzn := c.toNat / 2 ^ 12 % 8
  let armed (p : Point) : State := s.modFix k.val fun f => { f with point := p, chained := false, handTb := s.tb }
  let free' : Prop := (s.fixAt k.val).point = .none ∧ ∀ p ∈ s.due, p.2 ≠ .fixDone k.val
  let chain : Bool := c.getLsbD 16
  let mayChain : Prop := casMaster s = true ∧ s.cas.st = .run ∧ s.cas.cmd = none ∧ (2 ≤ s.cas.cv ∨ 2 ≤ kind)
  reachesRegs m = true →
  (fixReached s k.val = none →
    exec (.fixChannelDiscard m k) s = .next (answered .ok 0 { s with staged := s.staged.filter fun g => g.tag ≠ k })) ∧
  (∀ p, fixReached s k.val = some p → exec (.fixChannelDiscard m k) s = .next (answered .ok 0 { s with
    staged := s.staged.filter fun g => g.tag ≠ k ∨ (g.tb < p ∧ g.tb < s.tb) })) ∧
  (¬free' → exec (.fixChannelArm m k) s = .next (answered .ok 0 (s.hwSetBit (Reg.FIX_STAT k.val) 6))) ∧
  (free' → chain = false → kind = 0 → exec (.fixChannelArm m k) s = .next (answered .ok 0 (armed (.at ((s.tb + 1) % 2 ^ 64))))) ∧
  (free' → chain = false → kind = 1 → passed s.tb point = false → exec (.fixChannelArm m k) s =
    .next (answered .ok 0 (armed (.at point)))) ∧
  (free' → chain = false → kind = 1 → passed s.tb point = true → exec (.fixChannelArm m k) s =
    .next (answered .ok 0 ((armed (.at ((s.tb + 1) % 2 ^ 64))).hwSetBit (Reg.FIX_STAT k.val) 2))) ∧
  (free' → chain = false → 2 ≤ kind → exec (.fixChannelArm m k) s =
    .next (answered .ok 0 (calFixAsk (armed .calendar) k.val hzn unit' (if kind = 2 then lo else 0) hi))) ∧
  (free' → chain = true → ¬mayChain → exec (.fixChannelArm m k) s = .next (answered .ok 0 (s.hwSetBit (Reg.FIX_STAT k.val) 6))) ∧
  (free' → chain = true → mayChain → ∃ t, exec (.fixChannelArm m k) s = .next t ∧ t.fixAt k.val = { s.fixAt k.val with
      hzn := hzn } ∧ t.cas.cseq = (s.cas.cseq + 1) % 256 ∧ ∃ x, t.cas.cmd = some x ∧ x.code = 1 ∧ x.fixCh = k ∧ x.spk.val = unit' ∧
        x.kind.val = (if kind = 0 then 1 else kind) ∧ (kind ≠ 0 → x.lo = lo ∧ x.hi = hi) ∧
        (kind = 0 → x.lo = BitVec.ofNat 32 (s.tb + 4000) ∧ x.hi = BitVec.ofNat 32 ((s.tb + 4000) / 2 ^ 32))) ∧
  ((s.fixAt k.val).point ≠ .none → fixReached s k.val = none → ∃ s1, exec (.fixChannelCancel m k) s = .next s1 ∧ (s1.fixAt k.val).point = .none ∧
    s1.rb (Reg.FIX_STAT k.val) 4 = true ∧ s1.staged = s.staged ∧ s1.due = s.due ∧ ∀ e ∈ s1.cal.tab, e.id ≠ fixEntryId k.val) ∧
  ((s.fixAt k.val).point = .none ∨ fixReached s k.val ≠ none → exec (.fixChannelCancel m k) s = .next (answered .ok 0 s)) ∧
  (fixReached s k.val = none → exec (.fixCommit k) s = .next s) ∧
  (∀ p, (s.fixAt k.val).point = .at p → passed s.tb p = true → s.boot.phase ≠ 2 →
    s.boot.tooLate = false → ∃ s1, exec (.fixCommit k) s = .next s1 ∧
    (s1.fixAt k.val).point = .none ∧ (s1.fixAt k.val).lastT = some p ∧ ∀ g ∈ s1.staged, g.tag = k → p ≤ g.tb))

/-- R5, R14, R39, R363, R365, R366, R370, R371: register accesses. Reserved locations read 0 and ignore writes, with no error, whatever the width and
alignment. A write of a register of the core acts when it is served, as the
landing of its address says; of a register of the TB domain, 3 tb after the cc. A plain register takes the word whole; an address that
holds no register, and the reserved space, change nothing; a write that is not aligned is a bus error. A REGISTER_WRITE below the register
space is no command. A read brings the register, or a bus error where it is not aligned. A read of event bits returns them, clears those
that it returns and no other register's. An access that is not granted in its cc has no effect but its waiting. -/
def Obligations.RegisterAccess : Prop := ∀ (s : State) (m : Master) (k : Fin 4) (a : Nat) (w : Word) (sz : Size),
  let q := busReq s m a .b4 (some w)
  let g := afterGrant s q
  let rq := busReq s m a sz none
  let m' := masterNow s m
  let n : Nat := match sz with | .b1 => 1 | .b2 => 2 | .b4 => 4
  let bits : Word := BitVec.ofNat 32 ((2 ^ (8 * n) - 1) * 2 ^ (8 * (a % 4)))
  reachesRegs m = true →
  (a < 0x800000 → exec (.registerWrite m a w) s = .next s) ∧
  (0x800000 ≤ a → Grants s q →
    (0x1000000 ≤ a → exec (.registerWrite m a w) s = .next (answered .ok 0 g)) ∧
    (reservedAt a 4 = true → exec (.registerWrite m a w) s = .next (answered .ok 0 g)) ∧
    (a < 0x1000000 → reservedAt a 4 = false → a % 4 ≠ 0 →
      exec (.registerWrite m a w) s = .next (answered .buserr 0 (hpError g 0 m' a .b4 true))) ∧
    (a < 0x1000000 → reservedAt a 4 = false → a % 4 = 0 → tbDomain a = true →
      exec (.registerWrite m a w) s = .next (answered .ok 0 { regDeny g m' a w with
        due := (regDeny g m' a w).due ++ [(s.tb - s.tb % 2 + 3, .land m' (fixSelOf s m) a w)] })) ∧
    (a < 0x1000000 → reservedAt a 4 = false → a % 4 = 0 → tbDomain a = false →
      exec (.registerWrite m a w) s = .next (answered .ok 0 (regWrite g m' (fixSelOf s m) a w))) ∧
    (a = Reg.CS_AT_LO ∨ a = Reg.CS_AT_HI ∨ a = Reg.FIX_POINT_LO k.val ∨ a = Reg.FIX_POINT_HI k.val →
      exec (.registerWrite m a w) s = .next (answered .ok 0 (g.setReg a w))) ∧
    (plainReg a = true → tbDomain a = false → regDesc a = RegDesc.none → exec (.registerWrite m a w) s = .next (answered .ok 0 g))) ∧
  (0x800000 ≤ a → ∀ r, q = some r → granted s r = false → exec (.registerWrite m a w) s = .next (afterWait s q)) ∧
  (Grants s rq → 0x800000 ≤ a →
    (0x1000000 ≤ a → exec (.clearOnRead m a sz) s = .next (answered .ok 0 (afterGrant s rq))) ∧
    (reservedAt a n = true → exec (.clearOnRead m a sz) s = .next (answered .ok 0 (afterGrant s rq))) ∧
    (a < 0x1000000 → reservedAt a n = false → a % n ≠ 0 →
      exec (.clearOnRead m a sz) s = .next (answered .buserr 0 (hpError (afterGrant s rq) 0 m' a sz false))) ∧
    (a < 0x1000000 → reservedAt a n = false → a % n = 0 → exec (.clearOnRead m a sz) s = .next (answered .ok
      (((regRead (afterGrant s rq) m' (a / 4 * 4) bits).1 &&& bits) >>> (8 * (a % 4))) (regRead (afterGrant s rq) m' (a / 4 * 4) bits).2)) ∧
    (a = Reg.RST_CAUSE ∨ a = Reg.CLK_EVT ∨ a = Reg.FMT_EVT ∨ a = Reg.CAS_EVT ∨ a = Reg.SAFE_EVT ∨ a = Reg.HP_EVT → sz = .b4 →
      s.freshAt a = none → sparseGet s.seen.begun a = none → s.otp = true → ∃ t, exec (.clearOnRead m a sz) s = .next t ∧ t.answer.status = .ok ∧
        t.answer.data &&& (regDesc a).rc = s.reg a &&& (regDesc a).rc ∧ t.reg a = s.reg a &&& ~~~(regDesc a).rc ∧
        ∀ b, b ≠ a → t.reg b = s.reg b)) ∧
  (Grants s rq → a < 0x800000 → exec (.clearOnRead m a sz) s = .next (readOp (afterGrant s rq) m' a sz)) ∧
  (∀ r, rq = some r → granted s r = false → exec (.clearOnRead m a sz) s = .next (afterWait s rq))

/-- R179, R182: the 17 operations of Table 5-7 that are no divides write their result and their flags, and nothing else of the
machine changes but the thread's PC, its instruction count and its state. Writes to w0 are discarded, flags are set all the same. R184: the I-format operations; addi and cmpi sign-extend the immediate, the logical ones zero-extend it; cmpi writes flags only. -/
def Obligations.EngineArithmetic : Prop := (∀ (s : State) (t : Fin 64) (rd ra rb : Reg5),
  let a := wreg s t ra
  let b := wreg s t rb
  (Issues s t (.alu .add rd ra rb) → exec (.add t rd ra rb) s = .next (Took s t fun h =>
    h.takeZNCV rd (a + b) (decide (2 ^ 32 ≤ a.toNat + b.toNat)) (decide ((a + b).toInt ≠ a.toInt + b.toInt)))) ∧
  (Issues s t (.alu .sub rd ra rb) → exec (.sub t rd ra rb) s = .next (Took s t fun h =>
    h.takeZNCV rd (a - b) (decide (b.toNat ≤ a.toNat)) (decide ((a - b).toInt ≠ a.toInt - b.toInt)))) ∧
  (Issues s t (.alu .and rd ra rb) → exec (.engAnd t rd ra rb) s = .next (Took s t fun h => h.takeZN rd (a &&& b))) ∧
  (Issues s t (.alu .or rd ra rb) → exec (.engOr t rd ra rb) s = .next (Took s t fun h => h.takeZN rd (a ||| b))) ∧
  (Issues s t (.alu .xor rd ra rb) → exec (.engXor t rd ra rb) s = .next (Took s t fun h => h.takeZN rd (a ^^^ b))) ∧
  (Issues s t (.alu .sll rd ra rb) → exec (.sll t rd ra rb) s = .next (Took s t fun h => h.takeZN rd (a <<< (b.toNat % 32)))) ∧
  (Issues s t (.alu .srl rd ra rb) → exec (.srl t rd ra rb) s = .next (Took s t fun h => h.takeZN rd (a >>> (b.toNat % 32)))) ∧
  (Issues s t (.alu .sra rd ra rb) → exec (.sra t rd ra rb) s = .next (Took s t fun h =>
    h.takeZN rd (a.sshiftRight (b.toNat % 32)))) ∧
  (Issues s t (.alu .slt rd ra rb) → exec (.slt t rd ra rb) s = .next (Took s t fun h =>
    h.takeZN rd (if a.slt b then 1 else 0))) ∧
  (Issues s t (.alu .sltu rd ra rb) → exec (.sltu t rd ra rb) s = .next (Took s t fun h =>
    h.takeZN rd (if a.ult b then 1 else 0))) ∧
  (Issues s t (.alu .min rd ra rb) → exec (.min t rd ra rb) s = .next (Took s t fun h =>
    h.takeZN rd (BitVec.ofInt 32 (min a.toInt b.toInt)))) ∧
  (Issues s t (.alu .max rd ra rb) → exec (.max t rd ra rb) s = .next (Took s t fun h =>
    h.takeZN rd (BitVec.ofInt 32 (max a.toInt b.toInt)))) ∧
  (Issues s t (.alu .minu rd ra rb) → exec (.minu t rd ra rb) s = .next (Took s t fun h =>
    h.takeZN rd (BitVec.ofNat 32 (min a.toNat b.toNat)))) ∧
  (Issues s t (.alu .maxu rd ra rb) → exec (.maxu t rd ra rb) s = .next (Took s t fun h =>
    h.takeZN rd (BitVec.ofNat 32 (max a.toNat b.toNat)))) ∧
  (Issues s t (.alu .mul rd ra rb) → exec (.mul t rd ra rb) s = .next (Took s t fun h =>
    h.takeZN rd (BitVec.ofInt 32 (a.toInt * b.toInt)))) ∧
  (Issues s t (.alu .mulh rd ra rb) → exec (.mulh t rd ra rb) s = .next (Took s t fun h =>
    h.takeZN rd ((BitVec.ofInt 64 (a.toInt * b.toInt)).extractLsb' 32 32))) ∧
  (Issues s t (.alu .mulhu rd ra rb) → exec (.mulhu t rd ra rb) s = .next (Took s t fun h =>
    h.takeZN rd ((BitVec.ofNat 64 (a.toNat * b.toNat)).extractLsb' 32 32)))) ∧
  (∀ (s : State) (t : Fin 64) (rd ra : Reg5) (imm : BitVec 16) (sh : Fin 32),
  let a := wreg s t ra
  let b := imm.signExtend 32
  (Issues s t (.imm .addi rd ra imm) → exec (.addi t rd ra imm) s = .next (Took s t fun h =>
    h.takeZNCV rd (a + b) (decide (2 ^ 32 ≤ a.toNat + b.toNat)) (decide ((a + b).toInt ≠ a.toInt + b.toInt)))) ∧
  (Issues s t (.imm .cmpi 0 ra imm) → exec (.cmpi t ra imm) s = .next (Took s t fun h =>
    { h with z := a - b == 0, n := (a - b).msb, c := decide (b.toNat ≤ a.toNat), v := decide ((a - b).toInt ≠ a.toInt - b.toInt) })) ∧
  (Issues s t (.imm .andi rd ra imm) → exec (.andi t rd ra imm) s = .next (Took s t fun h => h.takeZN rd (a &&& imm.setWidth 32))) ∧
  (Issues s t (.imm .ori rd ra imm) → exec (.ori t rd ra imm) s = .next (Took s t fun h => h.takeZN rd (a ||| imm.setWidth 32))) ∧
  (Issues s t (.imm .xori rd ra imm) → exec (.xori t rd ra imm) s = .next (Took s t fun h => h.takeZN rd (a ^^^ imm.setWidth 32))) ∧
  (Issues s t (.imm .lui rd 0 imm) → exec (.lui t rd imm) s = .next (Took s t fun h => h.takeZN rd (imm ++ (0 : BitVec 16)))) ∧
  (Issues s t (.shift .slli rd ra sh) → exec (.slli t rd ra sh) s = .next (Took s t fun h => h.takeZN rd (a <<< sh.val))) ∧
  (Issues s t (.shift .srli rd ra sh) → exec (.srli t rd ra sh) s = .next (Took s t fun h => h.takeZN rd (a >>> sh.val))) ∧
  (Issues s t (.shift .srai rd ra sh) → exec (.srai t rd ra sh) s = .next (Took s t fun h => h.takeZN rd (a.sshiftRight sh.val))))

/-- R165, R183: the divides. An ordinary quotient or remainder clears V; division by 0, and the quotient or remainder of −2^31 by −1,
set V and take the values of R183. The divider is then occupied for 18 cc, 36 tb; a divide issued meanwhile stalls, and DIVIDER_FREE lets
the engine's stalled threads try again once the divider is free, not before. -/
def Obligations.EngineDivide : Prop := ∀ (s : State) (t : Fin 64) (rd ra rb : Reg5) (e : Fin 16),
  let a := wreg s t ra
  let b := wreg s t rb
  let busy : State := (issuing s t).modEng (t.val / 4) fun g => { g with divTb := s.tb - s.tb % 2 + 36 }
  let wraps := a = 0x80000000 ∧ b = 0xFFFFFFFF
  let res (v : Word) (o : Prop) [Decidable o] : State := Ended busy t fun h => { h.takeZN rd v with v := decide o }
  let stalls (c : Instr) (i : EngIns) : Prop := Fetches s t i → s.tb < (s.engAt (t.val / 4)).divTb → exec c s =
    .next ((issuing s t).modThr t.val fun h => { h with st := .stall, stall := .retry i, wdCount := h.wdNow s.tb, wdTb := s.tb })
  (Issues s t (.divide .div rd ra rb) → exec (.div t rd ra rb) s = .next
    (res (if b = 0 then 0xFFFFFFFF else if wraps then 0x80000000 else BitVec.ofInt 32 (a.toInt.tdiv b.toInt)) (b = 0 ∨ wraps))) ∧
  (Issues s t (.divide .divu rd ra rb) → exec (.divu t rd ra rb) s = .next
    (res (if b = 0 then 0xFFFFFFFF else BitVec.ofNat 32 (a.toNat / b.toNat)) (b = 0))) ∧
  (Issues s t (.divide .rem rd ra rb) → exec (.rem t rd ra rb) s = .next
    (res (if b = 0 then a else if wraps then 0 else BitVec.ofInt 32 (a.toInt.tmod b.toInt)) (b = 0 ∨ wraps))) ∧
  (Issues s t (.divide .remu rd ra rb) → exec (.remu t rd ra rb) s = .next
    (res (if b = 0 then a else BitVec.ofNat 32 (a.toNat % b.toNat)) (b = 0))) ∧
  stalls (.div t rd ra rb) (.divide .div rd ra rb) ∧ stalls (.divu t rd ra rb) (.divide .divu rd ra rb) ∧
  stalls (.rem t rd ra rb) (.divide .rem rd ra rb) ∧ stalls (.remu t rd ra rb) (.divide .remu rd ra rb) ∧
  (s.tb < (s.engAt e.val).divTb → exec (.dividerFree e) s = .next s) ∧
  ((s.engAt e.val).divTb ≤ s.tb → exec (.dividerFree e) s = .next (retryStalls s e)) ∧
  ((s.engAt e.val).divTb ≤ s.tb → (∀ j : Fin 4, (s.thrAt (4 * e.val + j.val)).st ≠ .stall) → exec (.dividerFree e) s = .next s)

/-- R171, R185, R162: a tray load of an aligned address below 0x8000 whose word is good, or corrected, brings the little-endian datum,
extended as named, into the register; flags stay, and nothing changes but a corrected word, which is counted and good again. A tray store
of such an address stores the low bytes of the register there, little-endian; a whole word needs no good word under it. They read back,
every other byte of every tray reads as before, and so does every byte of the spools, of the keep store and of the flash. -/
def Obligations.EngineTray : Prop := (∀ (s : State) (t : Fin 64) (rd ra : Reg5) (off : BitVec 16),
  let a := (wreg s t ra + off.signExtend 32).toNat % 65536
  let at' (k : Nat) : Byte := byteAt (s.engAt (t.val / 4)).tray (a + k)
  let used : State := { issuing s t with fabric := { (issuing s t).fabric with used := trayPlace (t.val / 4) :: (issuing s t).fabric.used } }
  let checked : State := if sparseRead zeroNat (s.engAt (t.val / 4)).tecc (a / 4 * 4) = 0 then used
    else (eccCount used (t.val / 4)).modEng (t.val / 4) fun g => { g with tecc := sparseWrite zeroNat g.tecc (a / 4 * 4) 0 }
  let gets (v : Word) : State := Ended checked t fun h => h.setW rd.val v
  a < 0x8000 → sparseRead zeroNat (s.engAt (t.val / 4)).tecc (a / 4 * 4) ≤ 1 →
  (Issues s t (.trayLoad .w rd ra off) → a % 4 = 0 → exec (.ldt t rd ra off) s = .next (gets (at' 3 ++ at' 2 ++ at' 1 ++ at' 0))) ∧
  (Issues s t (.trayLoad .h rd ra off) → a % 2 = 0 → exec (.ldth t rd ra off) s = .next (gets ((at' 1 ++ at' 0).signExtend 32))) ∧
  (Issues s t (.trayLoad .hu rd ra off) → a % 2 = 0 → exec (.ldthu t rd ra off) s = .next (gets ((at' 1 ++ at' 0).setWidth 32))) ∧
  (Issues s t (.trayLoad .b rd ra off) → exec (.ldtb t rd ra off) s = .next (gets ((at' 0).signExtend 32))) ∧
  (Issues s t (.trayLoad .bu rd ra off) → exec (.ldtbu t rd ra off) s = .next (gets ((at' 0).setWidth 32)))) ∧
  (∀ (s : State) (t : Fin 64) (rd ra : Reg5) (off : BitVec 16),
  let a := (wreg s t ra + off.signExtend 32).toNat % 65536
  let v := wreg s t rd
  let good : Prop := sparseRead zeroNat (s.engAt (t.val / 4)).tecc (a / 4 * 4) ≤ 1
  let stores (c : Instr) (w : Nat) : Prop := ∃ s1, exec c s = .next s1 ∧
    (∀ k, k < w → byteAt (s1.engAt (t.val / 4)).tray (a + k) = (v >>> (8 * k)).setWidth 8) ∧
    (∀ e b, ¬(e = t.val / 4 ∧ a ≤ b ∧ b < a + w) → byteAt (s1.engAt e).tray b = byteAt (s.engAt e).tray b) ∧
    (∀ e, (s1.engAt e).iram = (s.engAt e).iram) ∧
    s1.mem = s.mem ∧ s1.keep = s.keep ∧ s1.flash = s.flash ∧ s1.sram = s.sram ∧
    s1.thrAt t.val = ({ s.thrAt t.val with pc := (s.thrAt t.val).pc + 1, icnt := (s.thrAt t.val).icnt + 1 } : Thr).stepOver s.tb
  a < 0x8000 →
  (Issues s t (.trayStore .w rd ra off) → a % 4 = 0 → stores (.stt t rd ra off) 4) ∧
  (Issues s t (.trayStore .h rd ra off) → a % 2 = 0 → good → stores (.stth t rd ra off) 2) ∧
  (Issues s t (.trayStore .b rd ra off) → good → stores (.sttb t rd ra off) 1))

/-- R171, R162, R201: an address at or above 0x8000 faults TRAY_RANGE (2), a misaligned one below it ALIGN (3), and a word with an
uncorrectable error UNCORR (6); the thread is in FAULT with the code and the address, its PC on the instruction. -/
def Obligations.EngineTrayFaults : Prop := ∀ (s : State) (t : Fin 64) (rd ra : Reg5) (off : BitVec 16),
  let a := (wreg s t ra + off.signExtend 32).toNat % 65536
  let faults (c : Instr) (code : Nat) : Prop := ∃ s1, exec c s = .next s1 ∧ (s1.thrAt t.val).st = .fault ∧
    (s1.thrAt t.val).fault = code ∧ (s1.thrAt t.val).fltW = BitVec.ofNat 32 a ∧ (s1.thrAt t.val).pc = (s.thrAt t.val).pc ∧
    (s1.thrAt t.val).w = (s.thrAt t.val).w ∧ ∀ e, (s1.engAt e).tray = (s.engAt e).tray
  let all (i : EngIns) (c : Instr) (w : Nat) (wholeStore : Bool) : Prop := Issues s t i →
    (0x8000 ≤ a → faults c 2) ∧ (a < 0x8000 → a % w ≠ 0 → faults c 3) ∧
    (a < 0x8000 → a % w = 0 → wholeStore = false → 1 < sparseRead zeroNat (s.engAt (t.val / 4)).tecc (a / 4 * 4) → faults c 6)
  all (.trayLoad .w rd ra off) (.ldt t rd ra off) 4 false ∧ all (.trayLoad .h rd ra off) (.ldth t rd ra off) 2 false ∧
  all (.trayLoad .hu rd ra off) (.ldthu t rd ra off) 2 false ∧ all (.trayLoad .b rd ra off) (.ldtb t rd ra off) 1 false ∧
  all (.trayLoad .bu rd ra off) (.ldtbu t rd ra off) 1 false ∧ all (.trayStore .w rd ra off) (.stt t rd ra off) 4 true ∧
  all (.trayStore .h rd ra off) (.stth t rd ra off) 2 false ∧ all (.trayStore .b rd ra off) (.sttb t rd ra off) 1 false

/-- R39, R172, R173, R194, R195: a fabric load or store joins the thread's queue of accesses with its address, its size and, for a store,
its datum; nothing else of the thread but PC and count changes. FABRIC_ACCESS_COMPLETE performs the oldest access, if the banks or the
block that it needs are granted to it in the cc; if they are not, it waits. A load's register takes the datum, extended as named
(Table 5-9), a cap's pair the count and the tag, and a bus error faults the thread BUS (4) at its access; then the engine's stalled threads
try again. -/
def Obligations.EngineFabricAccess : Prop := ∀ (s : State) (t : Fin 64) (rd ra : Reg5) (off : BitVec 16),
  let a := wreg s t ra + off.signExtend 32
  let h0 := s.thrAt t.val
  let queued (i : EngIns) (x : FabAcc) : State := Sent (issuing s t) t i fun h => { h with fab := h.fab ++ [x] }
  let load (op : LoadOp) (z : Size) : FabAcc :=
    { kind := .load, op := op, rd := rd, addr := a, size := z, data := 0, fk := h0.fk, fs := h0.fs, ch := 0, pc := h0.pc }
  let store (z : Size) : FabAcc :=
    { kind := .store, op := .w, rd := 0, addr := a, size := z, data := wreg s t rd, fk := h0.fk, fs := h0.fs, ch := 0, pc := h0.pc }
  (Issues s t (.load .w rd ra off) → exec (.ld t rd ra off) s = .next (queued (.load .w rd ra off) (load .w .b4))) ∧
  (Issues s t (.load .h rd ra off) → exec (.ldh t rd ra off) s = .next (queued (.load .h rd ra off) (load .h .b2))) ∧
  (Issues s t (.load .hu rd ra off) → exec (.ldhu t rd ra off) s = .next (queued (.load .hu rd ra off) (load .hu .b2))) ∧
  (Issues s t (.load .b rd ra off) → exec (.ldb t rd ra off) s = .next (queued (.load .b rd ra off) (load .b .b1))) ∧
  (Issues s t (.load .bu rd ra off) → exec (.ldbu t rd ra off) s = .next (queued (.load .bu rd ra off) (load .bu .b1))) ∧
  (Issues s t (.store .w rd ra off) → exec (.st t rd ra off) s = .next (queued (.store .w rd ra off) (store .b4))) ∧
  (Issues s t (.store .h rd ra off) → exec (.sth t rd ra off) s = .next (queued (.store .h rd ra off) (store .b2))) ∧
  (Issues s t (.store .b rd ra off) → exec (.stb t rd ra off) s = .next (queued (.store .b rd ra off) (store .b1))) ∧
  (h0.fab = [] → exec (.fabricAccessComplete t) s = .next s) ∧
  (∀ q, threadReq s t = some q → granted s q = false → exec (.fabricAccessComplete t) s = .next (noteWait s q)) ∧
  (Grants s (threadReq s t) → ∀ x r, h0.fab = x :: r →
    let popped : State := (afterGrant s (threadReq s t)).modThr t.val fun h => { h with fab := r }
    let after' (s1 : State) : State := retryStalls (stepDone s1 t.val) (Fin.ofNat 16 (t.val / 4))
    (x.kind = .load → ∀ st w s1, busRead popped (.engine t) x.addr.toNat x.size = (st, w, s1) →
      (st ≠ .buserr → exec (.fabricAccessComplete t) s = .next (after' (s1.modThr t.val fun h => h.setW x.rd.val (match x.op with
        | .w => w
        | .h => (w.setWidth 16).signExtend 32
        | .hu => (w.setWidth 16).setWidth 32
        | .b => (w.setWidth 8).signExtend 32
        | .bu => (w.setWidth 8).setWidth 32)))) ∧
      (st = .buserr → (s1.thrAt t.val).st ≠ .fault → exec (.fabricAccessComplete t) s =
        .next (after' (thrFault (s1.modThr t.val fun h => { h with pc := x.pc }) t.val 4 x.addr)))) ∧
    (x.kind = .store → ∀ st s1, busWrite popped (.engine t) (if x.fs then some x.fk else none) x.addr.toNat x.size x.data = (st, s1) →
      (st ≠ .buserr → exec (.fabricAccessComplete t) s = .next (after' s1)) ∧
      (st = .buserr → (s1.thrAt t.val).st ≠ .fault → exec (.fabricAccessComplete t) s =
        .next (after' (thrFault (s1.modThr t.val fun h => { h with pc := x.pc }) t.val 4 x.addr)))) ∧
    (x.kind = .cap → ∀ v tag s1, capRead popped x.ch.val = (v, tag, s1) → exec (.fabricAccessComplete t) s =
      .next (after' ((s1.putShadow (.engine t) (Reg.CH_CAPX x.ch.val) tag).modThr t.val fun h =>
        { (h.setW x.rd.val v).setW (x.rd.val + 1) tag with c := tag.getLsbD 15 }))) ∧
    (x.kind = .snrel → exec (.fabricAccessComplete t) s = .next (after' (csReleaseOp popped))))

/-- R180, R186: a branch is taken when its condition holds (Table 5-6); every PC calculation wraps modulo 4,096; flags stay. COND 15
is no condition and faults ILLEGAL (R177). jal and jalr link PC + 1; jalr reads its target before it writes the link. -/
def Obligations.EngineFlow : Prop := ∀ (s : State) (t : Fin 64) (rd ra : Reg5) (cond : Fin 16) (off : BitVec 16) (tgt : BitVec 12),
  let h0 := s.thrAt t.val
  let link : Word := (h0.pc + 1).setWidth 32
  let went (f : Thr → Thr) (pc : BitVec 12) : State := (issuing s t).modThr t.val fun h => ({ f h with pc := pc } : Thr).stepOver s.tb
  let holds : Bool := match cond.val with
    | 0 => true | 1 => h0.z | 2 => !h0.z | 3 => xor h0.n h0.v | 4 => !(xor h0.n h0.v) | 5 => h0.z || xor h0.n h0.v
    | 6 => !h0.z && !(xor h0.n h0.v) | 7 => !h0.c | 8 => h0.c | 9 => !h0.c || h0.z | 10 => h0.c && !h0.z | 11 => h0.n
    | 12 => !h0.n | 13 => h0.v | _ => !h0.v
  (Issues s t (.bcond cond off) → cond.val < 15 → exec (.bCond t cond off) s =
    .next (went id (if holds then BitVec.ofInt 12 ((h0.pc.toNat : Int) + 1 + off.toInt) else h0.pc + 1))) ∧
  (Issues s t (.bcond cond off) → cond.val = 15 → ∃ s1, exec (.bCond t cond off) s = .next s1 ∧ (s1.thrAt t.val).st = .fault ∧
    (s1.thrAt t.val).fault = 1 ∧ (s1.thrAt t.val).pc = h0.pc) ∧
  (Issues s t (.jal rd tgt) → exec (.jal t rd tgt) s = .next (went (fun h => h.setW rd.val link) tgt)) ∧
  (Issues s t (.jalr rd ra) → exec (.jalr t rd ra) s =
    .next (went (fun h => h.setW rd.val link) (BitVec.ofNat 12 (wreg s t ra).toNat)))

/-- R168, R203: wait with an event of its mask at hand before this cc, or with mask 0, completes: wd takes the events at hand and the
popped wake value, and the latched ones clear, but for those that an event sets again in this cc. Without one the thread sleeps, and
THREAD_WAKE completes the wait when such an event is there, one of this cc included where no other is (log entry 86). At its issue the
watchdog restarts. THREAD_WAKE does nothing else. -/
def Obligations.EngineWait : Prop := ∀ (s : State) (t : Fin 64) (rd : Reg5) (mask : BitVec 16),
  let h0 := s.thrAt t.val
  let new : BitVec 16 × BitVec 16 := if h0.evpNew.1 = s.tb - s.tb % 2 then h0.evpNew.2 else (0, h0.evp)
  let all (k : BitVec 16) : Word := h0.evpAll &&& k.setWidth 32
  let before (k : BitVec 16) : Word := all k &&& ~~~((new.1 &&& ~~~new.2).setWidth 32)
  let hit (k : BitVec 16) : Word := if before k = 0 then all k else before k
  let again (k : BitVec 16) : BitVec 16 := if before k = 0 then 0 else new.1
  let wake (k : BitVec 16) : Bool := (hit k).getLsbD 8
  let woken (rd : Reg5) (k : BitVec 16) (h : Thr) : Thr :=
    ({ h with wq := if wake k then h.wq.tail else h.wq, evp := (h.evp &&& ~~~((hit k).setWidth 16 &&& 0x76FF)) ||| again k } : Thr).setW
      rd.val (match h0.wq with | v :: _ => if wake k then hit k ||| (v ++ (0 : BitVec 16)) else hit k | [] => hit k)
  (Issues s t (.wait rd mask) → mask = 0 ∨ before mask ≠ 0 →
    exec (.wait t rd mask) s = .next (Took s t fun h => woken rd mask { h with wdCount := 0, wdTb := s.tb })) ∧
  (Issues s t (.wait rd mask) → mask ≠ 0 → before mask = 0 →
    exec (.wait t rd mask) s = .next ((issuing s t).modThr t.val fun h =>
      { h with st := .sleep, stall := .none, wait := some (rd, mask), wdCount := 0, wdTb := s.tb })) ∧
  (∀ r k, h0.st = .sleep → h0.wait = some (r, k) → all k ≠ 0 →
    exec (.threadWake t) s =
      .next (s.modThr t.val fun h => ({ (woken r k h).stepOver s.tb with wait := none, pc := h.pc + 1 } : Thr))) ∧
  (∀ r k, h0.st = .sleep → h0.wait = some (r, k) → all k = 0 → exec (.threadWake t) s = .next s) ∧
  (h0.st ≠ .sleep ∨ h0.wait = none → exec (.threadWake t) s = .next s)

/-- R170: send puts a word into the message queue of the thread that wb names, with 0 in wd and C = 0, or, where that queue holds 8 and
no recv takes one in this cc, 1 in wd and C = 1; a write of ENLn_TMSGt does the same from outside. recv takes the oldest word, or 0 with
C = 1 from an empty queue. -/
def Obligations.EngineMessages : Prop := ∀ (s : State) (t u : Fin 64) (rd ra rb : Reg5) (m : Master) (w : Word),
  let gets (s : State) (u : Fin 64) (w : Word) : State :=
    s.modThr u.val fun g => { g with mq := g.mq ++ [w], mqNew := noteNew (s.tb - s.tb % 2) g.mqNew }
  let room (s : State) (u : Fin 64) : Prop := (s.thrAt u.val).mq.length < if popsNow s u.val then 9 else 8
  (Issues s t (.send rd ra rb) → (wreg s t rb).toNat = u.val → room (issuing s t) u →
    exec (.send t rd ra rb) s = .next (Ended (gets (issuing s t) u (wreg s t ra)) t fun h => { h.setW rd.val 0 with c := false })) ∧
  (Issues s t (.send rd ra rb) → (wreg s t rb).toNat = u.val → ¬room (issuing s t) u →
    exec (.send t rd ra rb) s = .next (Took s t fun h => { h.setW rd.val 1 with c := true })) ∧
  (Issues s t (.recv rd) → ∀ x r, (s.thrAt t.val).mq = x :: r →
    exec (.recv t rd) s = .next (Took s t fun h => { ({ h with mq := r } : Thr).setW rd.val x with c := false })) ∧
  (Issues s t (.recv rd) → (s.thrAt t.val).mq = [] →
    exec (.recv t rd) s = .next (Took s t fun h => { h.setW rd.val 0 with c := true })) ∧
  (reachesRegs m = true → room s t → exec (.tmsgWrite m t w) s = .next (answered .ok 0 (gets s t w))) ∧
  (reachesRegs m = true → ¬room s t → ∃ s1, exec (.tmsgWrite m t w) s = .next s1 ∧ s1.eng = s.eng ∧
    s1.rb (Reg.ENL_TSTAT (t.val / 4) (t.val % 4)) 15 = true)

/-- R199, R196: mfs and mts on the special registers of Table 5-12. Reading TB_LO brings TB at the core edge of the issue and latches
TB_HI; ICNT counts the mfs itself. A selector that is not listed, and an mts to a read-only register, fault ILLEGAL (1) with the
instruction word. fixsel sets k and s. -/
def Obligations.EngineSpecial : Prop := ∀ (s : State) (t : Fin 64) (rd ra : Reg5) (k : Fin 4) (st : Bool) (sel : Fin 16),
  let h0 := s.thrAt t.val
  let bit (b : Bool) (i : Nat) : Word := if b then 1#32 <<< i else 0
  let reads (sel : Fin 16) (f : Thr → Thr) (v : Word) : Prop := Issues s t (.mfs rd sel) →
    exec (.mfs t rd sel) s = .next (Took s t fun h => (f h).setW rd.val v)
  let v := wreg s t ra
  let edge := s.tb - s.tb % 2
  let illegal (c : Instr) (i : EngIns) : Prop := Issues s t i → ∃ s1, exec c s = .next s1 ∧ (s1.thrAt t.val).st = .fault ∧
    (s1.thrAt t.val).fault = 1 ∧ (s1.thrAt t.val).fltW = engEncode i ∧ (s1.thrAt t.val).pc = h0.pc ∧ (s1.thrAt t.val).w = h0.w
  (8 ≤ sel.val → illegal (.mfs t rd sel) (.mfs rd sel)) ∧
  (sel ≠ 0 → sel ≠ 5 → illegal (.mts t sel ra) (.mts sel ra)) ∧
  reads 0 id (bit h0.z 0 ||| bit h0.n 1 ||| bit h0.c 2 ||| bit h0.v 3) ∧
  reads 1 id (BitVec.ofNat 32 t.val) ∧
  reads 2 (fun h => { h with tbHi := BitVec.ofNat 32 (edge / 2 ^ 32) }) (BitVec.ofNat 32 edge) ∧
  reads 3 id h0.tbHi ∧
  reads 4 id (h0.evp.setWidth 32 ||| bit (!h0.wq.isEmpty) 8 ||| bit (!h0.mq.isEmpty) 11) ∧
  reads 5 id (BitVec.ofNat 32 h0.fk.val ||| bit h0.fs 4) ∧
  reads 6 id (h0.icnt + 1) ∧
  reads 7 id (BitVec.ofNat 32 h0.wq.length ||| BitVec.ofNat 32 (h0.mq.length * 2 ^ 8)) ∧
  (Issues s t (.mts 0 ra) → exec (.mts t 0 ra) s = .next (Took s t fun h =>
    { h with z := v.getLsbD 0, n := v.getLsbD 1, c := v.getLsbD 2, v := v.getLsbD 3 })) ∧
  (Issues s t (.mts 5 ra) → exec (.mts t 5 ra) s = .next (Took s t fun h =>
    { h with fk := Fin.ofNat 4 v.toNat, fs := v.getLsbD 4 })) ∧
  (Issues s t (.fixsel k st) → exec (.fixsel t k st) s = .next (Took s t fun h => { h with fk := k, fs := st }))

/-- R190–R194: pos, spkr, p2t, t2p and pdist issue with the operands they have then, and their result is taken 4 tb after the core edge of
the issue, as the unit stands there: pos, spkr and pdist with the flags that the rules name; p2t and t2p as a pair with C = 0, or, where
the unit has no valid position or prediction, 0 and 0 with C = 1; then t2p clears V, and what the rules do not say of the other flags is
free. pdist of a distance of K teeth or more is 0 with C = 1. cap joins the thread's queue of accesses. -/
def Obligations.EnginePosition : Prop := (∀ (s : State) (t : Fin 64) (rd ra rb : Reg5) (n : Unit3) (sel : Fin 16) (ch : Fin 128),
  let h0 := s.thrAt t.val
  let next4 := s.tb - s.tb % 2 + 4 - s.tb
  let asks (c : Instr) (i : EngIns) (a b : Word) : Prop := Issues s t i → exec c s =
    .next (Sent ((issuing s t).after next4 (.unitRes t.val)) t i fun h => { h with out := h.out ++ [(i, a, b)] })
  let capAcc : FabAcc :=
    { kind := .cap, op := .w, rd := rd, addr := BitVec.ofNat 32 (Reg.CH_CAP ch.val), size := .b4, data := 0, fk := h0.fk, fs := h0.fs,
      ch := ch, pc := h0.pc }
  let pairDst' : Prop := 1 ≤ rd.val ∧ rd.val ≤ 30
  let y := h0.getW (ra.val + 1)
  (pairDst' → asks (.pos t rd n) (.pos rd n) 0 0) ∧
  (sel.val ≤ 5 → asks (.spkr t rd n sel) (.spkr rd n sel) 0 0) ∧
  (pairDst' → ra.val ≤ 30 → asks (.p2t t rd ra n) (.p2t rd ra n) (wreg s t ra) y ∧ asks (.t2p t rd ra n) (.t2p rd ra n) (wreg s t ra) y) ∧
  asks (.pdist t rd ra rb n) (.pdist rd ra rb n) (wreg s t ra) (wreg s t rb) ∧
  (pairDst' → Issues s t (.cap rd ch) → exec (.cap t rd ch) s =
    .next (Sent (issuing s t) t (.cap rd ch) fun h => { h with fab := h.fab ++ [capAcc] }))) ∧
  (∀ (s : State) (t : Fin 64) (rd ra rb : Reg5) (n : Unit3) (sel : Fin 16) (a b : Word) (r : List (EngIns × Word × Word)),
  let u := s.spkAt n.val
  let p := spkPosNow s n.val
  let oldest (i : EngIns) : State := s.modThr t.val fun h => { h with out := (i, a, b) :: r }
  let gives (s : State) (f : Thr → Thr) : State := stepDone (s.modThr t.val fun h => { f h with out := r }) t.val
  let flagged (v : Word) (h : Thr) : Thr := { h with z := v == 0, n := u.dirRev, c := !u.st.valid, v := !u.tValid }
  let pair (a b : Word) (h : Thr) : Thr := (h.setW rd.val a).setW (rd.val + 1) b
  let quantity : Word := match sel.val with
    | 0 => spkStateWord s n.val
    | 1 => spkTpredWord s n.val
    | 2 => BitVec.ofNat 32 (u.vis.stamp / 16)
    | 3 => BitVec.ofNat 32 (u.vis.stamp % 16)
    | 4 => BitVec.ofNat 32 u.vis.phys
    | _ => s.reg (Reg.SPK_CYCLE n.val)
  let k := max 1 ((s.reg (Reg.SPK_CYCLE n.val)).toNat % 2 ^ 16)
  let far : Bool := decide (k ≤ a.toNat / 65536) || decide (k ≤ b.toNat / 65536)
  let d : Word := if far then 0 else BitVec.ofInt 32 (phaseErr k a b)
  let out (i : EngIns) (x : State) : Prop := applyDue (oldest i) (.unitRes t.val) = x
  out (.pos rd n) (gives s fun h => flagged p.1 (pair p.1 p.2 h)) ∧
  out (.spkr rd n sel) (gives s fun h => flagged quantity (h.setW rd.val quantity)) ∧
  out (.pdist rd ra rb n) (gives s fun h => { h.setW rd.val d with z := d == 0, n := d.msb, c := far, v := false }) ∧
  (∀ lo fr z ng v, p2tValue s n.val a b = some (lo, fr, z, ng, v) →
    out (.p2t rd ra n) (gives s fun h => { pair lo fr h with z := z, n := ng, c := false, v := v })) ∧
  (∀ x c, t2pValue s n.val a b = some (x, c) →
    out (.t2p rd ra n) (gives s fun h => { pair x c h with z := x == 0, n := u.dirRev, c := false, v := false })) ∧
  (u.st.valid = true → u.tValid = true → (p2tValue s n.val a b).isSome = true) ∧
  (u.st.valid = false ∨ u.tValid = false → ∃ z ng v,
    out (.p2t rd ra n) (gives { s with free := s.free + 3 } fun h => { pair 0 0 h with z := z, n := ng, c := true, v := v })) ∧
  (u.st.valid = false ∨ u.tValid = false → ∃ z ng,
    out (.t2p rd ra n) (gives { s with free := s.free + 2 } fun h => { pair 0 0 h with z := z, n := ng, c := true, v := false })))

/-- R29, R174, R188, R195, R197, R198, R200: carm and ccan put a request to the calendar and wait for its result; snap takes the contact
sheet, if no thread of the cc stands before it, and snrel joins the thread's accesses; fixarm writes and arms a fix channel; rec raises a
record on the thread's source; fence completes once nothing is outstanding; halt stops the thread and raises nothing. -/
def Obligations.EngineRequests : Prop := ∀ (s : State) (t : Fin 64) (rd ra : Reg5) (mode k kind : Fin 4) (u : Unit3) (rk : Fin 64),
  let h0 := s.thrAt t.val
  let g (j : Nat) : Word := h0.getW (ra.val + j)
  let s0 := issuing s t
  let edge := s.tb - s.tb % 2
  let asks (cancel : Bool) (q : CalReq) : State :=
    calAsk (s0.modThr t.val fun h => { h with st := .stall, stall := .calendar rd cancel, wdCount := h.wdNow s.tb, wdTb := s.tb }) q
  let release : FabAcc :=
    { kind := .snrel, op := .w, rd := 0, addr := BitVec.ofNat 32 Reg.CS_CTL, size := .b4, data := 0, fk := h0.fk, fs := h0.fs, ch := 0,
      pc := h0.pc }
  let take := csRequest s0 (.engine t) (some (t, rd)) mode.val k.val ((g 0).toNat + (g 1).toNat * 2 ^ 32)
  let set := (((s0.setReg (Reg.FIX_POINT_LO k.val) (g 0)).setReg (Reg.FIX_POINT_HI k.val) (g 1)).setRf (Reg.FIX_CTL k.val) 5 4
    kind.val).setRf (Reg.FIX_CTL k.val) 10 8 u.val
  (Issues s t (.carm rd ra) → ra.val ≤ 27 → exec (.carm t rd ra) s =
    .next (asks false { who := .thread t, cancel := false, d0 := g 0, d1 := g 1, d2 := g 2, d3 := g 3, d4 := g 4, tb := edge })) ∧
  (Issues s t (.ccan rd ra) → exec (.ccan t rd ra) s =
    .next (asks true { who := .thread t, cancel := true, d0 := g 0, d1 := 0, d2 := 0, d3 := 0, d4 := 0, tb := edge })) ∧
  (Issues s t (.snap rd ra mode k) → mode.val ≤ 2 → ra.val ≤ 30 → exec (.snap t rd ra mode k) s =
    .next (Ended take.2 t fun h => { h.setW rd.val (if take.1 then BitVec.ofNat 32 ((s.sheet.seq + 1) % 256 * 2 ^ 8 + 1) else 0) with
      c := !take.1 })) ∧
  (Issues s t .snrel → exec (.snrel t) s = .next (Sent s0 t .snrel fun h => { h with fab := h.fab ++ [release] })) ∧
  (Issues s t (.fixarm rd ra k kind u) → ra.val ≤ 30 → exec (.fixarm t rd ra k kind u) s =
    .next (Ended (fixArmOp set k.val) t fun h =>
      { h.setW rd.val (fixStat (fixArmOp set k.val) k.val) with c := fixArmRefused set k.val })) ∧
  (Issues s t (.record ra rk) → 8 ≤ rk.val → exec (.engRec t ra rk) s =
    .next (Ended (s0.raise0 (176 + t.val) rk.val (.word (wreg s t ra))) t id)) ∧
  (Issues s t .fence → exec (.fence t) s = .next (Took s t id)) ∧
  (Issues s t .halt → s.safe.rundown = none → exec (.halt t) s = .next (s0.modThr t.val fun h =>
    { h with st := .stopped, stall := .none, stopPend := false, stepping := false, pc := h.pc + 1,
             wdCount := h.wdNow s.tb, wdTb := s.tb })) ∧
  (Issues s t .halt → ∃ s1, exec (.halt t) s = .next s1 ∧ (s1.thrAt t.val).st = .stopped ∧ (s1.thrAt t.val).pc = h0.pc + 1)

/-- R162, R170, R187, R188, R190, R195, R197, R198, R201: operands that an instruction does not admit fault ILLEGAL (1) with the
instruction word, and a word that cannot be corrected faults IECC (5) with its address; the registers and every other thread stay as they
are. -/
def Obligations.EngineIllegalOperands : Prop := ∀ (s : State) (t : Fin 64) (rd ra rb : Reg5) (n : Unit3) (sel : Fin 16) (ch : Fin 128)
    (mode k kind : Fin 4) (rk : Fin 64),
  let faults (c : Instr) (code : Nat) (d : Word) : Prop := ∃ s1, exec c s = .next s1 ∧ (s1.thrAt t.val).st = .fault ∧
    (s1.thrAt t.val).fault = code ∧ (s1.thrAt t.val).fltW = d ∧ (s1.thrAt t.val).pc = (s.thrAt t.val).pc ∧
    (s1.thrAt t.val).w = (s.thrAt t.val).w ∧ ∀ j : Fin 64, j ≠ t → s1.thrAt j.val = s.thrAt j.val
  let illegal (c : Instr) (i : EngIns) : Prop := Issues s t i → faults c 1 (engEncode i)
  let oddPair : Prop := rd = 0 ∨ rd = 31
  (oddPair → illegal (.pos t rd n) (.pos rd n)) ∧
  (oddPair → illegal (.cap t rd ch) (.cap rd ch)) ∧
  (oddPair ∨ ra = 31 → illegal (.p2t t rd ra n) (.p2t rd ra n)) ∧
  (oddPair ∨ ra = 31 → illegal (.t2p t rd ra n) (.t2p rd ra n)) ∧
  (6 ≤ sel.val → illegal (.spkr t rd n sel) (.spkr rd n sel)) ∧
  (28 ≤ ra.val → illegal (.carm t rd ra) (.carm rd ra)) ∧
  (mode = 3 ∨ ra = 31 → illegal (.snap t rd ra mode k) (.snap rd ra mode k)) ∧
  (ra = 31 → illegal (.fixarm t rd ra k kind n) (.fixarm rd ra k kind n)) ∧
  (64 ≤ (wreg s t rb).toNat → illegal (.send t rd ra rb) (.send rd ra rb)) ∧
  (rk.val < 8 → illegal (.engRec t ra rk) (.record ra rk)) ∧
  (enlOn s (t.val / 4) = true → (s.thrAt t.val).st = .ready → (s.thrAt t.val).stepOut = none → chosen s t.val = true →
    atBreak s t.val = false → loadHazard (s.thrAt t.val) .halt = false →
    (iramFetch s (t.val / 4) (s.thrAt t.val).pc.toNat).1 = none → faults (.halt t) 5 ((s.thrAt t.val).pc.setWidth 32))

/-- R164, R167, R205, R207: the commands of ENLn_TCTLt. Each keeps the thread's configuration, whoever writes it. START runs a thread
that is STOPPED, in DEBUG, or in FAULT, whose fault it clears; with the engine's EN at 0 it sets CMD_DISC. STOP stops a thread that is
READY, asleep or in DEBUG, and a stalled one when its instruction completes. CLR_EV clears latched events and both queues, but for what
this cc has brought. DBELL reaches EVP bit 13 at the next core edge. STEP in DEBUG makes the thread READY for one instruction, which
it issues at TPC as soon as it is eligible and chosen, and does nothing elsewhere. R203, R204, R201: a thread chosen to issue at its enabled
breakpoint enters DEBUG with a record of kind 4; a thread that has spent WDOG × 10,000 tb or more in READY or STALL since its last wait
faults WDOG (7) with its PC as the detail; otherwise neither row does anything. -/
def Obligations.ThreadCommands : Prop := (∀ (s : State) (m : Master) (t : Fin 64),
  let e := t.val / 4
  let ctl := Reg.ENL_TCTL e (t.val % 4)
  let kept := (s.setReg ctl (s.reg ctl &&& 0xFF010120)).modThr t.val fun h =>
    { h with wdCount := h.wdNow s.tb, wdTb := s.tb, wdOn := decide ((s.reg ctl).toNat / 2 ^ 24 ≠ 0) }
  let h0 := s.thrAt t.val
  let st := h0.st
  let does (c : Instr) (f : Thr → Thr) : Prop := exec c s = .next (answered .ok 0 (kept.modThr t.val f))
  let edge := s.tb - s.tb % 2
  let stepped : State := kept.modThr t.val fun h => { h with st := .ready, stepping := true }
  reachesRegs m = true →
  (enlOn s e = true →
    (st = .stopped ∨ st = .debug → does (.threadStart m t) fun h => { h with st := .ready }) ∧
    (st = .fault → does (.threadStart m t) fun h => { h with st := .ready, fault := 0, fltW := 0 }) ∧
    (st = .ready ∨ st = .sleep ∨ st = .stall → does (.threadStart m t) id)) ∧
  (enlOn s e = false → exec (.threadStart m t) s = .next (answered .ok 0 (kept.hwSetBit (Reg.ENL_STAT e) 2)) ∧
    exec (.step m t) s = .next (answered .ok 0 (kept.hwSetBit (Reg.ENL_STAT e) 2))) ∧
  (st = .ready → does (.threadStop m t) fun h => { h with st := .stopped, stepping := false, stepOut := none }) ∧
  (st = .sleep → does (.threadStop m t) fun h => { h with st := .stopped, wait := none, stepping := false }) ∧
  (st = .debug → does (.threadStop m t) fun h => { h with st := .stopped }) ∧
  (st = .stall → does (.threadStop m t) fun h => { h with stopPend := true }) ∧
  (st = .stopped ∨ st = .fault → does (.threadStop m t) id) ∧
  does (.clrEv m t) (fun h =>
    { h with evp := if h.evpNew.1 = edge then h.evpNew.2.1 else 0, wq := keepNew edge h.wq h.wqNew, mq := keepNew edge h.mq h.mqNew }) ∧
  exec (.dbell m t) s = .next (answered .ok 0 (kept.after (s.tb - s.tb % 2 + 2 - s.tb) (.evp t.val 13))) ∧
  (enlOn s e = true → st ≠ .debug → does (.step m t) id) ∧
  (enlOn s e = true → st = .debug → nextEligible stepped t.val = false ∨ chosen stepped t.val = false →
    exec (.step m t) s = .next (answered .ok 0 stepped)) ∧
  (enlOn s e = true → st = .debug → nextEligible stepped t.val = true → chosen stepped t.val = true →
    ∀ w, (iramFetch stepped e h0.pc.toNat).1 = some w →
      (∀ i, engDecode w = some i → exec (.step m t) s = .next (answered .ok 0 (engAttempt (trayUse (issuing stepped t) e i) t i))) ∧
      (engDecode w = none → exec (.step m t) s = .next (answered .ok 0 (thrFault (issuing stepped t) t.val 1 w))))) ∧
  (∀ (s : State) (t : Fin 64),
  let h0 := s.thrAt t.val
  let ctl := s.reg (Reg.ENL_TCTL (t.val / 4) (t.val % 4))
  let here : Prop := nextEligible s t.val = true ∧ chosen s t.val = true ∧ ctl.getLsbD 5 = true ∧ h0.stepping = false ∧
    (s.reg (Reg.ENL_TBKPT (t.val / 4) (t.val % 4))).setWidth 12 = h0.pc
  let limit := ctl.toNat / 2 ^ 24 * 10000
  let spent := if h0.wdOn then h0.wdCount + (s.tb - h0.wdTb) else h0.wdCount
  let late : Prop := limit ≠ 0 ∧ (h0.st = .ready ∨ h0.st = .stall) ∧ limit ≤ spent
  (here → exec (.breakpoint t) s = .next ((s.modThr t.val fun h =>
    { h with st := .debug, wdCount := h.wdNow s.tb, wdTb := s.tb }).raise0 (176 + t.val) 4 (.word (h0.pc.setWidth 32)))) ∧
  (¬here → exec (.breakpoint t) s = .next s) ∧
  (late → ∃ s1, exec (.threadWatchdog t) s = .next s1 ∧ (s1.thrAt t.val).st = .fault ∧ (s1.thrAt t.val).fault = 7 ∧
    (s1.thrAt t.val).fltW = h0.pc.setWidth 32 ∧ (s1.thrAt t.val).pc = h0.pc ∧ (s1.thrAt t.val).w = h0.w ∧
    ∀ j : Fin 64, j ≠ t → s1.thrAt j.val = s.thrAt j.val) ∧
  (¬late → exec (.threadWatchdog t) s = .next s))

/-- R206, R207, R162: work registers and TPC take a write in STOPPED, FAULT or DEBUG, and set WR_DISC in the other states; CLR_ECC
clears the count of corrected errors; clearing EN, while no run-down runs, stops every thread of the engine that is not in FAULT or
STALL, and a stalled one once its instruction completes. -/
def Obligations.EngineControl : Prop := ∀ (s : State) (m : Master) (t : Fin 64) (r : Reg5) (e : Fin 16) (w : Word),
  let h0 := s.thrAt t.val
  let open' : Prop := h0.st = .stopped ∨ h0.st = .fault ∨ h0.st = .debug
  let refused := answered .ok 0 (s.hwSetBit (Reg.ENL_TSTAT (t.val / 4) (t.val % 4)) 13)
  reachesRegs m = true →
  (open' → exec (.workRegisterWrite m t (some r) w) s = .next (answered .ok 0 (s.modThr t.val fun h => h.setW r.val w))) ∧
  (open' → exec (.workRegisterWrite m t none w) s = .next (answered .ok 0 (s.modThr t.val fun h => { h with pc := w.setWidth 12 }))) ∧
  (¬open' → exec (.workRegisterWrite m t (some r) w) s = .next refused ∧ exec (.workRegisterWrite m t none w) s = .next refused) ∧
  (∃ s1, exec (.clrEcc m e) s = .next s1 ∧ s1.rf (Reg.ENL_STAT e.val) 31 16 = 0 ∧ s1.eng = s.eng) ∧
  (∃ s1, exec (.engineDisable m e w) s = .next s1 ∧ s1.rb (Reg.ENL_CTL e.val) 0 = false) ∧
  (s.rb (Reg.ENL_CTL e.val) 0 = true → s.safe.rundown = none →
    ∃ s1, exec (.engineDisable m e w) s = .next s1 ∧ s1.rb (Reg.ENL_CTL e.val) 0 = false ∧
      ∀ j : Fin 4, let a := s.thrAt (4 * e.val + j.val); let b := s1.thrAt (4 * e.val + j.val)
        (a.st = .ready ∨ a.st = .sleep ∨ a.st = .debug → b.st = .stopped) ∧ (a.st = .stall → b.st = .stall ∧ b.stopPend = true) ∧
        (a.st = .fault → b = a) ∧ (a.st = .stopped → b = a) ∧ b.w = a.w ∧ b.pc = a.pc)

/-- R175, R162: the memory window of an engine. With MEM at 1 it reads and writes the tray, with MEM at 0 the instruction memory of
pages 0 to 7; another page, and a word that cannot be corrected, read 0 and set WIN_ERR. An instruction word is written when no thread of
the engine is READY, SLEEP or STALL or the address lies at or above WOPEN, else IRAM_LOCKED sets and nothing is written. A write makes the
word's check bits good; a fetch of the same cc still brings the old word. An access that its register block or the tray does not serve in
this cc waits: a thread of the engine has the tray first (R176). -/
def Obligations.EngineWindow : Prop := ∀ (s : State) (m : Master) (e : Fin 16) (off : Fin 512) (w : Word),
  let win := s.reg (Reg.ENL_WIN e.val)
  let page := win.toNat / 16 % 16
  let ia := page * 512 + off.val
  let ta := page * 2048 + 4 * off.val
  let runs (j : Fin 4) : Prop := (s.thrAt (4 * e.val + j.val)).st = .ready ∨ (s.thrAt (4 * e.val + j.val)).st = .sleep ∨
    (s.thrAt (4 * e.val + j.val)).st = .stall
  let open' : Prop := (∀ j, ¬runs j) ∨ (s.reg (Reg.ENL_CTL e.val)).toNat / 2 ^ 16 % 2 ^ 13 ≤ ia
  let qr := busReq s m (windowAddr e off) .b4 none
  let qw := busReq s m (windowAddr e off) .b4 (some w)
  let gr := afterGrant s qr
  let gw := afterGrant s qw
  let err (c : Instr) (g : State) : Prop := exec c s = .next (answered .ok 0 (g.hwSetBit (Reg.ENL_STAT e.val) 1))
  (∀ r, qr = some r → granted s r = false → exec (.windowAccess m e off none) s = .next (afterWait s qr)) ∧
  (∀ r, qw = some r → granted s r = false → exec (.windowAccess m e off (some w)) s = .next (afterWait s qw)) ∧
  (win.getLsbD 0 = true → trayWanted s e.val = true → reachesRegs m = true → exec (.windowAccess m e off none) s = .next (afterWait s qr)) ∧
  (reachesRegs m = true → Grants s qr →
  (win.getLsbD 0 = true →
    (∀ s1, trayCheck gr e.val ta = some s1 → exec (.windowAccess m e off none) s =
      .next (answered .ok (memWord (s1.engAt e.val).tray ta) s1)) ∧
    (trayCheck gr e.val ta = none → err (.windowAccess m e off none) gr)) ∧
  (win.getLsbD 0 = false → page < 8 →
    (sparseRead zeroNat (s.engAt e.val).iecc ia = 0 →
      exec (.windowAccess m e off none) s = .next (answered .ok (wordAt (s.engAt e.val).iram ia) gr)) ∧
    (∀ x s1, iramRead gr e.val ia = (some x, s1) → exec (.windowAccess m e off none) s = .next (answered .ok x s1)) ∧
    (1 < sparseRead zeroNat (s.engAt e.val).iecc ia → err (.windowAccess m e off none) gr)) ∧
  (win.getLsbD 0 = false → 8 ≤ page → err (.windowAccess m e off none) gr)) ∧
  (reachesRegs m = true → Grants s qw →
  (win.getLsbD 0 = true → exec (.windowAccess m e off (some w)) s = .next (answered .ok 0 (gw.modEng e.val fun g =>
    { g with tray := setMemWord g.tray ta w, tecc := sparseWrite zeroNat g.tecc ta 0 }))) ∧
  (win.getLsbD 0 = false → page < 8 →
    (open' → exec (.windowAccess m e off (some w)) s = .next (answered .ok 0 ((noteOld gw e.val ia).modEng e.val fun g =>
      { g with iram := setWordAt g.iram ia w, iecc := sparseWrite zeroNat g.iecc ia 0 }))) ∧
    (¬open' → exec (.windowAccess m e off (some w)) s = .next (answered .ok 0 (gw.hwSetBit (Reg.ENL_STAT e.val) 0)))) ∧
  (win.getLsbD 0 = false → 8 ≤ page → err (.windowAccess m e off (some w)) gw))


/-- Tables 5-4 to 5-10: the word of every well-formed engine instruction, with every operand at every value that its field admits,
decodes to that instruction. -/
def Obligations.EngineCodeRoundTrip : Prop := ∀ i : EngIns, engInsWf i = true → engDecode (engEncode i) = some i

/-- R177, R182, R184: instruction words written out from Tables 5-4 to 5-10 decode as they stand for; unassigned codes and reserved
fields that are not 0 decode to nothing. -/
def Obligations.EngineWords : Prop := engDecode 0x04221800 = some (.alu .add 1 2 3) ∧ engDecode 0x07E0F812 = some (.alu .mulhu 31 0 31) ∧
  engDecode 0x04221814 = some (.divide .div 1 2 3) ∧ engDecode 0x0822FFFF = some (.imm .addi 1 2 0xFFFF) ∧
  engDecode 0x0C021234 = some (.imm .cmpi 0 2 0x1234) ∧ engDecode 0x1C201234 = some (.imm .lui 1 0 0x1234) ∧
  engDecode 0x2022005F = some (.shift .srai 1 2 31) ∧ engDecode 0x40220004 = some (.trayLoad .w 1 2 4) ∧
  engDecode 0x7C220004 = some (.store .b 1 2 4) ∧ engDecode 0x8080FFFE = some (.bcond 2 0xFFFE) ∧
  engDecode 0x84200FFF = some (.jal 1 0xFFF) ∧ engDecode 0xA0200100 = some (.wait 1 0x100) ∧
  engDecode 0xB0200056 = some (.spkr 1 6 5) ∧ engDecode 0xB0200058 = none ∧ engDecode 0xEC000000 = some .halt ∧
  engDecode 0x00000000 = none ∧ engDecode 0x0400000E = none ∧ engDecode 0x0C220000 = none ∧ engDecode 0xEC000001 = none

/-- R49, R65, R84, R85: enabling a sprocket unit. A write of EN that R85 refuses leaves EN at 0, and the unit as it was, and sets
CFG_ERR with its record. Without a reference the unit enters SYNCED at SPKn_PRESET; with one, and no quick start asked for, it enters
ACQUIRE. Disabling moves it to OFF without T_VALID. While EN is 1 a write of EN = 1 that changes no locked field lands in the live ones.
No other unit changes. -/
def Obligations.SprocketEnable : Prop := ∀ (s : State) (m : Master) (n : Unit3) (w : Word),
  let ctl := Reg.SPK_CTL n.val
  let c := (w &&& 0x1FCD) ||| 1
  let teeth := s.rf (Reg.SPK_WHEEL n.val) 15 0
  let g := s.rf (Reg.SPK_WHEEL n.val) 18 16
  let org := s.rf (Reg.SPK_CYCLE n.val) 31 16
  let lo := s.rf (Reg.SPK_GAPWIN n.val) 7 0
  let ref := w.toNat / 64 % 4
  let illegal : Prop := teeth = 0 ∨ s.rf (Reg.SPK_CYCLE n.val) 15 0 = 0 ∨ teeth ≤ org ∨ w.toNat / 512 % 4 = 3 ∨ ref = 3 ∨
    (ref = 1 ∧ (g = 0 ∨ teeth < g + 3 ∨ lo < 0x19 ∨ s.rf (Reg.SPK_GAPWIN n.val) 23 16 ≤ lo))
  let others (t : State) : Prop := (∀ j : Unit3, j ≠ n → t.spkAt j.val = s.spkAt j.val) ∧ t.tb = s.tb ∧ t.keep = s.keep
  reachesRegs m = true →
  (s.rb ctl 0 = false → illegal → exec (.spkEnable m n w) s = .next (answered .ok 0
    (((s.setReg ctl (c &&& ~~~1)).hwSetBit (Reg.SPK_EVT n.val) 12).raise0 (146 + 4 * n.val) 1 (.reg (Reg.SPK_EVT n.val) 0xFFFF)))) ∧
  (s.rb ctl 0 = false → ¬illegal → ref = 0 → ∃ t, exec (.spkEnable m n w) s = .next t ∧ others t ∧ (t.spkAt n.val).st = .synced ∧
    (t.spkAt n.val).pos = s.reg (Reg.SPK_PRESET n.val) ∧ (t.spkAt n.val).cyc = s.reg (Reg.SPK_CYC_INIT n.val) ∧
    (t.spkAt n.val).phys = (s.rf (Reg.SPK_PRESET n.val) 31 16 + org) % teeth ∧ (t.spkAt n.val).tValid = false ∧
    (t.spkAt n.val).dirRev = false ∧ (t.spkAt n.val).fwd = 0 ∧ (t.spkAt n.val).shown = ((t.spkAt n.val).pos, (t.spkAt n.val).cyc)) ∧
  (s.rb ctl 0 = false → ¬illegal → ref ≠ 0 → w.getLsbD 11 = false → ∃ t, exec (.spkEnable m n w) s = .next t ∧ others t ∧
    (t.spkAt n.val).st = .acquire ∧ (t.spkAt n.val).tValid = false ∧ (t.spkAt n.val).pos = (s.spkAt n.val).pos) ∧
  (s.rb ctl 0 = true → (c ^^^ s.reg ctl) &&& 0xFFFFE1FE = 0 → w.toNat / 512 % 4 ≠ 3 →
    exec (.spkEnable m n w) s = .next (answered .ok 0 (s.setReg ctl c))) ∧
  (s.rb ctl 0 = true → ∃ t, exec (.spkDisable m n w) s = .next t ∧ others t ∧ (t.spkAt n.val).st = .off ∧
    ((s.spkAt n.val).st ≠ .off → (t.spkAt n.val).tValid = false ∧ (t.spkAt n.val).pos = (s.spkAt n.val).pos)) ∧
  (s.rb ctl 0 = false → exec (.spkDisable m n w) s = .next (answered .ok 0 (s.setReg ctl (w &&& 0x1FCC))))

/-- R43, R44, R45, R48, R49, R53, R56, R61, R63, R70, R72, R75: an edge at F + 4, when the glitch filter accepts it; at any other tb, or
not held, or after a level that was not accepted, it changes nothing. An edge stamped from the deadline of a missed tooth on, in the tb of
the declaration, comes after it. In OFF it changes the level alone; in mode TOOTH an A edge of the other polarity is no tooth, and a B edge
only a level. Within 50 ns, or the window of the fields in effect, of the last tooth it is noise: NOISE counts and sets, and the estimate
and the position stay. Else, in SYNCED with no reference, it is a tooth: position, PHYS, stamp and forward count advance, from the second
measured interval on the estimate follows R53, and it is published 6 tb later and reaches the calendar 8 tb later. In mode TOOTH_DIR a
tooth of the other direction is a reversal: T_VALID clears and FWD starts anew. A Z edge of its polarity marks the next tooth with REF at
INDEX. No other unit changes. -/
def Obligations.SprocketTeeth : Prop := ∀ (s : State) (n : Unit3) (e : SpkEdge),
  let u := s.spkAt n
  let cfg := s.reg (Reg.SPK_INCFG n.val)
  let lvl := e.rise != cfg.getLsbD (match e.input with | .a => 4 | .b => 5 | .z => 6)
  let k := max 1 (s.rf (Reg.SPK_CYCLE n.val) 15 0)
  let gf := min 1000 (max 10 (s.rf (Reg.SPK_INCFG n.val) 25 16))
  let nw := min 12 (s.rf (Reg.SPK_WIN n.val) 3 0)
  let iv := (e.stamp - u.tRef) * 256
  let t2 : Int := 2 * iv + s.rf (Reg.SPK_CTL n.val) 10 9 * ((iv : Int) - u.tPrev)
  let level : State := s.modSpk n.val fun u => { u with lvlA := e.rise }
  let held : Bool := match e.input with | .a => u.lvlA | .b => u.lvlB | .z => u.lvlZ
  let now : Prop := s.tb = (e.stamp + 15) / 16 + gf + 4 ∧ (∀ b, e.back = some b → ((e.stamp + 15) / 16 + gf) * 16 ≤ b) ∧ held ≠ e.rise
  let late : Prop := missDue s n.val = true ∧ missDeadline s n.val ≤ e.stamp * 4096
  let lead : Prop := u.st ≠ .off ∧ spkMirrors s n.val = false ∧ lvl ≠ cfg.getLsbD 1
  let tooth : Prop := lead ∧ s.rf (Reg.SPK_CTL n.val) 3 2 = 0
  let near : Prop := e.stamp < u.stamp + 800 ∨ (u.tValid = true ∧ (e.stamp - u.stamp) * 4096 < min 12 (u.cfg.win.toNat % 16) * u.tPred)
  let quiet : Prop := u.haveTooth = false ∨ ¬near
  let others (t : State) : Prop := (∀ j : Unit3, j ≠ n → t.spkAt j.val = s.spkAt j.val) ∧ t.tb = s.tb
  (¬now → exec (.spkToothEdge n e) s = .next s ∧ exec (.spkIndexEdge n e) s = .next s) ∧
  (e.input = .z → exec (.spkToothEdge n e) s = .next s) ∧
  (e.input ≠ .z → exec (.spkIndexEdge n e) s = .next s) ∧
  (now → e.input ≠ .z → late → s.pending = [] → ∃ s1, exec (.missedTooth n) s = .next s1 ∧
    (missDue s1 n.val = false → exec (.spkToothEdge n e) s = exec (.spkToothEdge n e) s1)) ∧
  (now → e.input = .a → ¬late → (u.st = .off ∨ (spkMirrors s n.val = false ∧ s.rf (Reg.SPK_CTL n.val) 3 2 = 0 ∧ lvl = cfg.getLsbD 1 ∧
      (u.haveTooth = false ∨ u.stamp + 800 ≤ e.stamp))) →
    exec (.spkToothEdge n e) s = .next level) ∧
  (now → e.input = .b → ¬late → s.rf (Reg.SPK_CTL n.val) 3 2 = 0 →
    exec (.spkToothEdge n e) s = .next (s.modSpk n.val fun u => { u with lvlB := e.rise })) ∧
  (now → e.input = .a → ¬late → tooth → u.haveTooth = true → near → exec (.spkToothEdge n e) s =
    .next ((level.bump (Reg.SPK_ERRCNT0 n.val) 15 0).hwSetBit (Reg.SPK_EVT n.val) 3)) ∧
  (now → e.input = .a → ¬late → tooth → quiet → u.st = .synced → s.rf (Reg.SPK_CTL n.val) 7 6 = 0 → u.dirRev = false → u.revHold = none →
    ∃ t, exec (.spkToothEdge n e) s = .next t ∧ others t ∧ (t.spkAt n.val).st = .synced ∧ (t.spkAt n.val).stamp = e.stamp ∧
      (t.spkAt n.val).lastSyn = false ∧ (t.spkAt n.val).fwd = min 255 (u.fwd + 1) ∧
      ((t.spkAt n.val).pos, (t.spkAt n.val).cyc) = movePos k u.pos u.cyc (((u.pos.toNat / 65536 + 1) * 65536 : Nat) - u.pos.toNat) ∧
      (t.spkAt n.val).phys = (u.phys + 1) % max 1 (s.rf (Reg.SPK_WHEEL n.val) 15 0) ∧
      (s.tb + 6, Due.spkPub n.val (spkView t n.val) (lastTooth t n.val) false) ∈ t.due ∧
      (s.tb + 8, Due.spkTooth n.val (lastTooth t n.val) true none) ∈ t.due ∧
      (u.tValid = true → u.haveRef = true → u.sRef = 0 → u.mirInGap = false → iv ≤ 0x0FFFFFFF * 4096 →
        max (s.rf (Reg.SPK_WIN n.val) 11 8) nw * u.tPred ≤ iv * 16 → (t.spkAt n.val).tPrev = iv ∧
          (t.spkAt n.val).tPred = ((max (iv : Int) (min t2 (4 * iv)) + 1) / 2).toNat)) ∧
  (now → e.input = .a → ¬late → lead → s.rf (Reg.SPK_CTL n.val) 3 2 = 1 → quiet → u.st = .synced → s.rf (Reg.SPK_CTL n.val) 7 6 = 0 →
    ((u.lvlB != cfg.getLsbD 5) != s.rb (Reg.SPK_CTL n.val) 8) = !u.dirRev →
    ∃ t, exec (.spkToothEdge n e) s = .next t ∧ others t ∧ (t.spkAt n.val).st = .synced ∧ (t.spkAt n.val).dirRev = !u.dirRev ∧
      (t.spkAt n.val).tValid = false ∧ (t.spkAt n.val).fwd = (if u.dirRev then 1 else 0) ∧ (t.spkAt n.val).stamp = e.stamp ∧
      t.rb (Reg.SPK_EVT n.val) 6 = true) ∧
  (now → e.input = .z → exec (.spkIndexEdge n e) s = .next (s.modSpk n.val fun u => { u with
    lvlZ := e.rise
    index := u.index || (decide ((s.spkAt n.val).st ≠ .off) && !spkMirrors s n.val && s.rf (Reg.SPK_CTL n.val) 7 6 == 2 &&
      lvl != cfg.getLsbD 2) }))

/-- R46, R52, R57, R58, R62, R65, R66, R74, R75, R84: what else happens to a unit. An input fault on A loses a unit whose position was
valid as the tb began. A tooth that does not come by 1.5 T_pred, or in the gap by its upper limit, is declared missed, unless an edge stamped before the
deadline is decided in that tb: its time and
position are taken as expected, and SYNCED becomes SUSPECT; in QUICK, and in SUSPECT beyond MISS_MAX, the unit is LOST. A virtual tooth
leaves its queue once its time has come. A unit without teeth for the stop time is STOPPED and loses T_VALID, unless a tooth is decided
in that tb. Each of them before its condition changes nothing. RESYNC waits for the end of the cc, and then a unit without a reference
returns to SYNCED at PRESET, one with a reference to ACQUIRE. CLR_CNT clears the counters. -/
def Obligations.SprocketEvents : Prop := ∀ (s : State) (m : Master) (n : Unit3) (i : SpkInput),
  let u := s.spkAt n
  let cfg := s.reg (Reg.SPK_INCFG n.val)
  let gf := min 1000 (max 10 (s.rf (Reg.SPK_INCFG n.val) 25 16))
  let place : Nat := match i with | .a => 8 | .b => 9 | .z => 10
  let others (t : State) : Prop := (∀ j : Unit3, j ≠ n → t.spkAt j.val = s.spkAt j.val) ∧ t.tb = s.tb
  let evt (t : State) (b : Nat) : Prop := t.rb (Reg.SPK_EVT n.val) b = true
  let wait : Nat := if spkInGap s n.val then s.rf (Reg.SPK_GAPWIN n.val) 23 16 else 24
  let missed : Prop := u.st.valid = true ∧ u.tValid = true ∧ spkMirrors s n.val = false ∧
    u.tPred < u.cfg.floor * 1000 * 4096 ∧ (u.stamp * 4096 + wait * u.tPred + 65535) / 65536 + gf + 4 = s.tb
  let alone : Prop := s.pending.all (fun i => match i with
    | .spkToothEdge j e => j != n || decide (u.stamp * 4096 + wait * u.tPred ≤ e.stamp * 4096) | _ => true) = true
  let last : Prop := u.st = .quick ∨ (u.st = .suspect ∧ max 1 (u.cfg.win.toNat / 2 ^ 24 % 16) ≤ u.missn)
  let stopAt := u.stopFrom.getD (((if u.haveReal then u.realStamp else u.enTb * 16) + 15) / 16 +
    max 1 (s.rf (Reg.SPK_STOP n.val) 15 0) * 1000) + max 1 (s.rf (Reg.SPK_STOP n.val) 31 16) * 1000000
  let synced : State := spkResyncDo s n.val
  (cfg.getLsbD 0 = true → cfg.getLsbD place = false → spkMirrors s n.val = false →
    ∃ t, exec (.inputFault n i) s = .next t ∧ others t ∧ evt t 10 ∧
      (i = .a → u.st.valid = true → (u.stAt s.tb).valid = true → (t.spkAt n.val).st = .lost) ∧
      (u.st.valid = false ∨ (u.stAt s.tb).valid = false → t.spk = s.spk)) ∧
  (cfg.getLsbD 0 = false ∨ cfg.getLsbD place = true ∨ spkMirrors s n.val = true → exec (.inputFault n i) s = .next s) ∧
  (missed → alone → u.st = .synced → ∃ t, exec (.missedTooth n) s = .next t ∧ others t ∧ evt t 2 ∧ (t.spkAt n.val).st = .suspect ∧
      (t.spkAt n.val).missn = u.missn + 1 ∧ (t.spkAt n.val).stamp = (u.stamp * 256 + spkSpan s n.val * u.tPred + 128) / 256 ∧
      (t.spkAt n.val).lastSyn = true ∧ (t.spkAt n.val).tPred = u.tPred) ∧
  (missed → alone → last → ∃ t, exec (.missedTooth n) s = .next t ∧ others t ∧ evt t 2 ∧ (t.spkAt n.val).st = .lost) ∧
  (¬missed → alone → exec (.missedTooth n) s = .next s) ∧
  (missDue (edgesAhead s n.val (some (missDeadline s n.val))) n.val = false → exec (.missedTooth n) s = .next s) ∧
  (∀ v r, u.virtq = v :: r → (v.1 + 4095) / 4096 + gf + 12 ≤ s.tb →
    ∃ t, exec (.virtualTooth n) s = .next t ∧ others t ∧ (t.spkAt n.val).virtq = r ∧ (t.spkAt n.val).stamp = u.stamp ∧
      (t.spkAt n.val).tPred = u.tPred ∧ (t.spkAt n.val).phys = u.phys ∧ (t.spkAt n.val).fwd = u.fwd) ∧
  (∀ v r, u.virtq = v :: r → s.tb < (v.1 + 4095) / 4096 + gf + 12 → exec (.virtualTooth n) s = .next s) ∧
  (u.virtq = [] → exec (.virtualTooth n) s = .next s) ∧
  (u.st ≠ .off → u.stopped = false → stopAt ≤ s.tb → toothWaits s n.val = false → ∃ t, exec (.stopDetect n) s = .next t ∧ others t ∧
    evt t 7 ∧ (t.spkAt n.val).stopped = true ∧ (t.spkAt n.val).tValid = false ∧ (t.spkAt n.val).pos = u.pos) ∧
  (u.st = .off ∨ u.stopped = true ∨ s.tb < stopAt ∨ toothWaits s n.val = true → exec (.stopDetect n) s = .next s) ∧
  (reachesRegs m = true →
    (u.st ≠ .off → exec (.resync m n) s = .next (answered .ok 0 (s.modSpk n.val fun u => { u with resync := true }))) ∧
    (u.st = .off → exec (.resync m n) s = .next (answered .ok 0 s)) ∧
    (∃ t, exec (.spkClrCnt m n) s = .next t ∧ t.spk = s.spk ∧ t.reg (Reg.SPK_ERRCNT0 n.val) = 0 ∧ t.reg (Reg.SPK_ERRCNT1 n.val) = 0 ∧
      t.reg (Reg.SPK_PH_STAT n.val) = s.reg (Reg.SPK_PH_STAT n.val) &&& 0xFFFF)) ∧
  (u.st ≠ .off → others synced) ∧
  (u.st ≠ .off → s.rf (Reg.SPK_CTL n.val) 7 6 = 0 → (synced.spkAt n.val).st = .synced ∧
    (synced.spkAt n.val).pos = s.reg (Reg.SPK_PRESET n.val) ∧ (synced.spkAt n.val).cyc = u.cyc) ∧
  (u.st ≠ .off → s.rf (Reg.SPK_CTL n.val) 7 6 ≠ 0 → (synced.spkAt n.val).st = .acquire ∧ (synced.spkAt n.val).tValid = false)

/-- R75–R77, R79, R80, R82, R84: DROP_JOURNAL writes the unit's journal record anew with VALID 0 and the next sequence number; its other
words, and all else in the keep store, stay; a write that fails sets JOURNAL_ERR and leaves all but the record. A phase mark at its F + 12
outside the window counts; in it, it enters the FIFO with its position and its distance to the target; a full FIFO drops it. With a
reference unit that is not SYNCED it sets UNSYNC alone. What is no mark changes nothing. The phase enable is refused while SRC is 0 and
the unit's REF is INDEX; once it stands, or the unit's own EN does, its other fields stay (CFG_LOCKED in the latter case: log entry 57). -/
def Obligations.SprocketJournal : Prop := ∀ (s : State) (m : Master) (n : Unit3) (mark : Mark) (w : Word),
  let jat := 0x100 + 0x20 * n.val
  let word0 := memWord s.keep jat
  let c := s.reg (Reg.SPK_PH_CTL n.val)
  let r := s.rf (Reg.SPK_PH_CTL n.val) 10 8
  let k := max 1 (s.rf (Reg.SPK_CYCLE r) 15 0)
  let p := phasePos s r mark.stamp
  let inside : Prop := let lo := s.reg (Reg.SPK_PH_WLO n.val); let hi := s.reg (Reg.SPK_PH_WHI n.val)
    lo = hi ∨ (lo < hi ∧ lo ≤ p.1 ∧ p.1 ≤ hi) ∨ (hi < lo ∧ (lo ≤ p.1 ∨ p.1 ≤ hi))
  let src (t : State) : State := t.raise0 (147 + 4 * n.val) 1 (.reg (Reg.SPK_EVT n.val) 0xFFFF)
  let gf (v : Nat) : Nat := min 1000 (max 10 (s.rf (Reg.SPK_INCFG v) 25 16))
  let edge (v : Nat) : Nat := (mark.stamp + 15) / 16 + gf v
  let own : Prop := mark.was ≠ mark.rise ∧ s.tb = edge n.val + 12 ∧ (∀ b, mark.back = some b → edge n.val * 16 ≤ b) ∧
    (mark.rise != s.rb (Reg.SPK_INCFG n.val) 6) = !c.getLsbD 2
  let zero : Prop := let v := s.rf (Reg.SPK_PH_CTL n.val) 6 4
    s.tb = edge v + 12 ∧ (s.spkAt v).zeros.contains mark.stamp = true
  let taken : Prop := c.getLsbD 0 = true ∧ ((c.getLsbD 1 = false ∧ own) ∨ (c.getLsbD 1 = true ∧ zero))
  let entry : PhEntry := { pos := p.1, cyc := p.2, err := BitVec.ofInt 32 (phaseErr k p.1 (s.reg (Reg.SPK_PH_TGT n.val))) }
  let badIn (s : State) (b : Nat) : State :=
    (s.hwSetBit (Reg.SPK_EVT n.val) b).raise0 (146 + 4 * n.val) 1 (.reg (Reg.SPK_EVT n.val) 0xFFFF)
  let bad := badIn s
  let locked : Prop := s.rb (Reg.SPK_CTL n.val) 0 = true ∧ ((w &&& 0x777) ^^^ c) &&& 0x7FE ≠ 0
  let index : Prop := s.rf (Reg.SPK_CTL n.val) 7 6 = 2
  (reachesRegs m = true → ∃ t, exec (.dropJournal m n) s = .next t ∧
    (∀ a, (a < jat ∨ jat + 32 ≤ a) → byteAt t.keep a = byteAt s.keep a) ∧
    (Config.freeBool s.free = false → t = { s with keep := t.keep, answer := t.answer, free := s.free + 9 } ∧
      (memWord t.keep jat).getLsbD 8 = false ∧ (memWord t.keep jat).toNat / 2 ^ 24 = (word0.toNat / 2 ^ 24 + 1) % 256 ∧
      ∀ j : Fin 6, memWord t.keep (jat + 4 + 4 * j.val) = memWord s.keep (jat + 4 + 4 * j.val)) ∧
    (Config.freeBool s.free = true → t.spk = s.spk ∧ t.rb (Reg.SPK_EVT n.val) 15 = true)) ∧
  (taken → (s.spkAt r).st ≠ .synced → exec (.phaseMark n mark) s = .next (s.hwSetBit (Reg.SPK_PH_STAT n.val) 3)) ∧
  (taken → (s.spkAt r).st = .synced → ¬inside → exec (.phaseMark n mark) s = .next (s.bump (Reg.SPK_PH_STAT n.val) 31 16)) ∧
  (taken → (s.spkAt r).st = .synced → inside → 2 ≤ (s.spkAt n.val).fifo.length →
    exec (.phaseMark n mark) s = .next (src ((s.modSpk n.val fun u => { u with
      phLost := some (s.tb, entry, s.rb (Reg.SPK_PH_STAT n.val) 2) }).hwSetBit (Reg.SPK_PH_STAT n.val) 2))) ∧
  (taken → (s.spkAt r).st = .synced → inside → (s.spkAt n.val).fifo.length < 2 →
    exec (.phaseMark n mark) s = .next (src (s.modSpk n.val fun u => { u with
      fifo := u.fifo ++ [entry], phNew := noteNew s.tb u.phNew }))) ∧
  (¬taken → exec (.phaseMark n mark) s = .next s) ∧
  (reachesRegs m = true →
    (s.rb (Reg.SPK_CTL n.val) 0 = false → c.getLsbD 0 = false →
      (w.getLsbD 1 = true ∨ ¬index →
        exec (.phaseEnable m n w) s = .next (answered .ok 0 (s.setReg (Reg.SPK_PH_CTL n.val) ((w &&& 0x776) ||| 1)))) ∧
      (w.getLsbD 1 = false → index → exec (.phaseEnable m n w) s = .next (answered .ok 0 (bad 12)))) ∧
    (s.rb (Reg.SPK_CTL n.val) 0 = true ∨ c.getLsbD 0 = true → c.getLsbD 1 = false → index →
      (¬locked → exec (.phaseEnable m n w) s = .next (answered .ok 0 (bad 12))) ∧
      (locked → exec (.phaseEnable m n w) s = .next (answered .ok 0 (badIn (bad 13) 12)))) ∧
    (c.getLsbD 1 = true ∨ ¬index → let held := (c &&& 0x7FE) ||| 1
      (s.rb (Reg.SPK_CTL n.val) 0 = false → c.getLsbD 0 = true →
        exec (.phaseEnable m n w) s = .next (answered .ok 0 (s.setReg (Reg.SPK_PH_CTL n.val) held))) ∧
      (s.rb (Reg.SPK_CTL n.val) 0 = true → (w ^^^ c) &&& 0x776 = 0 → c &&& 0x88 = 0 →
        exec (.phaseEnable m n w) s = .next (answered .ok 0 (s.setReg (Reg.SPK_PH_CTL n.val) held))) ∧
      (s.rb (Reg.SPK_CTL n.val) 0 = true → (w ^^^ c) &&& 0x776 ≠ 0 →
        exec (.phaseEnable m n w) s = .next (answered .ok 0 ((bad 13).setReg (Reg.SPK_PH_CTL n.val) held)))))

/-- R88–R90, R92–R94, R474: the channel's control word and counter. A legal CHn_CTL lands whole; a mode or clock source that does not
exist keeps that field and sets CFG_ERR. A write of the counter sets it and restarts the prescaler, and is refused (WR_DISC) on a channel
that shows TB or belongs to a group. A TB event counts one, at most once a tb, when PRESC + 1 of them have come: FREE counts up, WRAP
returns to 0 after TOP, UPDOWN goes on in its direction between 0 and TOP. On a channel that is off, a group's, or of another clock source
it counts nothing. -/
def Obligations.ChannelCounter : Prop := ∀ (s : State) (m : Master) (n : Fin 128) (w : Word),
  let ctl := Reg.CH_CTL n.val
  let c := s.chAt n.val
  let mode := s.rf ctl 3 1
  let v := w &&& 0xFF77000F
  let top := max 1 c.top.toNat
  let legal : Prop := w.toNat / 2 % 8 < 4 ∧ w.toNat / 2 ^ 16 % 8 < 5 ∧ ¬(w.toNat / 2 ^ 16 % 8 = 3 ∧ n.val = 0)
  let through : Prop := reachesRegs m = true ∧ fixSelOf s m = none ∧ ∀ g ∈ s.staged, g.addr ≠ ctl
  let counts : Prop := NoCommit s ∧ s.rb ctl 0 = true ∧ exgMember s n.val = false ∧ s.rf ctl 18 16 = 0 ∧ c.cntTb ≠ some s.tb ∧ c.tickTb ≠ some s.tb ∧
    ∀ h ∈ c.hist, h.1 ≠ s.tb
  let ticked : State := s.modCh n.val fun c => { c with tickTb := some s.tb }
  let after (t : State) (k : Word) : Prop := t.tb = s.tb ∧ (t.chAt n.val).cnt = k ∧ (t.chAt n.val).presc = 0 ∧
    ∀ j : Fin 128, j.val < n.val ∨ (j ≠ n ∧ s.rf (Reg.CH_CTL (n.val + 1)) 18 16 ≠ 3) → t.chAt j.val = s.chAt j.val
  (through → legal → ∃ t, exec (.channelCtlWrite m n w) s = .next t ∧ t.reg ctl = v ∧ t.tb = s.tb ∧
    (∀ j : Fin 128, j ≠ n → t.chAt j.val = s.chAt j.val) ∧
    (exgMember s n.val = false → v.getLsbD 0 = true → s.rb ctl 0 = false → (t.chAt n.val).presc = 0)) ∧
  (through → ¬legal → ∃ t, exec (.channelCtlWrite m n w) s = .next t ∧ t.rb (Reg.CH_STAT n.val) 15 = true ∧
    (w.toNat / 2 % 8 ≥ 4 → t.rf ctl 3 1 = mode) ∧ t.reg ctl &&& 0xFF700001 = w &&& 0xFF700001 ∧
    (w.toNat / 2 ^ 16 % 8 < 5 → ¬(w.toNat / 2 ^ 16 % 8 = 3 ∧ n.val = 0) → t.rf ctl 18 16 = w.toNat / 2 ^ 16 % 8) ∧
    (w.toNat / 2 ^ 16 % 8 ≥ 5 ∨ (w.toNat / 2 ^ 16 % 8 = 3 ∧ n.val = 0) → t.rf ctl 18 16 = s.rf ctl 18 16)) ∧
  (reachesRegs m = true → exgMember s n.val = true ∨ mode = 0 → ∃ t, exec (.counterWrite m n w) s = .next t ∧ t.ch = s.ch ∧
    t.rb (Reg.CH_STAT n.val) 14 = true) ∧
  (reachesRegs m = true → exgMember s n.val = false → mode = 1 → exec (.counterWrite m n w) s = .next (answered .ok 0
    (s.modCh n.val fun c => { c with
      cnt := w, presc := 0, cntTb := some s.tb, hist := (s.tb, c.cnt) :: c.hist.filter fun h => decide (s.tb < h.1 + 300) }))) ∧
  (reachesRegs m = true → exgMember s n.val = false → 2 ≤ mode → ∃ t, exec (.counterWrite m n w) s = .next t ∧
    (t.chAt n.val).cnt = w ∧ (t.chAt n.val).presc = 0 ∧ t.tb = s.tb ∧ ∀ j : Fin 128, j ≠ n → t.chAt j.val = s.chAt j.val) ∧
  (NoCommit s → c.tickTb = some s.tb → exec (.tbEventTick n) s = .next s) ∧
  (NoCommit s → c.tickTb ≠ some s.tb → exgMember s n.val = true ∨ (mode ≠ 0 ∧ (s.rb ctl 0 = false ∨ s.rf ctl 18 16 ≠ 0)) →
    exec (.tbEventTick n) s = .next ticked) ∧
  (counts → 1 ≤ mode → c.presc < s.rf ctl 31 24 → exec (.tbEventTick n) s = .next (s.modCh n.val fun c =>
    { c with tickTb := some s.tb, presc := c.presc + 1 })) ∧
  (counts → mode = 1 → s.rf ctl 31 24 ≤ c.presc → ∃ t, exec (.tbEventTick n) s = .next t ∧ after t (c.cnt + 1)) ∧
  (counts → mode = 2 → s.rf ctl 31 24 ≤ c.presc → ∃ t, exec (.tbEventTick n) s = .next t ∧
    after t (if top ≤ c.cnt.toNat then 0 else c.cnt + 1)) ∧
  (counts → mode = 3 → s.rf ctl 31 24 ≤ c.presc → 0 < c.cnt.toNat → c.cnt.toNat < top → ∃ t, exec (.tbEventTick n) s = .next t ∧
    after t (if c.down then c.cnt - 1 else c.cnt + 1)) ∧
  (counts → mode = 3 → s.rf ctl 31 24 ≤ c.presc → c.cnt = 0 → ∃ t, exec (.tbEventTick n) s = .next t ∧ after t 1) ∧
  (counts → mode = 3 → s.rf ctl 31 24 ≤ c.presc → c.cnt.toNat = top → ∃ t, exec (.tbEventTick n) s = .next t ∧ after t (c.cnt - 1))

/-- R97, R100, R101, R103–R107, R111, R372: compare slots. A write of CMPx in FREE or TBL mode arms a slot in compare mode; when the slot
fires in that tb with auto-add, before the write or by the value before it, the auto-add is dropped with AUTOADD_COLLIDE. In WRAP and UPDOWN it waits for the count 0 while the channel runs; on
a calendar slot or a group's it is refused. A slot fires in the first tb in which its count lies at or beyond the compare value in the
half range, with LATE when beyond: the action is done, and the slot is disarmed, or moves by CHn_ADD with auto-add. In WRAP and UPDOWN it
fires in the tb of the change to its condition, in UPDOWN with SET and CLEAR exchanged when the condition falls. -/
def Obligations.CompareSlots : Prop := ∀ (s : State) (m : Master) (n : Fin 128) (x : Fin 4) (w : Word),
  let ctl := Reg.CH_CTL n.val
  let sl := (s.chAt n.val).slotAt x.val
  let cfg := s.rf (Reg.CH_SLOT n.val (x.val / 2)) (16 * (x.val % 2) + 15) (16 * (x.val % 2))
  let mode := s.rf ctl 3 1
  let act := cfg / 16 % 8
  let add := (s.reg (Reg.CH_ADD n.val)).toNat
  let through : Prop := reachesRegs m = true ∧ fixSelOf s m = none ∧ ∀ g ∈ s.staged, g.addr ≠ Reg.CH_CMP n.val x.val
  let own : Prop := exgMember s n.val = false ∧ cfg / 2 ^ 11 % 2 = 0
  let running : Prop := s.rb ctl 0 = true ∧ exgMember s n.val = false ∧ cfg % 4 = 1
  let passes : Prop := running ∧ mode ≤ 1 ∧ sl.armed = true ∧ sl.lastFire ≠ some s.tb ∧ (chCount s n.val - sl.cmp).toNat < 2 ^ 31
  let fired : Prop := (sl.fire.map fun f => f.1) = some s.tb
  let met : Prop := (sl.xfire.map fun f => f.1) = some s.tb
  let adds : Prop := cfg / 2 ^ 10 % 2 = 1 ∧ cfg / 2 ^ 11 % 2 = 0 ∧ 16 ≤ add
  let dueNow : Prop := (sl.due.map fun d => d.1) = some s.tb
  let alone : Prop := ∀ e, (s.chAt n.val).edgeNow = some e → e.tb ≠ s.tb
  let after (t : State) (act : Nat) (armed : Bool) (cmp : Word) : Prop := t.tb = s.tb ∧
    ((t.chAt n.val).slotAt x.val).armed = armed ∧ ((t.chAt n.val).slotAt x.val).cmp = cmp ∧ t.rb (Reg.CH_STAT n.val) x.val = true ∧
    ((t.chAt n.val).slotAt x.val).lastFire = some s.tb ∧
    (alone → (t.chAt n.val).out = if act = 1 ∨ act = 4 then true else if act = 2 then false else if act = 3 then !(s.chAt n.val).out
      else (s.chAt n.val).out) ∧ (∀ y : Fin 4, y ≠ x → (t.chAt n.val).slotAt y.val = (s.chAt n.val).slotAt y.val) ∧
    ∀ j : Fin 128, j ≠ n → t.chAt j.val = s.chAt j.val
  (through → own → mode ≤ 1 → ¬fired → exec (.compareWrite m n x w) s = .next (answered .ok 0 (s.modSlot n.val x.val fun t =>
    { t with
      cmp := w, armed := decide (cfg % 4 = 1), wrTb := some s.tb, fire := none
      xfire := if sl.armed = true ∧ sl.load = none ∧ ¬met then some (s.tb, sl.cmp, cfg / 2 ^ 12, false) else sl.xfire }))) ∧
  (through → own → mode ≤ 1 → fired → ∃ t, exec (.compareWrite m n x w) s = .next t ∧ t.rb (Reg.CH_STAT n.val) 13 = true ∧
    ((t.chAt n.val).slotAt x.val).cmp = w ∧ ((t.chAt n.val).slotAt x.val).armed = decide (cfg % 4 = 1)) ∧
  (through → own → mode = 2 ∨ mode = 3 → s.rb ctl 0 = true →
    exec (.compareWrite m n x w) s = .next (answered .ok 0 (s.modSlot n.val x.val fun t => { t with pend := some w }))) ∧
  (through → own → mode = 2 ∨ mode = 3 → s.rb ctl 0 = false →
    exec (.compareWrite m n x w) s = .next (answered .ok 0 (s.modSlot n.val x.val fun t => { t with cmp := w, pend := none }))) ∧
  (through → exgMember s n.val = true ∨ cfg / 2 ^ 11 % 2 = 1 → ∃ t, exec (.compareWrite m n x w) s = .next t ∧ t.ch = s.ch ∧
    t.rb (Reg.CH_STAT n.val) 14 = true) ∧
  (NoCommit s → passes → sl.load = none → ¬met → ∃ t, exec (.compareFire n x) s = .next t ∧
    (cfg / 2 ^ 10 % 2 = 0 ∨ add = 0 → after t act false sl.cmp) ∧
    (cfg / 2 ^ 10 % 2 = 1 → cfg / 2 ^ 11 % 2 = 0 → 16 ≤ add → add % 16 = 0 → cfg / 2 ^ 12 = 0 →
      after t act true (sl.cmp + BitVec.ofNat 32 (add / 16))) ∧
    (chCount s n.val ≠ sl.cmp → t.rb (Reg.CH_STAT n.val) (4 + x.val) = true)) ∧
  (NoCommit s → sl.armed = false ∨ cfg % 4 ≠ 1 ∨ 2 ^ 31 ≤ (chCount s n.val - sl.cmp).toNat ∨ sl.lastFire = some s.tb → ¬met →
    exec (.compareFire n x) s = .next s) ∧
  (∀ cmp fr, NoCommit s → running → mode ≤ 1 → sl.lastFire ≠ some s.tb → adds → sl.xfire = some (s.tb, cmp, fr, false) →
    (chCount s n.val - cmp).toNat < 2 ^ 31 → ∃ t, exec (.compareFire n x) s = .next t ∧ after t (match sl.load with
        | some l => l.act | none => act) sl.armed sl.cmp ∧ t.rb (Reg.CH_STAT n.val) 13 = true ∧
      (chCount s n.val ≠ cmp → t.rb (Reg.CH_STAT n.val) (4 + x.val) = true)) ∧
  (NoCommit s → running → mode = 2 → dueNow → ∃ t, exec (.compareFireWrap n x) s = .next t ∧ after t act sl.armed sl.cmp ∧
    ((t.chAt n.val).slotAt x.val).due = none) ∧
  (NoCommit s → exgMember s n.val = false → ¬dueNow → exec (.compareFireWrap n x) s = .next s ∧ exec (.compareFireUpdown n x) s = .next s) ∧
  (∀ d, NoCommit s → running → mode = 3 → sl.due = some d → d.1 = s.tb → d.2 ≠ sl.q → ∃ t, exec (.compareFireUpdown n x) s = .next t ∧
    after t (if sl.q then act else if act = 1 then 2 else if act = 2 then 1 else act) sl.armed sl.cmp ∧
    ((t.chAt n.val).slotAt x.val).due = none) ∧
  (∀ d, NoCommit s → sl.due = some d → d.2 = sl.q → exec (.compareFireUpdown n x) s = .next s)

/-- R92, R102, R107, R108, R113, R115–R117: what CHn_CMD does on a channel of its own: FORCE sets the output after all other actions of
the tb, DISARM disarms the slots given, but for those of the calendar, FLUSH empties the capture FIFO, CAPNOW puts the count
and the level at the end of the tb into it when EN is 1. On a member of a group CHn_CMD is refused. A pulse ends when its end is due,
before the other actions of the tb. A read of CHn_CAP takes the entry that was oldest at the sampled tb, or shows EMPTY. -/
def Obligations.ChannelCommands : Prop := ∀ (s : State) (m : Master) (n : Fin 128) (f : Fin 4) (slots : BitVec 4),
  let c := s.chAt n.val
  let capx := Reg.CH_CAPX n.val
  let cal (x : Fin 4) : Prop := s.rb (Reg.CH_SLOT n.val (x.val / 2)) (16 * (x.val % 2) + 11) = true
  let mark : CapEntry := { count := 0, tag := 0xC0 }
  let now : CapEntry := { count := chCount s n.val, tag := 0xC0 ||| if tioIn s n.val then 0x100 else 0 }
  let seen := s.sampled.chAt n.val
  let alone : Prop := ∀ e, c.edgeNow = some e → e.tb ≠ s.tb
  let others (t : State) : Prop := t.tb = s.tb ∧ ∀ j : Fin 128, j ≠ n → t.chAt j.val = s.chAt j.val
  let ends : Prop := s.rb (Reg.CH_CTL n.val) 0 = true ∧ (match c.pulseEnd, c.pulseCnt with
    | some e, none => decide (e / 16 ≤ s.tb)
    | none, some k => k == 0
    | some e, some k => decide (e / 16 ≤ s.tb) && k == 0
    | none, none => false) = true
  (reachesRegs m = true → exgMember s n.val = false →
    (∃ t, exec (.force m n f) s = .next t ∧ others t ∧ (t.chAt n.val).slots = c.slots ∧ (f = 0 → t.ch = s.ch) ∧
      (alone ∨ (∀ e, c.edgeNow = some e → ∀ a ∈ e.acts, a.key ≤ 5) →
        (f = 1 → (t.chAt n.val).out = true) ∧ (f = 2 → (t.chAt n.val).out = false)) ∧
      (alone → f = 3 → (t.chAt n.val).out = !c.out)) ∧
    (∃ t, exec (.flush m n) s = .next t ∧ others t ∧ t.chAt n.val = { c with fifo := [], capOut := c.capOut + c.fifo.length } ∧
      ∀ p ∈ t.seen.waits, p.2.1 ≠ n.val) ∧
    exec (.capnow m n) s = .next (answered .ok 0 { s with capIn := capInsert n.val mark s.capIn }) ∧
    capnowNow s n.val mark = now ∧
    (s.rb (Reg.CH_CTL n.val) 0 = false → acceptCap s n.val now = s) ∧
    (s.rb (Reg.CH_CTL n.val) 0 = true → c.fifo.length < 4 → (∀ p ∈ s.seen.waits, p.2.1 ≠ n.val) →
      ((acceptCap s n.val now).chAt n.val).fifo = c.fifo ++ [now]) ∧
    (∃ t, exec (.disarm m n slots) s = .next t ∧ others t ∧ (t.chAt n.val).out = c.out ∧ ∀ x : Fin 4,
      (t.chAt n.val).slotAt x.val = if slots.getLsbD x.val = true ∧ ¬cal x then { c.slotAt x.val with armed := false, xfire := none }
        else c.slotAt x.val)) ∧
  (reachesRegs m = true → exgMember s n.val = true → ∃ t, exec (.force m n f) s = .next t ∧ exec (.flush m n) s = .next t ∧
    exec (.capnow m n) s = .next t ∧ exec (.disarm m n slots) s = .next t ∧ t.ch = s.ch ∧ t.rb (Reg.CH_STAT n.val) 14 = true) ∧
  (reachesRegs m = true → seen.fifo = [] → exec (.captureRead m n) s = .next (answered .ok 0 (s.putShadow m capx 0x8000))) ∧
  (reachesRegs m = true → ∀ e r, seen.fifo = e :: r → ∃ t, exec (.captureRead m n) s = .next t ∧ others t ∧ t.answer.data = e.count ∧
    t.shadow m capx = e.tag ||| BitVec.ofNat 32 (min 3 r.length * 2 ^ 12) ∧
    t.chAt n.val = (if c.capOut = seen.capOut then { c with fifo := c.fifo.tail, capOut := c.capOut + 1 } else c) ∧
    t.regs = s.regs) ∧
  (NoCommit s → ends → ∃ t, exec (.pulseEnd n) s = .next t ∧ others t ∧ (alone → (t.chAt n.val).out = false) ∧ (t.chAt n.val).pulseEnd = none ∧
    (t.chAt n.val).pulseCnt = none) ∧
  (NoCommit s → ¬ends → exec (.pulseEnd n) s = .next s)

/-- R114, R119, R120, R122, R123: what reaches the pins. An input change is accepted in the tb that lies the filter time after its stamp,
when the level has held so long, and a slot in capture mode takes the count of its stamp, which its own tick makes, 4 tb later; at any other tb, not held, at the
level the filter holds, or against the level that the device drives, nothing happens. A calibration round marks its bank calibrated and
its failing channels; it does nothing while calibration is off. A bank's detected supply is the one that the row gives. -/
def Obligations.PinInputs : Prop := ∀ (s : State) (n : Fin 128) (lvl : Bool) (stamp : Nat) (back : Option Nat) (b : Fin 4) (fails : Word) (v : Bool),
  let p := s.pinAt n.val
  let edge := (stamp + 15) / 16 + s.rf (Reg.TIO_CFG n.val) 15 8
  let cfg (x : Fin 4) := s.rf (Reg.CH_SLOT n.val (x.val / 2)) (16 * (x.val % 2) + 15) (16 * (x.val % 2))
  let clk := chClk s n.val
  let still : Prop := s.pending.all (fun c => match c with | .tbEventTick _ => false | _ => true) = true
  let accepted : Prop := s.tb = edge ∧ (∀ b, back = some b → edge * 16 ≤ b) ∧ p.acc ≠ lvl ∧ (p.ball = .z ∨ p.ball.high = lvl)
  (NoCommit s → accepted → ∃ t, exec (.tioInputChange n lvl { stamp := stamp, back := back }) s = .next t ∧ t.tb = s.tb ∧
    (t.pinAt n.val).acc = lvl ∧ (t.pinAt n.val).accHist = ((s.tb, p.acc) :: p.accHist).take 4 ∧ (t.pinAt n.val).accTb = s.tb ∧
    (p.ball = .z → (t.pinAt n.val).ext = lvl) ∧
    (∀ j : Fin 128, j ≠ n → t.pinAt j.val = s.pinAt j.val) ∧
    (∀ x : Fin 4, cfg x % 4 = 2 → cfg x / 2 ^ 8 % 4 = 2 →
      ∃ e, (s.tb + 4, Due.cap n.val e) ∈ t.due ∧ e.tag.toNat / 16 % 16 = x.val ∧
        (chMode s n.val = 0 → e.count = BitVec.ofNat 32 (stamp / 16)) ∧
        (still → (s.chAt n.val).tickTb = some s.tb → clk ≠ 1 → clk ≠ 2 → e.count = countAt s n.val (stamp / 16)) ∧
        (still → clk = 2 → chMode s n.val = 1 → chOn s n.val = true → exgMember s n.val = false → chPresc s n.val ≤ (s.chAt n.val).presc →
          (s.chAt n.val).cntTb ≠ some s.tb → (∀ h ∈ (s.chAt n.val).hist, h.1 ≠ s.tb) → stamp = 16 * s.tb →
          e.count = (s.chAt n.val).cnt + 1))) ∧
  (NoCommit s → ¬accepted → exec (.tioInputChange n lvl { stamp := stamp, back := back }) s = .next s) ∧
  (s.rb Reg.VCAL_CTL 0 = true → s.tbRun = true → ∃ t, exec (.vcalRound (b.castLE (by decide)) fails) s = .next t ∧
    t.rb Reg.VCAL_STAT b.val = true ∧ t.reg (Reg.VCAL_FAIL b.val) = fails ∧ t.ch = s.ch ∧
    (s.rb Reg.VCAL_CTL 1 = false → ∀ j : Fin 128, t.vcalOff.getLsbD j.val =
      if j.val / 32 = b.val then fails.getLsbD (j.val % 32) else s.vcalOff.getLsbD j.val) ∧
    (s.rb Reg.VCAL_CTL 1 = true → t.vcalOff = s.vcalOff)) ∧
  (s.rb Reg.VCAL_CTL 0 = false ∨ s.tbRun = false → ∀ k : Fin 5, exec (.vcalRound k fails) s = .next s) ∧
  (∃ t, exec (.bankSupplyMismatch b v) s = .next t ∧ t.tb = s.tb ∧ t.ch = s.ch ∧ vget t.vdet b.val false = v ∧
    ∀ k : Fin 4, k ≠ b → vget t.vdet k.val false = vget s.vdet k.val false)

/-- R130, R131, R159: the descriptor banks. Bank 0 is the host's and bank 1 Safelight's: the arm and cancel registers hand the
request to the calendar, and CAL_RES reads pending; while it does, a further one sets ISSUE_BUSY. Any other master sets BANK_ERR, and
nothing is asked. R136, R158: CAL_FLUSH removes from the table each entry that matches and would not fire first, and from the spill list
each that matches; no other entry; FLUSH_COMPLETE ends it. CLR_CNT clears the counters alone. -/
def Obligations.CalendarBanks : Prop := ∀ (s : State) (m : Master) (b : Fin 2) (h w : Word),
  let r (a : Nat → Nat) : Word := s.reg (a b.val)
  let own : Prop := (b = 0 ∧ ∃ c, m = .host c) ∨ (b = 1 ∧ m = .safelight)
  let busy := s.rf (Reg.CAL_RES b.val) 31 28 = 15
  let request (cancel : Bool) (d0 : Word) : CalReq := {
    who := .bank b, cancel := cancel, d0 := d0, d1 := r Reg.CAL_D1, d2 := r Reg.CAL_D2, d3 := r Reg.CAL_D3, d4 := r Reg.CAL_D4,
    tb := s.tb - s.tb % 2 }
  let asks (q : CalReq) : State := answered .ok 0
    (({ s with cal := { s.cal with reqs := s.cal.reqs ++ [q] } } : State).setReg (Reg.CAL_RES b.val) 0xF0000000)
  let evt (t : State) (i : Nat) : Prop := t.rb Reg.CAL_EVT i = true ∧ t.cal = s.cal
  let hit (e : CalEntry) : Prop := e.id < 147456 ∧ (e.d0 >>> 16 ^^^ w >>> 24) &&& w >>> 16 &&& 0xFF = 0 ∧
    (w.getLsbD 15 = true → e.d0.getLsbD 7 = true ∧ e.d0.toNat / 2 ^ 8 % 8 = w.toNat / 2 ^ 12 % 8)
  (own → ¬busy →
    exec (.calArm m b) s = .next (asks (request false (r Reg.CAL_D0))) ∧ exec (.calCancel m b h) s = .next (asks (request true h))) ∧
  (own → busy → ∃ t, exec (.calArm m b) s = .next t ∧ exec (.calCancel m b h) s = .next t ∧ evt t 13) ∧
  (reachesRegs m = true → ¬own → ∃ t, exec (.calArm m b) s = .next t ∧ exec (.calCancel m b h) s = .next t ∧ evt t 11) ∧
  (reachesRegs m = true → (s.cal.tab.map fun e => e.id).Nodup → ∃ t, exec (.calFlush m w) s = .next t ∧ t.cal.flushing = true ∧
    (∀ e ∈ t.cal.tab, e ∈ s.cal.tab) ∧ (∀ e ∈ s.cal.tab, ¬hit e → e ∈ t.cal.tab) ∧
    (∀ e ∈ s.cal.tab, hit e → firesBefore s e = false → e ∉ t.cal.tab) ∧ ∀ e ∈ t.cal.spill, e ∈ s.cal.spill ∧ ¬hit e) ∧
  exec .flushComplete s = .next { s with cal := { s.cal with flushing := false } } ∧
  (reachesRegs m = true → ∃ t, exec (.calClrCnt m) s = .next t ∧ t.cal = s.cal ∧ t.reg Reg.CAL_REFCNT = 0 ∧
    (∀ n : Unit3, t.reg (Reg.CAL_UCNT n.val) = 0) ∧ t.reg Reg.CAL_EVT = s.reg Reg.CAL_EVT)

/-- R126, R128–R133, R135, R137, R155: the request whose turn it is of the 20 requesters is served once the stage has had its time, and its
result goes to the requester. An illegal descriptor is refused with STATUS 6, and the table stays. A time entry that finds room enters
it, armed, under the identifier at the head of the free list and its next generation, with STATUS 0, or 2 where its time has passed. With
the table full it is refused: with 3 when it is near, with 4 when it is not and the spill list is off; with the list on it is written to the
region, word by word as its banks are granted, and then joins the list with STATUS 1; where the region meets a loss, the list is full. A cancel removes an entry that has not fired, with STATUS 7; one that fires first returns 8, one of an unknown handle 9.
The fix unit's request enters its own entry. Out of turn, before its time, or for a request of the other kind neither row does
anything. -/
def Obligations.CalendarService : Prop := ∀ (s : State),
  let cc := s.tb - s.tb % 2
  (∀ q, nextTurn s = some (.req q) →
    let asked (cancel : Bool) : Prop := q.cancel = cancel ∧ q.who.port ≠ 18
    let time (d : Nat) : Prop := q.tb + d ≤ cc ∧ ∀ t, s.cal.opTb = some t → t + d ≤ cc
    let served (t : State) : Prop := t.cal.reqs = s.cal.reqs.erase q ∧ t.cal.rr = q.who.port ∧ t.cal.opTb = some cc
    let res (t : State) (status : Nat) : Prop := served t ∧
      ∀ b : Fin 2, q.who = .bank b → (t.reg (Reg.CAL_RES b.val)).toNat / 2 ^ 28 = status
    let same (t : State) : Prop := t.cal = (servedReq s q).cal ∧ t.ch = s.ch
    let point := q.d2.toNat + q.d3.toNat * 2 ^ 32
    let legal : Prop := badDesc s q.d0 q.d1 q.d2 q.d4 = false ∧ q.d0.getLsbD 7 = false ∧ s.tb < 2 ^ 64 ∧ s.tb ≤ point ∧
      point < s.tb + 2 ^ 63
    let used := (s.cal.tab.filter fun e => decide (e.id < 147456)).length
    let id := s.cal.issue.1
    let gen := nextGen (s.cal.gen id)
    let hid := q.d0.toNat % 2 ^ 18
    let known : Prop := hid < 147456 ∧ s.cal.gen hid = q.d0.toNat / 2 ^ 18 % 2 ^ 10
    let entry (id gen : Nat) (st : CalState) (fire place : Nat) : CalEntry := {
      id := id, gen := gen, d0 := q.d0, d1 := q.d1, d2 := q.d2, d3 := q.d3, d4 := q.d4, st := st, fire := fire,
      armTb := s.tb, readyTb := s.tb, waited := false, retimed := none, slot := place, doomed := 0 }
    let spill : Prop := legal ∧ used ≥ 16384 ∧ s.rb Reg.CAL_SPILL_CTL 0 = true ∧ s.tb + 50000 ≤ point ∧ s.cal.spillBad = false ∧
      s.cal.spill.length < s.rf Reg.CAL_SPILL_CTL 15 8 * 1024 ∧ s.cal.spillAt = none
    let words := spillWords s (spillPlace s)
    (asked false → time 4 → q.d0.toNat % 8 ≥ 6 ∨ q.d0.toNat / 2 ^ 12 % 8 ≥ 5 ∨ q.d0 &&& 0x0F000008 ≠ 0 →
      ∃ t, exec .calInsert s = .next t ∧ res t 6 ∧ same t ∧ t.rb Reg.CAL_EVT 0 = true) ∧
    (asked false → time 4 → legal → used < 16384 → (∀ e ∈ s.cal.spill, e.waited = false ∧ spillDue s e = false) →
      s.cal.next < 147456 ∨ s.cal.freed ≠ [] → (∀ e ∈ s.cal.tab, e.id ≠ id) →
      ∃ t, exec .calInsert s = .next t ∧ res t (if point = s.tb then 2 else 0) ∧ t.ch = s.ch ∧
        (∀ b : Fin 2, q.who = .bank b → id < 2 ^ 18 → (t.reg (Reg.CAL_RES b.val)).toNat % 2 ^ 28 = gen * 2 ^ 18 + id) ∧
        t.cal.gen id = gen ∧ t.cal.tab = s.cal.tab ++ [entry id gen .armed (point * 16 + q.d0.toNat / 2 ^ 28) 0]) ∧
    (asked false → time 4 → legal → used ≥ 16384 → point < s.tb + 50000 → ∃ t, exec .calInsert s = .next t ∧ res t 3 ∧ same t) ∧
    (asked false → time 4 → legal → used ≥ 16384 → s.rb Reg.CAL_SPILL_CTL 0 = false → s.tb + 50000 ≤ point →
      ∃ t, exec .calInsert s = .next t ∧ res t 4 ∧ same t) ∧
    (asked false → time 32 → spill → Uncontested s → (∀ a ∈ words, GoodWord s 1 a) →
      ∃ t, exec .calInsert s = .next t ∧ res t 1 ∧ t.ch = s.ch ∧ t.cal.tab = s.cal.tab ∧ t.cal.spillAt = none ∧
        t.cal.spill = s.cal.spill ++ [entry id (t.cal.gen id) .pending 0 (spillPlace s)]) ∧
    (asked false → time 32 → spill → (∀ a ∈ words, s.fabric.used.contains (placeOf a) = true) → exec .calInsert s = .next { s with
      cal := { s.cal with spillAt := some { put := true, place := spillPlace s, done := [] } } }) ∧
    (asked false → time 32 → spill → Uncontested s → (∀ a ∈ words, inBorrowed s a = false) →
      (∀ a, words.head? = some a → splOwner s (a / 0x100000) ≠ 1 ∨ pwrNow s (a / 0x100000) ≠ .on) →
      ∃ t, exec .calInsert s = .next t ∧ res t 4 ∧ t.ch = s.ch ∧ t.cal.tab = s.cal.tab ∧ t.cal.spillBad = true ∧
        t.rb Reg.CAL_EVT 6 = true) ∧
    (asked true → time 4 → hid ≥ 147460 ∨ (hid < 147456 ∧ ¬known) → ∃ t, exec .entryCancel s = .next t ∧ res t 9 ∧ same t) ∧
    (∀ e, s.cal.find hid = some e → asked true → time 4 → known →
      (firesBefore (servedReq s q) e = true → ∃ t, exec .entryCancel s = .next t ∧ res t 8 ∧ same t) ∧
      (e.st = .pending → ∃ t, exec .entryCancel s = .next t ∧ res t 7 ∧ t.ch = s.ch ∧
        t.cal.tab = s.cal.tab.filter fun f => f.id != hid)) ∧
    (∀ k : Fin 4, q.who = .fix k → q.cancel = false → time 4 → ∃ t, exec .calInsert s = .next t ∧ served t ∧ t.ch = s.ch ∧
      (∀ e ∈ s.cal.tab, e.id ≠ 147456 + k.val → e ∈ t.cal.tab) ∧
      ∃ e, e ∈ t.cal.tab ∧ e.id = 147456 + k.val ∧ e.d0 = q.d0 ∧ e.d2 = q.d2 ∧ e.d3 = q.d3) ∧
    (¬time 4 → exec .calInsert s = .next s ∧ exec .entryCancel s = .next s) ∧
    (q.cancel = true → exec .calInsert s = .next s) ∧ (q.cancel = false → exec .entryCancel s = .next s)) ∧
  (nextTurn s = none ∨ nextTurn s = some .move → exec .calInsert s = .next s ∧ exec .entryCancel s = .next s)

/-- R111, R143, R148–R151, R153–R156: the calendar's stage. It takes the item whose turn it is: a KIND 0 entry loads the slot that R148
gives it, with its time, action and width, and one whose time falls before its first evaluation sets LATE_LOAD; the slot that it names is
the one where that is free and meets R111, and where the slot fails R111 the entry is removed with SLOT_UNUSABLE; where it must wait it
goes to WAITING. A dispatch performs the entry's action and removes it as fired. The spill list is enabled for a region of whole spools
that the calendar owns, and refused otherwise. The mover, in its turn, reads a spilled entry word by word as its banks are granted, and brings it into a table with
room; an entry that cannot be read is lost, with SPILL_ERR; with the table full
a due entry waits, with SPILL_DUE. With nothing to do a stage does nothing. -/
def Obligations.CalendarStages : Prop := ∀ (s : State) (m : Master) (w : Word),
  let size := w.toNat / 2 ^ 8 % 2 ^ 8
  let base := s.rf Reg.CAL_SPILL_BASE 31 4 * 16
  let last := base + 16 * (size * 1024) - 1
  let region : Prop := 1 ≤ size ∧ size ≤ 128 ∧ last < 0x800000 ∧ last / 0x100000 ≤ base / 0x100000 + 1 ∧
    splOwner s (base / 0x100000) = 1 ∧ splOwner s (last / 0x100000) = 1
  (∀ e, nextLoad s = some (.entry e) → e.d0.toNat % 8 = 0 → e.st ≠ .loaded →
    let n : Nat := e.d1.toNat % 128
    let z : Nat := e.d1.toNat / 2 ^ 8 % 8
    let slot (t : State) (x : Nat) := (t.chAt n).slotAt x
    let usable (x : Nat) : Prop := s.rb (Reg.CH_CTL n) 0 = true ∧ s.rf (Reg.CH_CTL n) 3 1 = 0 ∧ exgMember s n = false ∧
      s.rf (Reg.CH_SLOT n (x / 2)) (16 * (x % 2) + 1) (16 * (x % 2)) = 1
    let owned (x : Nat) : Prop := ¬(x = 3 ∧ s.rf (Reg.TIO_CFG n) 2 0 = 4) ∧
      s.rb (Reg.CH_SLOT n (x / 2)) (16 * (x % 2) + 11) = true
    let load : CalLoad := {
      id := e.id, act := e.d0.toNat / 16 % 8, frac := e.fire % 16, width := e.d4, tb := s.tb, bnd := (0, 0) }
    (z < 4 → owned z → (slot s z).armed = false → usable z → serveKind0 s e = .load z) ∧
    (z < 4 → ¬owned z ∨ ((slot s z).armed = false ∧ ¬usable z) → serveKind0 s e = .unusable) ∧
    (∀ x : Fin 4, serveKind0 s e = .load x.val → ∃ t, exec .entryLoad s = .next t ∧ (slot t x.val).armed = true ∧
      (slot t x.val).cmp = BitVec.ofNat 32 (e.fire / 16) ∧ (slot t x.val).load = some load ∧ t.cal.loadTb = some s.tb ∧
      (∃ f, f ∈ t.cal.tab ∧ f.id = e.id ∧ f.st = .loaded ∧ f.slot = x.val) ∧
      (∀ j : Fin 128, j.val ≠ n → t.chAt j.val = s.chAt j.val) ∧ (e.fire < (s.tb + 1) * 16 → t.rb Reg.CAL_EVT 2 = true)) ∧
    (serveKind0 s e = .unusable → ∃ t, exec .entryLoad s = .next t ∧ t.ch = s.ch ∧ t.rb Reg.CAL_EVT 4 = true ∧
      t.cal.tab = s.cal.tab.filter fun f => f.id != e.id) ∧
    (serveKind0 s e = .wait → ∃ t, exec .entryLoad s = .next t ∧ t.ch = s.ch ∧ t.rb Reg.CAL_EVT 3 = true ∧
      ∃ f, f ∈ t.cal.tab ∧ f.id = e.id ∧ f.st = .waiting)) ∧
  (nextLoad s = none → exec .entryLoad s = .next s) ∧
  (∀ e, nextDispatch s = some e → ∃ t, exec .entryDispatch s = .next t ∧ t.cal.loadTb = some s.tb ∧
    t.cal.tab = s.cal.tab.filter (fun f => f.id != e.id) ∧ e.id ∈ t.cal.fired ∧ t.ch = s.ch ∧
    (e.d0.toNat % 8 = 4 → (s.tb - s.tb % 2 + 3, Due.exgFix (e.d1.toNat % 16)) ∈ t.due)) ∧
  (nextDispatch s = none → exec .entryDispatch s = .next s) ∧
  (reachesRegs m = true → s.rb Reg.CAL_SPILL_CTL 0 = false →
    (region → ∃ t, exec (.spillEnable m w) s = .next t ∧ t.reg Reg.CAL_SPILL_CTL = (w &&& 0xFF00) ||| 1 ∧
      t.cal = { s.cal with spillBad := false, spillAt := none } ∧ t.tb = s.tb) ∧
    (¬region → ∃ t, exec (.spillEnable m w) s = .next t ∧ t.reg Reg.CAL_SPILL_CTL = w &&& 0xFF00 ∧ t.rb Reg.CAL_EVT 6 = true ∧
      t.cal = s.cal)) ∧
  (reachesRegs m = true → s.rb Reg.CAL_SPILL_CTL 0 = true → exec (.spillEnable m w) s = .next (answered .ok 0 s)) ∧
  (s.cal.spill = [] → exec .spillMove s = .next s) ∧
  (∀ e, s.cal.spill = [e] → e.doomed = 0 → s.cal.used < 16384 → nextTurn s = some .move →
    (∀ t, s.cal.opTb = some t → t + 32 ≤ s.tb - s.tb % 2) → s.cal.spillAt = none →
    (Uncontested s → (∀ a ∈ spillWords s e.slot, GoodWord s 1 a) →
      ∃ t, exec .spillMove s = .next t ∧ t.cal.spill = [] ∧ t.ch = s.ch ∧ t.cal.rr = 19 ∧
        ∃ f, f ∈ t.cal.tab ∧ f.id = e.id ∧ f.d0 = e.d0 ∧ f.d1 = e.d1 ∧ f.d2 = e.d2 ∧ f.d3 = e.d3 ∧ f.d4 = e.d4) ∧
    (Uncontested s → (∀ a ∈ spillWords s e.slot, inBorrowed s a = false) → (∀ a, (spillWords s e.slot).head? = some a →
      splOwner s (a / 0x100000) ≠ 1 ∨ pwrNow s (a / 0x100000) ≠ .on ∨ sparseRead zeroNat s.ecc a = 2) →
      ∃ t, exec .spillMove s = .next t ∧ t.cal.spill = [] ∧ t.cal.tab = s.cal.tab ∧ t.ch = s.ch ∧ t.rb Reg.CAL_EVT 6 = true) ∧
    ((∀ a ∈ spillWords s e.slot, s.fabric.used.contains (placeOf a) = true) → exec .spillMove s = .next { s with
      cal := { s.cal with spillAt := some { put := false, place := e.slot, done := [] } } })) ∧
  (∀ e, s.cal.spill = [e] → e.doomed = 0 → 16384 ≤ s.cal.used → e.waited = false → spillDue s e = true →
    ∃ t, exec .spillMove s = .next t ∧ t.cal = { s.cal with spill := [{ e with waited := true }] } ∧ t.rb Reg.CAL_EVT 5 = true) ∧
  (∀ e, s.cal.spill = [e] → e.doomed = 0 → 16384 ≤ s.cal.used → (e.waited = true ∨ spillDue s e = false) →
    exec .spillMove s = .next s)

/-- R39, R211–R214, R216, R219, R220, R240: the contact engine's commands. EN 1 takes the configuration when the plane and the step are
legal, and otherwise sets CFG_ERR and changes nothing; while EN is 1 its locked fields keep their values. GO starts a series at the cycle
that CT_START_CYC gives, when that has not passed; HALT ends playback and discards what is converted; BLANK also takes every row to 0;
JUMP sets the column of the next boundary; CLR_CNT clears the count. A fetch reads the words of the column one from each bank in a cc, at most two from a bank in 16 cc; once it has
them all, each row of its lane group takes its bit of the column, rows beyond the row blocks, those of a blank column and those of a spool
that is not ON 0; a word in error leaves its rows and sets PLANE_ECC; where a word's spool is not CONTACT's no row takes a level, PLANE_OWN
sets and playback ends, whatever the spool's power state. A fetch that the arbitration does not grant changes nothing. -/
def Obligations.ContactPlayback : Prop := ∀ (s : State) (m : Master) (w : Word),
  let rows := s.rf Reg.CT_GEOM 3 0
  let base := s.rf Reg.CT_BASE 31 4 * 16
  let top := base + (s.rf Reg.CT_GEOM 30 16 + 1) * 16 * rows
  let step := (s.reg Reg.CT_STEP).toNat
  let legal : Prop := 1 ≤ rows ∧ rows ≤ 8 ∧ top ≤ 0x800000 ∧ 256 ≤ step ∧ step ≤ 0x80000000 ∧
    ∀ p : Fin 8, p.val * 0x100000 < top → base < (p.val + 1) * 0x100000 → splOwner s p.val = 2
  let c := (w &&& 0xF7713) ||| 1
  let u := s.rf Reg.CT_CTL 14 12
  let k := max 1 (s.rf (Reg.SPK_CYCLE u) 15 0) * 65536
  let start := (s.reg Reg.CT_START_CYC).toNat
  let now := (spkPosNow s u).2.toNat * k + (spkPosNow s u).1.toNat
  let evt (t : State) (b : Nat) : Prop := t.rb Reg.CT_EVT b = true
  let halted (t : State) : Prop := t.ct.run = false ∧ t.ct.waitStart = false ∧ t.ct.conv = [] ∧ t.ct.bnds = [] ∧ t.tb = s.tb ∧
    t.spk = s.spk ∧ (s.ct.run = true → evt t 1)
  (reachesRegs m = true →
    (s.rb Reg.CT_CTL 0 = false → legal → ∃ t, exec (.ctEnable m w) s = .next t ∧ t.reg Reg.CT_CTL = c ∧ t.ct.run = s.ct.run ∧
      t.ct.held = !(s.spkAt (w.toNat / 2 ^ 12 % 8)).st.valid ∧ t.tb = s.tb ∧ t.link = s.link) ∧
    (¬legal → ∃ t, exec (.ctEnable m w) s = .next t ∧ t.reg Reg.CT_CTL = s.reg Reg.CT_CTL ∧ evt t 10 ∧ t.ct = s.ct) ∧
    (s.rb Reg.CT_CTL 0 = true → legal → ∃ t, exec (.ctEnable m w) s = .next t ∧
      t.reg Reg.CT_CTL = (c &&& ~~~0x7702) ||| (s.reg Reg.CT_CTL &&& 0x7702) ∧ t.ct = s.ct) ∧
    (s.rb Reg.CT_CTL 0 = false → ∃ t, exec (.ctGo m) s = .next t ∧ evt t 10 ∧ t.ct = s.ct) ∧
    (s.rb Reg.CT_CTL 0 = true → ∃ t, exec (.ctGo m) s = .next t ∧ t.ct.run = false ∧ t.ct.waitStart = true ∧ t.ct.blanked = false ∧
      t.ct.jump = none ∧ t.ct.conv = [] ∧ t.tb = s.tb ∧ t.spk = s.spk ∧
      (now ≤ start * k + (s.reg Reg.CT_ORG).toNat → t.ct.nextC = start ∧ t.ct.nextJ = 0 ∧ t.ct.nextCol = some 0) ∧
      (start * k + (s.reg Reg.CT_ORG).toNat < now → evt t 2)) ∧
    (∃ t, exec (.ctHalt m) s = .next t ∧ halted t) ∧
    (∃ t, exec (.ctBlank m) s = .next t ∧ halted t ∧ t.ct.blanked = true ∧ ∀ r : Fin 1024, t.ct.rows.getLsbD r.val = false) ∧
    exec (.ctJump m) s = .next (answered .ok 0 { s with ct := { s.ct with jump := some (s.rf Reg.CT_JUMP 14 0) } }) ∧
    (∃ t, exec (.ctClrCnt m) s = .next t ∧ t.ct = s.ct ∧ t.reg Reg.CT_CNT = 0 ∧ t.reg Reg.CT_EVT = s.reg Reg.CT_EVT)) ∧
  (∀ d, s.ct.conv = [d] → d.fetched = false →
    let lane (r : Nat) : Prop := laneOf s r = d.lane
    let left := (fetchLeft s d).map (colAddr d)
    let free : Prop := Uncontested s ∧ ∀ a ∈ left, contactSpent s (placeOf a) = false ∧ inBorrowed s a = false
    let lit (r : Nat) : Bool :=
      let a := d.b.geo.base + d.b.col.getD 0 * 16 * d.b.geo.rb + 4 * (r / 32)
      if 4 * d.b.geo.rb ≤ r / 32 then false
      else match d.got.find? (fun p => p.1 == r / 32) with
        | some (_, some w) => w.getLsbD (r % 32)
        | some (_, none) => s.ct.rows.getLsbD r
        | none => if pwrNow s (a / 0x100000) ≠ .on then false else if 2 ≤ sparseRead zeroNat s.ecc a then s.ct.rows.getLsbD r
          else (memWord s.mem a).getLsbD (r % 32)
    (d.b.col = none → s.ct.rowQ = [] → ∃ t, exec .columnFetch s = .next t ∧ t.ct.conv = [{ d with fetched := true }] ∧ t.tb = s.tb ∧
      t.mem = s.mem ∧ ∀ r : Fin 1024, t.ct.rows.getLsbD r.val = (s.ct.rows.getLsbD r.val && decide (¬lane r.val))) ∧
    (d.b.col ≠ none → free → (∀ a ∈ left, splOwner s (a / 0x100000) = 2) → (left.map placeOf).Nodup → s.ct.rowQ = [] →
      ∃ t, exec .columnFetch s = .next t ∧ (∃ f, t.ct.conv = [f] ∧ f.fetched = true) ∧ t.tb = s.tb ∧ t.mem = s.mem ∧
        (∀ r : Fin 1024, t.ct.rows.getLsbD r.val = if lane r.val then lit r.val else s.ct.rows.getLsbD r.val) ∧
        ((∃ a, a ∈ left ∧ pwrNow s (a / 0x100000) = .on ∧ 2 ≤ sparseRead zeroNat s.ecc a) → evt t 6)) ∧
    (free → (∀ a ∈ left, GoodWord s 2 a) → ¬(left.map placeOf).Nodup →
      ∃ t, exec .columnFetch s = .next t ∧ t.ct.rows = s.ct.rows ∧ t.tb = s.tb ∧ t.mem = s.mem ∧ ∃ f, t.ct.conv = [f] ∧
        f = { d with got := f.got } ∧ (∀ p ∈ d.got, p ∈ f.got) ∧ (∀ p ∈ f.got, p ∈ d.got ∨ p.2 = some (memWord s.mem (colAddr d p.1))) ∧
        ∀ i ∈ fetchLeft s d, ∃ p, p ∈ f.got ∧ placeOf (colAddr d p.1) = placeOf (colAddr d i)) ∧
    (free → (∀ a, left.head? = some a → splOwner s (a / 0x100000) ≠ 2) → left ≠ [] →
      ∃ t, exec .columnFetch s = .next t ∧ evt t 7 ∧ t.ct.run = false ∧ t.ct.rows = s.ct.rows ∧ t.mem = s.mem) ∧
    ((∀ a ∈ left, s.fabric.used.contains (placeOf a) = true ∨ contactSpent s (placeOf a) = true) → left ≠ [] →
      exec .columnFetch s = .next s)) ∧
  ((∀ d ∈ s.ct.conv, d.fetched = true) → exec .columnFetch s = .next s)

/-- R212, R226, R230, R231, R233, R234, R238: the frames of a strip link that is up. At the sampling time of its window it sends a frame of
128 cells under the window's sequence number, in the characters of Table 6-1; a cell beyond the driver's capacity is 0, in safe state a
cell carries its safe level, and with nothing to play it carries its level as it stands, one of the plane's beyond the row blocks 0. A
status frame with a bad CRC only counts; one that answers no recent frame sets SEQ_ERR; a good one gives status and faults, and ends the
count of missed ones. Violations among its characters count in any state. On another link, or early, nothing else happens. -/
def Obligations.LinkFrames : Prop := ∀ (s : State) (n : Unit3) (f : StatusFrame),
  let l := s.linkAt n.val
  let strip : Prop := s.rf (Reg.LINK_CTL n.val) 1 0 = 1 ∧ l.st = .up
  let sample := l.nextW * 1000 - s.rf (Reg.LINK_LEAD n.val) 15 0 - 80
  let cap := s.rf (Reg.LINK_DRV n.val) 7 0
  let level (b : Bool) : Byte := if b then 0x80 else 0
  let driven (c : Nat) : Bool := s.rb (Reg.LINK_OWN n.val (c / 32)) (c % 32) || !beyondPlane s n.val c
  let others (t : State) : Prop := (∀ j : Unit3, j ≠ n → t.linkAt j.val = s.linkAt j.val) ∧ t.tb = s.tb
  let noted : State := linkCodeErr s n.val f.codeErrs.toNat
  (strip → sample ≤ s.tb → ∃ t, exec (.frameSample n) s = .next t ∧ others t ∧
    (t.linkAt n.val).nextW = l.nextW + 1 ∧ (t.linkAt n.val).frameSeq = l.nextW % 256 ∧
    (t.linkAt n.val).sentSeq = (l.nextW % 256 :: l.sentSeq).take 4 ∧ (t.linkAt n.val).missed = l.missed + 1 ∧
    (t.linkAt n.val).frame.length = 128 ∧ (t.linkAt n.val).safeSent = s.safe.safe ∧
    (t.linkAt n.val).tx = [K28_5, K27_7] ++ chars ([BitVec.ofNat 8 l.nextW] ++ (t.linkAt n.val).frame ++
      crcBytes ([BitVec.ofNat 8 l.nextW] ++ (t.linkAt n.val).frame)) ∧
    (s.safe.safe = true → ∀ c : Fin 128, (t.linkAt n.val).frame.getD c.val 0 =
      level (decide (c.val < cap) && s.rb (Reg.SAFE_RLVL (4 * n.val + c.val / 32)) (c.val % 32))) ∧
    (s.safe.safe = false → l.edges = [] → l.queue = [] → l.ends = [] → (∀ i : Fin 4, s.reg (Reg.GUARD_RG i.val) = 0) →
      (∀ i : Fin 16, (s.mtrAt (128 + 16 * n.val + i.val)).forced = false) → ∀ c : Fin 128, (t.linkAt n.val).frame.getD c.val 0 =
        level (decide (c.val < cap) && driven c.val && l.cells.getLsbD c.val))) ∧
  (¬strip ∨ s.tb < sample → exec (.frameSample n) s = .next s) ∧
  (strip → f.crcOk = false → exec (.statusFrame n f) s = .next (noted.bump (Reg.LINK_ERRCNT n.val 0) 31 16)) ∧
  (strip → f.crcOk = true → f.seq.toNat ∉ l.sentSeq → ∃ t, exec (.statusFrame n f) s = .next t ∧ t.link = s.link ∧
    t.rb (Reg.LINK_EVT n.val) 10 = true ∧ t.reg (Reg.LINK_RSTAT n.val) = s.reg (Reg.LINK_RSTAT n.val)) ∧
  (strip → f.crcOk = true → f.seq.toNat ∈ l.sentSeq → ∃ t, exec (.statusFrame n f) s = .next t ∧ others t ∧
    t.linkAt n.val = { l with missed := 0 } ∧ t.reg (Reg.LINK_RSTAT n.val) = f.rxerr ++ f.temp ++ f.dstat ++ f.seq ∧
    (∀ i : Fin 4, t.reg (Reg.LINK_FAULT n.val i.val) = f.fault.extractLsb' (32 * i.val) 32) ∧
    ((∃ i : Fin 4, s.reg (Reg.LINK_FAULT n.val i.val) ≠ f.fault.extractLsb' (32 * i.val) 32) → t.rb (Reg.LINK_EVT n.val) 3 = true)) ∧
  (¬strip → exec (.statusFrame n f) s = .next noted)

/-- R230, R235, R236, R239, Table 6-4: the states of a Korok link, with the cascade off. A mode write restarts it; mode 3 is refused. ALIGN
becomes TRAIN once commas are seen; training asks every 2 µs, collects eight answers, and ends UP with the round trip and the lead they
give, or in LOSS where an answer names another version; answers that do not come begin it anew, at most 4 times (log entry 67). A lost
lock, or LOSS_N periods without a status frame, ends UP in LOSS; there AUTO_RETRAIN aligns it again after 10 µs, and RETRAIN at once. In
any other state the row changes nothing but the count of violations. -/
def Obligations.LinkTraining : Prop := ∀ (s : State) (m : Master) (n : Unit3) (w : Word) (a : TrainAnswer),
  let l := s.linkAt n.val
  let mode := s.rf (Reg.LINK_CTL n.val) 1 0
  let others (t : State) : Prop := (∀ j : Unit3, j ≠ n → t.linkAt j.val = s.linkAt j.val) ∧ t.tb = s.tb
  let evt (t : State) (b : Nat) : Prop := t.rb (Reg.LINK_EVT n.val) b = true
  let due : Prop := l.st = .train ∧ (l.reqs = 0 ∨ l.reqTb + 2000 ≤ s.tb) ∧ ¬(mode = 2 ∧ n.val ≠ 7)
  let full : Prop := (if mode = 2 then 16 else 8) * (l.tries + 1) ≤ l.reqs
  let asked : State := s.modLink n.val fun l => { l with reqs := l.reqs + 1, reqTb := s.tb, tx := trainingRequest s n.val }
  let awaited : Prop := mode = 1 ∧ l.st = .train ∧ l.rtts.length + 8 * l.tries < l.reqs
  let answered1 : Prop := awaited ∧ a.crcOk = true
  let noted : State := linkCodeErr s n.val a.codeErrs.toNat
  let lead : Int := ((a.rtt : Int) - 4 * a.turn.toNat + 2 * a.drvRef.toNat + 7) / 8 * 4
  let quiet : Prop := mode = 1 ∧ max 1 (s.rf (Reg.LINK_PARAM n.val) 15 8) ≤ l.missed ∧
    l.nextW * 1000 - s.rf (Reg.LINK_LEAD n.val) 15 0 - 80 ≤ s.tb
  s.rb Reg.CAS_CTL 0 = false →
  (reachesRegs m = true →
    (w.toNat % 4 = 1 ∨ w.toNat % 4 = 2 → ∃ t, exec (.linkModeWrite m n w) s = .next t ∧ others t ∧
      t.reg (Reg.LINK_CTL n.val) = w &&& 0x33 ∧ (t.linkAt n.val).st = .align ∧ (t.linkAt n.val).queue = []) ∧
    (w.toNat % 4 = 0 → ∃ t, exec (.linkModeWrite m n w) s = .next t ∧ others t ∧ t.reg (Reg.LINK_CTL n.val) = w &&& 0x33 ∧
      (t.linkAt n.val).st = .off ∧ (t.linkAt n.val).queue = []) ∧
    (w.toNat % 4 = 3 → ∃ t, exec (.linkModeWrite m n w) s = .next t ∧ t.link = s.link ∧ evt t 11 ∧
      t.rf (Reg.LINK_CTL n.val) 1 0 = mode) ∧
    (l.st ≠ .off → ∃ t, exec (.retrain m n) s = .next t ∧ others t ∧ (t.linkAt n.val).st = .align ∧ (t.linkAt n.val).queue = []) ∧
    (l.st = .off → exec (.retrain m n) s = .next (answered .ok 0 s)) ∧
    (∃ t, exec (.linkClrCnt m n) s = .next t ∧ t.link = s.link ∧ ∀ i : Fin 3, t.reg (Reg.LINK_ERRCNT n.val i.val) = 0)) ∧
  (l.st = .align → ∃ t, exec (.linkAlign n) s = .next t ∧ others t ∧ t.linkAt n.val = { l with st := .train } ∧
    t.rb Reg.CLK_STAT (8 + n.val) = true) ∧
  (l.st ≠ .align → exec (.linkAlign n) s = .next s) ∧
  (due → ¬full → exec (.trainingRequest n) s = .next asked) ∧
  (due → full → l.tries < 4 → exec (.trainingRequest n) s =
    .next (asked.modLink n.val fun l => { l with rtts := [], tries := l.tries + 1 })) ∧
  (due → full → 4 ≤ l.tries → ∃ t, exec (.trainingRequest n) s = .next t ∧ others t ∧ (t.linkAt n.val).st = .loss ∧ evt t 2 ∧ evt t 1) ∧
  (¬due → exec (.trainingRequest n) s = .next s) ∧
  (answered1 → a.version = 1 → l.rtts.length < 7 → ∃ t, exec (.trainingAnswer n a) s = .next t ∧ others t ∧
    t.linkAt n.val = { l with rtts := l.rtts ++ [a.rtt], anyCrcOk := true, lastAns := some a }) ∧
  (awaited → a.crcOk = false → l.rtts.length < 7 → exec (.trainingAnswer n a) s =
    .next (noted.modLink n.val fun l => { l with rtts := l.rtts ++ [a.rtt] })) ∧
  (answered1 → a.version = 1 → l.rtts = List.replicate 7 a.rtt → 560 ≤ a.drvRef.toNat → 0 ≤ lead → lead ≤ 16000 → a.rtt < 2 ^ 16 →
    ∃ t, exec (.trainingAnswer n a) s = .next t ∧ others t ∧ (t.linkAt n.val).st = .up ∧ evt t 0 ∧
      (t.reg (Reg.LINK_LEAD n.val)).toNat = lead ∧ (t.reg (Reg.LINK_RTT n.val)).toNat = a.rtt ∧
      t.reg (Reg.LINK_DRVID n.val) = a.ident ∧ t.rf (Reg.LINK_DRV n.val) 7 0 = a.cap.toNat) ∧
  (answered1 → a.version ≠ 1 → ∃ t, exec (.trainingAnswer n a) s = .next t ∧ (t.linkAt n.val).st = .loss ∧ evt t 2 ∧ evt t 1) ∧
  (¬awaited → exec (.trainingAnswer n a) s = .next noted) ∧
  (l.st = .up → ∃ t, exec (.linkLoss n true) s = .next t ∧ others t ∧ (t.linkAt n.val).st = .loss ∧ (t.linkAt n.val).lossTb = s.tb ∧
    (t.linkAt n.val).queue = [] ∧ evt t 1) ∧
  (l.st = .up → quiet → ∃ t, exec (.linkLoss n false) s = .next t ∧ others t ∧ (t.linkAt n.val).st = .loss ∧
    (t.linkAt n.val).lossTb = s.tb ∧ (t.linkAt n.val).queue = [] ∧ evt t 1) ∧
  (l.st ≠ .up ∨ ¬quiet → exec (.linkLoss n false) s = .next s) ∧
  (l.st = .loss → s.rb (Reg.LINK_CTL n.val) 4 = true → l.lossTb + 10000 ≤ s.tb → ∃ t, exec (.autoRetrain n) s = .next t ∧ others t ∧
    (t.linkAt n.val).st = .align) ∧
  (l.st ≠ .loss ∨ s.rb (Reg.LINK_CTL n.val) 4 = false ∨ s.tb < l.lossTb + 10000 → exec (.autoRetrain n) s = .next s)

/-- R242, R243, R246–R252, R265: enable and staging of an exposure group, while no trip input is asserted, no mask change waits, and the
queue holds no period start or reload of the group for this tb. A group that starts takes every staged value, restarts its period, and
refuses with CFG_ERR a commutation source of its own. A staged write leaves the active value. A FIX is pending until the next reload,
which then takes the staged values, and is deferred while only one of PER and DUTY of a pair is written; FORCE does not wait for the pair;
a further FIX changes nothing but for a reload of its own tb; DISCARD undoes both. A period start advances the period and its phase. -/
def Obligations.ExposureStaging : Prop := ∀ (s : State) (m : Master) (g : Fin 16) (j : Fin 16) (w : Word),
  let ctl := Reg.EXG_CTL g.val
  let x := s.exgAt g.val
  let on : Prop := s.rb ctl 0 = true
  let place (j : Fin 16) : Nat := 0x00830010 + 0x100 * g.val + 4 * j.val
  let calm : Prop := s.trip = 0 ∧ ∀ i : Fin 16, (s.exgAt i.val).mpNext = none
  let alone : Prop := startWaits s g.val = false ∧ reloadWaits s g.val = false
  let comm (i : Nat) := s.reg (Reg.EXG_COMM i)
  let legal (i width : Nat) : Prop := let p := (comm i).toNat / 2 ^ 8 % 2 ^ 7
    ¬((comm i).toNat % 4 = 1 ∧ p / 8 = i ∧ p % 8 < width + 1) ∧ ¬((comm i).toNat % 4 = 2 ∧ 125 < p)
  let width := w.toNat / 2 ^ 4 % 8
  let commands : Prop := masterSecure (masterNow s m) = true ∨ (reachesRegs m = true ∧ s.reg (Reg.EXG_CMD g.val) = 0)
  let period := max 2 ((s.reg (0x00830090 + 0x100 * g.val)).toNat % 2 ^ 28) * (s.rf ctl 31 24 + 1)
  let reloads := min 256 (max 1 ((s.reg (0x00830094 + 0x100 * g.val)).toNat % 2 ^ 9))
  let started (t : State) (i : Fin 16) : Prop := t.rb (Reg.EXG_CTL i.val) 0 = true ∧ (t.exgAt i.val).startTb = s.tb ∧
    (t.exgAt i.val).phase = 0 ∧
    (t.exgAt i.val).fixTb = (match (s.exgAt i.val).fixTb with | some f => if f < s.tb then none else some s.tb | none => none) ∧
    (∀ f, (s.exgAt i.val).fixTb = some f → f < s.tb → (s.tb + 1, Due.exgDone i.val) ∈ t.due) ∧
    ∀ k : Fin 16, t.reg (0x00830090 + 0x100 * i.val + 4 * k.val) = s.reg (0x00830010 + 0x100 * i.val + 4 * k.val)
  (reachesRegs m = true → calm → x.late = [] → ¬on → legal g.val width → ∃ t, exec (.exgEnable m g w) s = .next t ∧
      started t g ∧ t.tb = s.tb ∧ ∀ i : Fin 16, i ≠ g → t.exgAt i.val = s.exgAt i.val) ∧
  (reachesRegs m = true → ¬on → ¬legal g.val width → ∃ t, exec (.exgEnable m g w) s = .next t ∧ t.rb ctl 0 = false ∧
      t.exg = s.exg ∧ t.rb (Reg.EXG_EVT g.val) 9 = true) ∧
  (reachesRegs m = true → on → ∃ t, exec (.exgEnable m g w) s = .next t ∧ t.rb ctl 0 = true ∧ t.exg = s.exg ∧ t.tb = s.tb ∧
    t.rf ctl 6 4 = s.rf ctl 6 4 ∧ t.rf ctl 31 24 = s.rf ctl 31 24 ∧ t.rb ctl 15 = w.getLsbD 15 ∧ t.rb (Reg.EXG_EVT g.val) 8 = true) ∧
  (reachesRegs m = true → on → ∃ t, exec (.exgDisable m g w) s = .next t ∧ t.rb ctl 0 = false ∧ t.tb = s.tb ∧
    (t.exgAt g.val).cut = false ∧ ∀ c : Fin 8, c.val < s.rf ctl 6 4 + 1 → (t.chAt (8 * g.val + c.val)).cnt = 0 ∧
      ∀ y : Fin 4, ((t.chAt (8 * g.val + c.val)).slotAt y.val).armed = false) ∧
  (reachesRegs m = true → ¬on → ∃ t, exec (.exgDisable m g w) s = .next t ∧ t.rb ctl 0 = false ∧ t.exg = s.exg ∧ t.ch = s.ch) ∧
  (reachesRegs m = true → calm →
    (∀ i : Fin 16, w.getLsbD i.val = true → s.rb (Reg.EXG_CTL i.val) 0 = false ∧ legal i.val (s.rf (Reg.EXG_CTL i.val) 6 4) ∧
      (s.exgAt i.val).late = []) →
    ∃ t, exec (.exgGo m w) s = .next t ∧ t.tb = s.tb ∧ ∀ i : Fin 16, (w.getLsbD i.val = true → started t i) ∧
      (w.getLsbD i.val = false → t.exgAt i.val = s.exgAt i.val)) ∧
  (reachesRegs m = true → x.deferred = false → x.reloadTb ≠ some s.tb → ∃ t, exec (.exgStagedWrite m g (0x10 + 4 * j.val) w) s = .next t ∧
    t.reg (place j) = mergeBits (s.reg (place j)) w (regDesc (place j)).rw ∧ t.reg (place j + 0x80) = s.reg (place j + 0x80) ∧
    (t.exgAt g.val).wPer = (x.wPer || decide (j.val = 0)) ∧ (t.exgAt g.val).wDuty = (x.wDuty || (decide (4 ≤ j.val) && decide (j.val < 12))) ∧
    (t.exgAt g.val).fixTb = x.fixTb) ∧
  (commands → alone → x.fixTb.isSome = true →
    let more (force : Bool) := answered .ok 0 (s.modExg g.val fun x => { x with fixMore := some (s.tb, force) })
    exec (.exgFix m g) s = .next (more false) ∧ exec (.fixForce m g) s = .next (more true)) ∧
  (commands → alone → x.fixTb = none → x.reloadTb ≠ some s.tb →
    let pend := answered .ok 0 (s.modExg g.val fun x => { x with fixTb := some s.tb, deferred := false })
    exec (.fixForce m g) s = .next pend ∧ (s.rb ctl 15 = false ∨ x.wPer = x.wDuty → exec (.exgFix m g) s = .next pend)) ∧
  (commands → alone → x.fixTb = none → s.rb ctl 15 = true → x.wPer ≠ x.wDuty → ∃ t, exec (.exgFix m g) s = .next t ∧
    t.exgAt g.val = { x with deferred := true } ∧ t.rb (Reg.EXG_EVT g.val) 2 = true) ∧
  (commands → alone → ∃ t, exec (.exgDiscard m g) s = .next t ∧ t.tb = s.tb ∧ (t.exgAt g.val).wPer = false ∧
    (t.exgAt g.val).wDuty = false ∧ (t.exgAt g.val).fixTb = none ∧ (t.exgAt g.val).deferred = false ∧ (t.exgAt g.val).mp = x.mp ∧
    (t.exgAt g.val).phase = x.phase ∧ (t.exgAt g.val).tripped = x.tripped ∧
    ∀ k : Fin 16, t.reg (place k) = s.reg (place k + 0x80) ∧ t.reg (place k + 0x80) = s.reg (place k + 0x80)) ∧
  (on → calm → reloadWaits s g.val = false → x.startTb + period ≤ s.tb → ∃ t, exec (.periodStart g) s = .next t ∧ t.tb = s.tb ∧
    (t.exgAt g.val).startTb = x.startTb + period ∧ (t.exgAt g.val).phase = x.phase + 1 ∧ (t.exgAt g.val).cut = false ∧
    (t.exgAt g.val).clearing = false ∧ (t.exgAt g.val).tripped = x.tripped ∧ (t.exgAt g.val).fixTb = x.fixTb) ∧
  (¬on ∨ s.tb < x.startTb + period → exec (.periodStart g) s = .next s) ∧
  (on → startWaits s g.val = false → reloads ≤ x.phase → x.fixTb = none → exec (.reload g) s = .next (s.modExg g.val fun x =>
    { x with phase := 0, reloadTb := some x.startTb, reloadDone := false })) ∧
  (∀ f, x.fixTb = some f → on → startWaits s g.val = false → reloads ≤ x.phase → f < x.startTb → x.late = [] → (∀ force, x.fixMore ≠ some (x.startTb, force)) →
    ∃ t, exec (.reload g) s = .next t ∧ t.tb = s.tb ∧
    (t.exgAt g.val).fixTb = none ∧ (t.exgAt g.val).phase = 0 ∧ (t.exgAt g.val).wPer = false ∧ (t.exgAt g.val).wDuty = false ∧
    (s.tb + 1, Due.exgDone g.val) ∈ t.due ∧
    ∀ k : Fin 16, t.reg (place k + 0x80) = s.reg (place k) ∧ t.reg (place k) = s.reg (place k)) ∧
  (∀ f, x.fixTb = some f → on → startWaits s g.val = false → reloads ≤ x.phase → f = x.startTb → ∃ t, exec (.reload g) s = .next t ∧
    t.tb = s.tb ∧ (t.exgAt g.val).fixTb = some f ∧ (t.exgAt g.val).phase = 0 ∧ t.rb (Reg.EXG_EVT g.val) 1 = true) ∧
  (startWaits s g.val = false → ¬on ∨ x.phase < reloads → exec (.reload g) s = .next s)

/-- R253–R264: triggers, commutation and trips of an exposure group. A trigger compare starts its pin's pulse when the count becomes its
value; the pulse ends in its tb. COMM_SET and a commutation event move the mask pointer, which governs 2 tb later: an event is slot A of
the source channel firing, a change of its three inputs, or a published tooth, in that tb, and moves a group that selects its source. An input at its asserting level is asserted
when it has held for the filter time, and then latches every group that maps it and is not blanked; the input's end unlatches nothing.
TRIP_CLR clears the latch once no mapped input is asserted or becomes so in that tb, for a secure master alone. A blanking window's end
lets inputs still asserted act. -/
def Obligations.ExposureTrips : Prop := ∀ (s : State) (m : Master) (g i : Fin 16) (k : Fin 4) (p mp : Fin 8) (lvl : Bool) (stamp : Nat)
    (back : Option Nat) (src : Fin 4),
  let x := s.exgAt g.val
  let on : Prop := s.rb (Reg.EXG_CTL g.val) 0 = true
  let map := s.reg (Reg.EXG_TRIPMAP g.val)
  let mapped : BitVec 16 := map.extractLsb' 0 16 ||| map.extractLsb' 16 16
  let comm := s.reg (Reg.EXG_COMM g.val)
  let entry := s.reg (Reg.EXG_MTAB g.val x.mp)
  let commands : Prop := masterSecure (masterNow s m) = true ∨ (reachesRegs m = true ∧ s.reg (Reg.EXG_CMD g.val) = 0)
  let trig := s.rf (Reg.EXG_TRGCFG g.val) (8 * k.val + 7) (8 * k.val)
  let value := (s.reg (0x008300C0 + 0x100 * g.val + 4 * k.val)).toNat % 2 ^ 28
  let fires : Prop := on ∧ trig.testBit 3 = true ∧ value < exgPer s g.val ∧ countBecomes s g.val value = true
  let moves (n : Nat) : State := (s.modExg g.val fun x => { x with mpNext := some (n, match x.mpNext with
    | some (_, t) => t
    | none => s.tb + 2) }).after 2 (.mask g.val)
  let cur : Nat := match x.mpNext with | some (n, _) => n | none => x.mp
  let len := comm.toNat / 2 ^ 4 % 8 + 1
  let step (back : Bool) : Nat := if back = comm.getLsbD 3 then (cur + 1) % len else (cur % len + len - 1) % len
  let pin := comm.toNat / 2 ^ 8 % 2 ^ 7
  let hall : Prop := ∃ j : Fin 3, (s.pinAt (pin + j.val)).accTb = s.tb
  let bit : BitVec 16 := 1#16 <<< i.val
  let edge := (stamp + 15) / 16 + s.rf (Reg.TRIP_CFG i.val) 7 0
  let asserts : Prop := s.rb (Reg.TRIP_CFG i.val) 9 = true ∧ lvl ≠ s.rb (Reg.TRIP_CFG i.val) 8 ∧ s.tb = edge ∧
    ∀ b, back = some b → edge * 16 ≤ b
  let pulse (t : State) (q : Fin 8) := vget t.trgEnd q.val none
  (fires → pulse s (Fin.ofNat 8 trig) = none → ∃ t, exec (.triggerFire g k) s = .next t ∧ t = { s with trgEnd := t.trgEnd } ∧
    pulse t (Fin.ofNat 8 trig) = some (s.tb + max 1 (s.rf (Reg.TRG_CFG (trig % 8)) 7 0)) ∧
    ∀ q : Fin 8, q ≠ Fin.ofNat 8 trig → pulse t q = pulse s q) ∧
  (¬fires → exec (.triggerFire g k) s = .next s) ∧
  (∃ t, exec (.trgPulseEnd p) s = .next t ∧ t = { s with trgEnd := t.trgEnd } ∧ (∀ q : Fin 8, q ≠ p → pulse t q = pulse s q) ∧
    (∀ e, pulse s p = some e → pulse t p = if e ≤ s.tb then none else some e) ∧ (pulse s p = none → pulse t p = none)) ∧
  (commands → exec (.commSet m g mp) s = .next (answered .ok 0 (moves mp.val))) ∧
  (comm.toNat % 4 = 0 ∨ comm.toNat % 4 ≠ src.val → exec (.commutationEvent g src) s = .next s) ∧
  (comm.toNat % 4 = 1 → exec (.commutationEvent g (Fin.ofNat 4 comm.toNat)) s = .next (if slotAFires s pin = true then moves (step false) else s)) ∧
  (comm.toNat % 4 = 2 → hall → exec (.commutationEvent g (Fin.ofNat 4 comm.toNat)) s =
    .next (moves (ofBool (tioIn s pin) + 2 * ofBool (tioIn s (pin + 1)) + 4 * ofBool (tioIn s (pin + 2))))) ∧
  (comm.toNat % 4 = 2 → ¬hall → exec (.commutationEvent g (Fin.ofNat 4 comm.toNat)) s = .next s) ∧
  (∀ e, (s.spkAt (comm.toNat / 2 ^ 16 % 8)).pub = some e → comm.toNat % 4 = 3 →
    exec (.commutationEvent g (Fin.ofNat 4 comm.toNat)) s = .next (if e.1 = s.tb then moves (step e.2) else s)) ∧
  (asserts → ∃ t, exec (.tripAssert { i := i, lvl := lvl, edge := { stamp := stamp, back := back } }) s = .next t ∧ t.trip = s.trip ||| bit ∧ t.tb = s.tb ∧
    ∀ q : Fin 16, (s.exgAt q.val).tripped = true ∨ (s.rb (Reg.EXG_TRIPMAP q.val) i.val = true ∧ s.rb (Reg.EXG_BLANK q.val) 8 = false) →
      (t.exgAt q.val).tripped = true) ∧
  (¬asserts → exec (.tripAssert { i := i, lvl := lvl, edge := { stamp := stamp, back := back } }) s = .next s) ∧
  exec (.tripDeassert i) s = .next { s with trip := s.trip &&& ~~~bit } ∧
  (masterSecure (masterNow s m) = true → (s.trip ||| tripsComing s) &&& mapped = 0 → entry.getLsbD 16 = false →
    exec (.tripClr m g) s = .next (answered .ok 0 (s.modExg g.val fun x => { x with
      clearing := x.clearing || (x.tripped && s.rb (Reg.EXG_CTL g.val) 0), tripped := false, cause := 0, counted := false, hist := [] }))) ∧
  (masterSecure (masterNow s m) = true → (s.trip ||| tripsComing s) &&& mapped ≠ 0 ∨ entry.getLsbD 16 = true → ∃ t, exec (.tripClr m g) s = .next t ∧
    t.exg = s.exg ∧ t.rb (Reg.EXG_EVT g.val) 7 = true) ∧
  (reachesRegs m = true → masterSecure (masterNow s m) = false → s.reg (Reg.EXG_CMD g.val) = 0 → ∃ t, exec (.tripClr m g) s = .next t ∧
    t.exg = s.exg ∧ t.rb Reg.HP_EVT 2 = true) ∧
  (exgBlanked s g.val = true ∨ s.trip = 0 → exec (.blankingEnd g) s = .next s) ∧
  (exgBlanked s g.val = false → s.trip &&& map.extractLsb' 0 16 ≠ 0 → ∃ t, exec (.blankingEnd g) s = .next t ∧ t.tb = s.tb ∧
    (t.exgAt g.val).tripped = true ∧ t.trip = s.trip)

/-- R273, R275–R278, R280, R287: the flow instructions of a sequencer that is ready. br jumps where its condition holds, dec where the
counter is not 0 after it, await waits for its level, or for an edge; ldc loads a counter, flag sets an event, stop halts. The others go
on at the next PC, modulo 64, with the instruction's delay. A form that Table 8-2 does not give is ILLEGAL and halts the sequencer at
its PC. A sequencer that is not ready executes nothing (log entry 12). A counter or PC that software wrote in the cc keeps what was written
(R371). The instruction waits for the writes of its core edge that the queue still holds (R286). -/
def Obligations.ShutterFlow : Prop := ∀ (s : State) (n : Fin 32) (hold : Fin 32) (cond : Fin 16) (pin : Fin 32) (addr : Fin 64) (cy lvl : Bool)
    (src k : Fin 4) (p : Fin 128) (imm : BitVec 14),
  let q := s.shqAt n.val
  let cx := s.reg (Reg.SHQ_CX n.val)
  let y := s.reg (Reg.SHQ_CY n.val)
  let count := s.rf (Reg.SHQ_PINS n.val) 21 16
  let base := s.rf (Reg.SHQ_PINS n.val) 30 24
  let compat := s.rb (Reg.SHQ_CTL n.val) 8
  let reg := if cy then Reg.SHQ_CY n.val else Reg.SHQ_CX n.val
  let test : Bool := match cond.val with
    | 0 => true | 1 => cx == 0 | 2 => cx != 0 | 3 => y == 0 | 4 => y != 0 | 5 => cx == y | 6 => cx != y
    | 7 => seqIn s (base + pin.val) | 8 => !seqIn s (base + pin.val)
    | 9 => decide (shqOthr s n.val ≤ q.ocount) | 10 => decide (q.ocount < shqOthr s n.val)
    | 11 => decide (shqIthr s n.val ≤ q.icount) | 12 => !txEmpty s n.val | 13 => rxFull s n.val | _ => shqStatus s n.val
  let isPin : Prop := cond.val = 7 ∨ cond.val = 8
  let illegal (c : Instr) : Prop := ∃ t, exec c s = .next t ∧ (t.shqAt n.val).st = .halted ∧ (t.shqAt n.val).cause = 3 ∧
    t.rb (Reg.SHQ_EVT n.val) 8 = true ∧ t.rb (Reg.SHQ_EVT n.val) 7 = true ∧ t.reg (Reg.SHQ_PC n.val) = s.reg (Reg.SHQ_PC n.val)
  let ahead : State := Stepped s n none hold
  (SeqAlone s n → SeqReady s n →
    (cond.val ≤ 14 → (isPin → pin.val < count) → (¬isPin → pin = 0) →
      exec (.br n cond pin addr hold) s = .next (Stepped s n (if test then some addr else none) hold)) ∧
    (isPin → count ≤ pin.val → ∃ b : Bool, exec (.br n cond pin addr hold) s =
      .next (Stepped { s with free := s.free + 1 } n (if b then some addr else none) hold)) ∧
    (cond.val = 15 ∨ (¬isPin ∧ pin ≠ 0) → illegal (.br n cond pin addr hold)) ∧
    exec (.dec n cy addr hold) s = .next (Stepped (seqSet s reg (s.reg reg - 1)) n (if s.reg reg - 1 = 0 then none else some addr) hold) ∧
    (src = 0 → p.val < count → p.val < 32 → exec (.await n lvl src p hold) s =
      .next (if seqIn s (base + p.val) = lvl then ahead else Waits s n)) ∧
    (src = 1 → compat = false → exec (.await n lvl src p hold) s = .next (if seqIn s p.val = lvl then ahead else Waits s n)) ∧
    (src = 2 → compat = false → p.val < count → p.val < 32 → exec (.await n lvl src p hold) s = .next
      (if seqIn s (base + p.val) = lvl then (if q.seen then ahead else Waits s n)
       else Waits (s.modShq n.val fun q => { q with seen := true }) n)) ∧
    (src = 3 ∨ (src ≠ 1 ∧ 32 ≤ p.val) ∨ (compat = true ∧ src ≠ 0) → illegal (.await n lvl src p hold)) ∧
    exec (.ldc n cy imm hold) s = .next (Stepped (seqSet s reg (imm.setWidth 32)) n none hold) ∧
    (∃ t, exec (.flag n k hold) s = .next t ∧ t.rb (Reg.SHQ_EVT n.val) k.val = true ∧ t.shq = ahead.shq ∧
      t.reg (Reg.SHQ_PC n.val) = ahead.reg (Reg.SHQ_PC n.val)) ∧
    (∃ t, exec (.stop n hold) s = .next t ∧ (t.shqAt n.val).st = .halted ∧ (t.shqAt n.val).cause = 2 ∧
      t.rb (Reg.SHQ_EVT n.val) 7 = true ∧ t.reg (Reg.SHQ_PC n.val) = ahead.reg (Reg.SHQ_PC n.val))) ∧
  (SeqAlone s n → ¬SeqReady s n → exec (.br n cond pin addr hold) s = .next s ∧ exec (.dec n cy addr hold) s = .next s ∧
    exec (.await n lvl src p hold) s = .next s ∧ exec (.ldc n cy imm hold) s = .next s ∧ exec (.flag n k hold) s = .next s ∧
    exec (.stop n hold) s = .next s) ∧
  (shqRivals s n.val = true → exec (.br n cond pin addr hold) s = .next (Owes s n (.ins (.br cond pin addr) hold.val)) ∧
    exec (.dec n cy addr hold) s = .next (Owes s n (.ins (.dec cy addr) hold.val)) ∧
    exec (.await n lvl src p hold) s = .next (Owes s n (.ins (.await lvl src p) hold.val)) ∧
    exec (.ldc n cy imm hold) s = .next (Owes s n (.ins (.ldc cy imm) hold.val)) ∧
    exec (.flag n k hold) s = .next (Owes s n (.ins (.flag k) hold.val)) ∧
    exec (.stop n hold) s = .next (Owes s n (.ins .stop hold.val)))

/-- R277–R281: the data instructions of a sequencer that is ready. emit shifts bits out of
OSR to a latch, a counter, ISR, the PC or nowhere, refilling OSR first where AUTOTAKE asks for it; gather shifts inputs, a counter, OSR,
ones or zeros into ISR, which AUTOGIVE sends on; xfer moves a value, inverted or reversed; take refills OSR from the TX queue and give
puts ISR into the RX queue, waiting, or going on with TAKE_MISS or GIVE_DROP; drv and dirs write a field of a latch that reaches the
balls 3 tb after the edge. Reserved codes are ILLEGAL and halt it. One that is not ready executes nothing (log entry 12). A register
that software wrote in the cc keeps what was written (R371). The instruction waits for the writes of its core edge (R286). -/
def Obligations.ShutterData : Prop := ∀ (s : State) (n : Fin 32) (hold : Fin 32) (code dst src : Fin 8) (bits : Fin 32) (op : Fin 4)
    (wait iff : Bool) (first : Fin 32) (cnt : Fin 8) (data : BitVec 7),
  let q := s.shqAt n.val
  let cx := Reg.SHQ_CX n.val
  let cy := Reg.SHQ_CY n.val
  let isr := Reg.SHQ_ISR n.val
  let osr := Reg.SHQ_OSR n.val
  let pinout := Reg.SHQ_PINOUT n.val
  let dirs := Reg.SHQ_DIRS n.val
  let b := if bits.val = 0 then 32 else bits.val
  let count := s.rf (Reg.SHQ_PINS n.val) 21 16
  let obase := s.rf (Reg.SHQ_PINS n.val) 12 8
  let ibase := s.rf (Reg.SHQ_PINS n.val) 4 0
  let illegal (c : Instr) : Prop := ∃ t, exec c s = .next t ∧ (t.shqAt n.val).st = .halted ∧ (t.shqAt n.val).cause = 3 ∧
    t.rb (Reg.SHQ_EVT n.val) 8 = true ∧ t.reg (Reg.SHQ_PC n.val) = s.reg (Reg.SHQ_PC n.val)
  let done (t : State) : State := Stepped t n none hold
  let put (t : State) (a from_ len : Nat) (v : Word) : State :=
    let top := min (from_ + len) count
    let u := seqSet t a (mergeBits (t.reg a) (v <<< from_)
      (if from_ < top then BitVec.ofNat 32 ((2 ^ (top - from_) - 1) * 2 ^ from_) else 0))
    { u with due := u.due ++ [(s.cc + 3, .shq n.val (u.reg pinout) (u.reg dirs))] }
  let pins : Word := BitVec.ofNat 32 (((List.range 32).map fun i =>
    if ibase + i < count && seqIn s (s.rf (Reg.SHQ_PINS n.val) 30 24 + ibase + i) then 2 ^ i else 0).sum)
  let osrPut (t : State) (w : Word) (c : Nat) : State := if s.wroteNow osr then t else (t.setReg osr w).modShq n.val fun q => { q with ocount := c }
  let isrPut (t : State) (w : Word) (c : Nat) : State := if s.wroteNow isr then t else (t.setReg isr w).modShq n.val fun q => { q with icount := c }
  let taken : State := match nowL s q.txClr with
    | w :: r => osrPut (s.modShq n.val fun q => { q with txClr := (s.cc, r), txPop := noteNew s.cc q.txPop }) w 0
    | [] => osrPut (s.modShq n.val fun q => { q with txq := q.txq.tail, txPop := noteNew s.cc q.txPop }) (q.txq.headD 0) 0
  let refill : Bool := shqAutoTake s n.val && decide (shqOthr s n.val ≤ q.ocount)
  let e : State := if refill then taken else s
  let lsb := e.rb (Reg.SHQ_SHIFT n.val) 5
  let out : Word := if lsb then BitVec.ofNat 32 ((e.reg osr).toNat % 2 ^ b) else e.reg osr >>> (32 - b)
  let shifted : State := osrPut e (if lsb then e.reg osr >>> b else e.reg osr <<< b) (min 32 ((e.shqAt n.val).ocount + b))
  let into : Word := match code.val with | 0 => pins | 1 => s.reg cx | 2 => s.reg cy | 4 => 0xFFFFFFFF | 5 => s.reg osr | _ => 0
  let inBits := into.toNat % 2 ^ b
  let v : Word := if s.rb (Reg.SHQ_SHIFT n.val) 4 then s.reg isr >>> b ||| BitVec.ofNat 32 (inBits <<< (32 - b))
    else s.reg isr <<< b ||| BitVec.ofNat 32 inBits
  let sends : Bool := shqAutoGive s n.val && decide (shqIthr s n.val ≤ min 32 (q.icount + b))
  let source : Word := match src.val with
    | 0 => pins | 1 => s.reg cx | 2 => s.reg cy | 3 => s.reg isr | 4 => s.reg osr | 6 => (if shqStatus s n.val then 0xFFFFFFFF else 0) | _ => 0
  let moved : Word := if op = 0 then source else if op = 1 then ~~~source else if op = 2 then source.reverse else byteRev source
  (SeqAlone s n → SeqReady s n →
    (code ≠ 7 → refill = true → txEmpty s n.val = true → exec (.emit n code bits hold) s = .next (Waits s n)) ∧
    (refill = false ∨ txEmpty s n.val = false →
      (code = 0 → exec (.emit n code bits hold) s = .next (done (put shifted pinout obase b out))) ∧
      (code = 1 → exec (.emit n code bits hold) s = .next (done (put shifted dirs obase b out))) ∧
      (code = 2 → exec (.emit n code bits hold) s = .next (done (seqSet shifted cx out))) ∧
      (code = 3 → exec (.emit n code bits hold) s = .next (done (seqSet shifted cy out))) ∧
      (code = 4 → exec (.emit n code bits hold) s = .next (done shifted)) ∧
      (code = 5 → exec (.emit n code bits hold) s = .next (done (isrPut shifted out b))) ∧
      (code = 6 → exec (.emit n code bits hold) s = .next (Stepped shifted n (some (Fin.ofNat 64 out.toNat)) hold))) ∧
    (code = 7 → illegal (.emit n code bits hold)) ∧
    (code.val ≤ 5 → sends = false → exec (.gather n code bits hold) s =
      .next (done (isrPut s v (min 32 (q.icount + b))))) ∧
    (code.val ≤ 5 → sends = true → rxFull s n.val = true → exec (.gather n code bits hold) s = .next (Waits s n)) ∧
    (code.val ≤ 5 → sends = true → rxFull s n.val = false → exec (.gather n code bits hold) s =
      .next (done (isrPut (s.modShq n.val fun q => { q with rxq := q.rxq ++ [v], rxNew := noteNew s.cc q.rxNew }) 0 0))) ∧
    (6 ≤ code.val → illegal (.gather n code bits hold)) ∧
    (src ≠ 7 →
      (dst = 0 → exec (.xfer n dst src op hold) s = .next (done (put s pinout obase 32 moved))) ∧
      (dst = 1 → exec (.xfer n dst src op hold) s = .next (done (put s dirs obase 32 moved))) ∧
      (dst = 2 → exec (.xfer n dst src op hold) s = .next (done (seqSet s cx moved))) ∧
      (dst = 3 → exec (.xfer n dst src op hold) s = .next (done (seqSet s cy moved))) ∧
      (dst = 4 → exec (.xfer n dst src op hold) s = .next (done (isrPut s moved 0))) ∧
      (dst = 5 → exec (.xfer n dst src op hold) s = .next (done (osrPut s moved 0))) ∧
      (dst = 6 → exec (.xfer n dst src op hold) s = .next (Stepped s n (some (Fin.ofNat 64 moved.toNat)) hold))) ∧
    (dst = 7 ∨ src = 7 → illegal (.xfer n dst src op hold)) ∧
    ((iff = false ∨ shqOthr s n.val ≤ q.ocount) →
      (txEmpty s n.val = false → exec (.take n wait iff hold) s = .next (done taken)) ∧
      (txEmpty s n.val = true → wait = true → exec (.take n wait iff hold) s = .next (Waits s n)) ∧
      (txEmpty s n.val = true → wait = false → ∃ t, exec (.take n wait iff hold) s = .next t ∧ t.rb (Reg.SHQ_EVT n.val) 15 = true ∧
        t.shq = (done s).shq ∧ t.reg osr = s.reg osr)) ∧
    (iff = true → q.ocount < shqOthr s n.val → exec (.take n wait iff hold) s = .next (done s)) ∧
    ((iff = false ∨ shqIthr s n.val ≤ q.icount) →
      (rxFull s n.val = false → ∃ t, exec (.give n wait iff hold) s = .next t ∧ (t.shqAt n.val).rxq = q.rxq ++ [s.reg isr] ∧
        (s.wroteNow isr = false → t.reg isr = 0 ∧ (t.shqAt n.val).icount = 0) ∧ t.reg (Reg.SHQ_PC n.val) = (done s).reg (Reg.SHQ_PC n.val)) ∧
      (rxFull s n.val = true → wait = true → exec (.give n wait iff hold) s = .next (Waits s n)) ∧
      (rxFull s n.val = true → wait = false → ∃ t, exec (.give n wait iff hold) s = .next t ∧ (t.shqAt n.val).rxq = q.rxq ∧
        (s.wroteNow isr = false → t.reg isr = 0 ∧ (t.shqAt n.val).icount = 0) ∧ t.rb (Reg.SHQ_EVT n.val) 6 = true)) ∧
    (iff = true → q.icount < shqIthr s n.val → exec (.give n wait iff hold) s = .next (done s)) ∧
    (1 ≤ cnt.val → data.toNat < 2 ^ cnt.val → first.val + cnt.val ≤ count →
      exec (.drv n first cnt data hold) s = .next (done (put s pinout first.val cnt.val (data.setWidth 32))) ∧
      exec (.dirs n first cnt data hold) s = .next (done (put s dirs first.val cnt.val (data.setWidth 32)))) ∧
    (cnt = 0 ∨ 2 ^ cnt.val ≤ data.toNat ∨ count < first.val + cnt.val →
      illegal (.drv n first cnt data hold) ∧ illegal (.dirs n first cnt data hold))) ∧
  (SeqAlone s n → ¬SeqReady s n → exec (.emit n code bits hold) s = .next s ∧
    exec (.gather n code bits hold) s = .next s ∧ exec (.xfer n dst src op hold) s = .next s ∧ exec (.take n wait iff hold) s = .next s ∧
    exec (.give n wait iff hold) s = .next s ∧ exec (.drv n first cnt data hold) s = .next s ∧
    exec (.dirs n first cnt data hold) s = .next s) ∧
  (shqRivals s n.val = true → exec (.emit n code bits hold) s = .next (Owes s n (.ins (.emit code bits) hold.val)) ∧
    exec (.gather n code bits hold) s = .next (Owes s n (.ins (.gather code bits) hold.val)) ∧
    exec (.xfer n dst src op hold) s = .next (Owes s n (.ins (.xfer dst src op) hold.val)) ∧
    exec (.take n wait iff hold) s = .next (Owes s n (.ins (.take wait iff) hold.val)) ∧
    exec (.give n wait iff hold) s = .next (Owes s n (.ins (.give wait iff) hold.val)) ∧
    exec (.drv n first cnt data hold) s = .next (Owes s n (.ins (.drv first cnt data) hold.val)) ∧
    exec (.dirs n first cnt data hold) s = .next (Owes s n (.ins (.dirs first cnt data) hold.val)))

/-- R268, R273–R275, R281–R286: the commands of a sequencer. EN starts it where its window is legal, RUNNING or HALTED; EN 0 disables
it. HALT, RESUME and START move between RUNNING and HALTED. What follows the writes of a core edge waits for those that the queue still
holds, and is then done in the order SHIFT_CLEAR, START, HALT, RESUME, the tick, with DIV_RST moving what follows the tick. A start while
it is disabled only sets START_DISC. A tick counts a delay down, or runs an injected instruction, or one of the program. The queues take
and give words, or set TXQ_OVF and RXQ_UNF; the shift registers are cleared while it is not RUNNING, and program words are written then or
at the edge of a HALT. An injection waits for the next tick, and is refused while one waits. -/
def Obligations.ShutterControl : Prop := ∀ (s : State) (m : Master) (n : Fin 32) (w : Word) (k : Fin 64),
  let ctl := Reg.SHQ_CTL n.val
  let pc := Reg.SHQ_PC n.val
  let q := s.shqAt n.val
  let on : Prop := s.rb ctl 0 = true
  let count := s.rf (Reg.SHQ_PINS n.val) 21 16
  let window : Prop := 1 ≤ count ∧ count ≤ 32 ∧ s.rf (Reg.SHQ_PINS n.val) 30 24 + count ≤ 128
  let evt (t : State) (b : Nat) : Prop := t.rb (Reg.SHQ_EVT n.val) b = true
  let ok (c : Instr) (t : State) : Prop := exec c s = .next (answered .ok 0 t)
  let others (t : State) : Prop := t.tb = s.tb ∧ ∀ j : Fin 32, j ≠ n → t.shqAt j.val = s.shqAt j.val
  let mods (f : Shq → Shq) : State := s.modShq n.val f
  let still (q : Shq) : Shq := { q with hold := 0, stall := false, seen := false, inj := if q.injTried then none else q.inj,
                                        injSeen := false, injTried := false }
  let alone : Prop := SeqAlone s n
  let frac := if s.rb ctl 8 then 0 else s.rf (Reg.SHQ_DIV n.val) 15 8
  let int := max 1 (s.rf (Reg.SHQ_DIV n.val) 31 16)
  let tick : State := mods fun q => { q with
    acc := (q.acc + frac) % 256, nextTb := q.nextTb + 2 * (int + (q.acc + frac) / 256) }
  let prog := s.reg (Reg.SHQ_PROG n.val ((s.reg pc).toNat % 64))
  let illegal : Prop := ∃ t, exec (.sequencerTick n) s = .next t ∧ (t.shqAt n.val).st = .halted ∧ (t.shqAt n.val).cause = 3 ∧
    (t.shqAt n.val).nextTb = (tick.shqAt n.val).nextTb ∧ evt t 7 ∧ evt t 8 ∧ t.reg pc = s.reg pc
  let free : State := mods fun q => { q with owed := [] }
  let ticked : Prop := q.owed = [.tick] ∧ shqRivals s n.val = false
  (reachesRegs m = true →
  (alone → ¬on → window → w.toNat / 2 ^ 12 % 4 ≠ 3 → ∃ t, exec (.shqEnable m n w) s = .next t ∧ others t ∧ t.rb ctl 0 = true ∧
    (t.shqAt n.val).st = (if w.getLsbD 16 then .running else .halted) ∧ (t.shqAt n.val).acc = 0 ∧ (t.shqAt n.val).nextTb = s.cc + 2 ∧
    (t.shqAt n.val).hold = 0 ∧ (t.shqAt n.val).inj = none) ∧
  (alone → ¬on → ¬window → ∃ t, exec (.shqEnable m n w) s = .next t ∧ others t ∧ t.rb ctl 0 = false ∧ (t.shqAt n.val).st = q.st ∧ evt t 12) ∧
  (alone → on → ∃ t, exec (.shqDisable m n w) s = .next t ∧ others t ∧ t.rb ctl 0 = false ∧ (t.shqAt n.val).st = .disabled ∧
    (t.shqAt n.val).inj = none ∧ (t.shqAt n.val).hold = 0) ∧
  (shqRivals s n.val = true → ok (.resume m n) (Owes s n .resume) ∧ ok (.shqHalt m n) (Owes s n .halt) ∧
    ok (.shiftClear m n) (Owes s n .clear) ∧ ok (.shqStart m n) (Owes s n (.start none)) ∧ ok (.divRst m n) (Owes s n .divRst)) ∧
  (ticked → ok (.resume m n) (shqTickOp (shqResumeOp free n.val) n.val) ∧ ok (.shqHalt m n) (shqTickOp (shqHaltOp free n.val) n.val) ∧
    ok (.shiftClear m n) (shqTickOp (shiftClearOp free n.val) n.val) ∧
    ok (.shqStart m n) (shqTickOp (shqStartOp free n.val (free.rf (Reg.SHQ_START n.val) 5 0)) n.val) ∧
    ok (.divRst m n) (divRstOp (shqTickOp free n.val) n.val)) ∧
  (q.owed = [.halt] → shqRivals s n.val = false → ok (.resume m n) (shqResumeOp (shqHaltOp free n.val) n.val) ∧
    ok (.shqStart m n) (shqHaltOp (shqStartOp free n.val (free.rf (Reg.SHQ_START n.val) 5 0)) n.val) ∧
    ok (.shiftClear m n) (shqHaltOp (shiftClearOp free n.val) n.val)) ∧
  (alone → ok (.resume m n) (mods fun q => { q with st := if q.st = .halted then .running else q.st })) ∧
  (alone → q.st = .running → ∃ t, exec (.shqHalt m n) s = .next t ∧ others t ∧ evt t 7 ∧
    t.shqAt n.val = { still q with st := .halted, cause := 1 }) ∧
  (alone → q.st = .halted → ok (.shqHalt m n) (mods still)) ∧
  (alone → q.st = .disabled → ok (.shqHalt m n) s) ∧
  (alone → q.st ≠ .running → ∃ t, exec (.shiftClear m n) s = .next t ∧ others t ∧ t.reg (Reg.SHQ_OSR n.val) = 0 ∧
    t.reg (Reg.SHQ_ISR n.val) = 0 ∧ t.shqAt n.val = { q with ocount := 32, icount := 0 }) ∧
  (alone → q.st = .running → ∃ t, exec (.shiftClear m n) s = .next t ∧ t.shq = s.shq ∧ evt t 14 ∧
    t.reg (Reg.SHQ_OSR n.val) = s.reg (Reg.SHQ_OSR n.val)) ∧
  (alone → ok (.qclr m n) (mods fun q =>
    { q with txq := keepNew s.cc q.txq q.txNew, rxq := keepNew s.cc q.rxq q.rxNew,
             txClr := (s.cc, nowL s q.txClr ++ oldOf s q.txq q.txNew), rxClr := (s.cc, nowL s q.rxClr ++ oldOf s q.rxq q.rxNew) })) ∧
  (alone → on → ok (.divRst m n) (mods fun q => { q with acc := 0, nextTb := s.cc + 2 })) ∧
  (alone → ¬on → ok (.divRst m n) (mods fun q => { q with acc := 0 })) ∧
  (alone → q.st ≠ .disabled → ok (.shqStart m n) ((s.setReg pc (BitVec.ofNat 32 (s.rf (Reg.SHQ_START n.val) 5 0 % 64))).modShq n.val
    fun q => { q with st := .running, stall := false, hold := 0, seen := false })) ∧
  (alone → q.st = .disabled → ∃ t, exec (.shqStart m n) s = .next t ∧ t.shq = s.shq ∧ evt t 11) ∧
  (alone → txFull s n.val = false → ok (.txqWrite m n w) (mods fun q => { q with txq := q.txq ++ [w], txNew := noteNew s.cc q.txNew })) ∧
  (alone → txFull s n.val = true → ∃ t, exec (.txqWrite m n w) s = .next t ∧ t.shq = s.shq ∧ evt t 4) ∧
  (rxEmpty s n.val = false → nowL s q.rxClr = [] → exec (.rxqRead m n) s = .next (answered .ok (q.rxq.headD 0)
    (mods fun q => { q with rxq := q.rxq.tail, rxPop := noteNew s.cc q.rxPop }))) ∧
  (rxEmpty s n.val = false → ∀ x r, nowL s q.rxClr = x :: r → exec (.rxqRead m n) s = .next (answered .ok x
    (mods fun q => { q with rxClr := (s.cc, r), rxPop := noteNew s.cc q.rxPop }))) ∧
  (rxEmpty s n.val = true → ∃ t, exec (.rxqRead m n) s = .next t ∧ t.shq = s.shq ∧ t.answer = { status := .ok, data := 0 } ∧ evt t 5) ∧
  (alone → q.st ≠ .disabled → q.inj = none → ok (.injection m n w) (mods fun q =>
    { q with inj := some (w &&& 0xFFFFFF), injSeen := false, injTried := false })) ∧
  (alone → q.st = .disabled ∨ q.inj ≠ none → ∃ t, exec (.injection m n w) s = .next t ∧ t.shq = s.shq ∧ evt t 10) ∧
  (q.owed = [] ∨ shqRivals s n.val = true → q.st ≠ .running ∨ haltComing s n.val = true →
    ok (.progWrite m n k.val w) (s.setReg (Reg.SHQ_PROG n.val k.val) (w &&& 0xFFFFFF))) ∧
  (alone → q.st = .running → haltComing s n.val = false → ∃ t, exec (.progWrite m n k.val w) s = .next t ∧ t.shq = s.shq ∧ evt t 9 ∧
    t.reg (Reg.SHQ_PROG n.val k.val) = s.reg (Reg.SHQ_PROG n.val k.val)) ∧
  (q.owed = [.halt] → shqRivals s n.val = false →
    ok (.progWrite m n k.val w) (shqHaltOp (free.setReg (Reg.SHQ_PROG n.val k.val) (w &&& 0xFFFFFF)) n.val))) ∧
  (alone → on → q.st ≠ .disabled → q.nextTb ≤ s.tb →
    (0 < q.hold → exec (.sequencerTick n) s = .next (tick.modShq n.val fun q => { q with hold := q.hold - 1 })) ∧
    (q.hold = 0 → q.inj = none → q.st = .running →
      (∀ i, seqDecode prog.toNat = some i → exec (.sequencerTick n) s = .next (seqRun tick n.val false i (prog.toNat % 32))) ∧
      (seqDecode prog.toNat = none → illegal)) ∧
    (q.hold = 0 → ∀ x, q.inj = some x →
      (∀ i, seqDecode x.toNat = some i → exec (.sequencerTick n) s = .next (seqRun tick n.val true i (x.toNat % 32))) ∧
      (seqDecode x.toNat = none → illegal)) ∧
    (q.hold = 0 → q.inj = none → q.st ≠ .running → exec (.sequencerTick n) s = .next tick)) ∧
  (shqRivals s n.val = true → exec (.sequencerTick n) s = .next (Owes s n .tick)) ∧
  (alone → ¬on ∨ q.st = .disabled ∨ s.tb < q.nextTb → exec (.sequencerTick n) s = .next s)

/-- R290–R294: a meter boundary, with the meters' configuration unchanged since the last. Each meter takes its energy from the leak, its
weight and the on-time of its channel, or of its row group as sent. It forces its output when the energy passes the budget, and frees it
again at the release level, unless it is latched. A safety meter escalates. RELEASE frees at the release level, else it sets MTR_CMD_ERR;
CLR_E clears the energy. Both act at the output 4 tb later;
a boundary of the same tb that still waits comes before a RELEASE, and an energy cleared in the tb of a boundary stays 0. R296, R298, R299: the release limiter's windows and the guarded gates. A window starts with no admission, and reserves places, up to
the limit, for the rises already delayed into it. A delayed rise passes while a reserved place is left, and is otherwise dropped with a
count; a delayed fall passes; the window of a tb and the due edges of lower pins, where they still wait, come
before an edge. A closed gate opens when its guard is good and the level before it equals the gate's level. -/
def Obligations.ProtectOutputs : Prop := (∀ (s : State) (m : Master) (i : Fin 256),
  let cfg (n : Fin 256) := s.reg (Reg.MTR_CFG n.val)
  let bud (n : Fin 256) := (s.reg (Reg.MTR_BUD n.val)).toNat
  let rel (n : Fin 256) := min (bud n) (s.reg (Reg.MTR_REL n.val)).toNat
  let weight (n : Fin 256) := (cfg n).toNat % 2 ^ 8
  let leak (n : Fin 256) := min 24 ((cfg n).toNat / 2 ^ 8 % 2 ^ 5)
  let u (n : Fin 256) := s.mtrAt n.val
  let lit (n : Fin 256) : Nat := if n.val < 128 then (if (s.pinAt n.val).lit then (u n).on + (s.tb - (u n).onTb) else (u n).on)
    else let l := s.linkAt ((n.val - 128) / 16)
      match l.steps.find? fun p => p.1 == s.tb / 1000 - 1 with
      | some p => if l.st = .up then p.2.getD ((n.val - 128) % 16) 0 * 125 / 16 else 0
      | none => 0
  let e (n : Fin 256) := if (u n).clrTb = some s.tb then 0 else min (2 ^ 48 - 1) ((u n).e - (u n).e / 2 ^ leak n + weight n * lit n)
  let forced (n : Fin 256) : Bool := if bud n < e n / 65536 then (u n).forced || decide (weight n ≠ 0)
    else (u n).forced && ((cfg n).getLsbD 16 || decide (rel n < e n / 65536))
  let boundary : Prop := s.tb % 1000 = 0 ∧ s.safe.mtrTb ≠ some s.tb ∧ ∀ n : Fin 256, (u n).late = []
  let cmd (w : Nat) (t : State) : State := answered .ok 0 (t.setReg Reg.MTR_CMD (BitVec.ofNat 32 w))
  (boundary → (∀ n : Fin 256, (cfg n).getLsbD 17 = false) → ∃ t, exec .meterBoundary s = .next t ∧ t.tb = s.tb ∧ t.pin = s.pin ∧
    t.safe = { s.safe with mtrTb := some s.tb } ∧ ∀ n : Fin 256, (t.mtrAt n.val).e = e n ∧ (t.mtrAt n.val).forced = forced n ∧
      (t.mtrAt n.val).on = 0 ∧ (t.mtrAt n.val).out = (u n).out ∧
      (forced n = true → (u n).forced = false → t.rb (Reg.MTR_HIT (n.val / 32)) (n.val % 32) = true)) ∧
  (boundary → (cfg i).getLsbD 17 = true → (u i).forced = false → forced i = true → s.rb Reg.SAFE_ESC 2 = true →
    (∀ n : Fin 256, n.val < i.val → (cfg n).getLsbD 17 = false) → ∃ t, exec .meterBoundary s = .next t ∧ t.safe.safe = true) ∧
  (s.tb % 1000 ≠ 0 ∨ s.safe.mtrTb = some s.tb → exec .meterBoundary s = .next s) ∧
  (masterSecure (masterNow s m) = true →
    exec (.clrE m i) s = .next (cmd i.val (s.modMtr i.val fun x => { x with e := 0, clrTb := some s.tb })) ∧
    (.meterBoundary ∈ s.pending → ∃ b, exec .meterBoundary s = .next b ∧ exec (.mtrRelease m i) s = exec (.mtrRelease m i) b) ∧
    (.meterBoundary ∉ s.pending → (u i).forced = false → exec (.mtrRelease m i) s = .next (cmd i.val s)) ∧
    (.meterBoundary ∉ s.pending → (u i).forced = true → (u i).e / 65536 ≤ rel i → ∃ t, exec (.mtrRelease m i) s = .next t ∧
      t.mtrAt i.val = { u i with forced := false } ∧ t.due = s.due ++ [(s.tb + 4, .meter i.val false)] ∧
      ∀ n : Fin 256, n ≠ i → t.mtrAt n.val = u n) ∧
    (.meterBoundary ∉ s.pending → (u i).forced = true → rel i < (u i).e / 65536 → ∃ t, exec (.mtrRelease m i) s = .next t ∧ t.mtr = s.mtr ∧ t.due = s.due ∧
      t.rb Reg.SAFE_EVT 4 = true))) ∧
  (∀ (s : State) (p : Fin 128) (u : Nat) (l : Lvl) (r : List (Nat × Lvl)),
  let x := s.pinAt p.val
  let k := p.val / 32
  let limit (k : Nat) := (s.reg Reg.REL_CTL).toNat / 2 ^ (8 * k) % 2 ^ 8
  let rises (k : Nat) := ((List.range 32).map fun i => let q := s.pinAt (32 * k + i); risesBefore (s.tb + 1000) (queuedFrom q) q.queue).sum
  let rise : Prop := l = .hi ∧ queuedFrom x ≠ .hi
  let room : Prop := limit k = 0 ∨ (s.limAt k).admitted < (s.limAt k).reserved
  let others (t : State) : Prop := t.tb = s.tb ∧ t.safe = s.safe ∧ ∀ n : Fin 128, n ≠ p → t.pinAt n.val = s.pinAt n.val
  let first : Prop := .releaseWindowStart ∉ s.pending ∧ ∀ j : Fin 128, j < p → .delayedEdge j ∉ s.pending
  let due : Prop := x.queue = (u, l) :: r ∧ u ≤ s.tb ∧ first
  (s.tb % 1000 = 0 → s.safe.winTb ≠ some s.tb → ∃ t, exec .releaseWindowStart s = .next t ∧ t.pin = s.pin ∧ t.regs = s.regs ∧
    ∀ k : Fin 4, t.limAt k.val = { direct := 0, reserved := min (rises k.val) (limit k.val), admitted := 0 }) ∧
  (s.tb % 1000 ≠ 0 ∨ s.safe.winTb = some s.tb → exec .releaseWindowStart s = .next s) ∧
  (.releaseWindowStart ∈ s.pending → ∃ b, exec .releaseWindowStart s = .next b ∧ exec (.delayedEdge p) s = exec (.delayedEdge p) b) ∧
  (∃ t, exec (.delayedEdge p) s = .next t ∧ t.tb = s.tb ∧ t.safe = { s.safe with winTb := t.safe.winTb } ∧
    ∀ n : Fin 128, p < n → t.pinAt n.val = s.pinAt n.val) ∧
  (first → x.queue = [] → exec (.delayedEdge p) s = .next s) ∧
  (first → x.queue = (u, l) :: r → s.tb < u → exec (.delayedEdge p) s = .next s) ∧
  (due → rise → room → ∃ t, exec (.delayedEdge p) s = .next t ∧ others t ∧ (t.pinAt p.val).post = .hi ∧ (t.pinAt p.val).queue = r ∧
    t.limAt k = { s.limAt k with admitted := (s.limAt k).admitted + 1 }) ∧
  (due → rise → ¬room → ∃ t, exec (.delayedEdge p) s = .next t ∧ others t ∧ (t.pinAt p.val).post = .lo ∧ (t.pinAt p.val).queue = r ∧
    t.limAt k = s.limAt k ∧ t.rb Reg.REL_EVT (4 + k) = true) ∧
  (due → l = .hi → ¬rise → ∃ t, exec (.delayedEdge p) s = .next t ∧ others t ∧ (t.pinAt p.val).post = x.post ∧ (t.pinAt p.val).queue = r ∧
    t.lim = s.lim) ∧
  (due → l ≠ .hi → ∃ t, exec (.delayedEdge p) s = .next t ∧ others t ∧ (t.pinAt p.val).post = l ∧ (t.pinAt p.val).queue = r ∧
    t.lim = s.lim) ∧
  (gateOpens s p.val = true → ∃ t, exec (.guardGateOpen p) s = .next t ∧ others t ∧ (t.pinAt p.val).gateClosed = false ∧
    (t.pinAt p.val).post = x.post ∧ (t.pinAt p.val).ball = if bankMismatch s k then .z else beforeGate s p.val x.post) ∧
  (gateOpens s p.val = false → exec (.guardGateOpen p) s = .next s))

/-- R301–R306, R400: the ways into safe state and out of it, and the watchdog. A source without run-down enters safe state: every ball
carries its safe level, delayed edges are gone. A pin acts once it can have been low for its filter time, since the release of
the reset or its own last return high. A STOP pin with run-down starts the run-down thread first, and its end, RD_DONE or the
time-out, enters. EXIT with its key ends safe state when nothing bars it, a source that still waits in the same tb
included. The watchdog restarts on its kicks in turn, reports others, takes its expiry before a kick of
the same tb (log entry 68), discards the host's kicks but reports other writes while EXPIRED, and enters safe state when its period passes; REARM restarts it. -/
def Obligations.ProtectSafe : Prop := ∀ (s : State) (m : Master) (w : Word) (v : BitVec 8) (key : BitVec 16) (why : RdWhy) (t0 : Nat),
  let on : Prop := s.rb Reg.HWD_CTL 31 = true
  let idle : Prop := s.safe.safe = false ∧ s.safe.rundown = none
  let quiet : Prop := s.boot.phase ≠ 1 ∧ s.boot.phase ≠ 2
  let thread : Prop := ∃ p, rundownThread s = some p ∧ enlOn s (p.1 / 4) = true
  let entered (t : State) (bit : Nat) : Prop := t.safe.safe = true ∧ t.safe.sover = true ∧ t.safe.rundown = none ∧
    t.safe.cause.getLsbD bit = true ∧ t.rb Reg.SAFE_EVT 0 = true ∧ t.tb = s.tb ∧ (quiet → ∀ n : Fin 128, (t.pinAt n.val).delayed = false ∧
      (t.pinAt n.val).ball = if bankMismatch s (n.val / 32) then .z else safeLevel s n.val (s.pinAt n.val).ball)
  let running (t : State) (why : RdWhy) : Prop := t.safe.rundown = some (why, s.tb) ∧ t.boot.phase = 3 ∧ t.safe.safe = false
  let held (flt up : Nat) : Prop := max up s.boot.startTb + (if s.otp = true then flt else 20) ≤ s.tb
  let safeLow : Prop := s.safe.safePin = false ∧ held (s.rf Reg.SAFE_CFG 31 24) s.safe.safeUp
  let stopLow : Prop := s.safe.stopPin = false ∧ held (s.rf Reg.SAFE_CFG 23 16) s.safe.stopUp
  let barred : Prop := sourceComing s = true ∨ s.safe.safePin = true ∨ s.safe.stopPin = true ∨ s.safe.rundown ≠ none ∨ s.safe.expired = true ∨ s.safe.srcTb = some s.tb
  let late := s.safe.hwdTb + max 1 (s.rf Reg.HWD_CTL 15 0) * 10000
  let passed : Prop := on ∧ s.safe.expired = false ∧ late ≤ s.tb
  let bit : Nat := match why with | .stopPin => 1 | .hwd => 3 | _ => 4
  let want : BitVec 8 := if s.safe.next92 then 0x92 else 0x6D
  let fresh (x : Safe) : Safe := { x with expired := false, next92 := false, hwdTb := s.tb }
  (¬safeLow → exec .safePinAssert s = .next s) ∧
  (safeLow → s.safe.safe = false → ∃ t, exec .safePinAssert s = .next t ∧ entered t 0 ∧ t.safe.safePin = true) ∧
  (safeLow → s.safe.safe = true → exec .safePinAssert s = .next
    { s with safe := { s.safe with safePin := true, cause := s.safe.cause ||| 1, srcTb := some s.tb } }) ∧
  (¬stopLow → exec .stopPinAssert s = .next s) ∧
  (stopLow → s.safe.safe = true → exec .stopPinAssert s = .next
    { s with safe := { s.safe with stopPin := true, cause := s.safe.cause ||| 2, srcTb := some s.tb } }) ∧
  (stopLow → s.safe.safe = false → s.rb Reg.SAFE_CFG 15 = false → ∃ t, exec .stopPinAssert s = .next t ∧ entered t 1) ∧
  (stopLow → idle → quiet → s.rb Reg.SAFE_CFG 15 = true →
    (thread → ∃ t, exec .stopPinAssert s = .next t ∧ running t .stopPin) ∧
    (¬thread → ∃ t, exec .stopPinAssert s = .next t ∧ entered t 1)) ∧
  exec .safePinRelease s = .next { s with safe := { s.safe with safePin := false, safeUp := s.tb } } ∧
  exec .stopPinRelease s = .next { s with safe := { s.safe with stopPin := false, stopUp := s.tb } } ∧
  (s.safe.safe = false → (masterSecure (masterNow s m) = true ∨ ∃ t, m = .engine t) → ∃ t, exec (.safeCmdEnter m) s = .next t ∧
    entered t (if m = .safelight then 4 else 5)) ∧
  (∃ t, exec (.safeCmdEnter (.host false)) s = .next t ∧ t.safe = s.safe ∧ t.rb Reg.HP_EVT 2 = true) ∧
  (masterSecure (masterNow s m) = true →
    (¬barred → ∃ t, exec (.safeCmdExit m 0xC35A) s = .next t ∧ t.safe = { s.safe with safe := false, cause := 0 } ∧
      t.boot = { s.boot with exitWait := false, exitDue := none } ∧
      t.rb Reg.SAFE_EVT 1 = true ∧ t.due = s.due ++ [(s.tb + 3, .safeExit)]) ∧
    (barred → ∃ t, exec (.safeCmdExit m 0xC35A) s = .next t ∧ t.safe = s.safe ∧ t.due = s.due ∧ t.rb Reg.SAFE_EVT 2 = true) ∧
    (key ≠ 0xC35A → exec (.safeCmdExit m key) s = .next (answered .ok 0 s))) ∧
  (s.safe.rundown = some (why, t0) → s.safe.safe = false →
    (t0 + max 1 (s.rf Reg.SAFE_CFG 14 0) * 1000000 ≤ s.tb → ∃ t, exec .rundownTimeout s = .next t ∧ entered t bit ∧
      t.rb Reg.SAFE_EVT 3 = true) ∧
    (s.tb < t0 + max 1 (s.rf Reg.SAFE_CFG 14 0) * 1000000 → exec .rundownTimeout s = .next s) ∧
    (reachesRegs m = true → ∃ t, exec (.rdDone m) s = .next t ∧ entered t bit)) ∧
  (s.safe.rundown = none → exec .rundownTimeout s = .next s ∧ (reachesRegs m = true → exec (.rdDone m) s = .next (answered .ok 0 s))) ∧
  (masterSecure (masterNow s m) = true → (∃ t, exec (.hwdEnable m w) s = .next t ∧ t.rb Reg.HWD_CTL 31 = true ∧ t.rf Reg.HWD_CTL 15 0 = w.toNat % 2 ^ 16 ∧
      (¬on ∨ w.getLsbD 29 = true → t.safe = fresh s.safe) ∧ (on → w.getLsbD 29 = false → t.safe = s.safe)) ∧
    ∃ t, exec (.hwdRearm m) s = .next t ∧ t.safe = fresh s.safe ∧ t.rb Reg.HWD_CTL 31 = s.rb Reg.HWD_CTL 31) ∧
  (reachesRegs m = true →
    (passed → ∃ b, exec .hwdExpiry s = .next b ∧ b.safe.expired = true ∧ exec (.hwdKick m v) s = exec (.hwdKick m v) b) ∧
    (¬on ∨ (s.safe.expired = true ∧ ∃ b, m = .host b) → exec (.hwdKick m v) s = .next (answered .ok 0 s)) ∧
    (on → s.safe.expired = true → (¬∃ b, m = .host b) → ∃ t, exec (.hwdKick m v) s = .next t ∧ t.safe = s.safe ∧ t.rb Reg.HWD_STAT 1 = true) ∧
    (on → s.safe.expired = false → s.tb < late → (∃ b, m = .host b) → v = want → exec (.hwdKick m v) s = .next (answered .ok 0
      { s with safe := { s.safe with next92 := !s.safe.next92, hwdTb := s.tb } })) ∧
    (on → s.safe.expired = false → s.tb < late → (v ≠ want ∨ ¬∃ b, m = .host b) → ∃ t, exec (.hwdKick m v) s = .next t ∧ t.safe = s.safe ∧
      t.rb Reg.HWD_STAT 1 = true)) ∧
  (¬on ∨ s.safe.expired = true ∨ s.tb < late → exec .hwdExpiry s = .next s) ∧
  (on → s.safe.expired = false → late ≤ s.tb →
    (s.rb Reg.HWD_CTL 30 = false → s.safe.safe = false → ∃ t, exec .hwdExpiry s = .next t ∧ entered t 3 ∧ t.safe.expired = true) ∧
    (s.rb Reg.HWD_CTL 30 = true → idle → quiet → thread → ∃ t, exec .hwdExpiry s = .next t ∧ running t .hwd ∧ t.safe.expired = true))

/-- R311, R313–R316, R319–R321, R323: deliveries, record writes and their registers. Of the states that can be delivered the fast class
goes first, then the lowest source: it takes a slot and a sequence number, or sets LOST where the ring is full, unless a completion of the same cc
frees a slot. A record write puts each word into the ring in the cc that serves its bank, and advances WPTR when all four are written; a
word that is not admitted ends it with RING_ERR, and the records after it move up. CLAIM takes the oldest record under the stack rule, DONE returns it in order.
A ring is enabled in a legal place alone, and disabled when it is empty. -/
def Obligations.RecordFlow : Prop := ∀ (s : State) (m : Master) (p : Pend) (bank : Fin 3) (b : Fin 3) (fast : Bool) (w : Word)
    (x : RecWrite) (rest : List RecWrite) (idx : BitVec 12) (k : Fin 16) (src : Fin 512) (o : OpenRec) (th : Fin 64),
  let pf := (s.route p.src).fast
  let first (q : Pend) : Prop := q = p ∨ (pf = true ∧ (s.route q.src).fast = false) ∨ ((s.route q.src).fast = pf ∧ p.src < q.src)
  let pr := s.ring bank.val pf
  let full : Prop := ringSize s bank.val pf + (if doneComing s bank.val pf then 1 else 0) ≤ (pr.wptr + pr.res + 65536 - pr.rptr) % 65536
  let evt (t : State) (b : Nat) (i : Nat) : Prop := t.rb (Reg.EVR_EVT b) i = true
  let others (t : State) : Prop := t.tb = s.tb ∧ t.spk = s.spk ∧ t.eng = s.eng
  let gone (t : State) : Prop := t.evr.pend = s.evr.pend.filter (fun q => q.src != p.src) ∧ (t.ring bank.val pf).seq = (pr.seq + 1) % 256
  let a := recordAddr s x.bank.val x.fast x.ptr
  let xr := s.ring x.bank.val x.fast
  let rep (e : Evr) : Nat := match e.opens.find? fun o => o.bank == x.bank && o.fast == x.fast && o.ptr == x.ptr with | some o => o.rep | none => 0
  let datum (i : Fin 4) : Word := if i = 0 then setFld x.w0 23 16 (rep s.evr) else if i = 1 then x.w1 else if i = 2 then x.w2 else x.w3
  let admits : Prop := pwrNow s (a / 0x100000) = .on ∧ splOwner s (a / 0x100000) = if x.bank = 2 then 3 else 0
  let idle : Prop := s.pending = [] ∧ s.evr.reps = [] ∧ s.slt.ringReads = []
  let busyBut (i : Fin 4) : Prop := ∀ j : Fin 4, (placeOf (a + 4 * j.val) ∈ s.fabric.used ∧ j ≠ i) ∨ (placeOf (a + 4 * j.val) ∉ s.fabric.used ∧ j = i)
  let unitsKept (t : State) : Prop := t = { s with mem := t.mem, ecc := t.ecc, fabric := t.fabric, evr := t.evr }
  let g := s.ring b.val fast
  let c := Reg.EVR_RING_CFG b.val (ofBool fast)
  let log := w.toNat % 2 ^ 4
  let base := ringBase s b.val fast
  let end_ := base + 16 * 2 ^ log
  let legal : Prop := 4 ≤ log ∧ log ≤ 12 ∧ end_ ≤ 0x800000 ∧ base / 0x100000 = (end_ - 1) / 0x100000 ∧
    splOwner s (base / 0x100000) = if b = 2 then 3 else 0
  let reaches : Prop := (∃ h, m = .host h ∧ b ≠ 2) ∨ m = .safelight
  let free' : Prop := if fast then true ∉ (s.bankAt b.val).stack else (s.bankAt b.val).stack = []
  let head (o : OpenRec) : Prop := o.bank = b ∧ o.fast = fast ∧ o.ptr = g.rptr
  ((∀ u, s.evr.lastTb = some u → u + 4 ≤ s.cc) → p ∈ s.evr.pend → deliverable s p = true → s.bankOf p.src p.safety = some bank.val →
      (∀ q ∈ s.evr.pend, deliverable s q = true → first q) →
    (¬full → ∃ t, exec .recordDelivery s = .next t ∧ others t ∧ gone t ∧ t.evr.lastTb = some s.cc ∧ (t.ring bank.val pf).res = pr.res + 1 ∧
      t.evr.writes = s.evr.writes ++ [{
        bank := bank, fast := pf, ptr := (pr.wptr + pr.res) % 65536, src := p.src, kind := p.kind, w0 := recWord0 p.src pf p.kind p.rep pr.seq, w1 := lo32 p.tb, w2 := hi32 p.tb &&& 0xFFFF, w3 := detailNow s p.detail, done := [] }] ∧
      t.evr.opens = s.evr.opens ++ [{
        src := p.src, kind := p.kind, bank := bank, fast := pf, ptr := (pr.wptr + pr.res) % 65536, rep := p.rep, safety := p.safety, at_ := s.cc }]) ∧
    (full → ∃ t, exec .recordDelivery s = .next t ∧ others t ∧ gone t ∧ t.evr.writes = s.evr.writes ∧ t.evr.opens = s.evr.opens ∧
      evt t bank.val (if pf then 1 else 0) ∧ (p.safety = true → t.safe.safe = true))) ∧
  ((∀ q ∈ s.evr.pend, deliverable s q = false) ∨ (∃ u, s.evr.lastTb = some u ∧ s.cc < u + 4) → exec .recordDelivery s = .next s) ∧
  (s.evr.writes = [] → exec .recordWriteComplete s = .next s) ∧
  (idle → s.evr.writes = x :: rest → x.done = [] → a + 16 ≤ 0x800000 → (∀ i : Fin 4, inBorrowed s (a + 4 * i.val) = false) →
    (s.fabric.used = [] → admits → ∃ t, exec .recordWriteComplete s = .next t ∧ unitsKept t ∧ t.evr.writes = rest ∧
      t.evr.opens = s.evr.opens ∧ (∀ i : Fin 4, memWord t.mem (a + 4 * i.val) = datum i) ∧
      (∀ j, j < a ∨ a + 16 ≤ j → byteAt t.mem j = byteAt s.mem j) ∧
      t.ring x.bank.val x.fast = { xr with wptr := (xr.wptr + 1) % 65536, res := xr.res - 1 }) ∧
    (∀ i : Fin 4, busyBut i → admits → ∃ t, exec .recordWriteComplete s = .next t ∧ unitsKept t ∧
      t.evr = { s.evr with writes := { x with done := [i.val] } :: rest } ∧ memWord t.mem (a + 4 * i.val) = datum i ∧
      ∀ j, j < a + 4 * i.val ∨ a + 4 * i.val + 4 ≤ j → byteAt t.mem j = byteAt s.mem j) ∧
    ((∀ i : Fin 4, placeOf (a + 4 * i.val) ∈ s.fabric.used) → ∃ t, exec .recordWriteComplete s = .next t ∧ t = { s with fabric := t.fabric }) ∧
    (s.fabric.used = [] → ¬admits → ∃ t, exec .recordWriteComplete s = .next t ∧ others t ∧ t.mem = s.mem ∧
      t.ring x.bank.val x.fast = { xr with res := xr.res - 1 } ∧ evt t x.bank.val (if x.fast then 3 else 2) ∧
      t.evr.writes = rest.map fun v => if v.bank = x.bank ∧ v.fast = x.fast then { v with ptr := (v.ptr + 65535) % 65536 } else v)) ∧
  (reaches → (g.wptr = g.rptr → exec (.evrClaim m b fast) s = .next (answered .ok 0 s)) ∧
    (g.wptr ≠ g.rptr → ¬free' → exec (.evrClaim m b fast) s = .next (answered .ok 0x40000000 s)) ∧
    (g.wptr ≠ g.rptr → free' → o ∈ s.evr.opens → head o → (∀ q ∈ s.evr.opens, head q → q.src = o.src) →
      ∃ t, exec (.evrClaim m b fast) s = .next t ∧ t.evr.banks = (s.modBank b.val fun k => { k with stack := fast :: k.stack }).evr.banks ∧
        t.evr.opens = s.evr.opens ∧ t.mem = s.mem ∧ t.answer.status = .ok ∧
        t.answer.data = 0x80000000 ||| BitVec.ofNat 32 (o.src * 2 ^ 16) ||| BitVec.ofNat 32 (g.rptr % ringSize s b.val fast)) ∧
    ((s.bankAt b.val).stack.head? = some fast → idx.toNat = g.rptr % ringSize s b.val fast → ∃ t, exec (.evrDone m b fast idx) s = .next t ∧
      others t ∧ t.mem = s.mem ∧ t.regs = s.regs ∧ t.ring b.val fast = { g with rptr := (g.rptr + 1) % 65536 } ∧
      (t.bankAt b.val).stack = (s.bankAt b.val).stack.tail ∧ t.evr.opens = s.evr.opens.filter fun o => !decide (head o)) ∧
    ((s.bankAt b.val).stack.head? ≠ some fast ∨ idx.toNat ≠ g.rptr % ringSize s b.val fast → ∃ t, exec (.evrDone m b fast idx) s = .next t ∧
      t.evr.banks = s.evr.banks ∧ t.evr.opens = s.evr.opens ∧ evt t b.val 5) ∧
    (∃ t, exec (.clrLostN m b) s = .next t ∧ t.evr = s.evr ∧ t.reg (Reg.EVR_LOST b.val 0) = 0 ∧
      t.reg (Reg.EVR_LOST b.val 1) = s.reg (Reg.EVR_LOST b.val 1)) ∧
    (∃ t, exec (.clrLostF m b) s = .next t ∧ t.evr = s.evr ∧ t.reg (Reg.EVR_LOST b.val 1) = 0 ∧
      t.reg (Reg.EVR_LOST b.val 0) = s.reg (Reg.EVR_LOST b.val 0)) ∧
    (∃ t, exec (.maskWrite m b k w) s = .next t ∧ t.evr = s.evr ∧ t.reg (Reg.EVR_MASK b.val k.val) = w) ∧
    (s.rb c 8 = false → (∃ t, exec (.ringCfgWrite m b fast true w) s = .next t ∧ t.evr = s.evr ∧
        t.reg (Reg.EVR_RING_BASE b.val (ofBool fast)) = w &&& 0xFFFFFFF0) ∧
      (w.getLsbD 8 = true → legal → ∃ t, exec (.ringCfgWrite m b fast false w) s = .next t ∧ t.evr = s.evr ∧ t.rb c 8 = true ∧ t.rf c 3 0 = log) ∧
      (w.getLsbD 8 = true → ¬legal → ∃ t, exec (.ringCfgWrite m b fast false w) s = .next t ∧ t.rb c 8 = false ∧ evt t b.val 6) ∧
      (w.getLsbD 8 = false → ∃ t, exec (.ringCfgWrite m b fast false w) s = .next t ∧ t.evr = s.evr ∧ t.rb c 8 = false ∧ t.rf c 3 0 = log)) ∧
    (s.rb c 8 = true → (∃ t, exec (.ringCfgWrite m b fast true w) s = .next t ∧
        t.reg (Reg.EVR_RING_BASE b.val (ofBool fast)) = s.reg (Reg.EVR_RING_BASE b.val (ofBool fast))) ∧
      (w.getLsbD 8 = false → ∃ t, exec (.ringCfgWrite m b fast false w) s = .next t ∧ t.evr.banks = s.evr.banks ∧ t.rf c 3 0 = s.rf c 3 0 ∧
        (g.wptr = g.rptr → t.rb c 8 = false) ∧ (g.wptr ≠ g.rptr → t.rb c 8 = true ∧ evt t b.val 6)))) ∧
  exec (.maskWrite (.engine th) b k w) s = .next (answered .ok 0 s) ∧
  (masterSecure (masterNow s m) = true → (src.val < 336 → ∃ t, exec (.routeWrite m src w) s = .next t ∧ t.evr = s.evr ∧
      t.reg (Reg.EVR_ROUTE src.val) = w &&& if src.val < 328 then 0x113 else 0x110) ∧
    (336 ≤ src.val → exec (.routeWrite m src w) s = .next (answered .ok 0 s)))

/-- R329, R332–R339: an access to the spools by any master whose class is admitted moves its 1, 2 or 4 bytes at any alignment, where the
words are good and untested; an access across two spools is a bus error, one to a spool that is not ON or is another's reads 0, writes
nothing and sets its flag, and an uncorrectable word ends in a bus error. An access that its banks do not serve in this
cc waits, and one that reaches a region in test has it released by the end of the 20th cc. An access that spans two words is served by
each bank in its own cc. Ownership and power states go by the permission of R332; a
handover governs from the next cc, and a power change lasts as long as Table 11-4 says. -/
def Obligations.SpoolAccess : Prop := ∀ (s : State) (m : Master) (a : Nat) (sz : Size) (v w : Word) (n : Unit3),
  let k := sizeBytes sz
  let p := a / 0x100000
  let word := a / 4 * 4
  let one : Prop := p = (a + k - 1) / 0x100000 ∧ a + k ≤ 0x800000
  let qr := spoolReq s m a sz none
  let qw := spoolReq s m a sz (some v)
  let fresh : Prop := madePart s m a k = none
  let got : Nat := leNat ((List.range k).map fun i => byteAt s.mem (a + i))
  let onlyMem (t : State) : Prop := t = { s with mem := t.mem, ecc := t.ecc, fabric := t.fabric, answer := t.answer }
  let on : Prop := pwrNow s p = .on
  let mine : Prop := splOwner s p ∈ ownClasses s a m ∧ splOwner s p ∈ ownClasses s (word + 4) m
  let foreign : Prop := splOwner s p ∉ ownClasses s a m ∧ splOwner s p ∉ ownClasses s (word + 4) m
  let good : Prop := ∀ i : Fin 2, eccAt s (word + 4 * i.val) = 0 ∧ inBorrowed s (word + 4 * i.val) = false
  let evt (t : State) (p b : Nat) : Prop := t.rb (Reg.SPL_EVT p) b = true
  let may : Prop := masterSecure (masterNow s m) = true ∨ (∃ h, m = .host h ∧ splOwner s n.val = 0) ∨ ∃ t, m = .engine t ∧ splOwner s n.val = 1
  let own := Reg.SPL_OWN n.val
  let pwr := Reg.SPL_PWR n.val
  let req : PwrState := if w.toNat % 4 = 0 then .on else if w.toNat % 4 = 1 then .ret else .off
  let wanted : PwrState := if s.rf pwr 1 0 = 0 then .on else if s.rf pwr 1 0 = 1 then .ret else .off
  let lasts (was req : PwrState) : Nat := if was = .ret ∧ req = .on then 2000 else if was = .off then 133072 else 0
  let mineAt (j : Nat) : Prop := n.val * 0x100000 ≤ j ∧ j < (n.val + 1) * 0x100000
  let cleared (t : State) : Prop := ∀ j, (mineAt j → byteAt t.mem j = 0) ∧ (¬mineAt j → byteAt t.mem j = byteAt s.mem j)
  let ready := (s.splAt n.val).ready
  (∀ r, qr = some r → granted s r = false → exec (.spoolAccess m a sz none) s = .next (afterWait s qr)) ∧
  (∀ r, qw = some r → granted s r = false → exec (.spoolAccess m a sz (some v)) s = .next (afterWait s qw)) ∧
  (∀ r, qw = some r → granted s r = true → p = (a + k - 1) / 0x100000 → testsHit s r.words ≠ [] →
    ∃ t, exec (.spoolAccess m a sz (some v)) s = .next t ∧ t.answer.status = .held ∧ t.mem = s.mem ∧ (t.splAt p).test.till ≠ none ∧
      ((s.splAt p).test.till = none → (t.splAt p).test.till = some (s.cc + 40))) ∧
  (one → on → mine → good →
    (∀ r, qr = some r → ∀ x, r.two = some x → ∀ r2, secondReq x = some r2 → Clear s r → granted (halfMade s r x) r2 = false →
      ∃ t, exec (.spoolAccess m a sz none) s = .next t ∧ onlyMem t ∧ t.answer.status = .held ∧ t.mem = s.mem ∧ madePart t m a k ≠ none) ∧
    (∀ r, qw = some r → ∀ x, r.two = some x → ∀ r2, secondReq x = some r2 → Clear s r → granted (halfMade s r x) r2 = false →
      ∃ t, exec (.spoolAccess m a sz (some v)) s = .next t ∧ onlyMem t ∧ t.answer.status = .held ∧ madePart t m a k ≠ none ∧
        (∀ i : Fin 4, a + i.val < word + 4 → byteAt t.mem (a + i.val) = byteOf v i.val) ∧
        ∀ j, j < a ∨ word + 4 ≤ j → byteAt t.mem j = byteAt s.mem j) ∧
    (fresh → Grants s qr → ∃ t, exec (.spoolAccess m a sz none) s = .next t ∧ onlyMem t ∧ t.mem = s.mem ∧
      t.answer = { status := .ok, data := BitVec.ofNat 32 got }) ∧
    (∀ lo, madePart s m a k = some lo → Grants s qr → lo = got % 2 ^ (8 * (4 - a % 4)) → 4 < a % 4 + k →
      ∃ t, exec (.spoolAccess m a sz none) s = .next t ∧ onlyMem t ∧ t.mem = s.mem ∧ t.answer = { status := .ok, data := BitVec.ofNat 32 got }) ∧
    (fresh → Grants s qw → ∃ t, exec (.spoolAccess m a sz (some v)) s = .next t ∧ onlyMem t ∧ t.answer.status = .ok ∧
      (∀ i : Fin 4, i.val < k → byteAt t.mem (a + i.val) = byteOf v i.val) ∧ ∀ j, j < a ∨ a + k ≤ j → byteAt t.mem j = byteAt s.mem j)) ∧
  (¬one → a < 0x800000 →
    (Grants s qr → ∃ t, exec (.spoolAccess m a sz none) s = .next t ∧ t.answer = { status := .buserr, data := 0 } ∧ t.mem = s.mem) ∧
    (Grants s qw → ∃ t, exec (.spoolAccess m a sz (some v)) s = .next t ∧ t.answer.status = .buserr ∧ t.mem = s.mem)) ∧
  (fresh → one → (¬on ∨ foreign) →
    (Grants s qr → ∃ t, exec (.spoolAccess m a sz none) s = .next t ∧ t.answer = { status := .ok, data := 0 } ∧ t.mem = s.mem ∧
      (¬on → evt t p 3) ∧ (on → evt t p 2)) ∧
    (Grants s qw → ∃ t, exec (.spoolAccess m a sz (some v)) s = .next t ∧ t.answer.status = .ok ∧ t.mem = s.mem ∧ (¬on → evt t p 3) ∧ (on → evt t p 2))) ∧
  (fresh → Grants s qr → one → on → mine → a % 4 + k ≤ 4 →
    (2 ≤ eccAt s word → ∃ t, exec (.spoolAccess m a sz none) s = .next t ∧
      t.answer = { status := if reachesRegs m then .buserr else .ok, data := 0 } ∧ t.mem = s.mem ∧ evt t p 1) ∧
    (eccAt s word = 1 → ∃ t, exec (.spoolAccess m a sz none) s = .next t ∧ t.mem = s.mem ∧ word ∈ t.fabric.wb ∧ evt t p 0 ∧
      t.answer = { status := .ok, data := BitVec.ofNat 32 got })) ∧
  (0x800000 ≤ a → exec (.spoolAccess m a sz none) s = .next s ∧ exec (.spoolAccess m a sz (some v)) s = .next s) ∧
  (reachesRegs m = true → (may → w.toNat % 8 ≤ 4 → ∃ t, exec (.handover m n w) s = .next t ∧ t.answer = { status := .ok, data := 0 } ∧
      t.reg own = BitVec.ofNat 32 (w.toNat % 8) ∧ splOwner t n.val = splOwner s n.val ∧ t.mem = s.mem ∧ t.spl = s.spl ∧ t.evr = s.evr) ∧
    (¬may ∨ 4 < w.toNat % 8 → ∃ t, exec (.handover m n w) s = .next t ∧ t.reg own = s.reg own ∧ evt t n.val 5) ∧
    (¬may → ∃ t, exec (.powerRequest m n w) s = .next t ∧ t.spl = s.spl ∧ t.reg pwr = s.reg pwr ∧ evt t n.val 5) ∧
    (may → w.toNat % 4 = 3 → exec (.powerRequest m n w) s = .next (answered .ok 0 s)) ∧
    (may → w.toNat % 4 < 3 → ∃ t, exec (.powerRequest m n w) s = .next t ∧ t.reg pwr = BitVec.ofNat 32 (w.toNat % 4) ∧ t.mem = s.mem ∧
      ((s.splAt n.val).st = .changing ∨ (s.splAt n.val).st = req → t.spl = s.spl) ∧
      ((s.splAt n.val).st ≠ .changing → (s.splAt n.val).st ≠ req → (t.splAt n.val).st = .changing ∧ (t.splAt n.val).target = req ∧
        (t.splAt n.val).ready = s.cc + 2 + lasts (s.splAt n.val).st req ∧
        ((t.splAt n.val).test.borrowed = true → (t.splAt n.val).test.till ≠ none)))) ∧
  ((s.splAt n.val).st = .changing → (s.splAt n.val).init = false → ready ≤ s.tb → regionHeld s n.val = false → (s.splAt n.val).target ≠ .changing →
    ∃ t, exec (.powerChangeDone n) s = .next t ∧ t.tb = s.tb ∧ t.reg pwr = s.reg pwr ∧
      ((s.splAt n.val).target = .off → cleared t) ∧ ((s.splAt n.val).target ≠ .off → t.mem = s.mem) ∧
      (s.rf pwr 1 0 < 3 → (s.splAt n.val).target = wanted → (t.splAt n.val).st = wanted) ∧
      (s.rf pwr 1 0 < 3 → (s.splAt n.val).target ≠ wanted → (t.splAt n.val).st = .changing ∧ (t.splAt n.val).target = wanted)) ∧
  ((s.splAt n.val).st ≠ .changing ∨ (s.splAt n.val).init = true ∨ s.tb < ready ∨ regionHeld s n.val = true → exec (.powerChangeDone n) s = .next s) ∧
  ((s.splAt n.val).init = true → ready ≤ s.tb → ∃ t, exec (.spoolInitDone n) s = .next t ∧ t.tb = s.tb ∧ cleared t ∧ (t.splAt n.val).init = false ∧
    (wanted = .on → (t.splAt n.val).st = .on) ∧ (s.rf pwr 1 0 < 3 → wanted ≠ .on → (t.splAt n.val).st = .changing ∧ (t.splAt n.val).target = wanted)) ∧
  ((s.splAt n.val).init = false ∨ s.tb < ready → exec (.spoolInitDone n) s = .next s)

/-- R344, R346–R351: the background test and the copy engine. The test borrows its next region when its interval has passed, no
request waits on the spool and no word of the region is uncorrectable, corrects the others, and gives it back unchanged after 192 cycles
on each bank: the next region follows, and after the last a pass counts. A failing bit is
recorded, and stops the test where FAIL_STOP is 1. A copy channel starts with a legal length and range, reads and writes one word at a
time, each in the cc that serves its bank, while its class or COPY owns the spools and the test does not go before it, stops at the first
access that is refused, and ends with DONE and the handover that CTL gives. -/
def Obligations.SpoolEngines : Prop := ∀ (s : State) (m : Master) (n k : Unit3) (w : Word) (d : Fin 64) (bit : Fin 39),
  let x := (s.splAt n.val).test
  let tst := Reg.SPL_TSTCTL n.val
  let region := if x.restart then 0 else x.region
  let ready : Prop := s.rb tst 0 = true ∧ (s.splAt n.val).st = .on ∧ regionHeld s n.val = false ∧ (x.first = true ∨ x.freeTb + s.rf tst 31 16 * 1000 ≤ s.tb)
  let inTest (f : SplTest → SplTest) : State := s.modSpl n.val fun p => { p with test := f p.test }
  let after : SplTest := {
    region := if x.restart ∨ x.region = 4095 then 0 else x.region + 1, borrowed := false, freeTb := s.tb, first := false, restart := false,
    cyc := x.cyc, till := x.till }
  let ends : Prop := x.borrowed = true ∧ x.till = none ∧ ∀ b : Fin 4, 192 ≤ vget x.cyc b.val 0
  let at_ (i : Fin 64) : Nat := n.val * 0x100000 + region * 256 + 4 * i.val
  let c := s.cpyAt k.val
  let len := s.rf (Reg.CPY_LEN k.val) 18 0
  let src := (s.reg (Reg.CPY_SRC k.val)).toNat
  let dst := (s.reg (Reg.CPY_DST k.val)).toNat
  let legal : Prop := 1 ≤ len ∧ len ≤ 262144 ∧ src % 4 = 0 ∧ dst % 4 = 0 ∧ dst + 4 * len ≤ 0x800000 ∧ (w.getLsbD 4 = true ∨ src + 4 * len ≤ 0x800000)
  let cls : Nat := match m with | .engine _ => 1 | .safelight => 3 | _ => 0
  let fill := s.rb (Reg.CPY_CTL k.val) 4
  let word : Option Word := if fill then some (s.reg (Reg.CPY_FILL k.val)) else c.got
  let next := if word = none then src else dst
  let clearOf (a : Nat) : Prop := regionHeld s (a / 0x100000) = false ∨ (inBorrowed s a = false ∧
    (s.splAt (a / 0x100000)).test.till = none ∧ 192 ≤ vget (s.splAt (a / 0x100000)).test.cyc (a / 4 % 4) 192)
  let moves : Prop := c.busy = true ∧ 1 ≤ c.remain
  let copies : Prop := moves ∧ clearOf next
  let mine (a : Nat) : Prop := splOwner s (a / 0x100000) = 4 ∨ splOwner s (a / 0x100000) = c.cls
  let admits (a : Nat) : Prop := pwrNow s (a / 0x100000) = .on ∧ mine a
  let stopped (cause : Nat) : Prop := ∃ t, exec (.copyWord k) s = .next t ∧ t.mem = s.mem ∧
    t.cpyAt k.val = { c with busy := false, stop := false, finish := false, got := none, cause := cause } ∧ t.rb (Reg.CPY_STAT k.val) 2 = true
  let written (t : State) (v : Word) : Prop := t.tb = s.tb ∧ memWord t.mem dst = v ∧
    (∀ j, j < dst ∨ dst + 4 ≤ j → byteAt t.mem j = byteAt s.mem j) ∧
    t.reg (Reg.CPY_DST k.val) = BitVec.ofNat 32 ((dst + 4) % 0x800000) ∧
    t.reg (Reg.CPY_SRC k.val) = (if fill then s.reg (Reg.CPY_SRC k.val) else BitVec.ofNat 32 ((src + 4) % 0x800000)) ∧
    (c.stop = false ∨ c.remain = 1 → t.cpyAt k.val = { c with remain := c.remain - 1, finish := decide (c.remain = 1), got := none }) ∧
    (c.stop = true → 1 < c.remain → t.rb (Reg.CPY_STAT k.val) 2 = true ∧
      t.cpyAt k.val = { c with remain := c.remain - 1, busy := false, stop := false, finish := false, got := none, cause := 5 })
  let ok (c : Instr) (t : State) : Prop := exec c s = .next (answered .ok 0 t)
  let stop_ := if dst = 0 then 0x800000 else dst
  let touched (p : Unit3) : Prop := (stop_ - 4 * len) / 0x100000 ≤ p.val ∧ p.val ≤ (stop_ - 4) / 0x100000
  let own (t : State) (p : Unit3) := t.rf (Reg.SPL_OWN p.val) 2 0
  let hands : Prop := s.rb (Reg.CPY_CTL k.val) 8 = true ∧ s.rf (Reg.CPY_CTL k.val) 11 9 < 4
  (ready → spoolWanted s n.val = false →
    ((∀ i : Fin 64, eccAt s (at_ i) = 0) → exec (.testRegionBorrow n) s = .next (inTest fun t =>
      { t with region := region, restart := false, borrowed := true, till := none, cyc := Vector.replicate 4 0 })) ∧
    (∀ i : Fin 64, eccAt s (at_ i) = 1 → (∀ j : Fin 64, j < i → eccAt s (at_ j) ≠ 2) →
      ∃ t, exec (.testRegionBorrow n) s = .next t ∧ at_ i ∈ t.fabric.wb ∧ t.rb (Reg.SPL_EVT n.val) 0 = true) ∧
    (region < 4096 → (∃ i : Fin 64, eccAt s (at_ i) = 2) → ∃ t, exec (.testRegionBorrow n) s = .next t ∧
      t.mem = s.mem ∧ (t.splAt n.val).test.borrowed = false ∧ (t.splAt n.val).test.region = (region + 1) % 4096 ∧
      t.rb (Reg.SPL_EVT n.val) 1 = true)) ∧
  (¬ready ∨ spoolWanted s n.val = true → exec (.testRegionBorrow n) s = .next s) ∧
  (¬ends → exec (.testRegionRelease n none) s = .next s ∧ exec (.testRegionRelease n (some (d, bit))) s = .next s) ∧
  (ends → (∃ t, exec (.testRegionRelease n none) s = .next t ∧ t.mem = s.mem ∧ t.tb = s.tb ∧ (t.splAt n.val).test = after ∧
      t.reg tst = s.reg tst ∧ (x.region = 4095 → t.rf (Reg.SPL_TSTAT n.val) 31 16 = (s.rf (Reg.SPL_TSTAT n.val) 31 16 + 1) % 65536)) ∧
    ∃ t, exec (.testRegionRelease n (some (d, bit))) s = .next t ∧ t.mem = s.mem ∧ (t.splAt n.val).test = after ∧
      t.reg (Reg.SPL_TFAIL n.val) = BitVec.ofNat 32 (x.region * 64 + d.val) ||| BitVec.ofNat 32 (bit.val * 2 ^ 18) ∧
      t.rb (Reg.SPL_EVT n.val) 4 = true ∧ (s.rb tst 1 = true → s.wroteNow tst = false → t.rb tst 0 = false) ∧
      (s.rb tst 1 = false → t.reg tst = s.reg tst)) ∧
  (reachesRegs m = true →
    (s.rb tst 0 = true → ∃ t, exec (.restart m n) s = .next t ∧ t.spl = s.spl) ∧
    (s.rb tst 0 = false → ∃ t, exec (.restart m n) s = .next t ∧ t.mem = s.mem ∧ (t.splAt n.val).test =
      if regionHeld s n.val then { x with restart := true } else { x with region := 0, first := true }) ∧
    (∃ t, exec (.splClrCnt m n) s = .next t ∧ t.spl = s.spl ∧ t.reg (Reg.SPL_ECC n.val) = 0 ∧ t.reg (Reg.SPL_TABRT n.val) = 0) ∧
    (c.busy = false → legal → ok (.copyGo m k w) ((s.setReg (Reg.CPY_CTL k.val) (w &&& 0xF10)).modCpy k.val fun _ =>
      { busy := true, cls := cls, remain := len, cause := 0, stop := false, finish := false, got := none })) ∧
    (c.busy = false → ¬legal → ∃ t, exec (.copyGo m k w) s = .next t ∧ t.mem = s.mem ∧ (t.cpyAt k.val).busy = false ∧
      (t.cpyAt k.val).cause = 4 ∧ t.rb (Reg.CPY_STAT k.val) 2 = true) ∧
    (c.busy = true → w.getLsbD 1 = false → ok (.copyGo m k w) s) ∧
    (c.busy = true → c.finish = false → (masterSecure (masterNow s m) = true ∨ cls = c.cls) → ok (.copyStop m k) (s.modCpy k.val fun c => { c with stop := true })) ∧
    (c.busy = true → masterSecure (masterNow s m) = false → cls ≠ c.cls → ok (.copyStop m k) s)) ∧
  (copies → Grants s (copyReq s k) → ∀ x, word = some x →
    (admits dst → ∃ t, exec (.copyWord k) s = .next t ∧ written t x) ∧
    (pwrNow s (dst / 0x100000) ≠ .on → stopped 3) ∧ (pwrNow s (dst / 0x100000) = .on → ¬mine dst → stopped 1)) ∧
  (copies → word = none → Grants s (copyReq s k) →
    (admits src → eccAt s src ≤ 1 → placeOf dst = placeOf src → ∃ t, exec (.copyWord k) s = .next t ∧ t.mem = s.mem ∧ t.tb = s.tb ∧
      t.cpyAt k.val = { c with got := some (memWord s.mem src) }) ∧
    (pwrNow s (src / 0x100000) ≠ .on → stopped 3) ∧ (pwrNow s (src / 0x100000) = .on → ¬mine src → stopped 1) ∧
    (admits src → 2 ≤ eccAt s src → stopped 2)) ∧
  (copies → word = none → Uncontested s → inBorrowed s src = false → admits src → eccAt s src ≤ 1 → placeOf dst ≠ placeOf src → dst < 0x800000 →
    inBorrowed s dst = false → clearOf dst → admits dst → src < 0x800000 →
    ∃ t, exec (.copyWord k) s = .next t ∧ written t (memWord s.mem src)) ∧
  (moves → ¬clearOf next → exec (.copyWord k) s = .next s) ∧
  (∀ r, copyReq s k = some r → granted s r = false → next < 0x800000 → exec (.copyWord k) s = .next s) ∧
  (c.busy = false ∨ c.remain = 0 → exec (.copyWord k) s = .next s) ∧
  (c.busy = true → c.finish = true → ∃ t, exec (.copyDone k) s = .next t ∧ t.tb = s.tb ∧ t.mem = s.mem ∧
    t.cpyAt k.val = { c with busy := false, finish := false, stop := false } ∧ t.rb (Reg.CPY_STAT k.val) 1 = true ∧
    ∀ p : Unit3, (hands → touched p → splOwner s p.val = 4 → own t p = s.rf (Reg.CPY_CTL k.val) 11 9) ∧
      (¬hands ∨ ¬touched p ∨ splOwner s p.val ≠ 4 → own t p = own s p) ∧ splOwner t p.val = splOwner s p.val) ∧
  (c.busy = false ∨ c.finish = false → exec (.copyDone k) s = .next s)

/-- R353–R361, R373–R375: the host port. In QSPI form a transaction is the access of its size at its address, by a secure host where
SECHOST and HSEC are 1 and HSEC stays; an HSEC that changes, nCS that rises early and a command that is none set their flags. On the
parallel bus the two halves of a word pair into one access, read or written, where the second comes within 1 µs, and a half that stays
alone is written as it is. The transactions of the form not strapped do nothing; those before the port opens, and those whose place is
not free in the cc, wait. A narrow register write is discarded, a misaligned one is a bus error, and a write of secure bits by another
master is denied. -/
def Obligations.HostTransactions : Prop := ∀ (s : State) (a : Fin 16777216) (w : Word) (d : BitVec 16) (v : Byte) (m : Master)
    (j : Fin 4) (hw hi : BitVec 16) (hs : Bool),
  let sec := s.rb Reg.HP_SEC 0 && s.host.hsec
  let h := Master.host sec
  let same (c : Instr) (c' : Instr) (s' : State) : Prop := ∃ t, exec c s = .next t ∧ exec c' s' = .next t
  let half (v : Option (Nat × BitVec 16 × Bool)) (k : Option (Nat × BitVec 16)) : State := { s with host := { s.host with half := v, kept := k } }
  let spool : Prop := a.val < 0x800000
  let evt (t : State) (b : Nat) : Prop := t.rb Reg.HP_EVT b = true
  let opened : Prop := s.host.openIn = 0
  let holds (c : Instr) : Prop := exec c s = .next (answered .held 0 s)
  let drives (b : Byte) (t : State) : State := { t with host := { t.host with byte := b } }
  let replies (write : Bool) (st : BusStatus) : Byte :=
    match st with | .ok => if write then 0x5A else 0xA5 | .discarded => 0xC3 | .buserr => 0xE1 | _ => 0
  let serial (write : Bool) (c c' : Instr) : Prop := ∃ t, exec c' s = .next t ∧ exec c s = .next (drives (replies write t.answer.status) t)
  let r4 := hostReq s a .b4 none
  let w4 := hostReq s a .b4 (some w)
  let r1 := hostReq s a .b1 none
  let rd := parReq s a.val true false false
  let wr := parReq s a.val true false true
  let rd2 := parReq s a.val true true false
  let wr2 := parReq s a.val true true true
  let soon : Prop := s.tb < s.host.halfTb + 1000
  (s.host.parallel = false → ¬opened → holds (.read4 a false false) ∧ holds (.read2 a false false) ∧ holds (.read1 a false false) ∧
    holds (.write4 a w false false) ∧ holds (.write2 a d false false) ∧ holds (.write1 a v false false) ∧ exec .proto s = .next s) ∧
  (s.host.parallel = true → ¬opened → holds (.parallelReadCycle a true true false) ∧ holds (.parallelWriteCycle a true true d false)) ∧
  (s.host.parallel = false → opened →
    (∀ r, r4 = some r → granted s r = false → exec (.read4 a true true) s = .next (drives 0 (afterWait s r4))) ∧
    (∀ r, w4 = some r → granted s r = false → exec (.write4 a w true true) s = .next (drives 0 (afterWait s w4))) ∧
    (spool → serial false (.read4 a false false) (.spoolAccess h a.val .b4 none) ∧ serial false (.read2 a false false) (.spoolAccess h a.val .b2 none) ∧
      serial false (.read1 a false false) (.spoolAccess h a.val .b1 none) ∧ serial true (.write4 a w false false) (.spoolAccess h a.val .b4 (some w)) ∧
      serial true (.write2 a d false false) (.spoolAccess h a.val .b2 (some (d.setWidth 32))) ∧
      serial true (.write1 a v false false) (.spoolAccess h a.val .b1 (some (v.setWidth 32))) ∧
      (Grants s r4 → ∃ t, exec (.read4 a true false) s = .next t ∧ t.host.hsec = !s.host.hsec ∧ (sec = true → evt t 5)) ∧
      (Grants s w4 → ∃ t u, exec (.write4 a w false true) s = .next t ∧ exec (.write4 a w false false) s = .next u ∧ t.mem = u.mem ∧ evt t 3)) ∧
    (¬spool → serial true (.write4 a w false false) (.registerWrite h a.val w) ∧ serial false (.read4 a false false) (.clearOnRead h a.val .b4) ∧
      serial false (.read2 a false false) (.clearOnRead h a.val .b2) ∧ serial false (.read1 a false false) (.clearOnRead h a.val .b1) ∧
      (Grants s (hostReq s a .b1 (some (v.setWidth 32))) → ∃ t, exec (.write1 a v false false) s = .next t ∧ t.mem = s.mem ∧
        (reservedAt a.val 1 = false → t.answer = { status := .discarded, data := 0 } ∧ t.host.byte = 0xC3 ∧ evt t 1) ∧
        (reservedAt a.val 1 = true → t.answer = { status := .ok, data := 0 } ∧ t.regs = s.regs)) ∧
      (reservedAt a.val 2 = false → (a.val % 2 = 0 → Grants s (hostReq s a .b2 (some (d.setWidth 32))) → ∃ t,
          exec (.write2 a d false false) s = .next t ∧ t.answer = { status := .discarded, data := 0 } ∧ t.mem = s.mem ∧ evt t 1) ∧
        (a.val % 2 = 1 → Grants s (hostReq s a .b2 none) → ∃ t, exec (.read2 a false false) s = .next t ∧
          t.answer = { status := .buserr, data := 0 } ∧ t.host.byte = 0xE1 ∧ evt t 0))) ∧
    (a.val = Reg.CS_AT_LO + j.val → Grants s r1 → exec (.read1 a false false) s =
      .next (drives 0xA5 (answered .ok (BitVec.ofNat 32 ((s.reg Reg.CS_AT_LO).toNat / 2 ^ (8 * j.val) % 2 ^ 8)) (afterGrant s r1)))) ∧
    (∃ t, exec .proto s = .next t ∧ t.mem = s.mem ∧ t.host = { s.host with hsec := t.host.hsec } ∧ evt t 4 ∧
      (sec = true → t.host.hsec = false → evt t 5))) ∧
  (s.host.parallel = false → exec (.parallelReadCycle a true true false) s = .next s ∧ exec (.parallelWriteCycle a true true d false) s = .next s) ∧
  (s.host.parallel = true → exec (.read4 a false false) s = .next s ∧ exec (.read2 a false false) s = .next s ∧
    exec (.read1 a false false) s = .next s ∧ exec (.write4 a w false false) s = .next s ∧ exec (.write2 a d false false) s = .next s ∧
    exec (.write1 a v false false) s = .next s ∧ exec .proto s = .next s) ∧
  (s.host.parallel = true → opened →
    (∀ r, wr2 = some r → granted s r = false → exec (.parallelWriteCycle a true true d false) s = .next (afterWait s wr2)) ∧
    (∀ r, rd2 = some r → granted s r = false → exec (.parallelReadCycle a true true false) s = .next (afterWait s rd2)) ∧
    (a.val % 4 = 0 → s.host.half = none → exec (.parallelWriteCycle a true true d false) s = .next (answered .held 0
      { s with host := { s.host with half := some (a.val, d, sec), kept := none, halfTb := s.tb } })) ∧
    (a.val % 4 = 2 → s.host.half = some (a.val - 2, hw, hs) → soon → Grants s wr2 →
      (¬spool → same (.parallelWriteCycle a true true d false) (.registerWrite (.host (hs && sec)) (a.val - 2) (d ++ hw)) (half none none)) ∧
      (spool → same (.parallelWriteCycle a true true d false) (.spoolAccess (.host (hs && sec)) (a.val - 2) .b4 (some (d ++ hw))) (half none none))) ∧
    (a.val % 4 = 2 → s.host.half = some (a.val - 2, hw, hs) → ¬soon → Grants s wr2 → ∃ t, exec (.parallelWriteCycle a true true d false) s = .next t ∧
      t.host.half = none ∧ evt t 6) ∧
    (a.val % 2 = 0 → s.host.half = none → spool →
      (Grants s rd → same (.parallelReadCycle a true false false) (.spoolAccess h a.val .b1 none) (half none none)) ∧
      (Grants s wr → same (.parallelWriteCycle a true false d false) (.spoolAccess h a.val .b1 (some (d.setWidth 32 &&& 0xFF))) (half none none)) ∧
      (Grants s rd → ∃ t u, exec (.parallelReadCycle a false true false) s = .next t ∧ exec (.spoolAccess h (a.val + 1) .b1 none) (half none none) = .next u ∧
        t.answer.data = u.answer.data <<< 8)) ∧
    (s.host.half ≠ none → Grants s rd → ∃ t, exec (.parallelReadCycle a true false false) s = .next t ∧ t.host.half = none ∧ t.host.kept = none ∧ evt t 6) ∧
    (a.val % 4 = 0 → s.host.half = none → spool → Grants s rd2 → ∃ t u, exec (.parallelReadCycle a true true false) s = .next t ∧
      exec (.spoolAccess h a.val .b4 none) (half none none) = .next u ∧ t.answer.data = u.answer.data &&& 0xFFFF ∧
      t.host.kept = some (a.val + 2, (u.answer.data >>> 16).setWidth 16) ∧ t.mem = u.mem) ∧
    (a.val % 4 = 2 → s.host.half = none → s.host.kept = some (a.val, hi) → exec (.parallelReadCycle a true true false) s =
      .next (answered .ok (hi.setWidth 32) (half none none)))) ∧
  (s.host.half = none ∨ soon → exec .halfAlone s = .next s) ∧
  (¬soon → ∀ r, parReq s 0 false false true = some r → granted s r = false → ∃ t, exec .halfAlone s = .next t ∧ t.mem = s.mem ∧ t.host = s.host) ∧
  (s.host.half = some (a.val, hw, hs) → a.val % 2 = 0 → ¬soon → spool → Grants s (parReq s 0 false false true) →
    ∃ t u, exec .halfAlone s = .next t ∧ exec (.spoolAccess (.host hs) a.val .b2 (some (hw.setWidth 32))) (half none s.host.kept) = .next u ∧
    t.mem = u.mem ∧ t.host.half = none ∧ evt t 6) ∧
  (reachesRegs m = true → masterSecure (masterNow s m) = false → w &&& 0xE000FFFF ≠ 0 → Grants s (busReq s m Reg.HWD_CTL .b4 (some w)) →
    ∃ t, exec (.registerWrite m Reg.HWD_CTL w) s = .next t ∧
    t.safe = s.safe ∧ t.reg Reg.HWD_CTL = s.reg Reg.HWD_CTL ∧ t.reg Reg.HP_ERRADDR = BitVec.ofNat 32 Reg.HWD_CTL ∧ evt t 2)

/-- R387–R391: boot and its exit gate. A boot with no flash that answers loads the factory image into safe state, with the spools zeroed;
a valid image of the preferred slot without register records is loaded, with its sections and its version. Boot completes once; with
AUTO_EXIT it asks to leave safe state at once, or waits for the START pin to be low for START_MS ms, and a refused request repeats after 10 ms. The flash facts
are those that discovery finds. -/
def Obligations.BootSequence : Prop := ∀ (s : State) (chip : Option FlashChip) (cs : List Section),
  let found := discover (otpLoad s) chip
  let ready := forEach (List.range 8) (countBoot (armsLoad found)) spoolInit
  let slot := prefSlot ready
  let base := (region ready slot).1
  let runs : Prop := s.boot.step = 2 ∧ s.boot.done = false ∧ s.boot.powerOn = false
  let ends : Prop := s.boot.step = 6 ∧ s.boot.done = false
  let barred : Prop := s.safe.safePin = true ∨ s.safe.stopPin = true ∨ s.safe.rundown ≠ none ∨ s.safe.expired = true ∨ s.safe.srcTb = some s.tb ∨
    sourceComing s = true
  let alone : Prop := casMember s = false
  let starts : Prop := s.boot.startTb + max 1 (s.rf Reg.BOOT_CFG 15 8) * 1000000 ≤ s.tb
  let started : State := { s with safe := { s.safe with startPin := true } }
  let left (t : State) : Prop := t.safe.safe = false ∧ t.safe.cause = 0 ∧ t.boot.exitDue = none ∧ t.boot.exitWait = false
  let again (t : State) : Prop := t.safe.safe = true ∧ t.boot.exitDue = some (s.tb + 10000000) ∧ t.rb Reg.BOOT_EVT 3 = true
  let asks (t : State) : Prop := (¬barred → left t) ∧ (barred → again t)
  let booted (t : State) : Prop := t.boot.step = 7 ∧ t.boot.done = true ∧ t.rb Reg.BOOT_EVT 0 = true ∧ t.tb = s.tb
  (runs → found.flash.facts.answers = false → ∃ t, exec (.boot chip) s = .next t ∧ t.boot.step = 6 ∧ t.boot.image = 3 ∧
    t.boot.failA = 8 ∧ t.boot.failB = 8 ∧ t.otp = true ∧ t.safe = s.safe ∧ t.rb Reg.BOOT_EVT 2 = true ∧ t.tb = s.tb ∧
    ∀ j, j < 0x800000 → byteAt t.mem j = 0) ∧
  (runs → negCheck ready slot = (0, cs) → (∀ c ∈ cs, c.typ ≠ 1) → ∃ t, exec (.boot chip) s = .next t ∧ t.boot.step = 6 ∧
    t.boot.image = slot + 1 ∧ t.boot.sections = cs ∧ t.boot.active = t.boot.startFmt ∧ t.otp = true ∧ t.safe = s.safe ∧
    t.reg Reg.NEG_VER = flashWord ready (base + 0x0C) ∧ t.rb Reg.HP_SEC 0 = (flashNat ready (base + 0x13) 1).testBit 0) ∧
  (s.boot.step ≠ 2 ∨ s.boot.done = true → exec (.boot chip) s = .next s) ∧
  (ends → (s.boot.autoExit = false → ∃ t, exec .bootDone s = .next t ∧ booted t ∧ t.safe = s.safe) ∧
    (s.boot.autoExit = true → s.boot.startGate = false → alone → s.safe.safe = true → ∃ t, exec .bootDone s = .next t ∧ booted t ∧ asks t) ∧
    (s.boot.autoExit = true → s.boot.startGate = true → s.safe.startPin = false → ∃ t, exec .bootDone s = .next t ∧ booted t ∧
      t.safe = s.safe ∧ t.boot.exitWait = true)) ∧
  (¬ends → exec .bootDone s = .next s) ∧
  (¬starts → exec .startGate s = .next s) ∧
  (starts → (s.boot.exitWait = false → exec .startGate s = .next started) ∧
    (s.boot.exitWait = true → alone → s.safe.safe = true → ∃ t, exec .startGate s = .next t ∧ t.safe.startPin = true ∧ asks t)) ∧
  (s.boot.exitDue = none → exec .exitRetry s = .next s) ∧
  (∀ u, s.boot.exitDue = some u → (s.tb < u → exec .exitRetry s = .next s) ∧
    (u ≤ s.tb → s.boot.startGate = false → alone → s.safe.safe = true → ∃ t, exec .exitRetry s = .next t ∧ asks t) ∧
    (u ≤ s.tb → s.boot.startGate = true → s.safe.startPin = false → exec .exitRetry s = .next { s with boot := { s.boot with exitWait := true } }) ∧
    (u ≤ s.tb → s.boot.startGate = false → alone → s.safe.safe = false → exec .exitRetry s = .next { s with boot := { s.boot with 
      exitWait := false, exitDue := none } }))

/-- R394–R397, R399, Table 13-10: format changes. A request is refused with its cause, lowest first, and otherwise begins the preparation.
Preparation that completes arms the fix point, once no region of its spool words is in test; one that meets an error undoes the change with cause 7. ABANDON before the fix point
cancels the change, its point and what it staged; there is nothing to abandon otherwise. -/
def Obligations.FormatChange : Prop := ∀ (s : State) (m : Master) (w : Word) (d : Format),
  let f := w.toNat % 2 ^ 4
  let k := s.rf Reg.FMT_CTL 1 0
  let idle (k : Nat) : Prop := (s.fixAt k).point = .none ∧ (∀ e ∈ s.due, e.2 ≠ .fixDone k)
  let open_ : Prop := s.boot.phase = 0 ∧ s.safe.rundown = none
  let refused (c : Nat) : Prop := ∃ t, exec (.fmtRequest m w) s = .next t ∧ t.boot = { s.boot with cause := c, reqFmt := f } ∧
    t.rb Reg.FMT_EVT 1 = true ∧ t.fix = s.fix ∧ t.tb = s.tb
  let known : Prop := s.boot.formats[f]? = some d ∧ f < s.boot.nfmt ∧ f ≠ s.boot.active
  let c := s.boot.fixCh
  let pending : Prop := s.boot.phase = 1 ∧ s.boot.prepDone = false
  let tested := testsHit s (spoolWords (changeSet s s.boot.target))
  let reached : Prop := ∃ p, (s.fixAt c.val).point = .at p ∧ passed s.tb p = true
  let alive : Prop := (s.boot.phase = 1 ∨ s.boot.phase = 2) ∧ ¬reached
  (reachesRegs m = true →
    (s.boot.done = false → refused 1) ∧
    (s.boot.done = true → s.boot.phase ≠ 0 → refused 2) ∧
    (s.boot.done = true → open_ → (s.boot.formats[f]? = none ∨ s.boot.nfmt ≤ f ∨ f = s.boot.active) → refused 3) ∧
    (s.boot.done = true → open_ → known → d.fly = false → refused 4) ∧
    (s.boot.done = true → open_ → known → d.fly = true → (s.fixAt k).point ≠ .none → refused 5) ∧
    (s.boot.done = true → open_ → known → d.fly = true → idle k → nStaged s k = 0 → (changeSet s f).any (sectionBreaks s) = true → refused 6) ∧
    (s.boot.done = true → open_ → known → d.fly = true → idle k → nStaged s k = 0 → (changeSet s f).any (sectionBreaks s) = false →
      fixChain s k = false → exec (.fmtRequest m w) s = .next (answered .ok 0 { s.setReg Reg.FMT_REQ (w &&& 0x6000000F) with 
        boot := { s.boot with 
          phase := 1, target := f, reqFmt := f, cause := 0, now := w.getLsbD 29, next := w.getLsbD 30 && !w.getLsbD 29, chained := false,
          fixCh := Fin.ofNat 4 k, groups := [], hand := [], prepDone := false, flushed := false } }))) ∧
  (pending → tested ≠ [] → ∃ t, exec (.formatPrepDone false) s = .next t ∧ t.boot = s.boot ∧ t.mem = s.mem) ∧
  (pending → tested = [] → s.boot.chained = false →
    (∃ t, exec (.formatPrepDone false) s = .next t ∧ t.boot.phase = 2 ∧ t.boot.prepDone = true ∧ t.boot.target = s.boot.target ∧ t.tb = s.tb ∧
      (changeSet s s.boot.target = [] → s.boot.now = true → idle c.val → fixChain s c.val = false →
        (t.fixAt c.val).point = .at ((s.tb + 1) % 2 ^ 64))) ∧
    ∃ t, exec (.formatPrepDone true) s = .next t ∧ t.boot.phase = 0 ∧ t.boot.cause = 7 ∧ t.boot.groups = [] ∧ t.boot.hand = [] ∧
      t.rb Reg.FMT_EVT 2 = true ∧ ∀ g ∈ t.staged, g.tag ≠ c) ∧
  (¬pending → exec (.formatPrepDone false) s = .next s ∧ exec (.formatPrepDone true) s = .next s) ∧
  (reachesRegs m = true →
    (alive → ∃ t, exec (.abandon m) s = .next t ∧ t.boot = { s.boot with 
        phase := 0, groups := [], hand := [], prepDone := false, chained := false } ∧
      (t.fixAt c.val).point = .none ∧ t.staged = s.staged.filter (fun g => g.tag != c) ∧ t.rb Reg.FMT_EVT 3 = true ∧ t.tb = s.tb) ∧
    (¬alive → exec (.abandon m) s = .next (answered .ok 0 s)))

/-- R402, R404–R409, R411–R413, R421, Tables 14-4, 14-5: the frames of the cascade. A down frame aligns a member's TB: it steps in safe
state alone, joins by waiting otherwise, and is locked by 16 good phase errors. A mirrored unit follows its record when the frame is published, where its K agrees. An
up frame gives the master each member's state, the chain version and RUN. Links come up by training; a member or a link that is lost is
noticed. Frames of another device, or with a bad CRC, have no such effect;
violations in a frame count. -/
def Obligations.CascadeFrames : Prop := ∀ (s : State) (m : Master) (w : Word) (n : Unit3) (role : Fin 8) (version rx : BitVec 8) (good : Bool)
    (rtt : Nat) (f : DownFrame) (g : UpFrame),
  let c := s.cas
  let on : Prop := s.rb Reg.CAS_CTL 0 = true
  let mode (n : Nat) := s.rf (Reg.LINK_CTL n) 1 0
  let up (n : Nat) : Prop := mode n = 2 ∧ (s.linkAt n).st = .up
  let port := if c.role = 0 then 6 else 7
  let master : Prop := on ∧ c.role = 0 ∧ up 6
  let member : Prop := on ∧ c.role ≠ 0 ∧ up 7
  let evt (t : State) (b : Nat) : Prop := t.rb Reg.CAS_EVT b = true
  let l := s.linkAt 7
  let train : Prop := mode 7 = 2 ∧ c.role ≠ 0 ∧ l.st = .train ∧ l.rtts.length + 16 * l.tries < l.reqs
  let asked : Prop := mode 6 = 2 ∧ (s.linkAt 6).st = .train ∧ good = true ∧ version = 0x81
  let win := (s.tb + 80) / 1000
  let due : Prop := (s.tb + 80) % 1000 = 0 ∧ (s.linkAt 6).nextW ≤ win
  let b7 := linkCodeErr s 7 f.codeErrs.toNat
  let b6 := linkCodeErr s 6 g.codeErrs.toNat
  let dl := f.dly + s.rf Reg.CAS_HOP 23 0
  let e : Int := f.stamp - (f.tbW * 16 + dl : Nat)
  let ok := if e.natAbs ≤ 2 then c.good + 1 else 0
  let bad := if 4 < e.natAbs then c.bad + 1 else 0
  let lock : Bool := if 4 ≤ bad ∧ c.tbLock = true then false else if 16 ≤ ok then true else c.tbLock
  let unit := f.units.getD (s.rf (Reg.CAS_MIR n.val) 2 0) noUnit
  let carried : Prop := 2 ≤ f.cv.toNat ∨ s.rf (Reg.CAS_MIR n.val) 2 0 < 4
  let present (r : MemberRec) (i : Fin 7) : Bool := r.present || c.present.getLsbD i.val
  let version2 (r : MemberRec) : Prop := 2 ≤ r.pverMax.val
  let lossAt (n : Nat) := max 1 (s.rf (Reg.LINK_PARAM n) 15 8) * 1000
  let seen := vget c.seenTb role.val 0
  let missing : Prop := on ∧ c.role = 0 ∧ role ≠ 0 ∧ c.present.getLsbD (role.val - 1) = true ∧ seen + lossAt 6 ≤ s.tb
  let failed : Prop := on ∧ c.role ≠ 0 ∧ 
    ((up 7 ∧ c.st ≠ .loss ∧ c.frameTb + lossAt 7 ≤ s.tb) ∨ (¬up 7 ∧ (c.st = .run ∨ c.st = .joinWait ∨ c.tbLock = true)))
  (masterSecure (masterNow s m) = true → ¬on →
    (mode port = 2 → ∃ t, exec (.cascadeEnable m w) s = .next t ∧ t.reg Reg.CAS_CTL = (w &&& 2) ||| 1 ∧ t.tb = s.tb ∧
      t.cas = { c with st := .link, frameTb := s.tb }) ∧
    (mode port ≠ 2 → ∃ t, exec (.cascadeEnable m w) s = .next t ∧ t.reg Reg.CAS_CTL = w &&& 2 ∧ t.cas = c ∧ evt t 13)) ∧
  (train → (good = true → version ≠ 0x81 → ∃ t, exec (.cascadeTraining version rx good rtt) s = .next t ∧ (t.linkAt 7).st = .loss) ∧
    (good = false ∨ version = 0x81 → l.rtts.length < 15 → exec (.cascadeTraining version rx good rtt) s =
      .next (s.modLink 7 fun l => { l with rtts := l.rtts ++ [rtt], anyCrcOk := l.anyCrcOk || good })) ∧
    (good = true → version = 0x81 → l.rtts = List.replicate 15 rtt → 2048 ≤ rtt → rtt < 2 ^ 24 → rtt % 2 = 0 →
      ∃ t, exec (.cascadeTraining version rx good rtt) s = .next t ∧ (t.linkAt 7).st = .up ∧ t.rf Reg.CAS_HOP 23 0 = (rtt - 2048) / 2)) ∧
  (¬train → exec (.cascadeTraining version rx good rtt) s = .next s) ∧
  (asked → exec (.cascadeRequestAnswer version rx good) s = .next { s with due := s.due ++ [(s.tb + 124, .casAnswer)] }) ∧
  (mode 6 = 2 → (s.linkAt 6).st = .train →
    (c.answered < 15 → applyDue s .casAnswer =
      { s with cas := { c with answered := c.answered + 1 } }.modLink 6 fun l => { l with tx := trainingRequest s 6 }) ∧
    (15 ≤ c.answered → ((applyDue s .casAnswer).linkAt 6).st = .up ∧ (applyDue s .casAnswer).cas = { c with answered := 0 })) ∧
  (¬asked → exec (.cascadeRequestAnswer version rx good) s = .next s) ∧
  (master → due → (∀ x, c.cmd = some x → ∃ i : Fin 7, presentNow s i.val = true) → ∃ t, exec .downFrameSend s = .next t ∧ t.tb = s.tb ∧
    (t.linkAt 6).nextW = win + 1 ∧ t.cas.cmd = c.cmd ∧ t.cas.lastDown = some {
      crcOk := true, codeErrs := 0, cv := BitVec.ofNat 8 c.cv, seq := BitVec.ofNat 8 win, tbW := win * 1000, dly := 0, 
      units := (List.range 8).map (unitRec s), cmd := c.cmd.getD noCommand, stamp := win * 16000 }) ∧
  (¬master ∨ ¬due → exec .downFrameSend s = .next s) ∧
  (member → f.crcOk = false → ∃ t, exec (.downFrame f) s = .next t ∧ t.tb = s.tb ∧ t.spk = s.spk ∧ t.cas = { c with lastDown := some f }) ∧
  (member → f.crcOk = true → ∃ t, exec (.downFrame f) s = .next t ∧ t.spk = s.spk ∧
    t.cas.frameTb = (if 64 < e.natAbs ∧ s.safe.safe = true then t.cas.frameTb else s.tb) ∧ t.cas.cv = f.cv.toNat ∧
    t.cas.tbLock = lock ∧ t.cas.good = ok ∧ t.reg Reg.CAS_DL = BitVec.ofNat 32 (dl % 2 ^ 24) ∧
    (e.natAbs < 2 ^ 31 → t.reg Reg.CAS_PHERR = BitVec.ofInt 32 e) ∧ t.cas.lastDown = some { f with dly := (dl % 2 ^ 24 + 1024) % 2 ^ 24 } ∧
    (e.natAbs ≤ 64 → t.tb = s.tb ∧ (c.roleDup = false → t.cas.st = if lock then .run else .link) ∧
      t.cas.pubTb = ((f.stamp + 15) / 16 + 785) / 2 * 2) ∧
    (64 < e.natAbs → s.safe.safe = true → t.tb = (((s.tb : Int) * 16 - e) / 16).toNat % 2 ^ 64 ∧ evt t 4) ∧
    (64 < e.natAbs → s.safe.safe = false → t.tb = s.tb ∧ (c.roleDup = false → t.cas.st = .joinWait)) ∧
    (t.cas.pubTb, .mirror f) ∈ t.due) ∧
  (spkMirrors s n.val = true → (∀ j : Unit3, j ≠ n → spkMirrors s j.val = false) → ¬carried → (s.spkAt n.val).st ≠ .off → s.boot.phase = 0 →
    ((applyDue s (.mirror f)).spkAt n.val).st = .lost) ∧
  (spkMirrors s n.val = true → (∀ j : Unit3, j ≠ n → spkMirrors s j.val = false) → carried → s.boot.phase = 0 →
    let t := applyDue s (.mirror f)
    (unit.k.toNat ≠ s.rf (Reg.SPK_CYCLE n.val) 15 0 → t.cas.mirErr = true ∧
      ((s.spkAt n.val).st ≠ .off → (t.spkAt n.val).st = .lost)) ∧
    (unit.k.toNat = s.rf (Reg.SPK_CYCLE n.val) 15 0 → (unit.stampLo ≠ (s.spkAt n.val).mirStampLo ∨ unit.stampFr.val ≠ (s.spkAt n.val).mirStampFr) →
      (t.spkAt n.val).pos = unit.pos ∧ (t.spkAt n.val).cyc = unit.cyc ∧ (t.spkAt n.val).dirRev = unit.dirRev ∧
      (t.spkAt n.val).vis.pos = unit.pos ∧ (t.spkAt n.val).vis.cyc = unit.cyc) ∧
    (unit.k.toNat = s.rf (Reg.SPK_CYCLE n.val) 15 0 → unit.stampLo = (s.spkAt n.val).mirStampLo → unit.stampFr.val = (s.spkAt n.val).mirStampFr →
      t = s)) ∧
  (¬member → exec (.downFrame f) s = .next b7) ∧
  b6.rf (Reg.LINK_ERRCNT 6 0) 15 0 = min 65535 (s.rf (Reg.LINK_ERRCNT 6 0) 15 0 + g.codeErrs.toNat) ∧
  (master → g.crcOk = false → exec (.upFrame g) s = .next (b6.bump (Reg.LINK_ERRCNT 6 0) 31 16)) ∧
  (master → g.crcOk = true → c.cmd = none → g.records.length = 7 → ∃ t, exec (.upFrame g) s = .next t ∧ t.tb = s.tb ∧
    (∀ (i : Fin 7) (r : MemberRec), g.records[i.val]? = some r → t.reg (Reg.CAS_MVER (i.val + 1)) = r.negVer ∧
      t.rb (Reg.CAS_MSTAT (i.val + 1)) 9 = r.tbLock ∧ t.cas.present.getLsbD i.val = present r i ∧
      (r.present = true → vget t.cas.seenTb (i.val + 1) 0 = s.tb)) ∧
    (t.cas.cv = 2 ↔ 2 ≤ s.rf Reg.CAS_CFG 3 0 ∧ ∀ (i : Fin 7) (r : MemberRec), g.records[i.val]? = some r → r.present = true → version2 r) ∧
    ((∀ (i : Fin 7) (r : MemberRec), g.records[i.val]? = some r → s.rb Reg.CAS_CFG (8 + i.val) = true →
      r.present = true ∧ r.tbLock = true) → t.cas.st = .run)) ∧
  (¬master → exec (.upFrame g) s = .next b6) ∧
  (on → c.role ≠ 0 → up 6 → g.crcOk = true → ∀ r, g.records[c.role - 1]? = some r →
    (r.present = false → exec (.upFrameRepeat g) s = .next { b6 with cas := { c with 
      roleDup := false, lastUp := some { g with records := g.records.set (c.role - 1) (ownRecord s) } } }) ∧
    (r.present = true → ∃ t, exec (.upFrameRepeat g) s = .next t ∧ t.cas.roleDup = true ∧ t.cas.st = .link ∧ evt t 12)) ∧
  (¬on ∨ c.role = 0 ∨ ¬up 6 → exec (.upFrameRepeat g) s = .next b6) ∧
  (on → c.role ≠ 0 → up 6 → g.crcOk = false → ∃ t, exec (.upFrameRepeat g) s = .next t ∧ t.cas = { c with lastUp := some g } ∧ t.tb = s.tb) ∧
  (missing → ∃ t, exec (.memberLost role) s = .next t ∧ t.cas.present = c.present &&& ~~~(BitVec.ofNat 7 (2 ^ (role.val - 1))) ∧ evt t 2 ∧
    t.cas.st = if c.st = .run ∧ s.rb Reg.CAS_CFG (7 + role.val) = true then .loss else c.st) ∧
  (¬missing → exec (.memberLost role) s = .next s) ∧
  (failed → ∃ t, exec .cascadeLinkLoss s = .next t ∧ t.cas.st = .loss ∧ t.cas.tbLock = false ∧ t.cas.await = none ∧
    (s.boot.phase = 0 → ∀ j : Unit3, spkMirrors s j.val = true → (s.spkAt j.val).st ≠ .off → (t.spkAt j.val).st = .lost) ∧
    (s.rb Reg.CAS_CTL 1 = true → t.safe.safe = true)) ∧
  (¬failed → exec .cascadeLinkLoss s = .next s)

/-- R415–R420: the commands of the chain. A member acts on a command 8 tb after it publishes the frame that
carries it, once, and answers it: FIX_PREP marks or arms its channel, FIX_TIME
arms it at the tb given or at once when that has passed, FIX_CANCEL and FMT_ABANDON undo, FMT_PREP begins a change or names its refusal.
On the master a command that is answered by all ends, and one that is refused, or not answered in time, is undone. SPLIT marks a chain
whose FIX_TIME was not confirmed within 10 µs. -/
def Obligations.CascadeCommands : Prop := ∀ (s : State) (x : CasCommand) (g : UpFrame),
  let c := s.cas
  let k := x.fixCh.val
  let at_ := x.lo.toNat + x.hi.toNat * 2 ^ 32
  let member : Prop := s.rb Reg.CAS_CTL 0 = true ∧ c.role ≠ 0
  let acts (code : BitVec 8) : Prop := member ∧ x.code = code ∧ c.lastCseq ≠ some x.cseq.toNat ∧
    c.lastDown.map DownFrame.cmd = some x ∧ s.tb = c.pubTb + 8
  let told (t : State) : Prop := t.cas.lastCseq = some x.cseq.toNat ∧ t.cas.ackCseq = x.cseq.toNat ∧ t.tb = s.tb
  let ack (t : State) : Prop := told t ∧ t.cas.nack = false
  let nack (t : State) (cause : Nat) : Prop := told t ∧ t.cas.nack = true ∧ t.cas.nackCause = cause
  let idle : Prop := (s.fixAt k).point = .none ∧ ∀ e ∈ s.due, e.2 ≠ .fixDone k
  let mirrored : Prop := ∃ n : Unit3, spkMirrors s n.val = true ∧ s.rf (Reg.CAS_MIR n.val) 2 0 = x.spk.val
  let point (t : State) := (t.fixAt k).point
  let now := (s.tb + 1) % 2 ^ 64
  let cause := fmtCause s x.newFmt.val k false true
  let limit := if x.code = 4 then max 1 (s.rf Reg.CAS_CFG 31 16) * 1000000 else 100000
  let evt (t : State) (b : Nat) : Prop := t.rb Reg.CAS_EVT b = true
  let reached : Prop := ∃ p, (s.fixAt s.boot.fixCh.val).point = .at p ∧ passed s.tb p = true
  let cancelled (t : State) : Prop := t.rb (Reg.FIX_STAT k) 6 = true ∧ ∃ y, t.cas.cmd = some y ∧ y.code = 3 ∧ y.fixCh = x.fixCh
  let master : Prop := s.rb Reg.CAS_CTL 0 = true ∧ c.role = 0 ∧ s.rf (Reg.LINK_CTL 6) 1 0 = 2 ∧ (s.linkAt 6).st = .up ∧ g.crcOk = true ∧
    g.records.length = 7 ∧ c.cmd = some x ∧ c.queue = [] ∧ s.boot.chained = false
  let all (q : MemberRec → Prop) : Prop := ∀ (i : Fin 7) (r : MemberRec), g.records[i.val]? = some r → 
    r.present = true → q r
  (acts 1 → (¬idle → ∃ t, exec (.fixPrep x) s = .next t ∧ nack t 2 ∧ t.fix = s.fix) ∧
    (idle → 2 ≤ x.kind.val → mirrored → ∃ t, exec (.fixPrep x) s = .next t ∧ ack t ∧ point t = .chain ∧ t.cas.await = some x.fixCh) ∧
    (idle → 2 ≤ x.kind.val → ¬mirrored → ∃ t, exec (.fixPrep x) s = .next t ∧ nack t 6 ∧ t.fix = s.fix) ∧
    (idle → x.kind.val < 2 → ∃ t, exec (.fixPrep x) s = .next t ∧ ack t ∧ point t = .at (if passed s.tb at_ then now else at_))) ∧
  (acts 2 → (c.await = some x.fixCh → ∃ t, exec (.fixTime x) s = .next t ∧ ack t ∧ t.cas.await = none ∧
      point t = .at (if passed s.tb at_ then now else at_) ∧ t.cas.lateFix = passed s.tb at_ ∧ (passed s.tb at_ = true → evt t 10)) ∧
    (c.await ≠ some x.fixCh → ∃ t, exec (.fixTime x) s = .next t ∧ ack t ∧ t.fix = s.fix)) ∧
  (acts 3 → ∃ t, exec (.fixCancel x) s = .next t ∧ ack t ∧ point t = .none) ∧
  (acts 4 → (cause = 0 → ∃ t, exec (.fmtPrep x) s = .next t ∧ t.cas = { c with lastCseq := some x.cseq.toNat } ∧ t.boot.phase = 1 ∧
      t.boot.target = x.newFmt.val ∧ t.boot.chained = true ∧ t.boot.fixCh = x.fixCh) ∧
    (cause ≠ 0 → ∃ t, exec (.fmtPrep x) s = .next t ∧ nack t cause ∧ t.boot.phase = s.boot.phase ∧ t.rb Reg.FMT_EVT 1 = true)) ∧
  (acts 5 → (s.boot.chained = true → (s.boot.phase = 1 ∨ s.boot.phase = 2) → ¬reached → ∃ t, exec (.fmtAbandon x) s = .next t ∧ ack t ∧
      t.boot.phase = 0 ∧ t.boot.chained = false ∧ (t.fixAt s.boot.fixCh.val).point = .none) ∧
    (s.boot.chained = false → ∃ t, exec (.fmtAbandon x) s = .next t ∧ ack t ∧ t.boot = s.boot)) ∧
  (¬acts 1 → exec (.fixPrep x) s = .next s) ∧ (¬acts 2 → exec (.fixTime x) s = .next s) ∧ (¬acts 3 → exec (.fixCancel x) s = .next s) ∧
  (¬acts 4 → exec (.fmtPrep x) s = .next s) ∧ (¬acts 5 → exec (.fmtAbandon x) s = .next s) ∧
  (c.cmd = some x → c.queue = [] → s.boot.chained = false →
    (s.tb < c.cmdTb + limit → exec .commandTimeout s = .next s) ∧
    (c.cmdTb + limit ≤ s.tb → x.code = 1 → ∃ t, exec .commandTimeout s = .next t ∧ cancelled t ∧ evt t 8) ∧
    (c.cmdTb + limit ≤ s.tb → x.code = 4 → ∃ t, exec .commandTimeout s = .next t ∧ t.cas.cmd = none ∧ evt t 8) ∧
    (c.cmdTb + limit ≤ s.tb → x.code ≠ 1 → x.code ≠ 4 → ∃ t, exec .commandTimeout s = .next t ∧ t.cas = { c with cmd := none, acks := 0 })) ∧
  (c.cmd = none → exec .commandTimeout s = .next s) ∧
  (c.splitT = none → exec .split s = .next s) ∧
  (∀ p, c.splitT = some p → (s.tb < p + 10000 → exec .split s = .next s) ∧
    (p + 10000 ≤ s.tb → ∃ t, exec .split s = .next t ∧ t.cas = { c with splitT := none } ∧ t.tb = s.tb ∧ evt t 9)) ∧
  (master → all (fun r => r.cseq = x.cseq ∧ r.nack = false) →
    (x.code = 1 → x.kind = 1 → ∃ t, exec (.upFrame g) s = .next t ∧ t.cas.cmd = none ∧ point t = .at (if passed s.tb at_ then now else at_) ∧
      (t.fixAt k).chained = true) ∧
    (x.code = 2 → ∃ t, exec (.upFrame g) s = .next t ∧ t.cas.cmd = none ∧ t.cas.splitT = none ∧ t.fix = s.fix)) ∧
  (master → all (fun r => r.cseq = x.cseq ∧ r.nack = true) →
    (∃ (i : Fin 7) (r : MemberRec), g.records[i.val]? = some r ∧ r.present = true) → x.code = 1 → ∃ t, exec (.upFrame g) s = .next t ∧
    cancelled t ∧ evt t 7 ∧ t.fix = s.fix)

/-- R19, R424–R429, R433: what Safelight does of itself. Firmware of the preferred slot is loaded once after boot, or of the other slot, and
ROM mode stays where neither is valid. The watchdog enters safe state and resets 1 ms later. Each reading is shown with its extreme, and
warnings and alarms set and clear after their counts of readings. A clock that fails leaves CLK_STAT, and a fault of 100 µs resets. A warning
that persists starts the run-down. Once a minute the lifetime counters take what was counted since. -/
def Obligations.SafelightWatch : Prop := ∀ (s : State) (c : ClockId) (k4 : Fin 4) (k6 : Fin 6) (temps : Vector (BitVec 16) 4)
    (volts : Vector (BitVec 16) 6) (t0 : Nat),
  let calm : Prop := s.boot.phase = 0
  let p := fwPref s
  let loads : Prop := s.boot.done = true ∧ s.slt.fwTried = false
  let x := vget s.slt.temps k4.val Sensor.reset
  let q : Int := (temps.get k4).toInt
  let lim (hi lo : Nat) : Int := 4 * toInt 8 (s.rf Reg.SNS_TLIM hi lo)
  let turn (on : Bool) (n need : Nat) (sets clears : Prop) [Decidable sets] [Decidable clears] : Bool × Nat :=
    if (if on then clears else sets) then (if need ≤ n + 1 then (!on, 0) else (on, n + 1)) else (on, 0)
  let warn := turn x.warn x.warnN 2 (lim 7 0 ≤ q) (q < lim 7 0 - 8)
  let alarm := turn x.alarm x.alarmN 4 (lim 15 8 ≤ q) (q < lim 15 8 - 8)
  let hot : Int := if x.seen then max (toInt 16 (s.rf (Reg.SNS_TEMP k4.val) 31 16)) q else q
  let y := vget s.slt.volts k6.val Sensor.reset
  let v := (volts.get k6).toNat
  let rail := if k6.val = 0 then s.reg Reg.SNS_VWIN0 else if k6.val = 1 ∨ s.rb (Reg.TIO_BANK (k6.val - 2)) 0 = true then s.reg Reg.SNS_VWIN1
    else s.reg (Reg.SNS_VWIN2 (k6.val - 2))
  let out : Prop := v < rail.toNat % 2 ^ 16 ∨ rail.toNat / 2 ^ 16 < v
  let low := turn y.alarm y.alarmN 3 (v < rail.toNat % 2 ^ 16 ∨ rail.toNat / 2 ^ 16 < v) (¬(v < rail.toNat % 2 ^ 16 ∨ rail.toNat / 2 ^ 16 < v))
  let bit : Nat := match c with | .refclk => 0 | .pllA => 2 | .pllB => 3 | .sltOsc => 4
  let hidden : Prop := c ∈ s.slt.clkBad ∨ (c = .sltOsc ∧ ClockId.refclk ∈ s.slt.clkBad)
  let since := s.slt.clkTb.find? fun p => p.1 == c
  let persists : Prop := since = some (c, t0) ∧ (c = .refclk ∨ c = .pllA) ∧ (t0 + 100000 = s.tb ∨ s.tbRun = false)
  let warned : Prop := ∃ k : Fin 4, (vget s.slt.temps k.val Sensor.reset).warn = true ∧
    (vget s.slt.temps k.val Sensor.reset).since + max 1 (s.rf Reg.SLT_CFG 15 8) * 1000000000 ≤ s.tb
  let ready : Prop := s.rb Reg.SLT_CFG 0 = true ∧ s.boot.done = true ∧ s.safe.rundown = none ∧ s.safe.safe = false
  let thread : Prop := ∃ p, rundownThread s = some p ∧ enlOn s (p.1 / 4) = true
  let minute := (s.slt.lifeMin + 1) * 60000000000
  let temp : Int := let v (k : Nat) := toInt 16 (s.rf (Reg.SNS_TEMP k) 15 0)
    max (max (v 0) (v 1)) (max (v 2) (v 3))
  let bin := 0x280 + 4 * (if temp < -160 then 0 else if 600 ≤ temp then 39 else ((temp + 160) / 20 + 1).toNat)
  (loads → ∃ t, exec .firmwareLoad s = .next t ∧ t.tb = s.tb ∧ t.slt.fwTried = true ∧ t.slt.logOk = logUsable s ∧ t.slt.certOk = certGood s ∧
    t.slt.fwRun = (s.slt.fwRun || decide (fwCheck s p = 0 ∨ fwCheck s (1 - p) = 0)) ∧
    t.slt.wdExpired = (s.slt.wdExpired && !decide (fwCheck s p = 0 ∨ fwCheck s (1 - p) = 0)) ∧
    t.slt.fwSlot = if fwCheck s p = 0 then p + 1 else if fwCheck s (1 - p) = 0 then 2 - p else s.slt.fwSlot) ∧
  (¬loads → exec .firmwareLoad s = .next s) ∧
  (∃ t, exec .safelightWatchdog s = .next t ∧ t.tb = s.tb ∧ t.safe.safe = true ∧ t.slt.wdExpired = true ∧
    t.slt.resetTb = some (s.tb + 1000000)) ∧
  (calm → ∃ t, exec (.temperatureSample temps) s = .next t ∧ t.tb = s.tb ∧ t.rf (Reg.SNS_TEMP k4.val) 15 0 = (temps.get k4).toNat ∧
    t.rf (Reg.SNS_TEMP k4.val) 31 16 = (BitVec.ofInt 16 hot).toNat ∧ vget t.slt.temps k4.val Sensor.reset = { x with 
      warn := warn.1, warnN := warn.2, alarm := alarm.1, alarmN := alarm.2, seen := true,
      since := if warn.1 = true ∧ x.warn = false then s.tb else x.since } ∧
    (alarm.1 = true → x.alarm = false → s.rb Reg.SAFE_ESC 5 = true → t.safe.safe = true)) ∧
  (calm → ∃ t, exec (.voltageSample volts) s = .next t ∧ t.tb = s.tb ∧ t.rf (Reg.SNS_VOLT k6.val) 15 0 = v ∧
    t.rf (Reg.SNS_VOLT k6.val) 31 16 = (if y.seen then min (s.rf (Reg.SNS_VOLT k6.val) 31 16) v else v) ∧
    vget t.slt.volts k6.val Sensor.reset = { y with alarm := low.1, alarmN := low.2, seen := true } ∧
    (out → y.alarm = false → y.alarmN = 2 → s.rb Reg.SAFE_ESC 5 = true → t.safe.safe = true)) ∧
  (¬hidden → ∃ t, exec (.clockFault c) s = .next t ∧ t.tb = s.tb ∧ t.slt.clkBad = s.slt.clkBad ++ [c] ∧ t.rb Reg.CLK_STAT bit = false ∧
    (s.rb Reg.CLK_STAT bit = true → t.rb Reg.CLK_EVT bit = true)) ∧
  (hidden → exec (.clockFault c) s = .next s) ∧
  (c ∈ s.slt.clkBad → ∃ t, exec (.clockFaultCleared c) s = .next t ∧ t.tb = s.tb ∧ t.slt.clkBad = s.slt.clkBad.filter (· != c) ∧
    t.rb Reg.CLK_STAT bit = true ∧ t.tbRun = (s.tbRun || decide (c = .pllA))) ∧
  (c ∉ s.slt.clkBad → exec (.clockFaultCleared c) s = .next s) ∧
  (persists → ∃ t, exec (.clockFaultReset c) s = .next t ∧ t.reg Reg.RST_CAUSE = (enterSafe s 6).reg Reg.RST_CAUSE ||| 16 ∧ t.boot.step = (if s.rb Reg.CLK_STAT 2 then 2 else 1) ∧
    t.tb = 0 ∧ t.safe.safe = true ∧ t.mem = [] ∧ t.keep = s.keep) ∧
  (since = none ∨ (c ≠ .refclk ∧ c ≠ .pllA) ∨ (since = some (c, t0) ∧ t0 + 100000 ≠ s.tb ∧ s.tbRun = true) → exec (.clockFaultReset c) s = .next s) ∧
  (ready → warned → calm → thread → ∃ t, exec .warnRundown s = .next t ∧ t.safe.rundown = some (.slt, s.tb) ∧ t.boot.phase = 3) ∧
  (¬ready ∨ ¬warned → exec .warnRundown s = .next s) ∧
  (minute ≤ s.tb → ∃ t, exec .lifetimeUpdate s = .next t ∧ t.slt.lifeMin = s.slt.lifeMin + 1 ∧ t.slt.lifeSafe = 0 ∧ t.tb = s.tb ∧
    memWord t.keep 0x240 = BitVec.ofNat 32 (lifeNat s 0 4 + 1) ∧ memWord t.keep 0x244 = BitVec.ofNat 32 (lifeNat s 4 4 + s.slt.lifeSafe) ∧
    lifeOk t = true ∧ memWord t.keep bin = memWord s.keep bin + 1 ∧
    ∀ a, (a < 0x240 ∨ 0x280 ≤ a) → (a < bin ∨ bin + 4 ≤ a) → byteAt t.keep a = byteAt s.keep a) ∧
  (s.tb < minute → exec .lifetimeUpdate s = .next s)

/-- R434–R438, R443, R444, Tables 15-7, 15-9: the mailbox and its services. The host or a thread that reads CLAIM while nobody holds it has it
until RELEASE, or until 100 ms pass without a GO, and a reader meanwhile sees the holder. GO starts a command, or ends an unknown one; a command in progress ends with its status and its response, and
a secure command of a master that is not ends NOT_SECURE, one that firmware serves ends ROM_ONLY without it. A service whose code is not
asked for does nothing. -/
def Obligations.SafelightMailbox : Prop := ∀ (s : State) (m : Master) (i : Fin 128) (j : Fin 56) (chPass : BitVec 128) (unitPass : BitVec 8)
    (fail : Word),
  let x := s.slt
  let arg (k : Nat) := (s.reg (Reg.MBX_REQ k)).toNat
  let asked (code : Nat) : Prop := x.busy = true ∧ arg 0 % 2 ^ 8 = code
  let served (code : Nat) : Prop := asked code ∧ x.fwRun = true
  let rsp (t : State) (k : Nat) := t.reg (Reg.MBX_RSP k)
  let ended (t : State) (st : Nat) : Prop := t.slt.busy = false ∧ t.slt.done = true ∧ t.slt.status = st ∧ (rsp t 0).toNat % 2 ^ 8 = st ∧
    (rsp t 0).toNat / 2 ^ 8 % 2 ^ 8 = arg 0 / 2 ^ 8 % 2 ^ 8
  let ends (c : Instr) (st : Nat) (more : State → Prop) : Prop := ∃ t, exec c s = .next t ∧ t.tb = s.tb ∧ ended t st ∧ more t
  let key : Master := match m with | .host _ => .host false | m => m
  let owner (m : Master) : Word := match m with | .host _ => 0x40000000 | .engine t => 0x40010000 ||| BitVec.ofNat 32 (t.val * 2 ^ 24) | _ => 0
  let may : Prop := (∃ h, m = .host h) ∨ ∃ t, m = .engine t
  let known : Prop := arg 0 % 2 ^ 8 ∈ [0x01, 0x02, 0x03, 0x04, 0x05, 0x10, 0x11, 0x12, 0x20, 0x21, 0x22, 0x23, 0x24, 0x30]
  let entries := (((logEntries s).map Prod.snd) ++ x.log).filter fun e => decide (arg 1 ≤ entrySeq e)
  let certBase := (region s 5).1
  let certSize := if 8 ≤ (region s 5).2 then min (certLen s) ((region s 5).2 - 8) else 0
  let quiet : Prop := s.safe.safe = true ∧ s.safe.rundown = none ∧ s.rf Reg.VCAL_STAT 4 0 = 31
  let mask (i : Fin 128) : Bool := (s.reg (Reg.MBX_REQ (1 + i.val / 32))).getLsbD (i.val % 32)
  let barred : Prop := s.boot.done = false ∨ s.safe.rundown ≠ none ∨ s.safe.safe = true
  let thread : Prop := ∃ p, rundownThread s = some p ∧ enlOn s (p.1 / 4) = true
  let reset (t : State) : Prop := t.reg Reg.RST_CAUSE = (enterSafe s 6).reg Reg.RST_CAUSE ||| 4 ∧ t.boot.step = 2 ∧ t.safe.safe = true ∧
    t.ch = Vector.replicate 128 Chan.reset
  let idle : Prop := x.busy = false
  let lapsed : Prop := x.claim.isSome = true ∧ idle ∧ x.claimTb + 100000000 ≤ s.tb
  let held (k : Master) : Prop := x.claim = some k ∧ ¬lapsed
  let vacant : Prop := x.claim = none ∨ lapsed
  let secures := (List.range 8).filter fun n => decide (s.rf (Reg.SPL_OWN n) 2 0 = 3)
  (reachesRegs m = true →
    (vacant → may → exec (.mbxClaim m) s = .next (answered .ok (0x80000000 ||| owner m) { s with slt := { x with 
      claim := some key, claimTb := s.tb } })) ∧
    (vacant → ¬may → exec (.mbxClaim m) s = .next (answered .ok 0 { s with slt := { x with claim := none } })) ∧
    (held (.host false) → exec (.mbxClaim m) s = .next (answered .ok (owner (.host false)) s)) ∧
    (held key → exec (.mbxRelease m) s = .next (answered .ok 0 { s with slt := { x with claim := none } })) ∧
    (¬held key → exec (.mbxRelease m) s = .next (answered .ok 0 s) ∧ exec (.mbxGo m) s = .next (answered .ok 0 s)) ∧
    (held key → idle → known → exec (.mbxGo m) s = .next (answered .ok 0 { s with slt := { x with 
      busy := true, done := false, goSec := masterSecure (masterNow s m), goMaster := some (masterNow s m), goOwn := secures } })) ∧
    (held key → idle → ¬known → ends (.mbxGo m) 1 fun t => t.keep = s.keep) ∧
    (x.busy = true → exec (.mbxGo m) s = .next (answered .ok 0 s))) ∧
  (lapsed → exec .mbxClaimTimeout s = .next { s with slt := { x with claim := none } }) ∧
  (¬lapsed → exec .mbxClaimTimeout s = .next s) ∧
  (asked 1 → ends .info 0 fun t => rsp t 1 = sltVer s ∧ rsp t 2 = sltStat s ∧ rsp t 3 = bootStat s ∧ rsp t 4 = s.reg Reg.NEG_VER ∧
    rsp t 5 = s.reg Reg.NEG_CRC) ∧
  (served 2 → ends .logRead 0 fun t => rsp t 1 = BitVec.ofNat 32 (min 7 entries.length)) ∧
  (served 3 → (arg 1 < 0x240 ∨ 0x320 ≤ arg 1 → ends .lifeRead 3 fun t => t.keep = s.keep) ∧
    (0x240 ≤ arg 1 → arg 1 + 4 * j.val + 4 ≤ 0x320 → ends .lifeRead 0 fun t => rsp t (1 + j.val) = memWord s.keep (arg 1 + 4 * j.val))) ∧
  (served 4 → (certSize < arg 1 → ends .certRead 3 fun t => t.flash = s.flash) ∧
    (arg 1 ≤ certSize → ends .certRead 0 fun t => rsp t 1 = BitVec.ofNat 32 certSize ∧
      (4 * j.val + 4 ≤ certSize - arg 1 → rsp t (2 + j.val) = flashWord s (certBase + 8 + arg 1 + 4 * j.val)))) ∧
  (served 5 → ends .attest 0 fun t => rsp t 1 = 0x54415153 ∧ rsp t 2 = 0x96480001 ∧ rsp t 6 = s.reg Reg.NEG_VER ∧ t.free = s.free + 1 ∧
    ∀ k : Fin 8, rsp t (25 + k.val) = s.reg (Reg.MBX_REQ (1 + k.val))) ∧
  (served 0x10 → x.goSec = true → (¬quiet → ends (.post chPass unitPass fail) 5 fun t => t.ch = s.ch) ∧
    (quiet → ends (.post chPass unitPass fail) 0 fun t => 
      (rsp t (1 + i.val / 32)).getLsbD (i.val % 32) = (mask i && !chOn s i.val && chPass.getLsbD i.val) ∧
      (rsp t (5 + i.val / 32)).getLsbD (i.val % 32) = (mask i && chOn s i.val) ∧
      t.chAt i.val = if mask i && !chOn s i.val then { s.chAt i.val with fifo := [] } else s.chAt i.val)) ∧
  (served 0x11 → x.goSec = true → (barred → ends .rundown 5 fun t => t.safe = s.safe) ∧
    (¬barred → s.boot.phase = 0 → thread → ends .rundown 0 fun t => t.safe.rundown = some (.slt, s.tb) ∧ t.boot.phase = 3)) ∧
  (asked 0x12 → x.goSec = true → (arg 1 = 1 → ∃ t, exec .reset s = .next t ∧ reset t ∧ t.tb = s.tb ∧ t.slt.busy = false ∧ t.slt.status = 0) ∧
    (arg 1 = 2 → ∃ t, exec .reset s = .next t ∧ reset t ∧ t.tb = 0) ∧
    (arg 1 ≠ 1 → arg 1 ≠ 2 → ends .reset 3 fun t => t.boot = s.boot)) ∧
  (x.goSec = false → (served 0x10 → ends (.post chPass unitPass fail) 2 fun t => t.ch = s.ch) ∧
    (served 0x11 → ends .rundown 2 fun t => t.safe = s.safe) ∧ (asked 0x12 → ends .reset 2 fun t => t.boot = s.boot)) ∧
  (x.fwRun = false → (asked 2 → ends .logRead 10 fun t => t.keep = s.keep) ∧ (asked 3 → ends .lifeRead 10 fun t => t.keep = s.keep) ∧
    (asked 4 → ends .certRead 10 fun t => t.keep = s.keep) ∧ (asked 5 → ends .attest 10 fun t => t.free = s.free)) ∧
  (¬asked 1 → exec .info s = .next s) ∧ (¬asked 2 → exec .logRead s = .next s) ∧ (¬asked 3 → exec .lifeRead s = .next s) ∧
  (¬asked 4 → exec .certRead s = .next s) ∧ (¬asked 5 → exec .attest s = .next s) ∧
  (¬asked 0x10 → exec (.post chPass unitPass fail) s = .next s) ∧ (¬asked 0x11 → exec .rundown s = .next s) ∧
  (¬asked 0x12 → exec .reset s = .next s)

/-- R439–R441, R445: updates of the flash and the owner key, by a secure master. UPD_ERASE erases the slot that is not in use, UPD_WRITE
programs a slot from a spool that Safelight owned at GO and hands the spool to the host, UPD_VERIFY gives the image's failure code, UPD_ARM keeps
the arms of verified slots, UPD_ACTIVATE runs down with an arm set. KEY_OWNER is written once. Each ends with its status; one that its
parameters or the state bar changes nothing else. -/
def Obligations.SafelightUpdates : Prop := ∀ (s : State) (ok : Bool),
  let x := s.slt
  let arg (k : Nat) := (s.reg (Reg.MBX_REQ k)).toNat
  let asked (code : Nat) : Prop := x.busy = true ∧ arg 0 % 2 ^ 8 = code
  let secure (code : Nat) : Prop := asked code ∧ x.goSec = true
  let ended (t : State) (st : Nat) : Prop := t.slt.busy = false ∧ t.slt.done = true ∧ t.slt.status = st ∧ t.tb = s.tb
  let ends (c : Instr) (st : Nat) (more : State → Prop) : Prop := ∃ t, exec c s = .next t ∧ ended t st ∧ more t
  let k := arg 1
  let at_ := (region s k).1
  let size := (region s k).2
  let used : Prop := if k < 2 then s.boot.image = k + 1 else x.fwRun = true ∧ x.fwSlot + 1 = k
  let free' : Prop := s.flash.facts.suspend = true ∨ s.safe.safe = true
  let open_ : Prop := s.boot.phase ≠ 1 ∧ ¬used ∧ size ≠ 0 ∧ free'
  let cell (t : State) (a : Nat) := sparseRead erasedByte t.flash.bytes a
  let off := arg 2
  let a := arg 3
  let len := arg 4
  let spool := a / 0x100000
  let legal : Prop := k < 4 ∧ off % 256 = 0 ∧ len % 4 = 0 ∧ 4 ≤ len ∧ len ≤ 1048576 ∧ off + len ≤ size
  let one : Prop := a + len ≤ 0x800000 ∧ (a + len - 1) / 0x100000 = spool ∧ spool ∈ x.goOwn
  let whole : Prop := splOwner s spool = 3 ∧ pwrNow s spool = .on ∧ regionHeld s spool = false ∧ ∀ w, eccAt s w = 0
  let same (t : State) : Prop := t.flash = s.flash
  let code := if k < 2 then (negCheck s k).1 else fwCheck s (k - 2)
  let neg := arg 1 % 2 ^ 2
  let fw := arg 1 / 2 ^ 4 % 2 ^ 2
  let good (f base : Nat) : Prop := (f = 1 ∨ f = 2) → vget x.verified (base + f - 1) false = true
  let arm (old pref f : Nat) : Nat := if f = 0 then old else if f = 3 ∨ f = pref + 1 then 0 else f
  let barred : Prop := s.boot.done = false ∨ s.safe.rundown ≠ none ∨ s.safe.safe = true
  let thread : Prop := ∃ p, rundownThread s = some p ∧ enlOn s (p.1 / 4) = true
  let hash := (List.range 8).flatMap fun i => wordBytes (s.reg (Reg.MBX_REQ (1 + i)))
  (secure 0x20 → (4 ≤ k → ends (.updErase ok) 3 same) ∧ (k < 4 → s.boot.phase = 1 → ends (.updErase ok) 4 same) ∧
    (k < 4 → s.boot.phase ≠ 1 → ¬open_ → ends (.updErase ok) 5 same) ∧
    (k < 4 → open_ → ends (.updErase true) 0 (fun t => vget t.slt.verified k true = false ∧
        (∀ j, at_ ≤ j → j < at_ + size → cell t j = 0xFF) ∧ ∀ j, j < at_ ∨ at_ + size ≤ j → cell t j = cell s j) ∧
      ends (.updErase false) 6 fun t => vget t.slt.verified k true = false ∧ ∀ j, j < at_ ∨ at_ + size ≤ j → cell t j = cell s j)) ∧
  (secure 0x21 → (¬legal → ends (.updWrite ok) 3 same) ∧ (legal → s.boot.phase = 1 → ends (.updWrite ok) 4 same) ∧
    (legal → s.boot.phase ≠ 1 → ¬open_ ∨ ¬one → ends (.updWrite ok) 5 same) ∧
    (legal → open_ → one → whole → ends (.updWrite true) 0 (fun t => t.reg (Reg.SPL_OWN spool) = 0 ∧ t.mem = s.mem ∧
        (∀ j, j < len → at_ + off + j < flashLimit s.flash.facts → cell t (at_ + off + j) = (cell s (at_ + off + j) &&& byteAt s.mem (a + j))) ∧
        ∀ j, j < at_ + off ∨ at_ + off + len ≤ j → cell t j = cell s j) ∧
      ends (.updWrite false) 6 fun t => t.mem = s.mem ∧ t.reg (Reg.SPL_OWN spool) = s.reg (Reg.SPL_OWN spool) ∧ ∀ j, j < at_ + off ∨ at_ + off + len ≤ j → cell t j = cell s j)) ∧
  (secure 0x22 → (4 ≤ k → ends .updVerify 3 same) ∧ (k < 4 → ends .updVerify (if code = 0 then 0 else 7) fun t => same t ∧
    t.reg (Reg.MBX_RSP 1) = BitVec.ofNat 32 code ∧ vget t.slt.verified k false = decide (code = 0))) ∧
  (secure 0x23 → (¬good neg 0 ∨ ¬good fw 2 → ends .updArm 7 fun t => t.slt.armNeg = x.armNeg ∧ t.slt.armFw = x.armFw) ∧
    (good neg 0 → good fw 2 → ends .updArm 0 fun t => same t ∧ t.slt.armNeg = arm x.armNeg (prefSlot s) neg ∧
      t.slt.armFw = arm x.armFw (fwPref s) fw)) ∧
  (secure 0x24 → (barred ∨ (x.armNeg = 0 ∧ x.armFw = 0) → ends .updActivate 5 fun t => t.safe = s.safe) ∧
    (¬barred → (x.armNeg ≠ 0 ∨ x.armFw ≠ 0) → s.boot.phase = 0 → thread → ends .updActivate 0 fun t => 
      t.safe.rundown = some (.activate, s.tb) ∧ t.boot.phase = 3)) ∧
  (secure 0x30 → x.fwRun = true → (s.ownerKey = none → ends .keyOwner 0 fun t => t.ownerKey = some hash) ∧
    (s.ownerKey ≠ none → ends .keyOwner 8 fun t => t.ownerKey = s.ownerKey)) ∧
  (x.goSec = false → (asked 0x20 → ends (.updErase ok) 2 same) ∧ (asked 0x21 → ends (.updWrite ok) 2 same) ∧ (asked 0x22 → ends .updVerify 2 same) ∧
    (asked 0x23 → ends .updArm 2 same) ∧ (asked 0x24 → ends .updActivate 2 same) ∧
    (asked 0x30 → ends .keyOwner 2 fun t => t.ownerKey = s.ownerKey)) ∧
  (¬asked 0x20 → exec (.updErase ok) s = .next s) ∧ (¬asked 0x21 → exec (.updWrite ok) s = .next s) ∧ (¬asked 0x22 → exec .updVerify s = .next s) ∧
  (¬asked 0x23 → exec .updArm s = .next s) ∧ (¬asked 0x24 → exec .updActivate s = .next s) ∧ (¬asked 0x30 → exec .keyOwner s = .next s)
end

