-- ==== Sys2Proof/Laws/Sparse.lean ====
section
/-! SUPPORT. The laws of the sparse maps: what a write reads back, what it leaves alone, and that every operation keeps the
canonical form. -/

namespace Sys2Proof.Machine

variable {α : Type}

theorem sparseGet_put_ne (m : List (Nat × α)) (k a : Nat) (v : α) (h : a ≠ k) : sparseGet (sparsePut m k v) a = sparseGet m a := by
  induction m with
  | nil => simp [sparsePut, sparseGet, h]
  | cons p r ih =>
    obtain ⟨k', v'⟩ := p
    unfold sparsePut
    by_cases h1 : k < k'
    · simp [h1, sparseGet, h]
    · by_cases h2 : k = k'
      · subst h2; simp [sparseGet, h]
      · simp only [h1, h2, if_false, sparseGet, ih]

theorem sparseGet_put_eq (m : List (Nat × α)) (k : Nat) (v : α) : sparseGet (sparsePut m k v) k = some v := by
  induction m with
  | nil => simp [sparsePut, sparseGet]
  | cons p r ih =>
    obtain ⟨k', v'⟩ := p
    unfold sparsePut
    by_cases h1 : k < k'
    · simp [h1, sparseGet]
    · by_cases h2 : k = k'
      · simp [h2, sparseGet]
      · simp only [h1, h2, if_false, sparseGet, ih]

theorem sparseGet_drop_eq (m : List (Nat × α)) (k : Nat) : sparseGet (sparseDrop m k) k = none := by
  induction m with
  | nil => rfl
  | cons p r ih =>
    obtain ⟨k', v'⟩ := p
    by_cases h : k' = k
    · simpa [sparseDrop, h] using ih
    · have h' : ¬ k = k' := fun e => h e.symm
      simpa [sparseDrop, h, sparseGet, h'] using ih

theorem sparseGet_drop_ne (m : List (Nat × α)) (k a : Nat) (h : a ≠ k) : sparseGet (sparseDrop m k) a = sparseGet m a := by
  induction m with
  | nil => rfl
  | cons p r ih =>
    obtain ⟨k', v'⟩ := p
    by_cases h1 : k' = k
    · subst h1; simpa [sparseDrop, sparseGet, h] using ih
    · by_cases h2 : a = k'
      · subst h2; simp [sparseDrop, sparseGet, h1]
      · simpa [sparseDrop, sparseGet, h1, h2] using ih

/-- A write leaves every other key alone. -/
theorem sparseRead_write_ne [DecidableEq α] (d : Nat → α) (m : List (Nat × α)) (k a : Nat) (v : α) (h : a ≠ k) :
    sparseRead d (sparseWrite d m k v) a = sparseRead d m a := by
  unfold sparseRead sparseWrite
  split
  · rw [sparseGet_drop_ne _ _ _ h]
  · rw [sparseGet_put_ne _ _ _ _ h]

/-- A read after a write of the same key. -/
theorem sparseRead_write_eq [DecidableEq α] (d : Nat → α) (m : List (Nat × α)) (k : Nat) (v : α) :
    sparseRead d (sparseWrite d m k v) k = v := by
  unfold sparseRead sparseWrite
  split
  · rename_i h; simp [sparseGet_drop_eq, h]
  · simp [sparseGet_put_eq]

theorem sparseWfFrom_put [DecidableEq α] (d : Nat → α) (lo : Option Nat) (m : List (Nat × α)) (k : Nat) (v : α)
    (hk : ∀ l, lo = some l → l < k) (hv : v ≠ d k) (h : sparseWfFrom d lo m = true) :
    sparseWfFrom d lo (sparsePut m k v) = true := by
  have lower : (match (generalizing := false) lo with | none => true | some l => decide (l < k)) = true := by
    cases lo with
    | none => rfl
    | some l => simpa using hk l rfl
  induction m generalizing lo with
  | nil => simp only [sparsePut, sparseWfFrom, Bool.and_eq_true, decide_eq_true_eq]; exact ⟨⟨lower, hv⟩, trivial⟩
  | cons p r ih =>
    obtain ⟨k', v'⟩ := p
    have h0 := h
    simp only [sparseWfFrom, Bool.and_eq_true, decide_eq_true_eq] at h
    unfold sparsePut
    by_cases h1 : k < k'
    · simp only [if_pos h1, sparseWfFrom, Bool.and_eq_true, decide_eq_true_eq]
      exact ⟨⟨lower, hv⟩, ⟨h1, h.1.2⟩, h.2⟩
    · by_cases h2 : k = k'
      · subst h2
        simp only [Nat.lt_irrefl, if_false, if_true, sparseWfFrom, Bool.and_eq_true, decide_eq_true_eq]
        exact ⟨⟨lower, hv⟩, h.2⟩
      · simp only [h1, h2, if_false, sparseWfFrom, Bool.and_eq_true, decide_eq_true_eq]
        have h3 : k' < k := by omega
        exact ⟨h.1, ih (some k') (by intro l hl; cases hl; exact h3) h.2 (by simpa using h3)⟩

theorem sparseWfFrom_weaken [DecidableEq α] (d : Nat → α) (l l' : Nat) (hl : l' ≤ l) (m : List (Nat × α))
    (h : sparseWfFrom d (some l) m = true) : sparseWfFrom d (some l') m = true := by
  cases m with
  | nil => rfl
  | cons p r =>
    obtain ⟨k, v⟩ := p
    simp only [sparseWfFrom, Bool.and_eq_true, decide_eq_true_eq] at h ⊢
    exact ⟨⟨by omega, h.1.2⟩, h.2⟩

theorem sparseWfFrom_filter [DecidableEq α] (d : Nat → α) (lo : Option Nat) (m : List (Nat × α)) (f : Nat × α → Bool)
    (h : sparseWfFrom d lo m = true) : sparseWfFrom d lo (m.filter f) = true := by
  induction m generalizing lo with
  | nil => rfl
  | cons p r ih =>
    obtain ⟨k, v⟩ := p
    have h0 := h
    simp only [sparseWfFrom, Bool.and_eq_true, decide_eq_true_eq] at h
    by_cases hf : f (k, v) = true
    · rw [List.filter_cons_of_pos hf]
      simp only [sparseWfFrom, Bool.and_eq_true, decide_eq_true_eq]
      exact ⟨h.1, ih _ h.2⟩
    · rw [List.filter_cons_of_neg hf]
      have := ih (some k) h.2
      cases lo with
      | none =>
        revert this
        cases r.filter f with
        | nil => intro; rfl
        | cons q r' =>
          obtain ⟨k2, v2⟩ := q
          intro this
          simp only [sparseWfFrom, Bool.and_eq_true, decide_eq_true_eq] at this ⊢
          exact ⟨⟨trivial, this.1.2⟩, this.2⟩
      | some l =>
        refine sparseWfFrom_weaken d k l ?_ _ this
        have := h.1.1
        simp only [decide_eq_true_eq] at this
        omega

/-- Dropping entries keeps the canonical form. -/
@[simp] theorem sparseWf_filter [DecidableEq α] (d : Nat → α) (m : List (Nat × α)) (f : Nat × α → Bool) (h : sparseWf d m = true) :
    sparseWf d (m.filter f) = true := sparseWfFrom_filter d none m f h

/-- A write keeps the canonical form. -/
@[simp] theorem sparseWf_write [DecidableEq α] (d : Nat → α) (m : List (Nat × α)) (k : Nat) (v : α) (h : sparseWf d m = true) :
    sparseWf d (sparseWrite d m k v) = true := by
  unfold sparseWrite
  split
  · exact sparseWf_filter d m _ h
  · exact sparseWfFrom_put d none m k v (by simp) ‹_› h

@[simp] theorem sparseWf_clearRange [DecidableEq α] (d : Nat → α) (m : List (Nat × α)) (lo hi : Nat) (h : sparseWf d m = true) :
    sparseWf d (clearRange m lo hi) = true := sparseWf_filter d m _ h

/-! Byte memories. -/

@[simp] theorem wf_setByte (m : List (Nat × Byte)) (a : Nat) (b : Byte) (h : Memory.wf m = true) : Memory.wf (setByte m a b) = true :=
  sparseWf_write zeroByte m a b h

@[simp] theorem wf_setBytes (bs : List Byte) (m : List (Nat × Byte)) (a : Nat) (h : Memory.wf m = true) :
    Memory.wf (setBytes m a bs) = true := by
  induction bs generalizing m a with
  | nil => exact h
  | cons b r ih => exact ih _ _ (wf_setByte m a b h)

@[simp] theorem wf_setMemWord (m : List (Nat × Byte)) (a : Nat) (w : Word) (h : Memory.wf m = true) :
    Memory.wf (setMemWord m a w) = true := wf_setBytes _ _ _ h

theorem byteAt_setByte_eq (m : List (Nat × Byte)) (a : Nat) (b : Byte) : byteAt (setByte m a b) a = b :=
  sparseRead_write_eq zeroByte m a b

theorem byteAt_setByte_ne (m : List (Nat × Byte)) (a k : Nat) (b : Byte) (h : k ≠ a) :
    byteAt (setByte m a b) k = byteAt m k := sparseRead_write_ne zeroByte m a k b h

/-- A run of bytes leaves every address outside it alone. -/
theorem byteAt_setBytes_out (bs : List Byte) (m : List (Nat × Byte)) (a k : Nat) (h : k < a ∨ a + bs.length ≤ k) :
    byteAt (setBytes m a bs) k = byteAt m k := by
  induction bs generalizing m a with
  | nil => rfl
  | cons b r ih =>
    simp only [List.length_cons] at h
    simp only [setBytes]
    rw [ih _ _ (by omega), byteAt_setByte_ne _ _ _ _ (by omega)]

/-- A run of bytes reads back. -/
theorem byteAt_setBytes_in (bs : List Byte) (m : List (Nat × Byte)) (a i : Nat) (hi : i < bs.length) :
    byteAt (setBytes m a bs) (a + i) = bs[i] := by
  induction bs generalizing m a i with
  | nil => simp at hi
  | cons b r ih =>
    simp only [setBytes]
    cases i with
    | zero =>
      simp only [Nat.add_zero, List.getElem_cons_zero]
      rw [byteAt_setBytes_out r _ _ _ (by omega), byteAt_setByte_eq]
    | succ j =>
      have := ih (setByte m a b) (a + 1) j (by simpa using hi)
      simpa [Nat.add_assoc, Nat.add_comm 1 j] using this

@[simp] theorem wf_setWordAt (m : List (Nat × Word)) (a : Nat) (w : Word) (h : sparseWf zeroWord m = true) :
    sparseWf zeroWord (setWordAt m a w) = true := sparseWf_write zeroWord m a w h

theorem wordAt_setWordAt_eq (m : List (Nat × Word)) (a : Nat) (w : Word) : wordAt (setWordAt m a w) a = w :=
  sparseRead_write_eq zeroWord m a w

theorem wordAt_setWordAt_ne (m : List (Nat × Word)) (a k : Nat) (w : Word) (h : k ≠ a) :
    wordAt (setWordAt m a w) k = wordAt m k := sparseRead_write_ne zeroWord m a k w h

end Sys2Proof.Machine
end

