-- ==== Sys2Proof/Laws/State.lean ====
section
/-! SUPPORT. What each named update of the state leaves alone, one lemma per field, and what it writes. -/

namespace Sys2Proof.Machine

/-! Vectors by index. -/

theorem vget_lt {α : Type} {n : Nat} (v : Vector α n) (i : Nat) (d : α) (h : i < n) : vget v i d = v[i] := by
  simp [vget, h]

theorem vmodN_lt {α : Type} {n : Nat} (v : Vector α n) (i : Nat) (f : α → α) (h : i < n) : vmodN v i f = v.set i (f v[i]) := by
  simp [vmodN, h]

theorem vget_vmodN_eq {α : Type} {n : Nat} (v : Vector α n) (i : Nat) (f : α → α) (d : α) (h : i < n) :
    vget (vmodN v i f) i d = f (vget v i d) := by
  simp [vget, vmodN, h]

theorem vget_vmodN_ne {α : Type} {n : Nat} (v : Vector α n) (i j : Nat) (f : α → α) (d : α) (h : j ≠ i) :
    vget (vmodN v i f) j d = vget v j d := by
  have h' : i ≠ j := fun e => h e.symm
  by_cases hi : i < n <;> by_cases hj : j < n <;> simp [vget, vmodN, hi, hj, h']

theorem vmodN_vmodN {α : Type} {n : Nat} (v : Vector α n) (i : Nat) (f g : α → α) :
    vmodN (vmodN v i f) i g = vmodN v i fun x => g (f x) := by
  by_cases h : i < n <;> simp [vmodN, h]

/-! Fields that an update leaves alone. -/

@[simp] theorem State.setReg_tb (s : State) (a : Nat) (w : Word) : (s.setReg a w).tb = s.tb := rfl
@[simp] theorem State.mapViews_tb (s : State) (k : Nat) (f : TbView → TbView) : (s.mapViews k f).tb = s.tb := rfl
@[simp] theorem State.setReg_tbRun (s : State) (a : Nat) (w : Word) : (s.setReg a w).tbRun = s.tbRun := rfl
@[simp] theorem State.mapViews_tbRun (s : State) (k : Nat) (f : TbView → TbView) : (s.mapViews k f).tbRun = s.tbRun := rfl
@[simp] theorem State.setReg_seen (s : State) (a : Nat) (w : Word) : (s.setReg a w).seen = s.seen := rfl
@[simp] theorem State.setReg_otp (s : State) (a : Nat) (w : Word) : (s.setReg a w).otp = s.otp := rfl
@[simp] theorem State.mapViews_otp (s : State) (k : Nat) (f : TbView → TbView) : (s.mapViews k f).otp = s.otp := rfl
@[simp] theorem State.setReg_shadows (s : State) (a : Nat) (w : Word) : (s.setReg a w).shadows = s.shadows := rfl
@[simp] theorem State.mapViews_shadows (s : State) (k : Nat) (f : TbView → TbView) : (s.mapViews k f).shadows = s.shadows := rfl
@[simp] theorem State.setReg_staged (s : State) (a : Nat) (w : Word) : (s.setReg a w).staged = s.staged := rfl
@[simp] theorem State.mapViews_staged (s : State) (k : Nat) (f : TbView → TbView) : (s.mapViews k f).staged = s.staged := rfl
@[simp] theorem State.setReg_fresh (s : State) (a : Nat) (w : Word) : (s.setReg a w).fresh = s.fresh := rfl
@[simp] theorem State.mapViews_fresh (s : State) (k : Nat) (f : TbView → TbView) : (s.mapViews k f).fresh = s.fresh := rfl
@[simp] theorem State.setReg_due (s : State) (a : Nat) (w : Word) : (s.setReg a w).due = s.due := rfl
@[simp] theorem State.mapViews_due (s : State) (k : Nat) (f : TbView → TbView) : (s.mapViews k f).due = s.due := rfl
@[simp] theorem State.setReg_answer (s : State) (a : Nat) (w : Word) : (s.setReg a w).answer = s.answer := rfl
@[simp] theorem State.mapViews_answer (s : State) (k : Nat) (f : TbView → TbView) : (s.mapViews k f).answer = s.answer := rfl
@[simp] theorem State.setReg_fabric (s : State) (a : Nat) (w : Word) : (s.setReg a w).fabric = s.fabric := rfl
@[simp] theorem State.mapViews_fabric (s : State) (k : Nat) (f : TbView → TbView) : (s.mapViews k f).fabric = s.fabric := rfl
@[simp] theorem State.setReg_sheet (s : State) (a : Nat) (w : Word) : (s.setReg a w).sheet = s.sheet := rfl
@[simp] theorem State.mapViews_sheet (s : State) (k : Nat) (f : TbView → TbView) : (s.mapViews k f).sheet = s.sheet := rfl
@[simp] theorem State.setReg_fix (s : State) (a : Nat) (w : Word) : (s.setReg a w).fix = s.fix := rfl
@[simp] theorem State.mapViews_fix (s : State) (k : Nat) (f : TbView → TbView) : (s.mapViews k f).fix = s.fix := rfl
@[simp] theorem State.setReg_spk (s : State) (a : Nat) (w : Word) : (s.setReg a w).spk = s.spk := rfl
@[simp] theorem State.mapViews_spk (s : State) (k : Nat) (f : TbView → TbView) : (s.mapViews k f).spk = s.spk := rfl
@[simp] theorem State.setReg_ch (s : State) (a : Nat) (w : Word) : (s.setReg a w).ch = s.ch := rfl
@[simp] theorem State.mapViews_ch (s : State) (k : Nat) (f : TbView → TbView) : (s.mapViews k f).ch = s.ch := rfl
@[simp] theorem State.setReg_capIn (s : State) (a : Nat) (w : Word) : (s.setReg a w).capIn = s.capIn := rfl
@[simp] theorem State.mapViews_capIn (s : State) (k : Nat) (f : TbView → TbView) : (s.mapViews k f).capIn = s.capIn := rfl
@[simp] theorem State.setReg_vcalOff (s : State) (a : Nat) (w : Word) : (s.setReg a w).vcalOff = s.vcalOff := rfl
@[simp] theorem State.mapViews_vcalOff (s : State) (k : Nat) (f : TbView → TbView) : (s.mapViews k f).vcalOff = s.vcalOff := rfl
@[simp] theorem State.setReg_pin (s : State) (a : Nat) (w : Word) : (s.setReg a w).pin = s.pin := rfl
@[simp] theorem State.mapViews_pin (s : State) (k : Nat) (f : TbView → TbView) : (s.mapViews k f).pin = s.pin := rfl
@[simp] theorem State.setReg_vdet (s : State) (a : Nat) (w : Word) : (s.setReg a w).vdet = s.vdet := rfl
@[simp] theorem State.mapViews_vdet (s : State) (k : Nat) (f : TbView → TbView) : (s.mapViews k f).vdet = s.vdet := rfl
@[simp] theorem State.setReg_trgEnd (s : State) (a : Nat) (w : Word) : (s.setReg a w).trgEnd = s.trgEnd := rfl
@[simp] theorem State.mapViews_trgEnd (s : State) (k : Nat) (f : TbView → TbView) : (s.mapViews k f).trgEnd = s.trgEnd := rfl
@[simp] theorem State.setReg_trip (s : State) (a : Nat) (w : Word) : (s.setReg a w).trip = s.trip := rfl
@[simp] theorem State.mapViews_trip (s : State) (k : Nat) (f : TbView → TbView) : (s.mapViews k f).trip = s.trip := rfl
@[simp] theorem State.setReg_cal (s : State) (a : Nat) (w : Word) : (s.setReg a w).cal = s.cal := rfl
@[simp] theorem State.mapViews_cal (s : State) (k : Nat) (f : TbView → TbView) : (s.mapViews k f).cal = s.cal := rfl
@[simp] theorem State.setReg_eng (s : State) (a : Nat) (w : Word) : (s.setReg a w).eng = s.eng := rfl
@[simp] theorem State.mapViews_eng (s : State) (k : Nat) (f : TbView → TbView) : (s.mapViews k f).eng = s.eng := rfl
@[simp] theorem State.setReg_ct (s : State) (a : Nat) (w : Word) : (s.setReg a w).ct = s.ct := rfl
@[simp] theorem State.mapViews_ct (s : State) (k : Nat) (f : TbView → TbView) : (s.mapViews k f).ct = s.ct := rfl
@[simp] theorem State.setReg_link (s : State) (a : Nat) (w : Word) : (s.setReg a w).link = s.link := rfl
@[simp] theorem State.mapViews_link (s : State) (k : Nat) (f : TbView → TbView) : (s.mapViews k f).link = s.link := rfl
@[simp] theorem State.setReg_exg (s : State) (a : Nat) (w : Word) : (s.setReg a w).exg = s.exg := rfl
@[simp] theorem State.mapViews_exg (s : State) (k : Nat) (f : TbView → TbView) : (s.mapViews k f).exg = s.exg := rfl
@[simp] theorem State.setReg_shq (s : State) (a : Nat) (w : Word) : (s.setReg a w).shq = s.shq := rfl
@[simp] theorem State.mapViews_shq (s : State) (k : Nat) (f : TbView → TbView) : (s.mapViews k f).shq = s.shq := rfl
@[simp] theorem State.setReg_mtr (s : State) (a : Nat) (w : Word) : (s.setReg a w).mtr = s.mtr := rfl
@[simp] theorem State.mapViews_mtr (s : State) (k : Nat) (f : TbView → TbView) : (s.mapViews k f).mtr = s.mtr := rfl
@[simp] theorem State.setReg_guard (s : State) (a : Nat) (w : Word) : (s.setReg a w).guard = s.guard := rfl
@[simp] theorem State.mapViews_guard (s : State) (k : Nat) (f : TbView → TbView) : (s.mapViews k f).guard = s.guard := rfl
@[simp] theorem State.setReg_rgClosed (s : State) (a : Nat) (w : Word) : (s.setReg a w).rgClosed = s.rgClosed := rfl
@[simp] theorem State.mapViews_rgClosed (s : State) (k : Nat) (f : TbView → TbView) : (s.mapViews k f).rgClosed = s.rgClosed := rfl
@[simp] theorem State.setReg_lim (s : State) (a : Nat) (w : Word) : (s.setReg a w).lim = s.lim := rfl
@[simp] theorem State.mapViews_lim (s : State) (k : Nat) (f : TbView → TbView) : (s.mapViews k f).lim = s.lim := rfl
@[simp] theorem State.setReg_safe (s : State) (a : Nat) (w : Word) : (s.setReg a w).safe = s.safe := rfl
@[simp] theorem State.mapViews_safe (s : State) (k : Nat) (f : TbView → TbView) : (s.mapViews k f).safe = s.safe := rfl
@[simp] theorem State.setReg_evr (s : State) (a : Nat) (w : Word) : (s.setReg a w).evr = s.evr := rfl
@[simp] theorem State.mapViews_evr (s : State) (k : Nat) (f : TbView → TbView) : (s.mapViews k f).evr = s.evr := rfl
@[simp] theorem State.setReg_mem (s : State) (a : Nat) (w : Word) : (s.setReg a w).mem = s.mem := rfl
@[simp] theorem State.mapViews_mem (s : State) (k : Nat) (f : TbView → TbView) : (s.mapViews k f).mem = s.mem := rfl
@[simp] theorem State.setReg_ecc (s : State) (a : Nat) (w : Word) : (s.setReg a w).ecc = s.ecc := rfl
@[simp] theorem State.mapViews_ecc (s : State) (k : Nat) (f : TbView → TbView) : (s.mapViews k f).ecc = s.ecc := rfl
@[simp] theorem State.setReg_spl (s : State) (a : Nat) (w : Word) : (s.setReg a w).spl = s.spl := rfl
@[simp] theorem State.mapViews_spl (s : State) (k : Nat) (f : TbView → TbView) : (s.mapViews k f).spl = s.spl := rfl
@[simp] theorem State.setReg_cpy (s : State) (a : Nat) (w : Word) : (s.setReg a w).cpy = s.cpy := rfl
@[simp] theorem State.mapViews_cpy (s : State) (k : Nat) (f : TbView → TbView) : (s.mapViews k f).cpy = s.cpy := rfl
@[simp] theorem State.setReg_host (s : State) (a : Nat) (w : Word) : (s.setReg a w).host = s.host := rfl
@[simp] theorem State.mapViews_host (s : State) (k : Nat) (f : TbView → TbView) : (s.mapViews k f).host = s.host := rfl
@[simp] theorem State.setReg_keep (s : State) (a : Nat) (w : Word) : (s.setReg a w).keep = s.keep := rfl
@[simp] theorem State.mapViews_keep (s : State) (k : Nat) (f : TbView → TbView) : (s.mapViews k f).keep = s.keep := rfl
@[simp] theorem State.setReg_flash (s : State) (a : Nat) (w : Word) : (s.setReg a w).flash = s.flash := rfl
@[simp] theorem State.mapViews_flash (s : State) (k : Nat) (f : TbView → TbView) : (s.mapViews k f).flash = s.flash := rfl
@[simp] theorem State.setReg_boot (s : State) (a : Nat) (w : Word) : (s.setReg a w).boot = s.boot := rfl
@[simp] theorem State.mapViews_boot (s : State) (k : Nat) (f : TbView → TbView) : (s.mapViews k f).boot = s.boot := rfl
@[simp] theorem State.setReg_cas (s : State) (a : Nat) (w : Word) : (s.setReg a w).cas = s.cas := rfl
@[simp] theorem State.mapViews_cas (s : State) (k : Nat) (f : TbView → TbView) : (s.mapViews k f).cas = s.cas := rfl
@[simp] theorem State.setReg_slt (s : State) (a : Nat) (w : Word) : (s.setReg a w).slt = s.slt := rfl
@[simp] theorem State.mapViews_slt (s : State) (k : Nat) (f : TbView → TbView) : (s.mapViews k f).slt = s.slt := rfl
@[simp] theorem State.setReg_sram (s : State) (a : Nat) (w : Word) : (s.setReg a w).sram = s.sram := rfl
@[simp] theorem State.mapViews_sram (s : State) (k : Nat) (f : TbView → TbView) : (s.mapViews k f).sram = s.sram := rfl
@[simp] theorem State.setReg_order (s : State) (a : Nat) (w : Word) : (s.setReg a w).order = s.order := rfl
@[simp] theorem State.mapViews_order (s : State) (k : Nat) (f : TbView → TbView) : (s.mapViews k f).order = s.order := rfl
@[simp] theorem State.setReg_ownerKey (s : State) (a : Nat) (w : Word) : (s.setReg a w).ownerKey = s.ownerKey := rfl
@[simp] theorem State.mapViews_ownerKey (s : State) (k : Nat) (f : TbView → TbView) : (s.mapViews k f).ownerKey = s.ownerKey := rfl
@[simp] theorem State.setReg_free (s : State) (a : Nat) (w : Word) : (s.setReg a w).free = s.free := rfl
@[simp] theorem State.mapViews_free (s : State) (k : Nat) (f : TbView → TbView) : (s.mapViews k f).free = s.free := rfl
@[simp] theorem State.setReg_pending (s : State) (a : Nat) (w : Word) : (s.setReg a w).pending = s.pending := rfl
@[simp] theorem State.mapViews_pending (s : State) (k : Nat) (f : TbView → TbView) : (s.mapViews k f).pending = s.pending := rfl

@[simp] theorem State.setRf_tb (s : State) (a hi lo v : Nat) : (s.setRf a hi lo v).tb = s.tb := rfl
@[simp] theorem State.setRf_tbRun (s : State) (a hi lo v : Nat) : (s.setRf a hi lo v).tbRun = s.tbRun := rfl
@[simp] theorem State.setRf_seen (s : State) (a hi lo v : Nat) : (s.setRf a hi lo v).seen = s.seen := rfl
@[simp] theorem State.setRf_otp (s : State) (a hi lo v : Nat) : (s.setRf a hi lo v).otp = s.otp := rfl
@[simp] theorem State.setRf_shadows (s : State) (a hi lo v : Nat) : (s.setRf a hi lo v).shadows = s.shadows := rfl
@[simp] theorem State.setRf_staged (s : State) (a hi lo v : Nat) : (s.setRf a hi lo v).staged = s.staged := rfl
@[simp] theorem State.setRf_fresh (s : State) (a hi lo v : Nat) : (s.setRf a hi lo v).fresh = s.fresh := rfl
@[simp] theorem State.setRf_due (s : State) (a hi lo v : Nat) : (s.setRf a hi lo v).due = s.due := rfl
@[simp] theorem State.setRf_answer (s : State) (a hi lo v : Nat) : (s.setRf a hi lo v).answer = s.answer := rfl
@[simp] theorem State.setRf_fabric (s : State) (a hi lo v : Nat) : (s.setRf a hi lo v).fabric = s.fabric := rfl
@[simp] theorem State.setRf_sheet (s : State) (a hi lo v : Nat) : (s.setRf a hi lo v).sheet = s.sheet := rfl
@[simp] theorem State.setRf_fix (s : State) (a hi lo v : Nat) : (s.setRf a hi lo v).fix = s.fix := rfl
@[simp] theorem State.setRf_spk (s : State) (a hi lo v : Nat) : (s.setRf a hi lo v).spk = s.spk := rfl
@[simp] theorem State.setRf_ch (s : State) (a hi lo v : Nat) : (s.setRf a hi lo v).ch = s.ch := rfl
@[simp] theorem State.setRf_capIn (s : State) (a hi lo v : Nat) : (s.setRf a hi lo v).capIn = s.capIn := rfl
@[simp] theorem State.setRf_vcalOff (s : State) (a hi lo v : Nat) : (s.setRf a hi lo v).vcalOff = s.vcalOff := rfl
@[simp] theorem State.setRf_pin (s : State) (a hi lo v : Nat) : (s.setRf a hi lo v).pin = s.pin := rfl
@[simp] theorem State.setRf_vdet (s : State) (a hi lo v : Nat) : (s.setRf a hi lo v).vdet = s.vdet := rfl
@[simp] theorem State.setRf_trgEnd (s : State) (a hi lo v : Nat) : (s.setRf a hi lo v).trgEnd = s.trgEnd := rfl
@[simp] theorem State.setRf_trip (s : State) (a hi lo v : Nat) : (s.setRf a hi lo v).trip = s.trip := rfl
@[simp] theorem State.setRf_cal (s : State) (a hi lo v : Nat) : (s.setRf a hi lo v).cal = s.cal := rfl
@[simp] theorem State.setRf_eng (s : State) (a hi lo v : Nat) : (s.setRf a hi lo v).eng = s.eng := rfl
@[simp] theorem State.setRf_ct (s : State) (a hi lo v : Nat) : (s.setRf a hi lo v).ct = s.ct := rfl
@[simp] theorem State.setRf_link (s : State) (a hi lo v : Nat) : (s.setRf a hi lo v).link = s.link := rfl
@[simp] theorem State.setRf_exg (s : State) (a hi lo v : Nat) : (s.setRf a hi lo v).exg = s.exg := rfl
@[simp] theorem State.setRf_shq (s : State) (a hi lo v : Nat) : (s.setRf a hi lo v).shq = s.shq := rfl
@[simp] theorem State.setRf_mtr (s : State) (a hi lo v : Nat) : (s.setRf a hi lo v).mtr = s.mtr := rfl
@[simp] theorem State.setRf_guard (s : State) (a hi lo v : Nat) : (s.setRf a hi lo v).guard = s.guard := rfl
@[simp] theorem State.setRf_rgClosed (s : State) (a hi lo v : Nat) : (s.setRf a hi lo v).rgClosed = s.rgClosed := rfl
@[simp] theorem State.setRf_lim (s : State) (a hi lo v : Nat) : (s.setRf a hi lo v).lim = s.lim := rfl
@[simp] theorem State.setRf_safe (s : State) (a hi lo v : Nat) : (s.setRf a hi lo v).safe = s.safe := rfl
@[simp] theorem State.setRf_evr (s : State) (a hi lo v : Nat) : (s.setRf a hi lo v).evr = s.evr := rfl
@[simp] theorem State.setRf_mem (s : State) (a hi lo v : Nat) : (s.setRf a hi lo v).mem = s.mem := rfl
@[simp] theorem State.setRf_ecc (s : State) (a hi lo v : Nat) : (s.setRf a hi lo v).ecc = s.ecc := rfl
@[simp] theorem State.setRf_spl (s : State) (a hi lo v : Nat) : (s.setRf a hi lo v).spl = s.spl := rfl
@[simp] theorem State.setRf_cpy (s : State) (a hi lo v : Nat) : (s.setRf a hi lo v).cpy = s.cpy := rfl
@[simp] theorem State.setRf_host (s : State) (a hi lo v : Nat) : (s.setRf a hi lo v).host = s.host := rfl
@[simp] theorem State.setRf_keep (s : State) (a hi lo v : Nat) : (s.setRf a hi lo v).keep = s.keep := rfl
@[simp] theorem State.setRf_flash (s : State) (a hi lo v : Nat) : (s.setRf a hi lo v).flash = s.flash := rfl
@[simp] theorem State.setRf_boot (s : State) (a hi lo v : Nat) : (s.setRf a hi lo v).boot = s.boot := rfl
@[simp] theorem State.setRf_cas (s : State) (a hi lo v : Nat) : (s.setRf a hi lo v).cas = s.cas := rfl
@[simp] theorem State.setRf_slt (s : State) (a hi lo v : Nat) : (s.setRf a hi lo v).slt = s.slt := rfl
@[simp] theorem State.setRf_sram (s : State) (a hi lo v : Nat) : (s.setRf a hi lo v).sram = s.sram := rfl
@[simp] theorem State.setRf_order (s : State) (a hi lo v : Nat) : (s.setRf a hi lo v).order = s.order := rfl
@[simp] theorem State.setRf_ownerKey (s : State) (a hi lo v : Nat) : (s.setRf a hi lo v).ownerKey = s.ownerKey := rfl
@[simp] theorem State.setRf_free (s : State) (a hi lo v : Nat) : (s.setRf a hi lo v).free = s.free := rfl
@[simp] theorem State.setRf_pending (s : State) (a hi lo v : Nat) : (s.setRf a hi lo v).pending = s.pending := rfl

@[simp] theorem State.modSpk_tb (s : State) (n : Nat) (f : Spk → Spk) : (s.modSpk n f).tb = s.tb := rfl
@[simp] theorem State.modSpk_tbRun (s : State) (n : Nat) (f : Spk → Spk) : (s.modSpk n f).tbRun = s.tbRun := rfl
@[simp] theorem State.modSpk_seen (s : State) (n : Nat) (f : Spk → Spk) : (s.modSpk n f).seen = s.seen := rfl
@[simp] theorem State.modSpk_otp (s : State) (n : Nat) (f : Spk → Spk) : (s.modSpk n f).otp = s.otp := rfl
@[simp] theorem State.modSpk_regs (s : State) (n : Nat) (f : Spk → Spk) : (s.modSpk n f).regs = s.regs := rfl
@[simp] theorem State.modSpk_shadows (s : State) (n : Nat) (f : Spk → Spk) : (s.modSpk n f).shadows = s.shadows := rfl
@[simp] theorem State.modSpk_staged (s : State) (n : Nat) (f : Spk → Spk) : (s.modSpk n f).staged = s.staged := rfl
@[simp] theorem State.modSpk_fresh (s : State) (n : Nat) (f : Spk → Spk) : (s.modSpk n f).fresh = s.fresh := rfl
@[simp] theorem State.modSpk_due (s : State) (n : Nat) (f : Spk → Spk) : (s.modSpk n f).due = s.due := rfl
@[simp] theorem State.modSpk_answer (s : State) (n : Nat) (f : Spk → Spk) : (s.modSpk n f).answer = s.answer := rfl
@[simp] theorem State.modSpk_fabric (s : State) (n : Nat) (f : Spk → Spk) : (s.modSpk n f).fabric = s.fabric := rfl
@[simp] theorem State.modSpk_sheet (s : State) (n : Nat) (f : Spk → Spk) : (s.modSpk n f).sheet = s.sheet := rfl
@[simp] theorem State.modSpk_fix (s : State) (n : Nat) (f : Spk → Spk) : (s.modSpk n f).fix = s.fix := rfl
@[simp] theorem State.modSpk_ch (s : State) (n : Nat) (f : Spk → Spk) : (s.modSpk n f).ch = s.ch := rfl
@[simp] theorem State.modSpk_capIn (s : State) (n : Nat) (f : Spk → Spk) : (s.modSpk n f).capIn = s.capIn := rfl
@[simp] theorem State.modSpk_vcalOff (s : State) (n : Nat) (f : Spk → Spk) : (s.modSpk n f).vcalOff = s.vcalOff := rfl
@[simp] theorem State.modSpk_pin (s : State) (n : Nat) (f : Spk → Spk) : (s.modSpk n f).pin = s.pin := rfl
@[simp] theorem State.modSpk_vdet (s : State) (n : Nat) (f : Spk → Spk) : (s.modSpk n f).vdet = s.vdet := rfl
@[simp] theorem State.modSpk_trgEnd (s : State) (n : Nat) (f : Spk → Spk) : (s.modSpk n f).trgEnd = s.trgEnd := rfl
@[simp] theorem State.modSpk_trip (s : State) (n : Nat) (f : Spk → Spk) : (s.modSpk n f).trip = s.trip := rfl
@[simp] theorem State.modSpk_cal (s : State) (n : Nat) (f : Spk → Spk) : (s.modSpk n f).cal = s.cal := rfl
@[simp] theorem State.modSpk_eng (s : State) (n : Nat) (f : Spk → Spk) : (s.modSpk n f).eng = s.eng := rfl
@[simp] theorem State.modSpk_ct (s : State) (n : Nat) (f : Spk → Spk) : (s.modSpk n f).ct = s.ct := rfl
@[simp] theorem State.modSpk_link (s : State) (n : Nat) (f : Spk → Spk) : (s.modSpk n f).link = s.link := rfl
@[simp] theorem State.modSpk_exg (s : State) (n : Nat) (f : Spk → Spk) : (s.modSpk n f).exg = s.exg := rfl
@[simp] theorem State.modSpk_shq (s : State) (n : Nat) (f : Spk → Spk) : (s.modSpk n f).shq = s.shq := rfl
@[simp] theorem State.modSpk_mtr (s : State) (n : Nat) (f : Spk → Spk) : (s.modSpk n f).mtr = s.mtr := rfl
@[simp] theorem State.modSpk_guard (s : State) (n : Nat) (f : Spk → Spk) : (s.modSpk n f).guard = s.guard := rfl
@[simp] theorem State.modSpk_rgClosed (s : State) (n : Nat) (f : Spk → Spk) : (s.modSpk n f).rgClosed = s.rgClosed := rfl
@[simp] theorem State.modSpk_lim (s : State) (n : Nat) (f : Spk → Spk) : (s.modSpk n f).lim = s.lim := rfl
@[simp] theorem State.modSpk_safe (s : State) (n : Nat) (f : Spk → Spk) : (s.modSpk n f).safe = s.safe := rfl
@[simp] theorem State.modSpk_evr (s : State) (n : Nat) (f : Spk → Spk) : (s.modSpk n f).evr = s.evr := rfl
@[simp] theorem State.modSpk_mem (s : State) (n : Nat) (f : Spk → Spk) : (s.modSpk n f).mem = s.mem := rfl
@[simp] theorem State.modSpk_ecc (s : State) (n : Nat) (f : Spk → Spk) : (s.modSpk n f).ecc = s.ecc := rfl
@[simp] theorem State.modSpk_spl (s : State) (n : Nat) (f : Spk → Spk) : (s.modSpk n f).spl = s.spl := rfl
@[simp] theorem State.modSpk_cpy (s : State) (n : Nat) (f : Spk → Spk) : (s.modSpk n f).cpy = s.cpy := rfl
@[simp] theorem State.modSpk_host (s : State) (n : Nat) (f : Spk → Spk) : (s.modSpk n f).host = s.host := rfl
@[simp] theorem State.modSpk_keep (s : State) (n : Nat) (f : Spk → Spk) : (s.modSpk n f).keep = s.keep := rfl
@[simp] theorem State.modSpk_flash (s : State) (n : Nat) (f : Spk → Spk) : (s.modSpk n f).flash = s.flash := rfl
@[simp] theorem State.modSpk_boot (s : State) (n : Nat) (f : Spk → Spk) : (s.modSpk n f).boot = s.boot := rfl
@[simp] theorem State.modSpk_cas (s : State) (n : Nat) (f : Spk → Spk) : (s.modSpk n f).cas = s.cas := rfl
@[simp] theorem State.modSpk_slt (s : State) (n : Nat) (f : Spk → Spk) : (s.modSpk n f).slt = s.slt := rfl
@[simp] theorem State.modSpk_sram (s : State) (n : Nat) (f : Spk → Spk) : (s.modSpk n f).sram = s.sram := rfl
@[simp] theorem State.modSpk_order (s : State) (n : Nat) (f : Spk → Spk) : (s.modSpk n f).order = s.order := rfl
@[simp] theorem State.modSpk_ownerKey (s : State) (n : Nat) (f : Spk → Spk) : (s.modSpk n f).ownerKey = s.ownerKey := rfl
@[simp] theorem State.modSpk_free (s : State) (n : Nat) (f : Spk → Spk) : (s.modSpk n f).free = s.free := rfl
@[simp] theorem State.modSpk_pending (s : State) (n : Nat) (f : Spk → Spk) : (s.modSpk n f).pending = s.pending := rfl

@[simp] theorem State.modCh_tb (s : State) (n : Nat) (f : Chan → Chan) : (s.modCh n f).tb = s.tb := rfl
@[simp] theorem State.modCh_tbRun (s : State) (n : Nat) (f : Chan → Chan) : (s.modCh n f).tbRun = s.tbRun := rfl
@[simp] theorem State.modCh_seen (s : State) (n : Nat) (f : Chan → Chan) : (s.modCh n f).seen = s.seen := rfl
@[simp] theorem State.modCh_otp (s : State) (n : Nat) (f : Chan → Chan) : (s.modCh n f).otp = s.otp := rfl
@[simp] theorem State.modCh_regs (s : State) (n : Nat) (f : Chan → Chan) : (s.modCh n f).regs = s.regs := rfl
@[simp] theorem State.modCh_shadows (s : State) (n : Nat) (f : Chan → Chan) : (s.modCh n f).shadows = s.shadows := rfl
@[simp] theorem State.modCh_staged (s : State) (n : Nat) (f : Chan → Chan) : (s.modCh n f).staged = s.staged := rfl
@[simp] theorem State.modCh_fresh (s : State) (n : Nat) (f : Chan → Chan) : (s.modCh n f).fresh = s.fresh := rfl
@[simp] theorem State.modCh_due (s : State) (n : Nat) (f : Chan → Chan) : (s.modCh n f).due = s.due := rfl
@[simp] theorem State.modCh_answer (s : State) (n : Nat) (f : Chan → Chan) : (s.modCh n f).answer = s.answer := rfl
@[simp] theorem State.modCh_fabric (s : State) (n : Nat) (f : Chan → Chan) : (s.modCh n f).fabric = s.fabric := rfl
@[simp] theorem State.modCh_sheet (s : State) (n : Nat) (f : Chan → Chan) : (s.modCh n f).sheet = s.sheet := rfl
@[simp] theorem State.modCh_fix (s : State) (n : Nat) (f : Chan → Chan) : (s.modCh n f).fix = s.fix := rfl
@[simp] theorem State.modCh_spk (s : State) (n : Nat) (f : Chan → Chan) : (s.modCh n f).spk = s.spk := rfl
@[simp] theorem State.modCh_capIn (s : State) (n : Nat) (f : Chan → Chan) : (s.modCh n f).capIn = s.capIn := rfl
@[simp] theorem State.modCh_vcalOff (s : State) (n : Nat) (f : Chan → Chan) : (s.modCh n f).vcalOff = s.vcalOff := rfl
@[simp] theorem State.modCh_pin (s : State) (n : Nat) (f : Chan → Chan) : (s.modCh n f).pin = s.pin := rfl
@[simp] theorem State.modCh_vdet (s : State) (n : Nat) (f : Chan → Chan) : (s.modCh n f).vdet = s.vdet := rfl
@[simp] theorem State.modCh_trgEnd (s : State) (n : Nat) (f : Chan → Chan) : (s.modCh n f).trgEnd = s.trgEnd := rfl
@[simp] theorem State.modCh_trip (s : State) (n : Nat) (f : Chan → Chan) : (s.modCh n f).trip = s.trip := rfl
@[simp] theorem State.modCh_cal (s : State) (n : Nat) (f : Chan → Chan) : (s.modCh n f).cal = s.cal := rfl
@[simp] theorem State.modCh_eng (s : State) (n : Nat) (f : Chan → Chan) : (s.modCh n f).eng = s.eng := rfl
@[simp] theorem State.modCh_ct (s : State) (n : Nat) (f : Chan → Chan) : (s.modCh n f).ct = s.ct := rfl
@[simp] theorem State.modCh_link (s : State) (n : Nat) (f : Chan → Chan) : (s.modCh n f).link = s.link := rfl
@[simp] theorem State.modCh_exg (s : State) (n : Nat) (f : Chan → Chan) : (s.modCh n f).exg = s.exg := rfl
@[simp] theorem State.modCh_shq (s : State) (n : Nat) (f : Chan → Chan) : (s.modCh n f).shq = s.shq := rfl
@[simp] theorem State.modCh_mtr (s : State) (n : Nat) (f : Chan → Chan) : (s.modCh n f).mtr = s.mtr := rfl
@[simp] theorem State.modCh_guard (s : State) (n : Nat) (f : Chan → Chan) : (s.modCh n f).guard = s.guard := rfl
@[simp] theorem State.modCh_rgClosed (s : State) (n : Nat) (f : Chan → Chan) : (s.modCh n f).rgClosed = s.rgClosed := rfl
@[simp] theorem State.modCh_lim (s : State) (n : Nat) (f : Chan → Chan) : (s.modCh n f).lim = s.lim := rfl
@[simp] theorem State.modCh_safe (s : State) (n : Nat) (f : Chan → Chan) : (s.modCh n f).safe = s.safe := rfl
@[simp] theorem State.modCh_evr (s : State) (n : Nat) (f : Chan → Chan) : (s.modCh n f).evr = s.evr := rfl
@[simp] theorem State.modCh_mem (s : State) (n : Nat) (f : Chan → Chan) : (s.modCh n f).mem = s.mem := rfl
@[simp] theorem State.modCh_ecc (s : State) (n : Nat) (f : Chan → Chan) : (s.modCh n f).ecc = s.ecc := rfl
@[simp] theorem State.modCh_spl (s : State) (n : Nat) (f : Chan → Chan) : (s.modCh n f).spl = s.spl := rfl
@[simp] theorem State.modCh_cpy (s : State) (n : Nat) (f : Chan → Chan) : (s.modCh n f).cpy = s.cpy := rfl
@[simp] theorem State.modCh_host (s : State) (n : Nat) (f : Chan → Chan) : (s.modCh n f).host = s.host := rfl
@[simp] theorem State.modCh_keep (s : State) (n : Nat) (f : Chan → Chan) : (s.modCh n f).keep = s.keep := rfl
@[simp] theorem State.modCh_flash (s : State) (n : Nat) (f : Chan → Chan) : (s.modCh n f).flash = s.flash := rfl
@[simp] theorem State.modCh_boot (s : State) (n : Nat) (f : Chan → Chan) : (s.modCh n f).boot = s.boot := rfl
@[simp] theorem State.modCh_cas (s : State) (n : Nat) (f : Chan → Chan) : (s.modCh n f).cas = s.cas := rfl
@[simp] theorem State.modCh_slt (s : State) (n : Nat) (f : Chan → Chan) : (s.modCh n f).slt = s.slt := rfl
@[simp] theorem State.modCh_sram (s : State) (n : Nat) (f : Chan → Chan) : (s.modCh n f).sram = s.sram := rfl
@[simp] theorem State.modCh_order (s : State) (n : Nat) (f : Chan → Chan) : (s.modCh n f).order = s.order := rfl
@[simp] theorem State.modCh_ownerKey (s : State) (n : Nat) (f : Chan → Chan) : (s.modCh n f).ownerKey = s.ownerKey := rfl
@[simp] theorem State.modCh_free (s : State) (n : Nat) (f : Chan → Chan) : (s.modCh n f).free = s.free := rfl
@[simp] theorem State.modCh_pending (s : State) (n : Nat) (f : Chan → Chan) : (s.modCh n f).pending = s.pending := rfl

@[simp] theorem State.modSlot_tb (s : State) (n x : Nat) (f : Slot → Slot) : (s.modSlot n x f).tb = s.tb := rfl
@[simp] theorem State.modSlot_tbRun (s : State) (n x : Nat) (f : Slot → Slot) : (s.modSlot n x f).tbRun = s.tbRun := rfl
@[simp] theorem State.modSlot_seen (s : State) (n x : Nat) (f : Slot → Slot) : (s.modSlot n x f).seen = s.seen := rfl
@[simp] theorem State.modSlot_otp (s : State) (n x : Nat) (f : Slot → Slot) : (s.modSlot n x f).otp = s.otp := rfl
@[simp] theorem State.modSlot_regs (s : State) (n x : Nat) (f : Slot → Slot) : (s.modSlot n x f).regs = s.regs := rfl
@[simp] theorem State.modSlot_shadows (s : State) (n x : Nat) (f : Slot → Slot) : (s.modSlot n x f).shadows = s.shadows := rfl
@[simp] theorem State.modSlot_staged (s : State) (n x : Nat) (f : Slot → Slot) : (s.modSlot n x f).staged = s.staged := rfl
@[simp] theorem State.modSlot_fresh (s : State) (n x : Nat) (f : Slot → Slot) : (s.modSlot n x f).fresh = s.fresh := rfl
@[simp] theorem State.modSlot_due (s : State) (n x : Nat) (f : Slot → Slot) : (s.modSlot n x f).due = s.due := rfl
@[simp] theorem State.modSlot_answer (s : State) (n x : Nat) (f : Slot → Slot) : (s.modSlot n x f).answer = s.answer := rfl
@[simp] theorem State.modSlot_fabric (s : State) (n x : Nat) (f : Slot → Slot) : (s.modSlot n x f).fabric = s.fabric := rfl
@[simp] theorem State.modSlot_sheet (s : State) (n x : Nat) (f : Slot → Slot) : (s.modSlot n x f).sheet = s.sheet := rfl
@[simp] theorem State.modSlot_fix (s : State) (n x : Nat) (f : Slot → Slot) : (s.modSlot n x f).fix = s.fix := rfl
@[simp] theorem State.modSlot_spk (s : State) (n x : Nat) (f : Slot → Slot) : (s.modSlot n x f).spk = s.spk := rfl
@[simp] theorem State.modSlot_capIn (s : State) (n x : Nat) (f : Slot → Slot) : (s.modSlot n x f).capIn = s.capIn := rfl
@[simp] theorem State.modSlot_vcalOff (s : State) (n x : Nat) (f : Slot → Slot) : (s.modSlot n x f).vcalOff = s.vcalOff := rfl
@[simp] theorem State.modSlot_pin (s : State) (n x : Nat) (f : Slot → Slot) : (s.modSlot n x f).pin = s.pin := rfl
@[simp] theorem State.modSlot_vdet (s : State) (n x : Nat) (f : Slot → Slot) : (s.modSlot n x f).vdet = s.vdet := rfl
@[simp] theorem State.modSlot_trgEnd (s : State) (n x : Nat) (f : Slot → Slot) : (s.modSlot n x f).trgEnd = s.trgEnd := rfl
@[simp] theorem State.modSlot_trip (s : State) (n x : Nat) (f : Slot → Slot) : (s.modSlot n x f).trip = s.trip := rfl
@[simp] theorem State.modSlot_cal (s : State) (n x : Nat) (f : Slot → Slot) : (s.modSlot n x f).cal = s.cal := rfl
@[simp] theorem State.modSlot_eng (s : State) (n x : Nat) (f : Slot → Slot) : (s.modSlot n x f).eng = s.eng := rfl
@[simp] theorem State.modSlot_ct (s : State) (n x : Nat) (f : Slot → Slot) : (s.modSlot n x f).ct = s.ct := rfl
@[simp] theorem State.modSlot_link (s : State) (n x : Nat) (f : Slot → Slot) : (s.modSlot n x f).link = s.link := rfl
@[simp] theorem State.modSlot_exg (s : State) (n x : Nat) (f : Slot → Slot) : (s.modSlot n x f).exg = s.exg := rfl
@[simp] theorem State.modSlot_shq (s : State) (n x : Nat) (f : Slot → Slot) : (s.modSlot n x f).shq = s.shq := rfl
@[simp] theorem State.modSlot_mtr (s : State) (n x : Nat) (f : Slot → Slot) : (s.modSlot n x f).mtr = s.mtr := rfl
@[simp] theorem State.modSlot_guard (s : State) (n x : Nat) (f : Slot → Slot) : (s.modSlot n x f).guard = s.guard := rfl
@[simp] theorem State.modSlot_rgClosed (s : State) (n x : Nat) (f : Slot → Slot) : (s.modSlot n x f).rgClosed = s.rgClosed := rfl
@[simp] theorem State.modSlot_lim (s : State) (n x : Nat) (f : Slot → Slot) : (s.modSlot n x f).lim = s.lim := rfl
@[simp] theorem State.modSlot_safe (s : State) (n x : Nat) (f : Slot → Slot) : (s.modSlot n x f).safe = s.safe := rfl
@[simp] theorem State.modSlot_evr (s : State) (n x : Nat) (f : Slot → Slot) : (s.modSlot n x f).evr = s.evr := rfl
@[simp] theorem State.modSlot_mem (s : State) (n x : Nat) (f : Slot → Slot) : (s.modSlot n x f).mem = s.mem := rfl
@[simp] theorem State.modSlot_ecc (s : State) (n x : Nat) (f : Slot → Slot) : (s.modSlot n x f).ecc = s.ecc := rfl
@[simp] theorem State.modSlot_spl (s : State) (n x : Nat) (f : Slot → Slot) : (s.modSlot n x f).spl = s.spl := rfl
@[simp] theorem State.modSlot_cpy (s : State) (n x : Nat) (f : Slot → Slot) : (s.modSlot n x f).cpy = s.cpy := rfl
@[simp] theorem State.modSlot_host (s : State) (n x : Nat) (f : Slot → Slot) : (s.modSlot n x f).host = s.host := rfl
@[simp] theorem State.modSlot_keep (s : State) (n x : Nat) (f : Slot → Slot) : (s.modSlot n x f).keep = s.keep := rfl
@[simp] theorem State.modSlot_flash (s : State) (n x : Nat) (f : Slot → Slot) : (s.modSlot n x f).flash = s.flash := rfl
@[simp] theorem State.modSlot_boot (s : State) (n x : Nat) (f : Slot → Slot) : (s.modSlot n x f).boot = s.boot := rfl
@[simp] theorem State.modSlot_cas (s : State) (n x : Nat) (f : Slot → Slot) : (s.modSlot n x f).cas = s.cas := rfl
@[simp] theorem State.modSlot_slt (s : State) (n x : Nat) (f : Slot → Slot) : (s.modSlot n x f).slt = s.slt := rfl
@[simp] theorem State.modSlot_sram (s : State) (n x : Nat) (f : Slot → Slot) : (s.modSlot n x f).sram = s.sram := rfl
@[simp] theorem State.modSlot_order (s : State) (n x : Nat) (f : Slot → Slot) : (s.modSlot n x f).order = s.order := rfl
@[simp] theorem State.modSlot_ownerKey (s : State) (n x : Nat) (f : Slot → Slot) : (s.modSlot n x f).ownerKey = s.ownerKey := rfl
@[simp] theorem State.modSlot_free (s : State) (n x : Nat) (f : Slot → Slot) : (s.modSlot n x f).free = s.free := rfl
@[simp] theorem State.modSlot_pending (s : State) (n x : Nat) (f : Slot → Slot) : (s.modSlot n x f).pending = s.pending := rfl

@[simp] theorem State.modPin_tb (s : State) (n : Nat) (f : Pin → Pin) : (s.modPin n f).tb = s.tb := rfl
@[simp] theorem State.modPin_tbRun (s : State) (n : Nat) (f : Pin → Pin) : (s.modPin n f).tbRun = s.tbRun := rfl
@[simp] theorem State.modPin_seen (s : State) (n : Nat) (f : Pin → Pin) : (s.modPin n f).seen = s.seen := rfl
@[simp] theorem State.modPin_otp (s : State) (n : Nat) (f : Pin → Pin) : (s.modPin n f).otp = s.otp := rfl
@[simp] theorem State.modPin_regs (s : State) (n : Nat) (f : Pin → Pin) : (s.modPin n f).regs = s.regs := rfl
@[simp] theorem State.modPin_shadows (s : State) (n : Nat) (f : Pin → Pin) : (s.modPin n f).shadows = s.shadows := rfl
@[simp] theorem State.modPin_staged (s : State) (n : Nat) (f : Pin → Pin) : (s.modPin n f).staged = s.staged := rfl
@[simp] theorem State.modPin_fresh (s : State) (n : Nat) (f : Pin → Pin) : (s.modPin n f).fresh = s.fresh := rfl
@[simp] theorem State.modPin_due (s : State) (n : Nat) (f : Pin → Pin) : (s.modPin n f).due = s.due := rfl
@[simp] theorem State.modPin_answer (s : State) (n : Nat) (f : Pin → Pin) : (s.modPin n f).answer = s.answer := rfl
@[simp] theorem State.modPin_fabric (s : State) (n : Nat) (f : Pin → Pin) : (s.modPin n f).fabric = s.fabric := rfl
@[simp] theorem State.modPin_sheet (s : State) (n : Nat) (f : Pin → Pin) : (s.modPin n f).sheet = s.sheet := rfl
@[simp] theorem State.modPin_fix (s : State) (n : Nat) (f : Pin → Pin) : (s.modPin n f).fix = s.fix := rfl
@[simp] theorem State.modPin_spk (s : State) (n : Nat) (f : Pin → Pin) : (s.modPin n f).spk = s.spk := rfl
@[simp] theorem State.modPin_ch (s : State) (n : Nat) (f : Pin → Pin) : (s.modPin n f).ch = s.ch := rfl
@[simp] theorem State.modPin_capIn (s : State) (n : Nat) (f : Pin → Pin) : (s.modPin n f).capIn = s.capIn := rfl
@[simp] theorem State.modPin_vcalOff (s : State) (n : Nat) (f : Pin → Pin) : (s.modPin n f).vcalOff = s.vcalOff := rfl
@[simp] theorem State.modPin_vdet (s : State) (n : Nat) (f : Pin → Pin) : (s.modPin n f).vdet = s.vdet := rfl
@[simp] theorem State.modPin_trgEnd (s : State) (n : Nat) (f : Pin → Pin) : (s.modPin n f).trgEnd = s.trgEnd := rfl
@[simp] theorem State.modPin_trip (s : State) (n : Nat) (f : Pin → Pin) : (s.modPin n f).trip = s.trip := rfl
@[simp] theorem State.modPin_cal (s : State) (n : Nat) (f : Pin → Pin) : (s.modPin n f).cal = s.cal := rfl
@[simp] theorem State.modPin_eng (s : State) (n : Nat) (f : Pin → Pin) : (s.modPin n f).eng = s.eng := rfl
@[simp] theorem State.modPin_ct (s : State) (n : Nat) (f : Pin → Pin) : (s.modPin n f).ct = s.ct := rfl
@[simp] theorem State.modPin_link (s : State) (n : Nat) (f : Pin → Pin) : (s.modPin n f).link = s.link := rfl
@[simp] theorem State.modPin_exg (s : State) (n : Nat) (f : Pin → Pin) : (s.modPin n f).exg = s.exg := rfl
@[simp] theorem State.modPin_shq (s : State) (n : Nat) (f : Pin → Pin) : (s.modPin n f).shq = s.shq := rfl
@[simp] theorem State.modPin_mtr (s : State) (n : Nat) (f : Pin → Pin) : (s.modPin n f).mtr = s.mtr := rfl
@[simp] theorem State.modPin_guard (s : State) (n : Nat) (f : Pin → Pin) : (s.modPin n f).guard = s.guard := rfl
@[simp] theorem State.modPin_rgClosed (s : State) (n : Nat) (f : Pin → Pin) : (s.modPin n f).rgClosed = s.rgClosed := rfl
@[simp] theorem State.modPin_lim (s : State) (n : Nat) (f : Pin → Pin) : (s.modPin n f).lim = s.lim := rfl
@[simp] theorem State.modPin_safe (s : State) (n : Nat) (f : Pin → Pin) : (s.modPin n f).safe = s.safe := rfl
@[simp] theorem State.modPin_evr (s : State) (n : Nat) (f : Pin → Pin) : (s.modPin n f).evr = s.evr := rfl
@[simp] theorem State.modPin_mem (s : State) (n : Nat) (f : Pin → Pin) : (s.modPin n f).mem = s.mem := rfl
@[simp] theorem State.modPin_ecc (s : State) (n : Nat) (f : Pin → Pin) : (s.modPin n f).ecc = s.ecc := rfl
@[simp] theorem State.modPin_spl (s : State) (n : Nat) (f : Pin → Pin) : (s.modPin n f).spl = s.spl := rfl
@[simp] theorem State.modPin_cpy (s : State) (n : Nat) (f : Pin → Pin) : (s.modPin n f).cpy = s.cpy := rfl
@[simp] theorem State.modPin_host (s : State) (n : Nat) (f : Pin → Pin) : (s.modPin n f).host = s.host := rfl
@[simp] theorem State.modPin_keep (s : State) (n : Nat) (f : Pin → Pin) : (s.modPin n f).keep = s.keep := rfl
@[simp] theorem State.modPin_flash (s : State) (n : Nat) (f : Pin → Pin) : (s.modPin n f).flash = s.flash := rfl
@[simp] theorem State.modPin_boot (s : State) (n : Nat) (f : Pin → Pin) : (s.modPin n f).boot = s.boot := rfl
@[simp] theorem State.modPin_cas (s : State) (n : Nat) (f : Pin → Pin) : (s.modPin n f).cas = s.cas := rfl
@[simp] theorem State.modPin_slt (s : State) (n : Nat) (f : Pin → Pin) : (s.modPin n f).slt = s.slt := rfl
@[simp] theorem State.modPin_sram (s : State) (n : Nat) (f : Pin → Pin) : (s.modPin n f).sram = s.sram := rfl
@[simp] theorem State.modPin_order (s : State) (n : Nat) (f : Pin → Pin) : (s.modPin n f).order = s.order := rfl
@[simp] theorem State.modPin_ownerKey (s : State) (n : Nat) (f : Pin → Pin) : (s.modPin n f).ownerKey = s.ownerKey := rfl
@[simp] theorem State.modPin_free (s : State) (n : Nat) (f : Pin → Pin) : (s.modPin n f).free = s.free := rfl
@[simp] theorem State.modPin_pending (s : State) (n : Nat) (f : Pin → Pin) : (s.modPin n f).pending = s.pending := rfl

@[simp] theorem State.modEng_tb (s : State) (n : Nat) (f : Eng → Eng) : (s.modEng n f).tb = s.tb := rfl
@[simp] theorem State.modEng_tbRun (s : State) (n : Nat) (f : Eng → Eng) : (s.modEng n f).tbRun = s.tbRun := rfl
@[simp] theorem State.modEng_seen (s : State) (n : Nat) (f : Eng → Eng) : (s.modEng n f).seen = s.seen := rfl
@[simp] theorem State.modEng_otp (s : State) (n : Nat) (f : Eng → Eng) : (s.modEng n f).otp = s.otp := rfl
@[simp] theorem State.modEng_regs (s : State) (n : Nat) (f : Eng → Eng) : (s.modEng n f).regs = s.regs := rfl
@[simp] theorem State.modEng_shadows (s : State) (n : Nat) (f : Eng → Eng) : (s.modEng n f).shadows = s.shadows := rfl
@[simp] theorem State.modEng_staged (s : State) (n : Nat) (f : Eng → Eng) : (s.modEng n f).staged = s.staged := rfl
@[simp] theorem State.modEng_fresh (s : State) (n : Nat) (f : Eng → Eng) : (s.modEng n f).fresh = s.fresh := rfl
@[simp] theorem State.modEng_due (s : State) (n : Nat) (f : Eng → Eng) : (s.modEng n f).due = s.due := rfl
@[simp] theorem State.modEng_answer (s : State) (n : Nat) (f : Eng → Eng) : (s.modEng n f).answer = s.answer := rfl
@[simp] theorem State.modEng_fabric (s : State) (n : Nat) (f : Eng → Eng) : (s.modEng n f).fabric = s.fabric := rfl
@[simp] theorem State.modEng_sheet (s : State) (n : Nat) (f : Eng → Eng) : (s.modEng n f).sheet = s.sheet := rfl
@[simp] theorem State.modEng_fix (s : State) (n : Nat) (f : Eng → Eng) : (s.modEng n f).fix = s.fix := rfl
@[simp] theorem State.modEng_spk (s : State) (n : Nat) (f : Eng → Eng) : (s.modEng n f).spk = s.spk := rfl
@[simp] theorem State.modEng_ch (s : State) (n : Nat) (f : Eng → Eng) : (s.modEng n f).ch = s.ch := rfl
@[simp] theorem State.modEng_capIn (s : State) (n : Nat) (f : Eng → Eng) : (s.modEng n f).capIn = s.capIn := rfl
@[simp] theorem State.modEng_vcalOff (s : State) (n : Nat) (f : Eng → Eng) : (s.modEng n f).vcalOff = s.vcalOff := rfl
@[simp] theorem State.modEng_pin (s : State) (n : Nat) (f : Eng → Eng) : (s.modEng n f).pin = s.pin := rfl
@[simp] theorem State.modEng_vdet (s : State) (n : Nat) (f : Eng → Eng) : (s.modEng n f).vdet = s.vdet := rfl
@[simp] theorem State.modEng_trgEnd (s : State) (n : Nat) (f : Eng → Eng) : (s.modEng n f).trgEnd = s.trgEnd := rfl
@[simp] theorem State.modEng_trip (s : State) (n : Nat) (f : Eng → Eng) : (s.modEng n f).trip = s.trip := rfl
@[simp] theorem State.modEng_cal (s : State) (n : Nat) (f : Eng → Eng) : (s.modEng n f).cal = s.cal := rfl
@[simp] theorem State.modEng_ct (s : State) (n : Nat) (f : Eng → Eng) : (s.modEng n f).ct = s.ct := rfl
@[simp] theorem State.modEng_link (s : State) (n : Nat) (f : Eng → Eng) : (s.modEng n f).link = s.link := rfl
@[simp] theorem State.modEng_exg (s : State) (n : Nat) (f : Eng → Eng) : (s.modEng n f).exg = s.exg := rfl
@[simp] theorem State.modEng_shq (s : State) (n : Nat) (f : Eng → Eng) : (s.modEng n f).shq = s.shq := rfl
@[simp] theorem State.modEng_mtr (s : State) (n : Nat) (f : Eng → Eng) : (s.modEng n f).mtr = s.mtr := rfl
@[simp] theorem State.modEng_guard (s : State) (n : Nat) (f : Eng → Eng) : (s.modEng n f).guard = s.guard := rfl
@[simp] theorem State.modEng_rgClosed (s : State) (n : Nat) (f : Eng → Eng) : (s.modEng n f).rgClosed = s.rgClosed := rfl
@[simp] theorem State.modEng_lim (s : State) (n : Nat) (f : Eng → Eng) : (s.modEng n f).lim = s.lim := rfl
@[simp] theorem State.modEng_safe (s : State) (n : Nat) (f : Eng → Eng) : (s.modEng n f).safe = s.safe := rfl
@[simp] theorem State.modEng_evr (s : State) (n : Nat) (f : Eng → Eng) : (s.modEng n f).evr = s.evr := rfl
@[simp] theorem State.modEng_mem (s : State) (n : Nat) (f : Eng → Eng) : (s.modEng n f).mem = s.mem := rfl
@[simp] theorem State.modEng_ecc (s : State) (n : Nat) (f : Eng → Eng) : (s.modEng n f).ecc = s.ecc := rfl
@[simp] theorem State.modEng_spl (s : State) (n : Nat) (f : Eng → Eng) : (s.modEng n f).spl = s.spl := rfl
@[simp] theorem State.modEng_cpy (s : State) (n : Nat) (f : Eng → Eng) : (s.modEng n f).cpy = s.cpy := rfl
@[simp] theorem State.modEng_host (s : State) (n : Nat) (f : Eng → Eng) : (s.modEng n f).host = s.host := rfl
@[simp] theorem State.modEng_keep (s : State) (n : Nat) (f : Eng → Eng) : (s.modEng n f).keep = s.keep := rfl
@[simp] theorem State.modEng_flash (s : State) (n : Nat) (f : Eng → Eng) : (s.modEng n f).flash = s.flash := rfl
@[simp] theorem State.modEng_boot (s : State) (n : Nat) (f : Eng → Eng) : (s.modEng n f).boot = s.boot := rfl
@[simp] theorem State.modEng_cas (s : State) (n : Nat) (f : Eng → Eng) : (s.modEng n f).cas = s.cas := rfl
@[simp] theorem State.modEng_slt (s : State) (n : Nat) (f : Eng → Eng) : (s.modEng n f).slt = s.slt := rfl
@[simp] theorem State.modEng_sram (s : State) (n : Nat) (f : Eng → Eng) : (s.modEng n f).sram = s.sram := rfl
@[simp] theorem State.modEng_order (s : State) (n : Nat) (f : Eng → Eng) : (s.modEng n f).order = s.order := rfl
@[simp] theorem State.modEng_ownerKey (s : State) (n : Nat) (f : Eng → Eng) : (s.modEng n f).ownerKey = s.ownerKey := rfl
@[simp] theorem State.modEng_free (s : State) (n : Nat) (f : Eng → Eng) : (s.modEng n f).free = s.free := rfl
@[simp] theorem State.modEng_pending (s : State) (n : Nat) (f : Eng → Eng) : (s.modEng n f).pending = s.pending := rfl

@[simp] theorem State.modThr_tb (s : State) (n : Nat) (f : Thr → Thr) : (s.modThr n f).tb = s.tb := rfl
@[simp] theorem State.modThr_tbRun (s : State) (n : Nat) (f : Thr → Thr) : (s.modThr n f).tbRun = s.tbRun := rfl
@[simp] theorem State.modThr_seen (s : State) (n : Nat) (f : Thr → Thr) : (s.modThr n f).seen = s.seen := rfl
@[simp] theorem State.modThr_otp (s : State) (n : Nat) (f : Thr → Thr) : (s.modThr n f).otp = s.otp := rfl
@[simp] theorem State.modThr_regs (s : State) (n : Nat) (f : Thr → Thr) : (s.modThr n f).regs = s.regs := rfl
@[simp] theorem State.modThr_shadows (s : State) (n : Nat) (f : Thr → Thr) : (s.modThr n f).shadows = s.shadows := rfl
@[simp] theorem State.modThr_staged (s : State) (n : Nat) (f : Thr → Thr) : (s.modThr n f).staged = s.staged := rfl
@[simp] theorem State.modThr_fresh (s : State) (n : Nat) (f : Thr → Thr) : (s.modThr n f).fresh = s.fresh := rfl
@[simp] theorem State.modThr_due (s : State) (n : Nat) (f : Thr → Thr) : (s.modThr n f).due = s.due := rfl
@[simp] theorem State.modThr_answer (s : State) (n : Nat) (f : Thr → Thr) : (s.modThr n f).answer = s.answer := rfl
@[simp] theorem State.modThr_fabric (s : State) (n : Nat) (f : Thr → Thr) : (s.modThr n f).fabric = s.fabric := rfl
@[simp] theorem State.modThr_sheet (s : State) (n : Nat) (f : Thr → Thr) : (s.modThr n f).sheet = s.sheet := rfl
@[simp] theorem State.modThr_fix (s : State) (n : Nat) (f : Thr → Thr) : (s.modThr n f).fix = s.fix := rfl
@[simp] theorem State.modThr_spk (s : State) (n : Nat) (f : Thr → Thr) : (s.modThr n f).spk = s.spk := rfl
@[simp] theorem State.modThr_ch (s : State) (n : Nat) (f : Thr → Thr) : (s.modThr n f).ch = s.ch := rfl
@[simp] theorem State.modThr_capIn (s : State) (n : Nat) (f : Thr → Thr) : (s.modThr n f).capIn = s.capIn := rfl
@[simp] theorem State.modThr_vcalOff (s : State) (n : Nat) (f : Thr → Thr) : (s.modThr n f).vcalOff = s.vcalOff := rfl
@[simp] theorem State.modThr_pin (s : State) (n : Nat) (f : Thr → Thr) : (s.modThr n f).pin = s.pin := rfl
@[simp] theorem State.modThr_vdet (s : State) (n : Nat) (f : Thr → Thr) : (s.modThr n f).vdet = s.vdet := rfl
@[simp] theorem State.modThr_trgEnd (s : State) (n : Nat) (f : Thr → Thr) : (s.modThr n f).trgEnd = s.trgEnd := rfl
@[simp] theorem State.modThr_trip (s : State) (n : Nat) (f : Thr → Thr) : (s.modThr n f).trip = s.trip := rfl
@[simp] theorem State.modThr_cal (s : State) (n : Nat) (f : Thr → Thr) : (s.modThr n f).cal = s.cal := rfl
@[simp] theorem State.modThr_ct (s : State) (n : Nat) (f : Thr → Thr) : (s.modThr n f).ct = s.ct := rfl
@[simp] theorem State.modThr_link (s : State) (n : Nat) (f : Thr → Thr) : (s.modThr n f).link = s.link := rfl
@[simp] theorem State.modThr_exg (s : State) (n : Nat) (f : Thr → Thr) : (s.modThr n f).exg = s.exg := rfl
@[simp] theorem State.modThr_shq (s : State) (n : Nat) (f : Thr → Thr) : (s.modThr n f).shq = s.shq := rfl
@[simp] theorem State.modThr_mtr (s : State) (n : Nat) (f : Thr → Thr) : (s.modThr n f).mtr = s.mtr := rfl
@[simp] theorem State.modThr_guard (s : State) (n : Nat) (f : Thr → Thr) : (s.modThr n f).guard = s.guard := rfl
@[simp] theorem State.modThr_rgClosed (s : State) (n : Nat) (f : Thr → Thr) : (s.modThr n f).rgClosed = s.rgClosed := rfl
@[simp] theorem State.modThr_lim (s : State) (n : Nat) (f : Thr → Thr) : (s.modThr n f).lim = s.lim := rfl
@[simp] theorem State.modThr_safe (s : State) (n : Nat) (f : Thr → Thr) : (s.modThr n f).safe = s.safe := rfl
@[simp] theorem State.modThr_evr (s : State) (n : Nat) (f : Thr → Thr) : (s.modThr n f).evr = s.evr := rfl
@[simp] theorem State.modThr_mem (s : State) (n : Nat) (f : Thr → Thr) : (s.modThr n f).mem = s.mem := rfl
@[simp] theorem State.modThr_ecc (s : State) (n : Nat) (f : Thr → Thr) : (s.modThr n f).ecc = s.ecc := rfl
@[simp] theorem State.modThr_spl (s : State) (n : Nat) (f : Thr → Thr) : (s.modThr n f).spl = s.spl := rfl
@[simp] theorem State.modThr_cpy (s : State) (n : Nat) (f : Thr → Thr) : (s.modThr n f).cpy = s.cpy := rfl
@[simp] theorem State.modThr_host (s : State) (n : Nat) (f : Thr → Thr) : (s.modThr n f).host = s.host := rfl
@[simp] theorem State.modThr_keep (s : State) (n : Nat) (f : Thr → Thr) : (s.modThr n f).keep = s.keep := rfl
@[simp] theorem State.modThr_flash (s : State) (n : Nat) (f : Thr → Thr) : (s.modThr n f).flash = s.flash := rfl
@[simp] theorem State.modThr_boot (s : State) (n : Nat) (f : Thr → Thr) : (s.modThr n f).boot = s.boot := rfl
@[simp] theorem State.modThr_cas (s : State) (n : Nat) (f : Thr → Thr) : (s.modThr n f).cas = s.cas := rfl
@[simp] theorem State.modThr_slt (s : State) (n : Nat) (f : Thr → Thr) : (s.modThr n f).slt = s.slt := rfl
@[simp] theorem State.modThr_sram (s : State) (n : Nat) (f : Thr → Thr) : (s.modThr n f).sram = s.sram := rfl
@[simp] theorem State.modThr_order (s : State) (n : Nat) (f : Thr → Thr) : (s.modThr n f).order = s.order := rfl
@[simp] theorem State.modThr_ownerKey (s : State) (n : Nat) (f : Thr → Thr) : (s.modThr n f).ownerKey = s.ownerKey := rfl
@[simp] theorem State.modThr_free (s : State) (n : Nat) (f : Thr → Thr) : (s.modThr n f).free = s.free := rfl
@[simp] theorem State.modThr_pending (s : State) (n : Nat) (f : Thr → Thr) : (s.modThr n f).pending = s.pending := rfl

@[simp] theorem State.modLink_tb (s : State) (n : Nat) (f : Link → Link) : (s.modLink n f).tb = s.tb := rfl
@[simp] theorem State.modLink_tbRun (s : State) (n : Nat) (f : Link → Link) : (s.modLink n f).tbRun = s.tbRun := rfl
@[simp] theorem State.modLink_seen (s : State) (n : Nat) (f : Link → Link) : (s.modLink n f).seen = s.seen := rfl
@[simp] theorem State.modLink_otp (s : State) (n : Nat) (f : Link → Link) : (s.modLink n f).otp = s.otp := rfl
@[simp] theorem State.modLink_regs (s : State) (n : Nat) (f : Link → Link) : (s.modLink n f).regs = s.regs := rfl
@[simp] theorem State.modLink_shadows (s : State) (n : Nat) (f : Link → Link) : (s.modLink n f).shadows = s.shadows := rfl
@[simp] theorem State.modLink_staged (s : State) (n : Nat) (f : Link → Link) : (s.modLink n f).staged = s.staged := rfl
@[simp] theorem State.modLink_fresh (s : State) (n : Nat) (f : Link → Link) : (s.modLink n f).fresh = s.fresh := rfl
@[simp] theorem State.modLink_due (s : State) (n : Nat) (f : Link → Link) : (s.modLink n f).due = s.due := rfl
@[simp] theorem State.modLink_answer (s : State) (n : Nat) (f : Link → Link) : (s.modLink n f).answer = s.answer := rfl
@[simp] theorem State.modLink_fabric (s : State) (n : Nat) (f : Link → Link) : (s.modLink n f).fabric = s.fabric := rfl
@[simp] theorem State.modLink_sheet (s : State) (n : Nat) (f : Link → Link) : (s.modLink n f).sheet = s.sheet := rfl
@[simp] theorem State.modLink_fix (s : State) (n : Nat) (f : Link → Link) : (s.modLink n f).fix = s.fix := rfl
@[simp] theorem State.modLink_spk (s : State) (n : Nat) (f : Link → Link) : (s.modLink n f).spk = s.spk := rfl
@[simp] theorem State.modLink_ch (s : State) (n : Nat) (f : Link → Link) : (s.modLink n f).ch = s.ch := rfl
@[simp] theorem State.modLink_capIn (s : State) (n : Nat) (f : Link → Link) : (s.modLink n f).capIn = s.capIn := rfl
@[simp] theorem State.modLink_vcalOff (s : State) (n : Nat) (f : Link → Link) : (s.modLink n f).vcalOff = s.vcalOff := rfl
@[simp] theorem State.modLink_pin (s : State) (n : Nat) (f : Link → Link) : (s.modLink n f).pin = s.pin := rfl
@[simp] theorem State.modLink_vdet (s : State) (n : Nat) (f : Link → Link) : (s.modLink n f).vdet = s.vdet := rfl
@[simp] theorem State.modLink_trgEnd (s : State) (n : Nat) (f : Link → Link) : (s.modLink n f).trgEnd = s.trgEnd := rfl
@[simp] theorem State.modLink_trip (s : State) (n : Nat) (f : Link → Link) : (s.modLink n f).trip = s.trip := rfl
@[simp] theorem State.modLink_cal (s : State) (n : Nat) (f : Link → Link) : (s.modLink n f).cal = s.cal := rfl
@[simp] theorem State.modLink_eng (s : State) (n : Nat) (f : Link → Link) : (s.modLink n f).eng = s.eng := rfl
@[simp] theorem State.modLink_ct (s : State) (n : Nat) (f : Link → Link) : (s.modLink n f).ct = s.ct := rfl
@[simp] theorem State.modLink_exg (s : State) (n : Nat) (f : Link → Link) : (s.modLink n f).exg = s.exg := rfl
@[simp] theorem State.modLink_shq (s : State) (n : Nat) (f : Link → Link) : (s.modLink n f).shq = s.shq := rfl
@[simp] theorem State.modLink_mtr (s : State) (n : Nat) (f : Link → Link) : (s.modLink n f).mtr = s.mtr := rfl
@[simp] theorem State.modLink_guard (s : State) (n : Nat) (f : Link → Link) : (s.modLink n f).guard = s.guard := rfl
@[simp] theorem State.modLink_rgClosed (s : State) (n : Nat) (f : Link → Link) : (s.modLink n f).rgClosed = s.rgClosed := rfl
@[simp] theorem State.modLink_lim (s : State) (n : Nat) (f : Link → Link) : (s.modLink n f).lim = s.lim := rfl
@[simp] theorem State.modLink_safe (s : State) (n : Nat) (f : Link → Link) : (s.modLink n f).safe = s.safe := rfl
@[simp] theorem State.modLink_evr (s : State) (n : Nat) (f : Link → Link) : (s.modLink n f).evr = s.evr := rfl
@[simp] theorem State.modLink_mem (s : State) (n : Nat) (f : Link → Link) : (s.modLink n f).mem = s.mem := rfl
@[simp] theorem State.modLink_ecc (s : State) (n : Nat) (f : Link → Link) : (s.modLink n f).ecc = s.ecc := rfl
@[simp] theorem State.modLink_spl (s : State) (n : Nat) (f : Link → Link) : (s.modLink n f).spl = s.spl := rfl
@[simp] theorem State.modLink_cpy (s : State) (n : Nat) (f : Link → Link) : (s.modLink n f).cpy = s.cpy := rfl
@[simp] theorem State.modLink_host (s : State) (n : Nat) (f : Link → Link) : (s.modLink n f).host = s.host := rfl
@[simp] theorem State.modLink_keep (s : State) (n : Nat) (f : Link → Link) : (s.modLink n f).keep = s.keep := rfl
@[simp] theorem State.modLink_flash (s : State) (n : Nat) (f : Link → Link) : (s.modLink n f).flash = s.flash := rfl
@[simp] theorem State.modLink_boot (s : State) (n : Nat) (f : Link → Link) : (s.modLink n f).boot = s.boot := rfl
@[simp] theorem State.modLink_cas (s : State) (n : Nat) (f : Link → Link) : (s.modLink n f).cas = s.cas := rfl
@[simp] theorem State.modLink_slt (s : State) (n : Nat) (f : Link → Link) : (s.modLink n f).slt = s.slt := rfl
@[simp] theorem State.modLink_sram (s : State) (n : Nat) (f : Link → Link) : (s.modLink n f).sram = s.sram := rfl
@[simp] theorem State.modLink_order (s : State) (n : Nat) (f : Link → Link) : (s.modLink n f).order = s.order := rfl
@[simp] theorem State.modLink_ownerKey (s : State) (n : Nat) (f : Link → Link) : (s.modLink n f).ownerKey = s.ownerKey := rfl
@[simp] theorem State.modLink_free (s : State) (n : Nat) (f : Link → Link) : (s.modLink n f).free = s.free := rfl
@[simp] theorem State.modLink_pending (s : State) (n : Nat) (f : Link → Link) : (s.modLink n f).pending = s.pending := rfl

@[simp] theorem State.modExg_tb (s : State) (n : Nat) (f : Exg → Exg) : (s.modExg n f).tb = s.tb := rfl
@[simp] theorem State.modExg_tbRun (s : State) (n : Nat) (f : Exg → Exg) : (s.modExg n f).tbRun = s.tbRun := rfl
@[simp] theorem State.modExg_seen (s : State) (n : Nat) (f : Exg → Exg) : (s.modExg n f).seen = s.seen := rfl
@[simp] theorem State.modExg_otp (s : State) (n : Nat) (f : Exg → Exg) : (s.modExg n f).otp = s.otp := rfl
@[simp] theorem State.modExg_regs (s : State) (n : Nat) (f : Exg → Exg) : (s.modExg n f).regs = s.regs := rfl
@[simp] theorem State.modExg_shadows (s : State) (n : Nat) (f : Exg → Exg) : (s.modExg n f).shadows = s.shadows := rfl
@[simp] theorem State.modExg_staged (s : State) (n : Nat) (f : Exg → Exg) : (s.modExg n f).staged = s.staged := rfl
@[simp] theorem State.modExg_fresh (s : State) (n : Nat) (f : Exg → Exg) : (s.modExg n f).fresh = s.fresh := rfl
@[simp] theorem State.modExg_due (s : State) (n : Nat) (f : Exg → Exg) : (s.modExg n f).due = s.due := rfl
@[simp] theorem State.modExg_answer (s : State) (n : Nat) (f : Exg → Exg) : (s.modExg n f).answer = s.answer := rfl
@[simp] theorem State.modExg_fabric (s : State) (n : Nat) (f : Exg → Exg) : (s.modExg n f).fabric = s.fabric := rfl
@[simp] theorem State.modExg_sheet (s : State) (n : Nat) (f : Exg → Exg) : (s.modExg n f).sheet = s.sheet := rfl
@[simp] theorem State.modExg_fix (s : State) (n : Nat) (f : Exg → Exg) : (s.modExg n f).fix = s.fix := rfl
@[simp] theorem State.modExg_spk (s : State) (n : Nat) (f : Exg → Exg) : (s.modExg n f).spk = s.spk := rfl
@[simp] theorem State.modExg_ch (s : State) (n : Nat) (f : Exg → Exg) : (s.modExg n f).ch = s.ch := rfl
@[simp] theorem State.modExg_capIn (s : State) (n : Nat) (f : Exg → Exg) : (s.modExg n f).capIn = s.capIn := rfl
@[simp] theorem State.modExg_vcalOff (s : State) (n : Nat) (f : Exg → Exg) : (s.modExg n f).vcalOff = s.vcalOff := rfl
@[simp] theorem State.modExg_pin (s : State) (n : Nat) (f : Exg → Exg) : (s.modExg n f).pin = s.pin := rfl
@[simp] theorem State.modExg_vdet (s : State) (n : Nat) (f : Exg → Exg) : (s.modExg n f).vdet = s.vdet := rfl
@[simp] theorem State.modExg_trgEnd (s : State) (n : Nat) (f : Exg → Exg) : (s.modExg n f).trgEnd = s.trgEnd := rfl
@[simp] theorem State.modExg_trip (s : State) (n : Nat) (f : Exg → Exg) : (s.modExg n f).trip = s.trip := rfl
@[simp] theorem State.modExg_cal (s : State) (n : Nat) (f : Exg → Exg) : (s.modExg n f).cal = s.cal := rfl
@[simp] theorem State.modExg_eng (s : State) (n : Nat) (f : Exg → Exg) : (s.modExg n f).eng = s.eng := rfl
@[simp] theorem State.modExg_ct (s : State) (n : Nat) (f : Exg → Exg) : (s.modExg n f).ct = s.ct := rfl
@[simp] theorem State.modExg_link (s : State) (n : Nat) (f : Exg → Exg) : (s.modExg n f).link = s.link := rfl
@[simp] theorem State.modExg_shq (s : State) (n : Nat) (f : Exg → Exg) : (s.modExg n f).shq = s.shq := rfl
@[simp] theorem State.modExg_mtr (s : State) (n : Nat) (f : Exg → Exg) : (s.modExg n f).mtr = s.mtr := rfl
@[simp] theorem State.modExg_guard (s : State) (n : Nat) (f : Exg → Exg) : (s.modExg n f).guard = s.guard := rfl
@[simp] theorem State.modExg_rgClosed (s : State) (n : Nat) (f : Exg → Exg) : (s.modExg n f).rgClosed = s.rgClosed := rfl
@[simp] theorem State.modExg_lim (s : State) (n : Nat) (f : Exg → Exg) : (s.modExg n f).lim = s.lim := rfl
@[simp] theorem State.modExg_safe (s : State) (n : Nat) (f : Exg → Exg) : (s.modExg n f).safe = s.safe := rfl
@[simp] theorem State.modExg_evr (s : State) (n : Nat) (f : Exg → Exg) : (s.modExg n f).evr = s.evr := rfl
@[simp] theorem State.modExg_mem (s : State) (n : Nat) (f : Exg → Exg) : (s.modExg n f).mem = s.mem := rfl
@[simp] theorem State.modExg_ecc (s : State) (n : Nat) (f : Exg → Exg) : (s.modExg n f).ecc = s.ecc := rfl
@[simp] theorem State.modExg_spl (s : State) (n : Nat) (f : Exg → Exg) : (s.modExg n f).spl = s.spl := rfl
@[simp] theorem State.modExg_cpy (s : State) (n : Nat) (f : Exg → Exg) : (s.modExg n f).cpy = s.cpy := rfl
@[simp] theorem State.modExg_host (s : State) (n : Nat) (f : Exg → Exg) : (s.modExg n f).host = s.host := rfl
@[simp] theorem State.modExg_keep (s : State) (n : Nat) (f : Exg → Exg) : (s.modExg n f).keep = s.keep := rfl
@[simp] theorem State.modExg_flash (s : State) (n : Nat) (f : Exg → Exg) : (s.modExg n f).flash = s.flash := rfl
@[simp] theorem State.modExg_boot (s : State) (n : Nat) (f : Exg → Exg) : (s.modExg n f).boot = s.boot := rfl
@[simp] theorem State.modExg_cas (s : State) (n : Nat) (f : Exg → Exg) : (s.modExg n f).cas = s.cas := rfl
@[simp] theorem State.modExg_slt (s : State) (n : Nat) (f : Exg → Exg) : (s.modExg n f).slt = s.slt := rfl
@[simp] theorem State.modExg_sram (s : State) (n : Nat) (f : Exg → Exg) : (s.modExg n f).sram = s.sram := rfl
@[simp] theorem State.modExg_order (s : State) (n : Nat) (f : Exg → Exg) : (s.modExg n f).order = s.order := rfl
@[simp] theorem State.modExg_ownerKey (s : State) (n : Nat) (f : Exg → Exg) : (s.modExg n f).ownerKey = s.ownerKey := rfl
@[simp] theorem State.modExg_free (s : State) (n : Nat) (f : Exg → Exg) : (s.modExg n f).free = s.free := rfl
@[simp] theorem State.modExg_pending (s : State) (n : Nat) (f : Exg → Exg) : (s.modExg n f).pending = s.pending := rfl

@[simp] theorem State.modShq_tb (s : State) (n : Nat) (f : Shq → Shq) : (s.modShq n f).tb = s.tb := rfl
@[simp] theorem State.modShq_tbRun (s : State) (n : Nat) (f : Shq → Shq) : (s.modShq n f).tbRun = s.tbRun := rfl
@[simp] theorem State.modShq_seen (s : State) (n : Nat) (f : Shq → Shq) : (s.modShq n f).seen = s.seen := rfl
@[simp] theorem State.modShq_otp (s : State) (n : Nat) (f : Shq → Shq) : (s.modShq n f).otp = s.otp := rfl
@[simp] theorem State.modShq_regs (s : State) (n : Nat) (f : Shq → Shq) : (s.modShq n f).regs = s.regs := rfl
@[simp] theorem State.modShq_shadows (s : State) (n : Nat) (f : Shq → Shq) : (s.modShq n f).shadows = s.shadows := rfl
@[simp] theorem State.modShq_staged (s : State) (n : Nat) (f : Shq → Shq) : (s.modShq n f).staged = s.staged := rfl
@[simp] theorem State.modShq_fresh (s : State) (n : Nat) (f : Shq → Shq) : (s.modShq n f).fresh = s.fresh := rfl
@[simp] theorem State.modShq_due (s : State) (n : Nat) (f : Shq → Shq) : (s.modShq n f).due = s.due := rfl
@[simp] theorem State.modShq_answer (s : State) (n : Nat) (f : Shq → Shq) : (s.modShq n f).answer = s.answer := rfl
@[simp] theorem State.modShq_fabric (s : State) (n : Nat) (f : Shq → Shq) : (s.modShq n f).fabric = s.fabric := rfl
@[simp] theorem State.modShq_sheet (s : State) (n : Nat) (f : Shq → Shq) : (s.modShq n f).sheet = s.sheet := rfl
@[simp] theorem State.modShq_fix (s : State) (n : Nat) (f : Shq → Shq) : (s.modShq n f).fix = s.fix := rfl
@[simp] theorem State.modShq_spk (s : State) (n : Nat) (f : Shq → Shq) : (s.modShq n f).spk = s.spk := rfl
@[simp] theorem State.modShq_ch (s : State) (n : Nat) (f : Shq → Shq) : (s.modShq n f).ch = s.ch := rfl
@[simp] theorem State.modShq_capIn (s : State) (n : Nat) (f : Shq → Shq) : (s.modShq n f).capIn = s.capIn := rfl
@[simp] theorem State.modShq_vcalOff (s : State) (n : Nat) (f : Shq → Shq) : (s.modShq n f).vcalOff = s.vcalOff := rfl
@[simp] theorem State.modShq_pin (s : State) (n : Nat) (f : Shq → Shq) : (s.modShq n f).pin = s.pin := rfl
@[simp] theorem State.modShq_vdet (s : State) (n : Nat) (f : Shq → Shq) : (s.modShq n f).vdet = s.vdet := rfl
@[simp] theorem State.modShq_trgEnd (s : State) (n : Nat) (f : Shq → Shq) : (s.modShq n f).trgEnd = s.trgEnd := rfl
@[simp] theorem State.modShq_trip (s : State) (n : Nat) (f : Shq → Shq) : (s.modShq n f).trip = s.trip := rfl
@[simp] theorem State.modShq_cal (s : State) (n : Nat) (f : Shq → Shq) : (s.modShq n f).cal = s.cal := rfl
@[simp] theorem State.modShq_eng (s : State) (n : Nat) (f : Shq → Shq) : (s.modShq n f).eng = s.eng := rfl
@[simp] theorem State.modShq_ct (s : State) (n : Nat) (f : Shq → Shq) : (s.modShq n f).ct = s.ct := rfl
@[simp] theorem State.modShq_link (s : State) (n : Nat) (f : Shq → Shq) : (s.modShq n f).link = s.link := rfl
@[simp] theorem State.modShq_exg (s : State) (n : Nat) (f : Shq → Shq) : (s.modShq n f).exg = s.exg := rfl
@[simp] theorem State.modShq_mtr (s : State) (n : Nat) (f : Shq → Shq) : (s.modShq n f).mtr = s.mtr := rfl
@[simp] theorem State.modShq_guard (s : State) (n : Nat) (f : Shq → Shq) : (s.modShq n f).guard = s.guard := rfl
@[simp] theorem State.modShq_rgClosed (s : State) (n : Nat) (f : Shq → Shq) : (s.modShq n f).rgClosed = s.rgClosed := rfl
@[simp] theorem State.modShq_lim (s : State) (n : Nat) (f : Shq → Shq) : (s.modShq n f).lim = s.lim := rfl
@[simp] theorem State.modShq_safe (s : State) (n : Nat) (f : Shq → Shq) : (s.modShq n f).safe = s.safe := rfl
@[simp] theorem State.modShq_evr (s : State) (n : Nat) (f : Shq → Shq) : (s.modShq n f).evr = s.evr := rfl
@[simp] theorem State.modShq_mem (s : State) (n : Nat) (f : Shq → Shq) : (s.modShq n f).mem = s.mem := rfl
@[simp] theorem State.modShq_ecc (s : State) (n : Nat) (f : Shq → Shq) : (s.modShq n f).ecc = s.ecc := rfl
@[simp] theorem State.modShq_spl (s : State) (n : Nat) (f : Shq → Shq) : (s.modShq n f).spl = s.spl := rfl
@[simp] theorem State.modShq_cpy (s : State) (n : Nat) (f : Shq → Shq) : (s.modShq n f).cpy = s.cpy := rfl
@[simp] theorem State.modShq_host (s : State) (n : Nat) (f : Shq → Shq) : (s.modShq n f).host = s.host := rfl
@[simp] theorem State.modShq_keep (s : State) (n : Nat) (f : Shq → Shq) : (s.modShq n f).keep = s.keep := rfl
@[simp] theorem State.modShq_flash (s : State) (n : Nat) (f : Shq → Shq) : (s.modShq n f).flash = s.flash := rfl
@[simp] theorem State.modShq_boot (s : State) (n : Nat) (f : Shq → Shq) : (s.modShq n f).boot = s.boot := rfl
@[simp] theorem State.modShq_cas (s : State) (n : Nat) (f : Shq → Shq) : (s.modShq n f).cas = s.cas := rfl
@[simp] theorem State.modShq_slt (s : State) (n : Nat) (f : Shq → Shq) : (s.modShq n f).slt = s.slt := rfl
@[simp] theorem State.modShq_sram (s : State) (n : Nat) (f : Shq → Shq) : (s.modShq n f).sram = s.sram := rfl
@[simp] theorem State.modShq_order (s : State) (n : Nat) (f : Shq → Shq) : (s.modShq n f).order = s.order := rfl
@[simp] theorem State.modShq_ownerKey (s : State) (n : Nat) (f : Shq → Shq) : (s.modShq n f).ownerKey = s.ownerKey := rfl
@[simp] theorem State.modShq_free (s : State) (n : Nat) (f : Shq → Shq) : (s.modShq n f).free = s.free := rfl
@[simp] theorem State.modShq_pending (s : State) (n : Nat) (f : Shq → Shq) : (s.modShq n f).pending = s.pending := rfl

@[simp] theorem State.modMtr_tb (s : State) (n : Nat) (f : Mtr → Mtr) : (s.modMtr n f).tb = s.tb := rfl
@[simp] theorem State.modMtr_tbRun (s : State) (n : Nat) (f : Mtr → Mtr) : (s.modMtr n f).tbRun = s.tbRun := rfl
@[simp] theorem State.modMtr_seen (s : State) (n : Nat) (f : Mtr → Mtr) : (s.modMtr n f).seen = s.seen := rfl
@[simp] theorem State.modMtr_otp (s : State) (n : Nat) (f : Mtr → Mtr) : (s.modMtr n f).otp = s.otp := rfl
@[simp] theorem State.modMtr_regs (s : State) (n : Nat) (f : Mtr → Mtr) : (s.modMtr n f).regs = s.regs := rfl
@[simp] theorem State.modMtr_shadows (s : State) (n : Nat) (f : Mtr → Mtr) : (s.modMtr n f).shadows = s.shadows := rfl
@[simp] theorem State.modMtr_staged (s : State) (n : Nat) (f : Mtr → Mtr) : (s.modMtr n f).staged = s.staged := rfl
@[simp] theorem State.modMtr_fresh (s : State) (n : Nat) (f : Mtr → Mtr) : (s.modMtr n f).fresh = s.fresh := rfl
@[simp] theorem State.modMtr_due (s : State) (n : Nat) (f : Mtr → Mtr) : (s.modMtr n f).due = s.due := rfl
@[simp] theorem State.modMtr_answer (s : State) (n : Nat) (f : Mtr → Mtr) : (s.modMtr n f).answer = s.answer := rfl
@[simp] theorem State.modMtr_fabric (s : State) (n : Nat) (f : Mtr → Mtr) : (s.modMtr n f).fabric = s.fabric := rfl
@[simp] theorem State.modMtr_sheet (s : State) (n : Nat) (f : Mtr → Mtr) : (s.modMtr n f).sheet = s.sheet := rfl
@[simp] theorem State.modMtr_fix (s : State) (n : Nat) (f : Mtr → Mtr) : (s.modMtr n f).fix = s.fix := rfl
@[simp] theorem State.modMtr_spk (s : State) (n : Nat) (f : Mtr → Mtr) : (s.modMtr n f).spk = s.spk := rfl
@[simp] theorem State.modMtr_ch (s : State) (n : Nat) (f : Mtr → Mtr) : (s.modMtr n f).ch = s.ch := rfl
@[simp] theorem State.modMtr_capIn (s : State) (n : Nat) (f : Mtr → Mtr) : (s.modMtr n f).capIn = s.capIn := rfl
@[simp] theorem State.modMtr_vcalOff (s : State) (n : Nat) (f : Mtr → Mtr) : (s.modMtr n f).vcalOff = s.vcalOff := rfl
@[simp] theorem State.modMtr_pin (s : State) (n : Nat) (f : Mtr → Mtr) : (s.modMtr n f).pin = s.pin := rfl
@[simp] theorem State.modMtr_vdet (s : State) (n : Nat) (f : Mtr → Mtr) : (s.modMtr n f).vdet = s.vdet := rfl
@[simp] theorem State.modMtr_trgEnd (s : State) (n : Nat) (f : Mtr → Mtr) : (s.modMtr n f).trgEnd = s.trgEnd := rfl
@[simp] theorem State.modMtr_trip (s : State) (n : Nat) (f : Mtr → Mtr) : (s.modMtr n f).trip = s.trip := rfl
@[simp] theorem State.modMtr_cal (s : State) (n : Nat) (f : Mtr → Mtr) : (s.modMtr n f).cal = s.cal := rfl
@[simp] theorem State.modMtr_eng (s : State) (n : Nat) (f : Mtr → Mtr) : (s.modMtr n f).eng = s.eng := rfl
@[simp] theorem State.modMtr_ct (s : State) (n : Nat) (f : Mtr → Mtr) : (s.modMtr n f).ct = s.ct := rfl
@[simp] theorem State.modMtr_link (s : State) (n : Nat) (f : Mtr → Mtr) : (s.modMtr n f).link = s.link := rfl
@[simp] theorem State.modMtr_exg (s : State) (n : Nat) (f : Mtr → Mtr) : (s.modMtr n f).exg = s.exg := rfl
@[simp] theorem State.modMtr_shq (s : State) (n : Nat) (f : Mtr → Mtr) : (s.modMtr n f).shq = s.shq := rfl
@[simp] theorem State.modMtr_guard (s : State) (n : Nat) (f : Mtr → Mtr) : (s.modMtr n f).guard = s.guard := rfl
@[simp] theorem State.modMtr_rgClosed (s : State) (n : Nat) (f : Mtr → Mtr) : (s.modMtr n f).rgClosed = s.rgClosed := rfl
@[simp] theorem State.modMtr_lim (s : State) (n : Nat) (f : Mtr → Mtr) : (s.modMtr n f).lim = s.lim := rfl
@[simp] theorem State.modMtr_safe (s : State) (n : Nat) (f : Mtr → Mtr) : (s.modMtr n f).safe = s.safe := rfl
@[simp] theorem State.modMtr_evr (s : State) (n : Nat) (f : Mtr → Mtr) : (s.modMtr n f).evr = s.evr := rfl
@[simp] theorem State.modMtr_mem (s : State) (n : Nat) (f : Mtr → Mtr) : (s.modMtr n f).mem = s.mem := rfl
@[simp] theorem State.modMtr_ecc (s : State) (n : Nat) (f : Mtr → Mtr) : (s.modMtr n f).ecc = s.ecc := rfl
@[simp] theorem State.modMtr_spl (s : State) (n : Nat) (f : Mtr → Mtr) : (s.modMtr n f).spl = s.spl := rfl
@[simp] theorem State.modMtr_cpy (s : State) (n : Nat) (f : Mtr → Mtr) : (s.modMtr n f).cpy = s.cpy := rfl
@[simp] theorem State.modMtr_host (s : State) (n : Nat) (f : Mtr → Mtr) : (s.modMtr n f).host = s.host := rfl
@[simp] theorem State.modMtr_keep (s : State) (n : Nat) (f : Mtr → Mtr) : (s.modMtr n f).keep = s.keep := rfl
@[simp] theorem State.modMtr_flash (s : State) (n : Nat) (f : Mtr → Mtr) : (s.modMtr n f).flash = s.flash := rfl
@[simp] theorem State.modMtr_boot (s : State) (n : Nat) (f : Mtr → Mtr) : (s.modMtr n f).boot = s.boot := rfl
@[simp] theorem State.modMtr_cas (s : State) (n : Nat) (f : Mtr → Mtr) : (s.modMtr n f).cas = s.cas := rfl
@[simp] theorem State.modMtr_slt (s : State) (n : Nat) (f : Mtr → Mtr) : (s.modMtr n f).slt = s.slt := rfl
@[simp] theorem State.modMtr_sram (s : State) (n : Nat) (f : Mtr → Mtr) : (s.modMtr n f).sram = s.sram := rfl
@[simp] theorem State.modMtr_order (s : State) (n : Nat) (f : Mtr → Mtr) : (s.modMtr n f).order = s.order := rfl
@[simp] theorem State.modMtr_ownerKey (s : State) (n : Nat) (f : Mtr → Mtr) : (s.modMtr n f).ownerKey = s.ownerKey := rfl
@[simp] theorem State.modMtr_free (s : State) (n : Nat) (f : Mtr → Mtr) : (s.modMtr n f).free = s.free := rfl
@[simp] theorem State.modMtr_pending (s : State) (n : Nat) (f : Mtr → Mtr) : (s.modMtr n f).pending = s.pending := rfl

@[simp] theorem State.modLim_tb (s : State) (n : Nat) (f : Lim → Lim) : (s.modLim n f).tb = s.tb := rfl
@[simp] theorem State.modLim_tbRun (s : State) (n : Nat) (f : Lim → Lim) : (s.modLim n f).tbRun = s.tbRun := rfl
@[simp] theorem State.modLim_seen (s : State) (n : Nat) (f : Lim → Lim) : (s.modLim n f).seen = s.seen := rfl
@[simp] theorem State.modLim_otp (s : State) (n : Nat) (f : Lim → Lim) : (s.modLim n f).otp = s.otp := rfl
@[simp] theorem State.modLim_regs (s : State) (n : Nat) (f : Lim → Lim) : (s.modLim n f).regs = s.regs := rfl
@[simp] theorem State.modLim_shadows (s : State) (n : Nat) (f : Lim → Lim) : (s.modLim n f).shadows = s.shadows := rfl
@[simp] theorem State.modLim_staged (s : State) (n : Nat) (f : Lim → Lim) : (s.modLim n f).staged = s.staged := rfl
@[simp] theorem State.modLim_fresh (s : State) (n : Nat) (f : Lim → Lim) : (s.modLim n f).fresh = s.fresh := rfl
@[simp] theorem State.modLim_due (s : State) (n : Nat) (f : Lim → Lim) : (s.modLim n f).due = s.due := rfl
@[simp] theorem State.modLim_answer (s : State) (n : Nat) (f : Lim → Lim) : (s.modLim n f).answer = s.answer := rfl
@[simp] theorem State.modLim_fabric (s : State) (n : Nat) (f : Lim → Lim) : (s.modLim n f).fabric = s.fabric := rfl
@[simp] theorem State.modLim_sheet (s : State) (n : Nat) (f : Lim → Lim) : (s.modLim n f).sheet = s.sheet := rfl
@[simp] theorem State.modLim_fix (s : State) (n : Nat) (f : Lim → Lim) : (s.modLim n f).fix = s.fix := rfl
@[simp] theorem State.modLim_spk (s : State) (n : Nat) (f : Lim → Lim) : (s.modLim n f).spk = s.spk := rfl
@[simp] theorem State.modLim_ch (s : State) (n : Nat) (f : Lim → Lim) : (s.modLim n f).ch = s.ch := rfl
@[simp] theorem State.modLim_capIn (s : State) (n : Nat) (f : Lim → Lim) : (s.modLim n f).capIn = s.capIn := rfl
@[simp] theorem State.modLim_vcalOff (s : State) (n : Nat) (f : Lim → Lim) : (s.modLim n f).vcalOff = s.vcalOff := rfl
@[simp] theorem State.modLim_pin (s : State) (n : Nat) (f : Lim → Lim) : (s.modLim n f).pin = s.pin := rfl
@[simp] theorem State.modLim_vdet (s : State) (n : Nat) (f : Lim → Lim) : (s.modLim n f).vdet = s.vdet := rfl
@[simp] theorem State.modLim_trgEnd (s : State) (n : Nat) (f : Lim → Lim) : (s.modLim n f).trgEnd = s.trgEnd := rfl
@[simp] theorem State.modLim_trip (s : State) (n : Nat) (f : Lim → Lim) : (s.modLim n f).trip = s.trip := rfl
@[simp] theorem State.modLim_cal (s : State) (n : Nat) (f : Lim → Lim) : (s.modLim n f).cal = s.cal := rfl
@[simp] theorem State.modLim_eng (s : State) (n : Nat) (f : Lim → Lim) : (s.modLim n f).eng = s.eng := rfl
@[simp] theorem State.modLim_ct (s : State) (n : Nat) (f : Lim → Lim) : (s.modLim n f).ct = s.ct := rfl
@[simp] theorem State.modLim_link (s : State) (n : Nat) (f : Lim → Lim) : (s.modLim n f).link = s.link := rfl
@[simp] theorem State.modLim_exg (s : State) (n : Nat) (f : Lim → Lim) : (s.modLim n f).exg = s.exg := rfl
@[simp] theorem State.modLim_shq (s : State) (n : Nat) (f : Lim → Lim) : (s.modLim n f).shq = s.shq := rfl
@[simp] theorem State.modLim_mtr (s : State) (n : Nat) (f : Lim → Lim) : (s.modLim n f).mtr = s.mtr := rfl
@[simp] theorem State.modLim_guard (s : State) (n : Nat) (f : Lim → Lim) : (s.modLim n f).guard = s.guard := rfl
@[simp] theorem State.modLim_rgClosed (s : State) (n : Nat) (f : Lim → Lim) : (s.modLim n f).rgClosed = s.rgClosed := rfl
@[simp] theorem State.modLim_safe (s : State) (n : Nat) (f : Lim → Lim) : (s.modLim n f).safe = s.safe := rfl
@[simp] theorem State.modLim_evr (s : State) (n : Nat) (f : Lim → Lim) : (s.modLim n f).evr = s.evr := rfl
@[simp] theorem State.modLim_mem (s : State) (n : Nat) (f : Lim → Lim) : (s.modLim n f).mem = s.mem := rfl
@[simp] theorem State.modLim_ecc (s : State) (n : Nat) (f : Lim → Lim) : (s.modLim n f).ecc = s.ecc := rfl
@[simp] theorem State.modLim_spl (s : State) (n : Nat) (f : Lim → Lim) : (s.modLim n f).spl = s.spl := rfl
@[simp] theorem State.modLim_cpy (s : State) (n : Nat) (f : Lim → Lim) : (s.modLim n f).cpy = s.cpy := rfl
@[simp] theorem State.modLim_host (s : State) (n : Nat) (f : Lim → Lim) : (s.modLim n f).host = s.host := rfl
@[simp] theorem State.modLim_keep (s : State) (n : Nat) (f : Lim → Lim) : (s.modLim n f).keep = s.keep := rfl
@[simp] theorem State.modLim_flash (s : State) (n : Nat) (f : Lim → Lim) : (s.modLim n f).flash = s.flash := rfl
@[simp] theorem State.modLim_boot (s : State) (n : Nat) (f : Lim → Lim) : (s.modLim n f).boot = s.boot := rfl
@[simp] theorem State.modLim_cas (s : State) (n : Nat) (f : Lim → Lim) : (s.modLim n f).cas = s.cas := rfl
@[simp] theorem State.modLim_slt (s : State) (n : Nat) (f : Lim → Lim) : (s.modLim n f).slt = s.slt := rfl
@[simp] theorem State.modLim_sram (s : State) (n : Nat) (f : Lim → Lim) : (s.modLim n f).sram = s.sram := rfl
@[simp] theorem State.modLim_order (s : State) (n : Nat) (f : Lim → Lim) : (s.modLim n f).order = s.order := rfl
@[simp] theorem State.modLim_ownerKey (s : State) (n : Nat) (f : Lim → Lim) : (s.modLim n f).ownerKey = s.ownerKey := rfl
@[simp] theorem State.modLim_free (s : State) (n : Nat) (f : Lim → Lim) : (s.modLim n f).free = s.free := rfl
@[simp] theorem State.modLim_pending (s : State) (n : Nat) (f : Lim → Lim) : (s.modLim n f).pending = s.pending := rfl

@[simp] theorem State.modSpl_tb (s : State) (n : Nat) (f : Spl → Spl) : (s.modSpl n f).tb = s.tb := rfl
@[simp] theorem State.modSpl_tbRun (s : State) (n : Nat) (f : Spl → Spl) : (s.modSpl n f).tbRun = s.tbRun := rfl
@[simp] theorem State.modSpl_seen (s : State) (n : Nat) (f : Spl → Spl) : (s.modSpl n f).seen = s.seen := rfl
@[simp] theorem State.modSpl_otp (s : State) (n : Nat) (f : Spl → Spl) : (s.modSpl n f).otp = s.otp := rfl
@[simp] theorem State.modSpl_regs (s : State) (n : Nat) (f : Spl → Spl) : (s.modSpl n f).regs = s.regs := rfl
@[simp] theorem State.modSpl_shadows (s : State) (n : Nat) (f : Spl → Spl) : (s.modSpl n f).shadows = s.shadows := rfl
@[simp] theorem State.modSpl_staged (s : State) (n : Nat) (f : Spl → Spl) : (s.modSpl n f).staged = s.staged := rfl
@[simp] theorem State.modSpl_fresh (s : State) (n : Nat) (f : Spl → Spl) : (s.modSpl n f).fresh = s.fresh := rfl
@[simp] theorem State.modSpl_due (s : State) (n : Nat) (f : Spl → Spl) : (s.modSpl n f).due = s.due := rfl
@[simp] theorem State.modSpl_answer (s : State) (n : Nat) (f : Spl → Spl) : (s.modSpl n f).answer = s.answer := rfl
@[simp] theorem State.modSpl_fabric (s : State) (n : Nat) (f : Spl → Spl) : (s.modSpl n f).fabric = s.fabric := rfl
@[simp] theorem State.modSpl_sheet (s : State) (n : Nat) (f : Spl → Spl) : (s.modSpl n f).sheet = s.sheet := rfl
@[simp] theorem State.modSpl_fix (s : State) (n : Nat) (f : Spl → Spl) : (s.modSpl n f).fix = s.fix := rfl
@[simp] theorem State.modSpl_spk (s : State) (n : Nat) (f : Spl → Spl) : (s.modSpl n f).spk = s.spk := rfl
@[simp] theorem State.modSpl_ch (s : State) (n : Nat) (f : Spl → Spl) : (s.modSpl n f).ch = s.ch := rfl
@[simp] theorem State.modSpl_capIn (s : State) (n : Nat) (f : Spl → Spl) : (s.modSpl n f).capIn = s.capIn := rfl
@[simp] theorem State.modSpl_vcalOff (s : State) (n : Nat) (f : Spl → Spl) : (s.modSpl n f).vcalOff = s.vcalOff := rfl
@[simp] theorem State.modSpl_pin (s : State) (n : Nat) (f : Spl → Spl) : (s.modSpl n f).pin = s.pin := rfl
@[simp] theorem State.modSpl_vdet (s : State) (n : Nat) (f : Spl → Spl) : (s.modSpl n f).vdet = s.vdet := rfl
@[simp] theorem State.modSpl_trgEnd (s : State) (n : Nat) (f : Spl → Spl) : (s.modSpl n f).trgEnd = s.trgEnd := rfl
@[simp] theorem State.modSpl_trip (s : State) (n : Nat) (f : Spl → Spl) : (s.modSpl n f).trip = s.trip := rfl
@[simp] theorem State.modSpl_cal (s : State) (n : Nat) (f : Spl → Spl) : (s.modSpl n f).cal = s.cal := rfl
@[simp] theorem State.modSpl_eng (s : State) (n : Nat) (f : Spl → Spl) : (s.modSpl n f).eng = s.eng := rfl
@[simp] theorem State.modSpl_ct (s : State) (n : Nat) (f : Spl → Spl) : (s.modSpl n f).ct = s.ct := rfl
@[simp] theorem State.modSpl_link (s : State) (n : Nat) (f : Spl → Spl) : (s.modSpl n f).link = s.link := rfl
@[simp] theorem State.modSpl_exg (s : State) (n : Nat) (f : Spl → Spl) : (s.modSpl n f).exg = s.exg := rfl
@[simp] theorem State.modSpl_shq (s : State) (n : Nat) (f : Spl → Spl) : (s.modSpl n f).shq = s.shq := rfl
@[simp] theorem State.modSpl_mtr (s : State) (n : Nat) (f : Spl → Spl) : (s.modSpl n f).mtr = s.mtr := rfl
@[simp] theorem State.modSpl_guard (s : State) (n : Nat) (f : Spl → Spl) : (s.modSpl n f).guard = s.guard := rfl
@[simp] theorem State.modSpl_rgClosed (s : State) (n : Nat) (f : Spl → Spl) : (s.modSpl n f).rgClosed = s.rgClosed := rfl
@[simp] theorem State.modSpl_lim (s : State) (n : Nat) (f : Spl → Spl) : (s.modSpl n f).lim = s.lim := rfl
@[simp] theorem State.modSpl_safe (s : State) (n : Nat) (f : Spl → Spl) : (s.modSpl n f).safe = s.safe := rfl
@[simp] theorem State.modSpl_evr (s : State) (n : Nat) (f : Spl → Spl) : (s.modSpl n f).evr = s.evr := rfl
@[simp] theorem State.modSpl_mem (s : State) (n : Nat) (f : Spl → Spl) : (s.modSpl n f).mem = s.mem := rfl
@[simp] theorem State.modSpl_ecc (s : State) (n : Nat) (f : Spl → Spl) : (s.modSpl n f).ecc = s.ecc := rfl
@[simp] theorem State.modSpl_cpy (s : State) (n : Nat) (f : Spl → Spl) : (s.modSpl n f).cpy = s.cpy := rfl
@[simp] theorem State.modSpl_host (s : State) (n : Nat) (f : Spl → Spl) : (s.modSpl n f).host = s.host := rfl
@[simp] theorem State.modSpl_keep (s : State) (n : Nat) (f : Spl → Spl) : (s.modSpl n f).keep = s.keep := rfl
@[simp] theorem State.modSpl_flash (s : State) (n : Nat) (f : Spl → Spl) : (s.modSpl n f).flash = s.flash := rfl
@[simp] theorem State.modSpl_boot (s : State) (n : Nat) (f : Spl → Spl) : (s.modSpl n f).boot = s.boot := rfl
@[simp] theorem State.modSpl_cas (s : State) (n : Nat) (f : Spl → Spl) : (s.modSpl n f).cas = s.cas := rfl
@[simp] theorem State.modSpl_slt (s : State) (n : Nat) (f : Spl → Spl) : (s.modSpl n f).slt = s.slt := rfl
@[simp] theorem State.modSpl_sram (s : State) (n : Nat) (f : Spl → Spl) : (s.modSpl n f).sram = s.sram := rfl
@[simp] theorem State.modSpl_order (s : State) (n : Nat) (f : Spl → Spl) : (s.modSpl n f).order = s.order := rfl
@[simp] theorem State.modSpl_ownerKey (s : State) (n : Nat) (f : Spl → Spl) : (s.modSpl n f).ownerKey = s.ownerKey := rfl
@[simp] theorem State.modSpl_free (s : State) (n : Nat) (f : Spl → Spl) : (s.modSpl n f).free = s.free := rfl
@[simp] theorem State.modSpl_pending (s : State) (n : Nat) (f : Spl → Spl) : (s.modSpl n f).pending = s.pending := rfl

@[simp] theorem State.modCpy_tb (s : State) (n : Nat) (f : Cpy → Cpy) : (s.modCpy n f).tb = s.tb := rfl
@[simp] theorem State.modCpy_tbRun (s : State) (n : Nat) (f : Cpy → Cpy) : (s.modCpy n f).tbRun = s.tbRun := rfl
@[simp] theorem State.modCpy_seen (s : State) (n : Nat) (f : Cpy → Cpy) : (s.modCpy n f).seen = s.seen := rfl
@[simp] theorem State.modCpy_otp (s : State) (n : Nat) (f : Cpy → Cpy) : (s.modCpy n f).otp = s.otp := rfl
@[simp] theorem State.modCpy_regs (s : State) (n : Nat) (f : Cpy → Cpy) : (s.modCpy n f).regs = s.regs := rfl
@[simp] theorem State.modCpy_shadows (s : State) (n : Nat) (f : Cpy → Cpy) : (s.modCpy n f).shadows = s.shadows := rfl
@[simp] theorem State.modCpy_staged (s : State) (n : Nat) (f : Cpy → Cpy) : (s.modCpy n f).staged = s.staged := rfl
@[simp] theorem State.modCpy_fresh (s : State) (n : Nat) (f : Cpy → Cpy) : (s.modCpy n f).fresh = s.fresh := rfl
@[simp] theorem State.modCpy_due (s : State) (n : Nat) (f : Cpy → Cpy) : (s.modCpy n f).due = s.due := rfl
@[simp] theorem State.modCpy_answer (s : State) (n : Nat) (f : Cpy → Cpy) : (s.modCpy n f).answer = s.answer := rfl
@[simp] theorem State.modCpy_fabric (s : State) (n : Nat) (f : Cpy → Cpy) : (s.modCpy n f).fabric = s.fabric := rfl
@[simp] theorem State.modCpy_sheet (s : State) (n : Nat) (f : Cpy → Cpy) : (s.modCpy n f).sheet = s.sheet := rfl
@[simp] theorem State.modCpy_fix (s : State) (n : Nat) (f : Cpy → Cpy) : (s.modCpy n f).fix = s.fix := rfl
@[simp] theorem State.modCpy_spk (s : State) (n : Nat) (f : Cpy → Cpy) : (s.modCpy n f).spk = s.spk := rfl
@[simp] theorem State.modCpy_ch (s : State) (n : Nat) (f : Cpy → Cpy) : (s.modCpy n f).ch = s.ch := rfl
@[simp] theorem State.modCpy_capIn (s : State) (n : Nat) (f : Cpy → Cpy) : (s.modCpy n f).capIn = s.capIn := rfl
@[simp] theorem State.modCpy_vcalOff (s : State) (n : Nat) (f : Cpy → Cpy) : (s.modCpy n f).vcalOff = s.vcalOff := rfl
@[simp] theorem State.modCpy_pin (s : State) (n : Nat) (f : Cpy → Cpy) : (s.modCpy n f).pin = s.pin := rfl
@[simp] theorem State.modCpy_vdet (s : State) (n : Nat) (f : Cpy → Cpy) : (s.modCpy n f).vdet = s.vdet := rfl
@[simp] theorem State.modCpy_trgEnd (s : State) (n : Nat) (f : Cpy → Cpy) : (s.modCpy n f).trgEnd = s.trgEnd := rfl
@[simp] theorem State.modCpy_trip (s : State) (n : Nat) (f : Cpy → Cpy) : (s.modCpy n f).trip = s.trip := rfl
@[simp] theorem State.modCpy_cal (s : State) (n : Nat) (f : Cpy → Cpy) : (s.modCpy n f).cal = s.cal := rfl
@[simp] theorem State.modCpy_eng (s : State) (n : Nat) (f : Cpy → Cpy) : (s.modCpy n f).eng = s.eng := rfl
@[simp] theorem State.modCpy_ct (s : State) (n : Nat) (f : Cpy → Cpy) : (s.modCpy n f).ct = s.ct := rfl
@[simp] theorem State.modCpy_link (s : State) (n : Nat) (f : Cpy → Cpy) : (s.modCpy n f).link = s.link := rfl
@[simp] theorem State.modCpy_exg (s : State) (n : Nat) (f : Cpy → Cpy) : (s.modCpy n f).exg = s.exg := rfl
@[simp] theorem State.modCpy_shq (s : State) (n : Nat) (f : Cpy → Cpy) : (s.modCpy n f).shq = s.shq := rfl
@[simp] theorem State.modCpy_mtr (s : State) (n : Nat) (f : Cpy → Cpy) : (s.modCpy n f).mtr = s.mtr := rfl
@[simp] theorem State.modCpy_guard (s : State) (n : Nat) (f : Cpy → Cpy) : (s.modCpy n f).guard = s.guard := rfl
@[simp] theorem State.modCpy_rgClosed (s : State) (n : Nat) (f : Cpy → Cpy) : (s.modCpy n f).rgClosed = s.rgClosed := rfl
@[simp] theorem State.modCpy_lim (s : State) (n : Nat) (f : Cpy → Cpy) : (s.modCpy n f).lim = s.lim := rfl
@[simp] theorem State.modCpy_safe (s : State) (n : Nat) (f : Cpy → Cpy) : (s.modCpy n f).safe = s.safe := rfl
@[simp] theorem State.modCpy_evr (s : State) (n : Nat) (f : Cpy → Cpy) : (s.modCpy n f).evr = s.evr := rfl
@[simp] theorem State.modCpy_mem (s : State) (n : Nat) (f : Cpy → Cpy) : (s.modCpy n f).mem = s.mem := rfl
@[simp] theorem State.modCpy_ecc (s : State) (n : Nat) (f : Cpy → Cpy) : (s.modCpy n f).ecc = s.ecc := rfl
@[simp] theorem State.modCpy_spl (s : State) (n : Nat) (f : Cpy → Cpy) : (s.modCpy n f).spl = s.spl := rfl
@[simp] theorem State.modCpy_host (s : State) (n : Nat) (f : Cpy → Cpy) : (s.modCpy n f).host = s.host := rfl
@[simp] theorem State.modCpy_keep (s : State) (n : Nat) (f : Cpy → Cpy) : (s.modCpy n f).keep = s.keep := rfl
@[simp] theorem State.modCpy_flash (s : State) (n : Nat) (f : Cpy → Cpy) : (s.modCpy n f).flash = s.flash := rfl
@[simp] theorem State.modCpy_boot (s : State) (n : Nat) (f : Cpy → Cpy) : (s.modCpy n f).boot = s.boot := rfl
@[simp] theorem State.modCpy_cas (s : State) (n : Nat) (f : Cpy → Cpy) : (s.modCpy n f).cas = s.cas := rfl
@[simp] theorem State.modCpy_slt (s : State) (n : Nat) (f : Cpy → Cpy) : (s.modCpy n f).slt = s.slt := rfl
@[simp] theorem State.modCpy_sram (s : State) (n : Nat) (f : Cpy → Cpy) : (s.modCpy n f).sram = s.sram := rfl
@[simp] theorem State.modCpy_order (s : State) (n : Nat) (f : Cpy → Cpy) : (s.modCpy n f).order = s.order := rfl
@[simp] theorem State.modCpy_ownerKey (s : State) (n : Nat) (f : Cpy → Cpy) : (s.modCpy n f).ownerKey = s.ownerKey := rfl
@[simp] theorem State.modCpy_free (s : State) (n : Nat) (f : Cpy → Cpy) : (s.modCpy n f).free = s.free := rfl
@[simp] theorem State.modCpy_pending (s : State) (n : Nat) (f : Cpy → Cpy) : (s.modCpy n f).pending = s.pending := rfl

@[simp] theorem State.modFix_tb (s : State) (n : Nat) (f : FixCh → FixCh) : (s.modFix n f).tb = s.tb := rfl
@[simp] theorem State.modFix_tbRun (s : State) (n : Nat) (f : FixCh → FixCh) : (s.modFix n f).tbRun = s.tbRun := rfl
@[simp] theorem State.modFix_seen (s : State) (n : Nat) (f : FixCh → FixCh) : (s.modFix n f).seen = s.seen := rfl
@[simp] theorem State.modFix_otp (s : State) (n : Nat) (f : FixCh → FixCh) : (s.modFix n f).otp = s.otp := rfl
@[simp] theorem State.modFix_regs (s : State) (n : Nat) (f : FixCh → FixCh) : (s.modFix n f).regs = s.regs := rfl
@[simp] theorem State.modFix_shadows (s : State) (n : Nat) (f : FixCh → FixCh) : (s.modFix n f).shadows = s.shadows := rfl
@[simp] theorem State.modFix_staged (s : State) (n : Nat) (f : FixCh → FixCh) : (s.modFix n f).staged = s.staged := rfl
@[simp] theorem State.modFix_fresh (s : State) (n : Nat) (f : FixCh → FixCh) : (s.modFix n f).fresh = s.fresh := rfl
@[simp] theorem State.modFix_due (s : State) (n : Nat) (f : FixCh → FixCh) : (s.modFix n f).due = s.due := rfl
@[simp] theorem State.modFix_answer (s : State) (n : Nat) (f : FixCh → FixCh) : (s.modFix n f).answer = s.answer := rfl
@[simp] theorem State.modFix_fabric (s : State) (n : Nat) (f : FixCh → FixCh) : (s.modFix n f).fabric = s.fabric := rfl
@[simp] theorem State.modFix_sheet (s : State) (n : Nat) (f : FixCh → FixCh) : (s.modFix n f).sheet = s.sheet := rfl
@[simp] theorem State.modFix_spk (s : State) (n : Nat) (f : FixCh → FixCh) : (s.modFix n f).spk = s.spk := rfl
@[simp] theorem State.modFix_ch (s : State) (n : Nat) (f : FixCh → FixCh) : (s.modFix n f).ch = s.ch := rfl
@[simp] theorem State.modFix_capIn (s : State) (n : Nat) (f : FixCh → FixCh) : (s.modFix n f).capIn = s.capIn := rfl
@[simp] theorem State.modFix_vcalOff (s : State) (n : Nat) (f : FixCh → FixCh) : (s.modFix n f).vcalOff = s.vcalOff := rfl
@[simp] theorem State.modFix_pin (s : State) (n : Nat) (f : FixCh → FixCh) : (s.modFix n f).pin = s.pin := rfl
@[simp] theorem State.modFix_vdet (s : State) (n : Nat) (f : FixCh → FixCh) : (s.modFix n f).vdet = s.vdet := rfl
@[simp] theorem State.modFix_trgEnd (s : State) (n : Nat) (f : FixCh → FixCh) : (s.modFix n f).trgEnd = s.trgEnd := rfl
@[simp] theorem State.modFix_trip (s : State) (n : Nat) (f : FixCh → FixCh) : (s.modFix n f).trip = s.trip := rfl
@[simp] theorem State.modFix_cal (s : State) (n : Nat) (f : FixCh → FixCh) : (s.modFix n f).cal = s.cal := rfl
@[simp] theorem State.modFix_eng (s : State) (n : Nat) (f : FixCh → FixCh) : (s.modFix n f).eng = s.eng := rfl
@[simp] theorem State.modFix_ct (s : State) (n : Nat) (f : FixCh → FixCh) : (s.modFix n f).ct = s.ct := rfl
@[simp] theorem State.modFix_link (s : State) (n : Nat) (f : FixCh → FixCh) : (s.modFix n f).link = s.link := rfl
@[simp] theorem State.modFix_exg (s : State) (n : Nat) (f : FixCh → FixCh) : (s.modFix n f).exg = s.exg := rfl
@[simp] theorem State.modFix_shq (s : State) (n : Nat) (f : FixCh → FixCh) : (s.modFix n f).shq = s.shq := rfl
@[simp] theorem State.modFix_mtr (s : State) (n : Nat) (f : FixCh → FixCh) : (s.modFix n f).mtr = s.mtr := rfl
@[simp] theorem State.modFix_guard (s : State) (n : Nat) (f : FixCh → FixCh) : (s.modFix n f).guard = s.guard := rfl
@[simp] theorem State.modFix_rgClosed (s : State) (n : Nat) (f : FixCh → FixCh) : (s.modFix n f).rgClosed = s.rgClosed := rfl
@[simp] theorem State.modFix_lim (s : State) (n : Nat) (f : FixCh → FixCh) : (s.modFix n f).lim = s.lim := rfl
@[simp] theorem State.modFix_safe (s : State) (n : Nat) (f : FixCh → FixCh) : (s.modFix n f).safe = s.safe := rfl
@[simp] theorem State.modFix_evr (s : State) (n : Nat) (f : FixCh → FixCh) : (s.modFix n f).evr = s.evr := rfl
@[simp] theorem State.modFix_mem (s : State) (n : Nat) (f : FixCh → FixCh) : (s.modFix n f).mem = s.mem := rfl
@[simp] theorem State.modFix_ecc (s : State) (n : Nat) (f : FixCh → FixCh) : (s.modFix n f).ecc = s.ecc := rfl
@[simp] theorem State.modFix_spl (s : State) (n : Nat) (f : FixCh → FixCh) : (s.modFix n f).spl = s.spl := rfl
@[simp] theorem State.modFix_cpy (s : State) (n : Nat) (f : FixCh → FixCh) : (s.modFix n f).cpy = s.cpy := rfl
@[simp] theorem State.modFix_host (s : State) (n : Nat) (f : FixCh → FixCh) : (s.modFix n f).host = s.host := rfl
@[simp] theorem State.modFix_keep (s : State) (n : Nat) (f : FixCh → FixCh) : (s.modFix n f).keep = s.keep := rfl
@[simp] theorem State.modFix_flash (s : State) (n : Nat) (f : FixCh → FixCh) : (s.modFix n f).flash = s.flash := rfl
@[simp] theorem State.modFix_boot (s : State) (n : Nat) (f : FixCh → FixCh) : (s.modFix n f).boot = s.boot := rfl
@[simp] theorem State.modFix_cas (s : State) (n : Nat) (f : FixCh → FixCh) : (s.modFix n f).cas = s.cas := rfl
@[simp] theorem State.modFix_slt (s : State) (n : Nat) (f : FixCh → FixCh) : (s.modFix n f).slt = s.slt := rfl
@[simp] theorem State.modFix_sram (s : State) (n : Nat) (f : FixCh → FixCh) : (s.modFix n f).sram = s.sram := rfl
@[simp] theorem State.modFix_order (s : State) (n : Nat) (f : FixCh → FixCh) : (s.modFix n f).order = s.order := rfl
@[simp] theorem State.modFix_ownerKey (s : State) (n : Nat) (f : FixCh → FixCh) : (s.modFix n f).ownerKey = s.ownerKey := rfl
@[simp] theorem State.modFix_free (s : State) (n : Nat) (f : FixCh → FixCh) : (s.modFix n f).free = s.free := rfl
@[simp] theorem State.modFix_pending (s : State) (n : Nat) (f : FixCh → FixCh) : (s.modFix n f).pending = s.pending := rfl

@[simp] theorem State.modBank_tb (s : State) (n : Nat) (f : Bank → Bank) : (s.modBank n f).tb = s.tb := rfl
@[simp] theorem State.modBank_tbRun (s : State) (n : Nat) (f : Bank → Bank) : (s.modBank n f).tbRun = s.tbRun := rfl
@[simp] theorem State.modBank_seen (s : State) (n : Nat) (f : Bank → Bank) : (s.modBank n f).seen = s.seen := rfl
@[simp] theorem State.modBank_otp (s : State) (n : Nat) (f : Bank → Bank) : (s.modBank n f).otp = s.otp := rfl
@[simp] theorem State.modBank_regs (s : State) (n : Nat) (f : Bank → Bank) : (s.modBank n f).regs = s.regs := rfl
@[simp] theorem State.modBank_shadows (s : State) (n : Nat) (f : Bank → Bank) : (s.modBank n f).shadows = s.shadows := rfl
@[simp] theorem State.modBank_staged (s : State) (n : Nat) (f : Bank → Bank) : (s.modBank n f).staged = s.staged := rfl
@[simp] theorem State.modBank_fresh (s : State) (n : Nat) (f : Bank → Bank) : (s.modBank n f).fresh = s.fresh := rfl
@[simp] theorem State.modBank_due (s : State) (n : Nat) (f : Bank → Bank) : (s.modBank n f).due = s.due := rfl
@[simp] theorem State.modBank_answer (s : State) (n : Nat) (f : Bank → Bank) : (s.modBank n f).answer = s.answer := rfl
@[simp] theorem State.modBank_fabric (s : State) (n : Nat) (f : Bank → Bank) : (s.modBank n f).fabric = s.fabric := rfl
@[simp] theorem State.modBank_sheet (s : State) (n : Nat) (f : Bank → Bank) : (s.modBank n f).sheet = s.sheet := rfl
@[simp] theorem State.modBank_fix (s : State) (n : Nat) (f : Bank → Bank) : (s.modBank n f).fix = s.fix := rfl
@[simp] theorem State.modBank_spk (s : State) (n : Nat) (f : Bank → Bank) : (s.modBank n f).spk = s.spk := rfl
@[simp] theorem State.modBank_ch (s : State) (n : Nat) (f : Bank → Bank) : (s.modBank n f).ch = s.ch := rfl
@[simp] theorem State.modBank_capIn (s : State) (n : Nat) (f : Bank → Bank) : (s.modBank n f).capIn = s.capIn := rfl
@[simp] theorem State.modBank_vcalOff (s : State) (n : Nat) (f : Bank → Bank) : (s.modBank n f).vcalOff = s.vcalOff := rfl
@[simp] theorem State.modBank_pin (s : State) (n : Nat) (f : Bank → Bank) : (s.modBank n f).pin = s.pin := rfl
@[simp] theorem State.modBank_vdet (s : State) (n : Nat) (f : Bank → Bank) : (s.modBank n f).vdet = s.vdet := rfl
@[simp] theorem State.modBank_trgEnd (s : State) (n : Nat) (f : Bank → Bank) : (s.modBank n f).trgEnd = s.trgEnd := rfl
@[simp] theorem State.modBank_trip (s : State) (n : Nat) (f : Bank → Bank) : (s.modBank n f).trip = s.trip := rfl
@[simp] theorem State.modBank_cal (s : State) (n : Nat) (f : Bank → Bank) : (s.modBank n f).cal = s.cal := rfl
@[simp] theorem State.modBank_eng (s : State) (n : Nat) (f : Bank → Bank) : (s.modBank n f).eng = s.eng := rfl
@[simp] theorem State.modBank_ct (s : State) (n : Nat) (f : Bank → Bank) : (s.modBank n f).ct = s.ct := rfl
@[simp] theorem State.modBank_link (s : State) (n : Nat) (f : Bank → Bank) : (s.modBank n f).link = s.link := rfl
@[simp] theorem State.modBank_exg (s : State) (n : Nat) (f : Bank → Bank) : (s.modBank n f).exg = s.exg := rfl
@[simp] theorem State.modBank_shq (s : State) (n : Nat) (f : Bank → Bank) : (s.modBank n f).shq = s.shq := rfl
@[simp] theorem State.modBank_mtr (s : State) (n : Nat) (f : Bank → Bank) : (s.modBank n f).mtr = s.mtr := rfl
@[simp] theorem State.modBank_guard (s : State) (n : Nat) (f : Bank → Bank) : (s.modBank n f).guard = s.guard := rfl
@[simp] theorem State.modBank_rgClosed (s : State) (n : Nat) (f : Bank → Bank) : (s.modBank n f).rgClosed = s.rgClosed := rfl
@[simp] theorem State.modBank_lim (s : State) (n : Nat) (f : Bank → Bank) : (s.modBank n f).lim = s.lim := rfl
@[simp] theorem State.modBank_safe (s : State) (n : Nat) (f : Bank → Bank) : (s.modBank n f).safe = s.safe := rfl
@[simp] theorem State.modBank_mem (s : State) (n : Nat) (f : Bank → Bank) : (s.modBank n f).mem = s.mem := rfl
@[simp] theorem State.modBank_ecc (s : State) (n : Nat) (f : Bank → Bank) : (s.modBank n f).ecc = s.ecc := rfl
@[simp] theorem State.modBank_spl (s : State) (n : Nat) (f : Bank → Bank) : (s.modBank n f).spl = s.spl := rfl
@[simp] theorem State.modBank_cpy (s : State) (n : Nat) (f : Bank → Bank) : (s.modBank n f).cpy = s.cpy := rfl
@[simp] theorem State.modBank_host (s : State) (n : Nat) (f : Bank → Bank) : (s.modBank n f).host = s.host := rfl
@[simp] theorem State.modBank_keep (s : State) (n : Nat) (f : Bank → Bank) : (s.modBank n f).keep = s.keep := rfl
@[simp] theorem State.modBank_flash (s : State) (n : Nat) (f : Bank → Bank) : (s.modBank n f).flash = s.flash := rfl
@[simp] theorem State.modBank_boot (s : State) (n : Nat) (f : Bank → Bank) : (s.modBank n f).boot = s.boot := rfl
@[simp] theorem State.modBank_cas (s : State) (n : Nat) (f : Bank → Bank) : (s.modBank n f).cas = s.cas := rfl
@[simp] theorem State.modBank_slt (s : State) (n : Nat) (f : Bank → Bank) : (s.modBank n f).slt = s.slt := rfl
@[simp] theorem State.modBank_sram (s : State) (n : Nat) (f : Bank → Bank) : (s.modBank n f).sram = s.sram := rfl
@[simp] theorem State.modBank_order (s : State) (n : Nat) (f : Bank → Bank) : (s.modBank n f).order = s.order := rfl
@[simp] theorem State.modBank_ownerKey (s : State) (n : Nat) (f : Bank → Bank) : (s.modBank n f).ownerKey = s.ownerKey := rfl
@[simp] theorem State.modBank_free (s : State) (n : Nat) (f : Bank → Bank) : (s.modBank n f).free = s.free := rfl
@[simp] theorem State.modBank_pending (s : State) (n : Nat) (f : Bank → Bank) : (s.modBank n f).pending = s.pending := rfl

@[simp] theorem State.putFresh_tb (s : State) (f : Fresh) : (s.putFresh f).tb = s.tb := rfl
@[simp] theorem State.putFresh_tbRun (s : State) (f : Fresh) : (s.putFresh f).tbRun = s.tbRun := rfl
@[simp] theorem State.putFresh_seen (s : State) (f : Fresh) : (s.putFresh f).seen = s.seen := rfl
@[simp] theorem State.putFresh_otp (s : State) (f : Fresh) : (s.putFresh f).otp = s.otp := rfl
@[simp] theorem State.putFresh_regs (s : State) (f : Fresh) : (s.putFresh f).regs = s.regs := rfl
@[simp] theorem State.putFresh_shadows (s : State) (f : Fresh) : (s.putFresh f).shadows = s.shadows := rfl
@[simp] theorem State.putFresh_staged (s : State) (f : Fresh) : (s.putFresh f).staged = s.staged := rfl
@[simp] theorem State.putFresh_due (s : State) (f : Fresh) : (s.putFresh f).due = s.due := rfl
@[simp] theorem State.putFresh_answer (s : State) (f : Fresh) : (s.putFresh f).answer = s.answer := rfl
@[simp] theorem State.putFresh_fabric (s : State) (f : Fresh) : (s.putFresh f).fabric = s.fabric := rfl
@[simp] theorem State.putFresh_sheet (s : State) (f : Fresh) : (s.putFresh f).sheet = s.sheet := rfl
@[simp] theorem State.putFresh_fix (s : State) (f : Fresh) : (s.putFresh f).fix = s.fix := rfl
@[simp] theorem State.putFresh_spk (s : State) (f : Fresh) : (s.putFresh f).spk = s.spk := rfl
@[simp] theorem State.putFresh_ch (s : State) (f : Fresh) : (s.putFresh f).ch = s.ch := rfl
@[simp] theorem State.putFresh_capIn (s : State) (f : Fresh) : (s.putFresh f).capIn = s.capIn := rfl
@[simp] theorem State.putFresh_vcalOff (s : State) (f : Fresh) : (s.putFresh f).vcalOff = s.vcalOff := rfl
@[simp] theorem State.putFresh_pin (s : State) (f : Fresh) : (s.putFresh f).pin = s.pin := rfl
@[simp] theorem State.putFresh_vdet (s : State) (f : Fresh) : (s.putFresh f).vdet = s.vdet := rfl
@[simp] theorem State.putFresh_trgEnd (s : State) (f : Fresh) : (s.putFresh f).trgEnd = s.trgEnd := rfl
@[simp] theorem State.putFresh_trip (s : State) (f : Fresh) : (s.putFresh f).trip = s.trip := rfl
@[simp] theorem State.putFresh_cal (s : State) (f : Fresh) : (s.putFresh f).cal = s.cal := rfl
@[simp] theorem State.putFresh_eng (s : State) (f : Fresh) : (s.putFresh f).eng = s.eng := rfl
@[simp] theorem State.putFresh_ct (s : State) (f : Fresh) : (s.putFresh f).ct = s.ct := rfl
@[simp] theorem State.putFresh_link (s : State) (f : Fresh) : (s.putFresh f).link = s.link := rfl
@[simp] theorem State.putFresh_exg (s : State) (f : Fresh) : (s.putFresh f).exg = s.exg := rfl
@[simp] theorem State.putFresh_shq (s : State) (f : Fresh) : (s.putFresh f).shq = s.shq := rfl
@[simp] theorem State.putFresh_mtr (s : State) (f : Fresh) : (s.putFresh f).mtr = s.mtr := rfl
@[simp] theorem State.putFresh_guard (s : State) (f : Fresh) : (s.putFresh f).guard = s.guard := rfl
@[simp] theorem State.putFresh_rgClosed (s : State) (f : Fresh) : (s.putFresh f).rgClosed = s.rgClosed := rfl
@[simp] theorem State.putFresh_lim (s : State) (f : Fresh) : (s.putFresh f).lim = s.lim := rfl
@[simp] theorem State.putFresh_safe (s : State) (f : Fresh) : (s.putFresh f).safe = s.safe := rfl
@[simp] theorem State.putFresh_evr (s : State) (f : Fresh) : (s.putFresh f).evr = s.evr := rfl
@[simp] theorem State.putFresh_mem (s : State) (f : Fresh) : (s.putFresh f).mem = s.mem := rfl
@[simp] theorem State.putFresh_ecc (s : State) (f : Fresh) : (s.putFresh f).ecc = s.ecc := rfl
@[simp] theorem State.putFresh_spl (s : State) (f : Fresh) : (s.putFresh f).spl = s.spl := rfl
@[simp] theorem State.putFresh_cpy (s : State) (f : Fresh) : (s.putFresh f).cpy = s.cpy := rfl
@[simp] theorem State.putFresh_host (s : State) (f : Fresh) : (s.putFresh f).host = s.host := rfl
@[simp] theorem State.putFresh_keep (s : State) (f : Fresh) : (s.putFresh f).keep = s.keep := rfl
@[simp] theorem State.putFresh_flash (s : State) (f : Fresh) : (s.putFresh f).flash = s.flash := rfl
@[simp] theorem State.putFresh_boot (s : State) (f : Fresh) : (s.putFresh f).boot = s.boot := rfl
@[simp] theorem State.putFresh_cas (s : State) (f : Fresh) : (s.putFresh f).cas = s.cas := rfl
@[simp] theorem State.putFresh_slt (s : State) (f : Fresh) : (s.putFresh f).slt = s.slt := rfl
@[simp] theorem State.putFresh_sram (s : State) (f : Fresh) : (s.putFresh f).sram = s.sram := rfl
@[simp] theorem State.putFresh_order (s : State) (f : Fresh) : (s.putFresh f).order = s.order := rfl
@[simp] theorem State.putFresh_ownerKey (s : State) (f : Fresh) : (s.putFresh f).ownerKey = s.ownerKey := rfl
@[simp] theorem State.putFresh_free (s : State) (f : Fresh) : (s.putFresh f).free = s.free := rfl
@[simp] theorem State.putFresh_pending (s : State) (f : Fresh) : (s.putFresh f).pending = s.pending := rfl

@[simp] theorem State.after_tb (s : State) (d : Nat) (e : Due) : (s.after d e).tb = s.tb := rfl
@[simp] theorem State.after_tbRun (s : State) (d : Nat) (e : Due) : (s.after d e).tbRun = s.tbRun := rfl
@[simp] theorem State.after_seen (s : State) (d : Nat) (e : Due) : (s.after d e).seen = s.seen := rfl
@[simp] theorem State.after_otp (s : State) (d : Nat) (e : Due) : (s.after d e).otp = s.otp := rfl
@[simp] theorem State.after_regs (s : State) (d : Nat) (e : Due) : (s.after d e).regs = s.regs := rfl
@[simp] theorem State.after_shadows (s : State) (d : Nat) (e : Due) : (s.after d e).shadows = s.shadows := rfl
@[simp] theorem State.after_staged (s : State) (d : Nat) (e : Due) : (s.after d e).staged = s.staged := rfl
@[simp] theorem State.after_fresh (s : State) (d : Nat) (e : Due) : (s.after d e).fresh = s.fresh := rfl
@[simp] theorem State.after_answer (s : State) (d : Nat) (e : Due) : (s.after d e).answer = s.answer := rfl
@[simp] theorem State.after_fabric (s : State) (d : Nat) (e : Due) : (s.after d e).fabric = s.fabric := rfl
@[simp] theorem State.after_sheet (s : State) (d : Nat) (e : Due) : (s.after d e).sheet = s.sheet := rfl
@[simp] theorem State.after_fix (s : State) (d : Nat) (e : Due) : (s.after d e).fix = s.fix := rfl
@[simp] theorem State.after_spk (s : State) (d : Nat) (e : Due) : (s.after d e).spk = s.spk := rfl
@[simp] theorem State.after_ch (s : State) (d : Nat) (e : Due) : (s.after d e).ch = s.ch := rfl
@[simp] theorem State.after_capIn (s : State) (d : Nat) (e : Due) : (s.after d e).capIn = s.capIn := rfl
@[simp] theorem State.after_vcalOff (s : State) (d : Nat) (e : Due) : (s.after d e).vcalOff = s.vcalOff := rfl
@[simp] theorem State.after_pin (s : State) (d : Nat) (e : Due) : (s.after d e).pin = s.pin := rfl
@[simp] theorem State.after_vdet (s : State) (d : Nat) (e : Due) : (s.after d e).vdet = s.vdet := rfl
@[simp] theorem State.after_trgEnd (s : State) (d : Nat) (e : Due) : (s.after d e).trgEnd = s.trgEnd := rfl
@[simp] theorem State.after_trip (s : State) (d : Nat) (e : Due) : (s.after d e).trip = s.trip := rfl
@[simp] theorem State.after_cal (s : State) (d : Nat) (e : Due) : (s.after d e).cal = s.cal := rfl
@[simp] theorem State.after_eng (s : State) (d : Nat) (e : Due) : (s.after d e).eng = s.eng := rfl
@[simp] theorem State.after_ct (s : State) (d : Nat) (e : Due) : (s.after d e).ct = s.ct := rfl
@[simp] theorem State.after_link (s : State) (d : Nat) (e : Due) : (s.after d e).link = s.link := rfl
@[simp] theorem State.after_exg (s : State) (d : Nat) (e : Due) : (s.after d e).exg = s.exg := rfl
@[simp] theorem State.after_shq (s : State) (d : Nat) (e : Due) : (s.after d e).shq = s.shq := rfl
@[simp] theorem State.after_mtr (s : State) (d : Nat) (e : Due) : (s.after d e).mtr = s.mtr := rfl
@[simp] theorem State.after_guard (s : State) (d : Nat) (e : Due) : (s.after d e).guard = s.guard := rfl
@[simp] theorem State.after_rgClosed (s : State) (d : Nat) (e : Due) : (s.after d e).rgClosed = s.rgClosed := rfl
@[simp] theorem State.after_lim (s : State) (d : Nat) (e : Due) : (s.after d e).lim = s.lim := rfl
@[simp] theorem State.after_safe (s : State) (d : Nat) (e : Due) : (s.after d e).safe = s.safe := rfl
@[simp] theorem State.after_evr (s : State) (d : Nat) (e : Due) : (s.after d e).evr = s.evr := rfl
@[simp] theorem State.after_mem (s : State) (d : Nat) (e : Due) : (s.after d e).mem = s.mem := rfl
@[simp] theorem State.after_ecc (s : State) (d : Nat) (e : Due) : (s.after d e).ecc = s.ecc := rfl
@[simp] theorem State.after_spl (s : State) (d : Nat) (e : Due) : (s.after d e).spl = s.spl := rfl
@[simp] theorem State.after_cpy (s : State) (d : Nat) (e : Due) : (s.after d e).cpy = s.cpy := rfl
@[simp] theorem State.after_host (s : State) (d : Nat) (e : Due) : (s.after d e).host = s.host := rfl
@[simp] theorem State.after_keep (s : State) (d : Nat) (e : Due) : (s.after d e).keep = s.keep := rfl
@[simp] theorem State.after_flash (s : State) (d : Nat) (e : Due) : (s.after d e).flash = s.flash := rfl
@[simp] theorem State.after_boot (s : State) (d : Nat) (e : Due) : (s.after d e).boot = s.boot := rfl
@[simp] theorem State.after_cas (s : State) (d : Nat) (e : Due) : (s.after d e).cas = s.cas := rfl
@[simp] theorem State.after_slt (s : State) (d : Nat) (e : Due) : (s.after d e).slt = s.slt := rfl
@[simp] theorem State.after_sram (s : State) (d : Nat) (e : Due) : (s.after d e).sram = s.sram := rfl
@[simp] theorem State.after_order (s : State) (d : Nat) (e : Due) : (s.after d e).order = s.order := rfl
@[simp] theorem State.after_ownerKey (s : State) (d : Nat) (e : Due) : (s.after d e).ownerKey = s.ownerKey := rfl
@[simp] theorem State.after_free (s : State) (d : Nat) (e : Due) : (s.after d e).free = s.free := rfl
@[simp] theorem State.after_pending (s : State) (d : Nat) (e : Due) : (s.after d e).pending = s.pending := rfl

@[simp] theorem State.putShadow_tb (s : State) (m : Master) (a : Nat) (w : Word) : (s.putShadow m a w).tb = s.tb := rfl
@[simp] theorem State.putShadow_tbRun (s : State) (m : Master) (a : Nat) (w : Word) : (s.putShadow m a w).tbRun = s.tbRun := rfl
@[simp] theorem State.putShadow_seen (s : State) (m : Master) (a : Nat) (w : Word) : (s.putShadow m a w).seen = s.seen := rfl
@[simp] theorem State.putShadow_otp (s : State) (m : Master) (a : Nat) (w : Word) : (s.putShadow m a w).otp = s.otp := rfl
@[simp] theorem State.putShadow_regs (s : State) (m : Master) (a : Nat) (w : Word) : (s.putShadow m a w).regs = s.regs := rfl
@[simp] theorem State.putShadow_staged (s : State) (m : Master) (a : Nat) (w : Word) : (s.putShadow m a w).staged = s.staged := rfl
@[simp] theorem State.putShadow_fresh (s : State) (m : Master) (a : Nat) (w : Word) : (s.putShadow m a w).fresh = s.fresh := rfl
@[simp] theorem State.putShadow_due (s : State) (m : Master) (a : Nat) (w : Word) : (s.putShadow m a w).due = s.due := rfl
@[simp] theorem State.putShadow_answer (s : State) (m : Master) (a : Nat) (w : Word) : (s.putShadow m a w).answer = s.answer := rfl
@[simp] theorem State.putShadow_fabric (s : State) (m : Master) (a : Nat) (w : Word) : (s.putShadow m a w).fabric = s.fabric := rfl
@[simp] theorem State.putShadow_sheet (s : State) (m : Master) (a : Nat) (w : Word) : (s.putShadow m a w).sheet = s.sheet := rfl
@[simp] theorem State.putShadow_fix (s : State) (m : Master) (a : Nat) (w : Word) : (s.putShadow m a w).fix = s.fix := rfl
@[simp] theorem State.putShadow_spk (s : State) (m : Master) (a : Nat) (w : Word) : (s.putShadow m a w).spk = s.spk := rfl
@[simp] theorem State.putShadow_ch (s : State) (m : Master) (a : Nat) (w : Word) : (s.putShadow m a w).ch = s.ch := rfl
@[simp] theorem State.putShadow_capIn (s : State) (m : Master) (a : Nat) (w : Word) : (s.putShadow m a w).capIn = s.capIn := rfl
@[simp] theorem State.putShadow_vcalOff (s : State) (m : Master) (a : Nat) (w : Word) : (s.putShadow m a w).vcalOff = s.vcalOff := rfl
@[simp] theorem State.putShadow_pin (s : State) (m : Master) (a : Nat) (w : Word) : (s.putShadow m a w).pin = s.pin := rfl
@[simp] theorem State.putShadow_vdet (s : State) (m : Master) (a : Nat) (w : Word) : (s.putShadow m a w).vdet = s.vdet := rfl
@[simp] theorem State.putShadow_trgEnd (s : State) (m : Master) (a : Nat) (w : Word) : (s.putShadow m a w).trgEnd = s.trgEnd := rfl
@[simp] theorem State.putShadow_trip (s : State) (m : Master) (a : Nat) (w : Word) : (s.putShadow m a w).trip = s.trip := rfl
@[simp] theorem State.putShadow_cal (s : State) (m : Master) (a : Nat) (w : Word) : (s.putShadow m a w).cal = s.cal := rfl
@[simp] theorem State.putShadow_eng (s : State) (m : Master) (a : Nat) (w : Word) : (s.putShadow m a w).eng = s.eng := rfl
@[simp] theorem State.putShadow_ct (s : State) (m : Master) (a : Nat) (w : Word) : (s.putShadow m a w).ct = s.ct := rfl
@[simp] theorem State.putShadow_link (s : State) (m : Master) (a : Nat) (w : Word) : (s.putShadow m a w).link = s.link := rfl
@[simp] theorem State.putShadow_exg (s : State) (m : Master) (a : Nat) (w : Word) : (s.putShadow m a w).exg = s.exg := rfl
@[simp] theorem State.putShadow_shq (s : State) (m : Master) (a : Nat) (w : Word) : (s.putShadow m a w).shq = s.shq := rfl
@[simp] theorem State.putShadow_mtr (s : State) (m : Master) (a : Nat) (w : Word) : (s.putShadow m a w).mtr = s.mtr := rfl
@[simp] theorem State.putShadow_guard (s : State) (m : Master) (a : Nat) (w : Word) : (s.putShadow m a w).guard = s.guard := rfl
@[simp] theorem State.putShadow_rgClosed (s : State) (m : Master) (a : Nat) (w : Word) : (s.putShadow m a w).rgClosed = s.rgClosed := rfl
@[simp] theorem State.putShadow_lim (s : State) (m : Master) (a : Nat) (w : Word) : (s.putShadow m a w).lim = s.lim := rfl
@[simp] theorem State.putShadow_safe (s : State) (m : Master) (a : Nat) (w : Word) : (s.putShadow m a w).safe = s.safe := rfl
@[simp] theorem State.putShadow_evr (s : State) (m : Master) (a : Nat) (w : Word) : (s.putShadow m a w).evr = s.evr := rfl
@[simp] theorem State.putShadow_mem (s : State) (m : Master) (a : Nat) (w : Word) : (s.putShadow m a w).mem = s.mem := rfl
@[simp] theorem State.putShadow_ecc (s : State) (m : Master) (a : Nat) (w : Word) : (s.putShadow m a w).ecc = s.ecc := rfl
@[simp] theorem State.putShadow_spl (s : State) (m : Master) (a : Nat) (w : Word) : (s.putShadow m a w).spl = s.spl := rfl
@[simp] theorem State.putShadow_cpy (s : State) (m : Master) (a : Nat) (w : Word) : (s.putShadow m a w).cpy = s.cpy := rfl
@[simp] theorem State.putShadow_host (s : State) (m : Master) (a : Nat) (w : Word) : (s.putShadow m a w).host = s.host := rfl
@[simp] theorem State.putShadow_keep (s : State) (m : Master) (a : Nat) (w : Word) : (s.putShadow m a w).keep = s.keep := rfl
@[simp] theorem State.putShadow_flash (s : State) (m : Master) (a : Nat) (w : Word) : (s.putShadow m a w).flash = s.flash := rfl
@[simp] theorem State.putShadow_boot (s : State) (m : Master) (a : Nat) (w : Word) : (s.putShadow m a w).boot = s.boot := rfl
@[simp] theorem State.putShadow_cas (s : State) (m : Master) (a : Nat) (w : Word) : (s.putShadow m a w).cas = s.cas := rfl
@[simp] theorem State.putShadow_slt (s : State) (m : Master) (a : Nat) (w : Word) : (s.putShadow m a w).slt = s.slt := rfl
@[simp] theorem State.putShadow_sram (s : State) (m : Master) (a : Nat) (w : Word) : (s.putShadow m a w).sram = s.sram := rfl
@[simp] theorem State.putShadow_order (s : State) (m : Master) (a : Nat) (w : Word) : (s.putShadow m a w).order = s.order := rfl
@[simp] theorem State.putShadow_ownerKey (s : State) (m : Master) (a : Nat) (w : Word) : (s.putShadow m a w).ownerKey = s.ownerKey := rfl
@[simp] theorem State.putShadow_free (s : State) (m : Master) (a : Nat) (w : Word) : (s.putShadow m a w).free = s.free := rfl
@[simp] theorem State.putShadow_pending (s : State) (m : Master) (a : Nat) (w : Word) : (s.putShadow m a w).pending = s.pending := rfl

@[simp] theorem State.raiseAs_tb (s : State) (src kind : Nat) (d : Detail) (safety esc : Bool) : (s.raiseAs src kind d safety esc).tb = s.tb := rfl
@[simp] theorem State.raiseIn_tb (s : State) (ofTb : Bool) (src kind : Nat) (d : Detail) (safety esc : Bool) : (s.raiseIn ofTb src kind d safety esc).tb = s.tb := rfl
@[simp] theorem State.raiseAs_tbRun (s : State) (src kind : Nat) (d : Detail) (safety esc : Bool) : (s.raiseAs src kind d safety esc).tbRun = s.tbRun := rfl
@[simp] theorem State.raiseIn_tbRun (s : State) (ofTb : Bool) (src kind : Nat) (d : Detail) (safety esc : Bool) : (s.raiseIn ofTb src kind d safety esc).tbRun = s.tbRun := rfl
@[simp] theorem State.raiseAs_seen (s : State) (src kind : Nat) (d : Detail) (safety esc : Bool) : (s.raiseAs src kind d safety esc).seen = s.seen := rfl
@[simp] theorem State.raiseIn_seen (s : State) (ofTb : Bool) (src kind : Nat) (d : Detail) (safety esc : Bool) : (s.raiseIn ofTb src kind d safety esc).seen = s.seen := rfl
@[simp] theorem State.raiseAs_otp (s : State) (src kind : Nat) (d : Detail) (safety esc : Bool) : (s.raiseAs src kind d safety esc).otp = s.otp := rfl
@[simp] theorem State.raiseIn_otp (s : State) (ofTb : Bool) (src kind : Nat) (d : Detail) (safety esc : Bool) : (s.raiseIn ofTb src kind d safety esc).otp = s.otp := rfl
@[simp] theorem State.raiseAs_regs (s : State) (src kind : Nat) (d : Detail) (safety esc : Bool) : (s.raiseAs src kind d safety esc).regs = s.regs := rfl
@[simp] theorem State.raiseIn_regs (s : State) (ofTb : Bool) (src kind : Nat) (d : Detail) (safety esc : Bool) : (s.raiseIn ofTb src kind d safety esc).regs = s.regs := rfl
@[simp] theorem State.raiseAs_shadows (s : State) (src kind : Nat) (d : Detail) (safety esc : Bool) : (s.raiseAs src kind d safety esc).shadows = s.shadows := rfl
@[simp] theorem State.raiseIn_shadows (s : State) (ofTb : Bool) (src kind : Nat) (d : Detail) (safety esc : Bool) : (s.raiseIn ofTb src kind d safety esc).shadows = s.shadows := rfl
@[simp] theorem State.raiseAs_staged (s : State) (src kind : Nat) (d : Detail) (safety esc : Bool) : (s.raiseAs src kind d safety esc).staged = s.staged := rfl
@[simp] theorem State.raiseIn_staged (s : State) (ofTb : Bool) (src kind : Nat) (d : Detail) (safety esc : Bool) : (s.raiseIn ofTb src kind d safety esc).staged = s.staged := rfl
@[simp] theorem State.raiseAs_fresh (s : State) (src kind : Nat) (d : Detail) (safety esc : Bool) : (s.raiseAs src kind d safety esc).fresh = s.fresh := rfl
@[simp] theorem State.raiseIn_fresh (s : State) (ofTb : Bool) (src kind : Nat) (d : Detail) (safety esc : Bool) : (s.raiseIn ofTb src kind d safety esc).fresh = s.fresh := rfl
@[simp] theorem State.raiseAs_due (s : State) (src kind : Nat) (d : Detail) (safety esc : Bool) : (s.raiseAs src kind d safety esc).due = s.due := rfl
@[simp] theorem State.raiseIn_due (s : State) (ofTb : Bool) (src kind : Nat) (d : Detail) (safety esc : Bool) : (s.raiseIn ofTb src kind d safety esc).due = s.due := rfl
@[simp] theorem State.raiseAs_answer (s : State) (src kind : Nat) (d : Detail) (safety esc : Bool) : (s.raiseAs src kind d safety esc).answer = s.answer := rfl
@[simp] theorem State.raiseIn_answer (s : State) (ofTb : Bool) (src kind : Nat) (d : Detail) (safety esc : Bool) : (s.raiseIn ofTb src kind d safety esc).answer = s.answer := rfl
@[simp] theorem State.raiseAs_fabric (s : State) (src kind : Nat) (d : Detail) (safety esc : Bool) : (s.raiseAs src kind d safety esc).fabric = s.fabric := rfl
@[simp] theorem State.raiseIn_fabric (s : State) (ofTb : Bool) (src kind : Nat) (d : Detail) (safety esc : Bool) : (s.raiseIn ofTb src kind d safety esc).fabric = s.fabric := rfl
@[simp] theorem State.raiseAs_sheet (s : State) (src kind : Nat) (d : Detail) (safety esc : Bool) : (s.raiseAs src kind d safety esc).sheet = s.sheet := rfl
@[simp] theorem State.raiseIn_sheet (s : State) (ofTb : Bool) (src kind : Nat) (d : Detail) (safety esc : Bool) : (s.raiseIn ofTb src kind d safety esc).sheet = s.sheet := rfl
@[simp] theorem State.raiseAs_fix (s : State) (src kind : Nat) (d : Detail) (safety esc : Bool) : (s.raiseAs src kind d safety esc).fix = s.fix := rfl
@[simp] theorem State.raiseIn_fix (s : State) (ofTb : Bool) (src kind : Nat) (d : Detail) (safety esc : Bool) : (s.raiseIn ofTb src kind d safety esc).fix = s.fix := rfl
@[simp] theorem State.raiseAs_spk (s : State) (src kind : Nat) (d : Detail) (safety esc : Bool) : (s.raiseAs src kind d safety esc).spk = s.spk := rfl
@[simp] theorem State.raiseIn_spk (s : State) (ofTb : Bool) (src kind : Nat) (d : Detail) (safety esc : Bool) : (s.raiseIn ofTb src kind d safety esc).spk = s.spk := rfl
@[simp] theorem State.raiseAs_ch (s : State) (src kind : Nat) (d : Detail) (safety esc : Bool) : (s.raiseAs src kind d safety esc).ch = s.ch := rfl
@[simp] theorem State.raiseIn_ch (s : State) (ofTb : Bool) (src kind : Nat) (d : Detail) (safety esc : Bool) : (s.raiseIn ofTb src kind d safety esc).ch = s.ch := rfl
@[simp] theorem State.raiseAs_capIn (s : State) (src kind : Nat) (d : Detail) (safety esc : Bool) : (s.raiseAs src kind d safety esc).capIn = s.capIn := rfl
@[simp] theorem State.raiseIn_capIn (s : State) (ofTb : Bool) (src kind : Nat) (d : Detail) (safety esc : Bool) : (s.raiseIn ofTb src kind d safety esc).capIn = s.capIn := rfl
@[simp] theorem State.raiseAs_vcalOff (s : State) (src kind : Nat) (d : Detail) (safety esc : Bool) : (s.raiseAs src kind d safety esc).vcalOff = s.vcalOff := rfl
@[simp] theorem State.raiseIn_vcalOff (s : State) (ofTb : Bool) (src kind : Nat) (d : Detail) (safety esc : Bool) : (s.raiseIn ofTb src kind d safety esc).vcalOff = s.vcalOff := rfl
@[simp] theorem State.raiseAs_pin (s : State) (src kind : Nat) (d : Detail) (safety esc : Bool) : (s.raiseAs src kind d safety esc).pin = s.pin := rfl
@[simp] theorem State.raiseIn_pin (s : State) (ofTb : Bool) (src kind : Nat) (d : Detail) (safety esc : Bool) : (s.raiseIn ofTb src kind d safety esc).pin = s.pin := rfl
@[simp] theorem State.raiseAs_vdet (s : State) (src kind : Nat) (d : Detail) (safety esc : Bool) : (s.raiseAs src kind d safety esc).vdet = s.vdet := rfl
@[simp] theorem State.raiseIn_vdet (s : State) (ofTb : Bool) (src kind : Nat) (d : Detail) (safety esc : Bool) : (s.raiseIn ofTb src kind d safety esc).vdet = s.vdet := rfl
@[simp] theorem State.raiseAs_trgEnd (s : State) (src kind : Nat) (d : Detail) (safety esc : Bool) : (s.raiseAs src kind d safety esc).trgEnd = s.trgEnd := rfl
@[simp] theorem State.raiseIn_trgEnd (s : State) (ofTb : Bool) (src kind : Nat) (d : Detail) (safety esc : Bool) : (s.raiseIn ofTb src kind d safety esc).trgEnd = s.trgEnd := rfl
@[simp] theorem State.raiseAs_trip (s : State) (src kind : Nat) (d : Detail) (safety esc : Bool) : (s.raiseAs src kind d safety esc).trip = s.trip := rfl
@[simp] theorem State.raiseIn_trip (s : State) (ofTb : Bool) (src kind : Nat) (d : Detail) (safety esc : Bool) : (s.raiseIn ofTb src kind d safety esc).trip = s.trip := rfl
@[simp] theorem State.raiseAs_cal (s : State) (src kind : Nat) (d : Detail) (safety esc : Bool) : (s.raiseAs src kind d safety esc).cal = s.cal := rfl
@[simp] theorem State.raiseIn_cal (s : State) (ofTb : Bool) (src kind : Nat) (d : Detail) (safety esc : Bool) : (s.raiseIn ofTb src kind d safety esc).cal = s.cal := rfl
@[simp] theorem State.raiseAs_eng (s : State) (src kind : Nat) (d : Detail) (safety esc : Bool) : (s.raiseAs src kind d safety esc).eng = s.eng := rfl
@[simp] theorem State.raiseIn_eng (s : State) (ofTb : Bool) (src kind : Nat) (d : Detail) (safety esc : Bool) : (s.raiseIn ofTb src kind d safety esc).eng = s.eng := rfl
@[simp] theorem State.raiseAs_ct (s : State) (src kind : Nat) (d : Detail) (safety esc : Bool) : (s.raiseAs src kind d safety esc).ct = s.ct := rfl
@[simp] theorem State.raiseIn_ct (s : State) (ofTb : Bool) (src kind : Nat) (d : Detail) (safety esc : Bool) : (s.raiseIn ofTb src kind d safety esc).ct = s.ct := rfl
@[simp] theorem State.raiseAs_link (s : State) (src kind : Nat) (d : Detail) (safety esc : Bool) : (s.raiseAs src kind d safety esc).link = s.link := rfl
@[simp] theorem State.raiseIn_link (s : State) (ofTb : Bool) (src kind : Nat) (d : Detail) (safety esc : Bool) : (s.raiseIn ofTb src kind d safety esc).link = s.link := rfl
@[simp] theorem State.raiseAs_exg (s : State) (src kind : Nat) (d : Detail) (safety esc : Bool) : (s.raiseAs src kind d safety esc).exg = s.exg := rfl
@[simp] theorem State.raiseIn_exg (s : State) (ofTb : Bool) (src kind : Nat) (d : Detail) (safety esc : Bool) : (s.raiseIn ofTb src kind d safety esc).exg = s.exg := rfl
@[simp] theorem State.raiseAs_shq (s : State) (src kind : Nat) (d : Detail) (safety esc : Bool) : (s.raiseAs src kind d safety esc).shq = s.shq := rfl
@[simp] theorem State.raiseIn_shq (s : State) (ofTb : Bool) (src kind : Nat) (d : Detail) (safety esc : Bool) : (s.raiseIn ofTb src kind d safety esc).shq = s.shq := rfl
@[simp] theorem State.raiseAs_mtr (s : State) (src kind : Nat) (d : Detail) (safety esc : Bool) : (s.raiseAs src kind d safety esc).mtr = s.mtr := rfl
@[simp] theorem State.raiseIn_mtr (s : State) (ofTb : Bool) (src kind : Nat) (d : Detail) (safety esc : Bool) : (s.raiseIn ofTb src kind d safety esc).mtr = s.mtr := rfl
@[simp] theorem State.raiseAs_guard (s : State) (src kind : Nat) (d : Detail) (safety esc : Bool) : (s.raiseAs src kind d safety esc).guard = s.guard := rfl
@[simp] theorem State.raiseIn_guard (s : State) (ofTb : Bool) (src kind : Nat) (d : Detail) (safety esc : Bool) : (s.raiseIn ofTb src kind d safety esc).guard = s.guard := rfl
@[simp] theorem State.raiseAs_rgClosed (s : State) (src kind : Nat) (d : Detail) (safety esc : Bool) : (s.raiseAs src kind d safety esc).rgClosed = s.rgClosed := rfl
@[simp] theorem State.raiseIn_rgClosed (s : State) (ofTb : Bool) (src kind : Nat) (d : Detail) (safety esc : Bool) : (s.raiseIn ofTb src kind d safety esc).rgClosed = s.rgClosed := rfl
@[simp] theorem State.raiseAs_lim (s : State) (src kind : Nat) (d : Detail) (safety esc : Bool) : (s.raiseAs src kind d safety esc).lim = s.lim := rfl
@[simp] theorem State.raiseIn_lim (s : State) (ofTb : Bool) (src kind : Nat) (d : Detail) (safety esc : Bool) : (s.raiseIn ofTb src kind d safety esc).lim = s.lim := rfl
@[simp] theorem State.raiseAs_safe (s : State) (src kind : Nat) (d : Detail) (safety esc : Bool) : (s.raiseAs src kind d safety esc).safe = s.safe := rfl
@[simp] theorem State.raiseIn_safe (s : State) (ofTb : Bool) (src kind : Nat) (d : Detail) (safety esc : Bool) : (s.raiseIn ofTb src kind d safety esc).safe = s.safe := rfl
@[simp] theorem State.raiseAs_mem (s : State) (src kind : Nat) (d : Detail) (safety esc : Bool) : (s.raiseAs src kind d safety esc).mem = s.mem := rfl
@[simp] theorem State.raiseIn_mem (s : State) (ofTb : Bool) (src kind : Nat) (d : Detail) (safety esc : Bool) : (s.raiseIn ofTb src kind d safety esc).mem = s.mem := rfl
@[simp] theorem State.raiseAs_ecc (s : State) (src kind : Nat) (d : Detail) (safety esc : Bool) : (s.raiseAs src kind d safety esc).ecc = s.ecc := rfl
@[simp] theorem State.raiseIn_ecc (s : State) (ofTb : Bool) (src kind : Nat) (d : Detail) (safety esc : Bool) : (s.raiseIn ofTb src kind d safety esc).ecc = s.ecc := rfl
@[simp] theorem State.raiseAs_spl (s : State) (src kind : Nat) (d : Detail) (safety esc : Bool) : (s.raiseAs src kind d safety esc).spl = s.spl := rfl
@[simp] theorem State.raiseIn_spl (s : State) (ofTb : Bool) (src kind : Nat) (d : Detail) (safety esc : Bool) : (s.raiseIn ofTb src kind d safety esc).spl = s.spl := rfl
@[simp] theorem State.raiseAs_cpy (s : State) (src kind : Nat) (d : Detail) (safety esc : Bool) : (s.raiseAs src kind d safety esc).cpy = s.cpy := rfl
@[simp] theorem State.raiseIn_cpy (s : State) (ofTb : Bool) (src kind : Nat) (d : Detail) (safety esc : Bool) : (s.raiseIn ofTb src kind d safety esc).cpy = s.cpy := rfl
@[simp] theorem State.raiseAs_host (s : State) (src kind : Nat) (d : Detail) (safety esc : Bool) : (s.raiseAs src kind d safety esc).host = s.host := rfl
@[simp] theorem State.raiseIn_host (s : State) (ofTb : Bool) (src kind : Nat) (d : Detail) (safety esc : Bool) : (s.raiseIn ofTb src kind d safety esc).host = s.host := rfl
@[simp] theorem State.raiseAs_keep (s : State) (src kind : Nat) (d : Detail) (safety esc : Bool) : (s.raiseAs src kind d safety esc).keep = s.keep := rfl
@[simp] theorem State.raiseIn_keep (s : State) (ofTb : Bool) (src kind : Nat) (d : Detail) (safety esc : Bool) : (s.raiseIn ofTb src kind d safety esc).keep = s.keep := rfl
@[simp] theorem State.raiseAs_flash (s : State) (src kind : Nat) (d : Detail) (safety esc : Bool) : (s.raiseAs src kind d safety esc).flash = s.flash := rfl
@[simp] theorem State.raiseIn_flash (s : State) (ofTb : Bool) (src kind : Nat) (d : Detail) (safety esc : Bool) : (s.raiseIn ofTb src kind d safety esc).flash = s.flash := rfl
@[simp] theorem State.raiseAs_boot (s : State) (src kind : Nat) (d : Detail) (safety esc : Bool) : (s.raiseAs src kind d safety esc).boot = s.boot := rfl
@[simp] theorem State.raiseIn_boot (s : State) (ofTb : Bool) (src kind : Nat) (d : Detail) (safety esc : Bool) : (s.raiseIn ofTb src kind d safety esc).boot = s.boot := rfl
@[simp] theorem State.raiseAs_cas (s : State) (src kind : Nat) (d : Detail) (safety esc : Bool) : (s.raiseAs src kind d safety esc).cas = s.cas := rfl
@[simp] theorem State.raiseIn_cas (s : State) (ofTb : Bool) (src kind : Nat) (d : Detail) (safety esc : Bool) : (s.raiseIn ofTb src kind d safety esc).cas = s.cas := rfl
@[simp] theorem State.raiseAs_slt (s : State) (src kind : Nat) (d : Detail) (safety esc : Bool) : (s.raiseAs src kind d safety esc).slt = s.slt := rfl
@[simp] theorem State.raiseIn_slt (s : State) (ofTb : Bool) (src kind : Nat) (d : Detail) (safety esc : Bool) : (s.raiseIn ofTb src kind d safety esc).slt = s.slt := rfl
@[simp] theorem State.raiseAs_sram (s : State) (src kind : Nat) (d : Detail) (safety esc : Bool) : (s.raiseAs src kind d safety esc).sram = s.sram := rfl
@[simp] theorem State.raiseIn_sram (s : State) (ofTb : Bool) (src kind : Nat) (d : Detail) (safety esc : Bool) : (s.raiseIn ofTb src kind d safety esc).sram = s.sram := rfl
@[simp] theorem State.raiseAs_order (s : State) (src kind : Nat) (d : Detail) (safety esc : Bool) : (s.raiseAs src kind d safety esc).order = s.order := rfl
@[simp] theorem State.raiseIn_order (s : State) (ofTb : Bool) (src kind : Nat) (d : Detail) (safety esc : Bool) : (s.raiseIn ofTb src kind d safety esc).order = s.order := rfl
@[simp] theorem State.raiseAs_ownerKey (s : State) (src kind : Nat) (d : Detail) (safety esc : Bool) : (s.raiseAs src kind d safety esc).ownerKey = s.ownerKey := rfl
@[simp] theorem State.raiseIn_ownerKey (s : State) (ofTb : Bool) (src kind : Nat) (d : Detail) (safety esc : Bool) : (s.raiseIn ofTb src kind d safety esc).ownerKey = s.ownerKey := rfl
@[simp] theorem State.raiseAs_free (s : State) (src kind : Nat) (d : Detail) (safety esc : Bool) : (s.raiseAs src kind d safety esc).free = s.free := rfl
@[simp] theorem State.raiseIn_free (s : State) (ofTb : Bool) (src kind : Nat) (d : Detail) (safety esc : Bool) : (s.raiseIn ofTb src kind d safety esc).free = s.free := rfl
@[simp] theorem State.raiseAs_pending (s : State) (src kind : Nat) (d : Detail) (safety esc : Bool) : (s.raiseAs src kind d safety esc).pending = s.pending := rfl
@[simp] theorem State.raiseIn_pending (s : State) (ofTb : Bool) (src kind : Nat) (d : Detail) (safety esc : Bool) : (s.raiseIn ofTb src kind d safety esc).pending = s.pending := rfl

@[simp] theorem State.raise0_tb (s : State) (src kind : Nat) (d : Detail) : (s.raise0 src kind d).tb = s.tb := rfl
@[simp] theorem State.raise0_tbRun (s : State) (src kind : Nat) (d : Detail) : (s.raise0 src kind d).tbRun = s.tbRun := rfl
@[simp] theorem State.raise0_seen (s : State) (src kind : Nat) (d : Detail) : (s.raise0 src kind d).seen = s.seen := rfl
@[simp] theorem State.raise0_otp (s : State) (src kind : Nat) (d : Detail) : (s.raise0 src kind d).otp = s.otp := rfl
@[simp] theorem State.raise0_regs (s : State) (src kind : Nat) (d : Detail) : (s.raise0 src kind d).regs = s.regs := rfl
@[simp] theorem State.raise0_shadows (s : State) (src kind : Nat) (d : Detail) : (s.raise0 src kind d).shadows = s.shadows := rfl
@[simp] theorem State.raise0_staged (s : State) (src kind : Nat) (d : Detail) : (s.raise0 src kind d).staged = s.staged := rfl
@[simp] theorem State.raise0_fresh (s : State) (src kind : Nat) (d : Detail) : (s.raise0 src kind d).fresh = s.fresh := rfl
@[simp] theorem State.raise0_due (s : State) (src kind : Nat) (d : Detail) : (s.raise0 src kind d).due = s.due := rfl
@[simp] theorem State.raise0_answer (s : State) (src kind : Nat) (d : Detail) : (s.raise0 src kind d).answer = s.answer := rfl
@[simp] theorem State.raise0_fabric (s : State) (src kind : Nat) (d : Detail) : (s.raise0 src kind d).fabric = s.fabric := rfl
@[simp] theorem State.raise0_sheet (s : State) (src kind : Nat) (d : Detail) : (s.raise0 src kind d).sheet = s.sheet := rfl
@[simp] theorem State.raise0_fix (s : State) (src kind : Nat) (d : Detail) : (s.raise0 src kind d).fix = s.fix := rfl
@[simp] theorem State.raise0_spk (s : State) (src kind : Nat) (d : Detail) : (s.raise0 src kind d).spk = s.spk := rfl
@[simp] theorem State.raise0_ch (s : State) (src kind : Nat) (d : Detail) : (s.raise0 src kind d).ch = s.ch := rfl
@[simp] theorem State.raise0_capIn (s : State) (src kind : Nat) (d : Detail) : (s.raise0 src kind d).capIn = s.capIn := rfl
@[simp] theorem State.raise0_vcalOff (s : State) (src kind : Nat) (d : Detail) : (s.raise0 src kind d).vcalOff = s.vcalOff := rfl
@[simp] theorem State.raise0_pin (s : State) (src kind : Nat) (d : Detail) : (s.raise0 src kind d).pin = s.pin := rfl
@[simp] theorem State.raise0_vdet (s : State) (src kind : Nat) (d : Detail) : (s.raise0 src kind d).vdet = s.vdet := rfl
@[simp] theorem State.raise0_trgEnd (s : State) (src kind : Nat) (d : Detail) : (s.raise0 src kind d).trgEnd = s.trgEnd := rfl
@[simp] theorem State.raise0_trip (s : State) (src kind : Nat) (d : Detail) : (s.raise0 src kind d).trip = s.trip := rfl
@[simp] theorem State.raise0_cal (s : State) (src kind : Nat) (d : Detail) : (s.raise0 src kind d).cal = s.cal := rfl
@[simp] theorem State.raise0_eng (s : State) (src kind : Nat) (d : Detail) : (s.raise0 src kind d).eng = s.eng := rfl
@[simp] theorem State.raise0_ct (s : State) (src kind : Nat) (d : Detail) : (s.raise0 src kind d).ct = s.ct := rfl
@[simp] theorem State.raise0_link (s : State) (src kind : Nat) (d : Detail) : (s.raise0 src kind d).link = s.link := rfl
@[simp] theorem State.raise0_exg (s : State) (src kind : Nat) (d : Detail) : (s.raise0 src kind d).exg = s.exg := rfl
@[simp] theorem State.raise0_shq (s : State) (src kind : Nat) (d : Detail) : (s.raise0 src kind d).shq = s.shq := rfl
@[simp] theorem State.raise0_mtr (s : State) (src kind : Nat) (d : Detail) : (s.raise0 src kind d).mtr = s.mtr := rfl
@[simp] theorem State.raise0_guard (s : State) (src kind : Nat) (d : Detail) : (s.raise0 src kind d).guard = s.guard := rfl
@[simp] theorem State.raise0_rgClosed (s : State) (src kind : Nat) (d : Detail) : (s.raise0 src kind d).rgClosed = s.rgClosed := rfl
@[simp] theorem State.raise0_lim (s : State) (src kind : Nat) (d : Detail) : (s.raise0 src kind d).lim = s.lim := rfl
@[simp] theorem State.raise0_safe (s : State) (src kind : Nat) (d : Detail) : (s.raise0 src kind d).safe = s.safe := rfl
@[simp] theorem State.raise0_mem (s : State) (src kind : Nat) (d : Detail) : (s.raise0 src kind d).mem = s.mem := rfl
@[simp] theorem State.raise0_ecc (s : State) (src kind : Nat) (d : Detail) : (s.raise0 src kind d).ecc = s.ecc := rfl
@[simp] theorem State.raise0_spl (s : State) (src kind : Nat) (d : Detail) : (s.raise0 src kind d).spl = s.spl := rfl
@[simp] theorem State.raise0_cpy (s : State) (src kind : Nat) (d : Detail) : (s.raise0 src kind d).cpy = s.cpy := rfl
@[simp] theorem State.raise0_host (s : State) (src kind : Nat) (d : Detail) : (s.raise0 src kind d).host = s.host := rfl
@[simp] theorem State.raise0_keep (s : State) (src kind : Nat) (d : Detail) : (s.raise0 src kind d).keep = s.keep := rfl
@[simp] theorem State.raise0_flash (s : State) (src kind : Nat) (d : Detail) : (s.raise0 src kind d).flash = s.flash := rfl
@[simp] theorem State.raise0_boot (s : State) (src kind : Nat) (d : Detail) : (s.raise0 src kind d).boot = s.boot := rfl
@[simp] theorem State.raise0_cas (s : State) (src kind : Nat) (d : Detail) : (s.raise0 src kind d).cas = s.cas := rfl
@[simp] theorem State.raise0_slt (s : State) (src kind : Nat) (d : Detail) : (s.raise0 src kind d).slt = s.slt := rfl
@[simp] theorem State.raise0_sram (s : State) (src kind : Nat) (d : Detail) : (s.raise0 src kind d).sram = s.sram := rfl
@[simp] theorem State.raise0_order (s : State) (src kind : Nat) (d : Detail) : (s.raise0 src kind d).order = s.order := rfl
@[simp] theorem State.raise0_ownerKey (s : State) (src kind : Nat) (d : Detail) : (s.raise0 src kind d).ownerKey = s.ownerKey := rfl
@[simp] theorem State.raise0_free (s : State) (src kind : Nat) (d : Detail) : (s.raise0 src kind d).free = s.free := rfl
@[simp] theorem State.raise0_pending (s : State) (src kind : Nat) (d : Detail) : (s.raise0 src kind d).pending = s.pending := rfl

/-! What an update writes. -/

theorem State.reg_setReg_eq (s : State) (a : Nat) (w : Word) : (s.setReg a w).reg a = w :=
  sparseRead_write_eq (regDefault s.otp) s.regs a w

theorem State.reg_setReg_ne (s : State) (a b : Nat) (w : Word) (h : b ≠ a) : (s.setReg a w).reg b = s.reg b :=
  sparseRead_write_ne (regDefault s.otp) s.regs a b w h

@[simp] theorem State.modSpk_reg (s : State) (n : Nat) (f : Spk → Spk) (b : Nat) : (s.modSpk n f).reg b = s.reg b := rfl
@[simp] theorem State.modSpk_rb (s : State) (n : Nat) (f : Spk → Spk) (b i : Nat) : (s.modSpk n f).rb b i = s.rb b i := rfl
@[simp] theorem State.modCh_reg (s : State) (n : Nat) (f : Chan → Chan) (b : Nat) : (s.modCh n f).reg b = s.reg b := rfl
@[simp] theorem State.modCh_rb (s : State) (n : Nat) (f : Chan → Chan) (b i : Nat) : (s.modCh n f).rb b i = s.rb b i := rfl
@[simp] theorem State.modSlot_reg (s : State) (n x : Nat) (f : Slot → Slot) (b : Nat) : (s.modSlot n x f).reg b = s.reg b := rfl
@[simp] theorem State.modSlot_rb (s : State) (n x : Nat) (f : Slot → Slot) (b i : Nat) : (s.modSlot n x f).rb b i = s.rb b i := rfl
@[simp] theorem State.modPin_reg (s : State) (n : Nat) (f : Pin → Pin) (b : Nat) : (s.modPin n f).reg b = s.reg b := rfl
@[simp] theorem State.modPin_rb (s : State) (n : Nat) (f : Pin → Pin) (b i : Nat) : (s.modPin n f).rb b i = s.rb b i := rfl
@[simp] theorem State.modEng_reg (s : State) (n : Nat) (f : Eng → Eng) (b : Nat) : (s.modEng n f).reg b = s.reg b := rfl
@[simp] theorem State.modEng_rb (s : State) (n : Nat) (f : Eng → Eng) (b i : Nat) : (s.modEng n f).rb b i = s.rb b i := rfl
@[simp] theorem State.modThr_reg (s : State) (n : Nat) (f : Thr → Thr) (b : Nat) : (s.modThr n f).reg b = s.reg b := rfl
@[simp] theorem State.modThr_rb (s : State) (n : Nat) (f : Thr → Thr) (b i : Nat) : (s.modThr n f).rb b i = s.rb b i := rfl
@[simp] theorem State.modLink_reg (s : State) (n : Nat) (f : Link → Link) (b : Nat) : (s.modLink n f).reg b = s.reg b := rfl
@[simp] theorem State.modLink_rb (s : State) (n : Nat) (f : Link → Link) (b i : Nat) : (s.modLink n f).rb b i = s.rb b i := rfl
@[simp] theorem State.modExg_reg (s : State) (n : Nat) (f : Exg → Exg) (b : Nat) : (s.modExg n f).reg b = s.reg b := rfl
@[simp] theorem State.modExg_rb (s : State) (n : Nat) (f : Exg → Exg) (b i : Nat) : (s.modExg n f).rb b i = s.rb b i := rfl
@[simp] theorem State.modShq_reg (s : State) (n : Nat) (f : Shq → Shq) (b : Nat) : (s.modShq n f).reg b = s.reg b := rfl
@[simp] theorem State.modShq_rb (s : State) (n : Nat) (f : Shq → Shq) (b i : Nat) : (s.modShq n f).rb b i = s.rb b i := rfl
@[simp] theorem State.modMtr_reg (s : State) (n : Nat) (f : Mtr → Mtr) (b : Nat) : (s.modMtr n f).reg b = s.reg b := rfl
@[simp] theorem State.modMtr_rb (s : State) (n : Nat) (f : Mtr → Mtr) (b i : Nat) : (s.modMtr n f).rb b i = s.rb b i := rfl
@[simp] theorem State.modLim_reg (s : State) (n : Nat) (f : Lim → Lim) (b : Nat) : (s.modLim n f).reg b = s.reg b := rfl
@[simp] theorem State.modLim_rb (s : State) (n : Nat) (f : Lim → Lim) (b i : Nat) : (s.modLim n f).rb b i = s.rb b i := rfl
@[simp] theorem State.modSpl_reg (s : State) (n : Nat) (f : Spl → Spl) (b : Nat) : (s.modSpl n f).reg b = s.reg b := rfl
@[simp] theorem State.modSpl_rb (s : State) (n : Nat) (f : Spl → Spl) (b i : Nat) : (s.modSpl n f).rb b i = s.rb b i := rfl
@[simp] theorem State.modCpy_reg (s : State) (n : Nat) (f : Cpy → Cpy) (b : Nat) : (s.modCpy n f).reg b = s.reg b := rfl
@[simp] theorem State.modCpy_rb (s : State) (n : Nat) (f : Cpy → Cpy) (b i : Nat) : (s.modCpy n f).rb b i = s.rb b i := rfl
@[simp] theorem State.modFix_reg (s : State) (n : Nat) (f : FixCh → FixCh) (b : Nat) : (s.modFix n f).reg b = s.reg b := rfl
@[simp] theorem State.modFix_rb (s : State) (n : Nat) (f : FixCh → FixCh) (b i : Nat) : (s.modFix n f).rb b i = s.rb b i := rfl
@[simp] theorem State.modBank_reg (s : State) (n : Nat) (f : Bank → Bank) (b : Nat) : (s.modBank n f).reg b = s.reg b := rfl
@[simp] theorem State.modBank_rb (s : State) (n : Nat) (f : Bank → Bank) (b i : Nat) : (s.modBank n f).rb b i = s.rb b i := rfl
@[simp] theorem State.putFresh_reg (s : State) (f : Fresh) (b : Nat) : (s.putFresh f).reg b = s.reg b := rfl
@[simp] theorem State.putFresh_rb (s : State) (f : Fresh) (b i : Nat) : (s.putFresh f).rb b i = s.rb b i := rfl
@[simp] theorem State.after_reg (s : State) (d : Nat) (e : Due) (b : Nat) : (s.after d e).reg b = s.reg b := rfl
@[simp] theorem State.after_rb (s : State) (d : Nat) (e : Due) (b i : Nat) : (s.after d e).rb b i = s.rb b i := rfl
@[simp] theorem State.putShadow_reg (s : State) (m : Master) (a : Nat) (w : Word) (b : Nat) : (s.putShadow m a w).reg b = s.reg b := rfl
@[simp] theorem State.putShadow_rb (s : State) (m : Master) (a : Nat) (w : Word) (b i : Nat) : (s.putShadow m a w).rb b i = s.rb b i := rfl
@[simp] theorem State.raiseAs_reg (s : State) (src kind : Nat) (d : Detail) (safety esc : Bool) (b : Nat) : (s.raiseAs src kind d safety esc).reg b = s.reg b := rfl
@[simp] theorem State.raiseIn_reg (s : State) (ofTb : Bool) (src kind : Nat) (d : Detail) (safety esc : Bool) (b : Nat) : (s.raiseIn ofTb src kind d safety esc).reg b = s.reg b := rfl
@[simp] theorem State.raiseAs_rb (s : State) (src kind : Nat) (d : Detail) (safety esc : Bool) (b i : Nat) : (s.raiseAs src kind d safety esc).rb b i = s.rb b i := rfl
@[simp] theorem State.raiseIn_rb (s : State) (ofTb : Bool) (src kind : Nat) (d : Detail) (safety esc : Bool) (b i : Nat) : (s.raiseIn ofTb src kind d safety esc).rb b i = s.rb b i := rfl
@[simp] theorem State.raise0_reg (s : State) (src kind : Nat) (d : Detail) (b : Nat) : (s.raise0 src kind d).reg b = s.reg b := rfl
@[simp] theorem State.raise0_rb (s : State) (src kind : Nat) (d : Detail) (b i : Nat) : (s.raise0 src kind d).rb b i = s.rb b i := rfl

theorem State.spkAt_modSpk_eq (s : State) (n : Nat) (f : Spk → Spk) (h : n < 8) : (s.modSpk n f).spkAt n = f (s.spkAt n) := vget_vmodN_eq _ _ _ _ h

theorem State.spkAt_modSpk_ne (s : State) (n : Nat) (f : Spk → Spk) (j : Nat) (h : j ≠ n) : (s.modSpk n f).spkAt j = s.spkAt j := vget_vmodN_ne _ _ _ _ _ h

theorem State.chAt_modCh_eq (s : State) (n : Nat) (f : Chan → Chan) (h : n < 128) : (s.modCh n f).chAt n = f (s.chAt n) := vget_vmodN_eq _ _ _ _ h

theorem State.chAt_modCh_ne (s : State) (n : Nat) (f : Chan → Chan) (j : Nat) (h : j ≠ n) : (s.modCh n f).chAt j = s.chAt j := vget_vmodN_ne _ _ _ _ _ h

theorem State.pinAt_modPin_eq (s : State) (n : Nat) (f : Pin → Pin) (h : n < 128) : (s.modPin n f).pinAt n = f (s.pinAt n) := vget_vmodN_eq _ _ _ _ h

theorem State.pinAt_modPin_ne (s : State) (n : Nat) (f : Pin → Pin) (j : Nat) (h : j ≠ n) : (s.modPin n f).pinAt j = s.pinAt j := vget_vmodN_ne _ _ _ _ _ h

theorem State.engAt_modEng_eq (s : State) (n : Nat) (f : Eng → Eng) (h : n < 16) : (s.modEng n f).engAt n = f (s.engAt n) := vget_vmodN_eq _ _ _ _ h

theorem State.engAt_modEng_ne (s : State) (n : Nat) (f : Eng → Eng) (j : Nat) (h : j ≠ n) : (s.modEng n f).engAt j = s.engAt j := vget_vmodN_ne _ _ _ _ _ h

theorem State.linkAt_modLink_eq (s : State) (n : Nat) (f : Link → Link) (h : n < 8) : (s.modLink n f).linkAt n = f (s.linkAt n) := vget_vmodN_eq _ _ _ _ h

theorem State.linkAt_modLink_ne (s : State) (n : Nat) (f : Link → Link) (j : Nat) (h : j ≠ n) : (s.modLink n f).linkAt j = s.linkAt j := vget_vmodN_ne _ _ _ _ _ h

theorem State.exgAt_modExg_eq (s : State) (n : Nat) (f : Exg → Exg) (h : n < 16) : (s.modExg n f).exgAt n = f (s.exgAt n) := vget_vmodN_eq _ _ _ _ h

theorem State.exgAt_modExg_ne (s : State) (n : Nat) (f : Exg → Exg) (j : Nat) (h : j ≠ n) : (s.modExg n f).exgAt j = s.exgAt j := vget_vmodN_ne _ _ _ _ _ h

theorem State.shqAt_modShq_eq (s : State) (n : Nat) (f : Shq → Shq) (h : n < 32) : (s.modShq n f).shqAt n = f (s.shqAt n) := vget_vmodN_eq _ _ _ _ h

theorem State.shqAt_modShq_ne (s : State) (n : Nat) (f : Shq → Shq) (j : Nat) (h : j ≠ n) : (s.modShq n f).shqAt j = s.shqAt j := vget_vmodN_ne _ _ _ _ _ h

theorem State.mtrAt_modMtr_eq (s : State) (n : Nat) (f : Mtr → Mtr) (h : n < 256) : (s.modMtr n f).mtrAt n = f (s.mtrAt n) := vget_vmodN_eq _ _ _ _ h

theorem State.mtrAt_modMtr_ne (s : State) (n : Nat) (f : Mtr → Mtr) (j : Nat) (h : j ≠ n) : (s.modMtr n f).mtrAt j = s.mtrAt j := vget_vmodN_ne _ _ _ _ _ h

theorem State.limAt_modLim_eq (s : State) (n : Nat) (f : Lim → Lim) (h : n < 4) : (s.modLim n f).limAt n = f (s.limAt n) := vget_vmodN_eq _ _ _ _ h

theorem State.limAt_modLim_ne (s : State) (n : Nat) (f : Lim → Lim) (j : Nat) (h : j ≠ n) : (s.modLim n f).limAt j = s.limAt j := vget_vmodN_ne _ _ _ _ _ h

theorem State.splAt_modSpl_eq (s : State) (n : Nat) (f : Spl → Spl) (h : n < 8) : (s.modSpl n f).splAt n = f (s.splAt n) := vget_vmodN_eq _ _ _ _ h

theorem State.splAt_modSpl_ne (s : State) (n : Nat) (f : Spl → Spl) (j : Nat) (h : j ≠ n) : (s.modSpl n f).splAt j = s.splAt j := vget_vmodN_ne _ _ _ _ _ h

theorem State.cpyAt_modCpy_eq (s : State) (n : Nat) (f : Cpy → Cpy) (h : n < 8) : (s.modCpy n f).cpyAt n = f (s.cpyAt n) := vget_vmodN_eq _ _ _ _ h

theorem State.cpyAt_modCpy_ne (s : State) (n : Nat) (f : Cpy → Cpy) (j : Nat) (h : j ≠ n) : (s.modCpy n f).cpyAt j = s.cpyAt j := vget_vmodN_ne _ _ _ _ _ h

theorem State.fixAt_modFix_eq (s : State) (n : Nat) (f : FixCh → FixCh) (h : n < 4) : (s.modFix n f).fixAt n = f (s.fixAt n) := vget_vmodN_eq _ _ _ _ h

theorem State.fixAt_modFix_ne (s : State) (n : Nat) (f : FixCh → FixCh) (j : Nat) (h : j ≠ n) : (s.modFix n f).fixAt j = s.fixAt j := vget_vmodN_ne _ _ _ _ _ h

theorem State.bankAt_modBank_eq (s : State) (n : Nat) (f : Bank → Bank) (h : n < 3) : (s.modBank n f).bankAt n = f (s.bankAt n) := vget_vmodN_eq _ _ _ _ h

theorem State.bankAt_modBank_ne (s : State) (n : Nat) (f : Bank → Bank) (j : Nat) (h : j ≠ n) : (s.modBank n f).bankAt j = s.bankAt j := vget_vmodN_ne _ _ _ _ _ h

theorem State.thrAt_modThr_eq (s : State) (t : Nat) (f : Thr → Thr) (h : t < 64) : (s.modThr t f).thrAt t = f (s.thrAt t) := by
  unfold State.thrAt State.modThr
  rw [State.engAt_modEng_eq _ _ _ (by omega)]
  exact vget_vmodN_eq _ _ _ _ (Nat.mod_lt _ (by decide))

theorem State.thrAt_modThr_ne (s : State) (t u : Nat) (f : Thr → Thr) (ht : t < 64) (h : u ≠ t) :
    (s.modThr t f).thrAt u = s.thrAt u := by
  unfold State.thrAt State.modThr
  by_cases he : u / 4 = t / 4
  · rw [he, State.engAt_modEng_eq _ _ _ (by omega)]
    exact vget_vmodN_ne _ _ _ _ _ (by omega)
  · rw [State.engAt_modEng_ne _ _ _ _ he]

theorem State.modThr_modThr (s : State) (t : Nat) (f g : Thr → Thr) : (s.modThr t f).modThr t g = s.modThr t fun h => g (f h) := by
  simp only [State.modThr, State.modEng, vmodN_vmodN]

/-- A thread's update leaves the engine's memories alone. -/
theorem State.modThr_tray (s : State) (t e : Nat) (f : Thr → Thr) : ((s.modThr t f).engAt e).tray = (s.engAt e).tray := by
  unfold State.modThr
  by_cases h : e = t / 4
  · subst h
    by_cases hb : t / 4 < 16
    · rw [State.engAt_modEng_eq _ _ _ hb]
    · simp [State.engAt, vget, hb]
  · rw [State.engAt_modEng_ne _ _ _ _ h]

/-! The cycle's bookkeeping. -/

theorem State.hwSet_reg_eq (s : State) (a : Nat) (bits : Word) : (s.hwSet a bits).reg a = s.reg a ||| bits := by
  unfold State.hwSet
  rw [State.reg_setReg_eq]
  split <;> rfl

theorem State.hwSet_reg_ne (s : State) (a b : Nat) (bits : Word) (h : b ≠ a) : (s.hwSet a bits).reg b = s.reg b := by
  unfold State.hwSet
  rw [State.reg_setReg_ne _ _ _ _ h]
  split <;> rfl

theorem State.markWr_reg (s : State) (a b : Nat) : (s.markWr a).reg b = s.reg b := by
  unfold State.markWr
  split <;> rfl

theorem State.clearCnt_reg_eq (s : State) (a : Nat) : (s.clearCnt a).reg a = 0 := by
  unfold State.clearCnt
  rw [State.markWr_reg, State.reg_setReg_eq]

@[simp] theorem State.hwSet_tb (s : State) (a : Nat) (w : Word) : (s.hwSet a w).tb = s.tb := by unfold State.hwSet; split <;> rfl
@[simp] theorem State.hwSet_tbRun (s : State) (a : Nat) (w : Word) : (s.hwSet a w).tbRun = s.tbRun := by unfold State.hwSet; split <;> rfl
@[simp] theorem State.hwSet_seen (s : State) (a : Nat) (w : Word) : (s.hwSet a w).seen = s.seen := by unfold State.hwSet; split <;> rfl
@[simp] theorem State.hwSet_otp (s : State) (a : Nat) (w : Word) : (s.hwSet a w).otp = s.otp := by unfold State.hwSet; split <;> rfl
@[simp] theorem State.hwSet_shadows (s : State) (a : Nat) (w : Word) : (s.hwSet a w).shadows = s.shadows := by unfold State.hwSet; split <;> rfl
@[simp] theorem State.hwSet_staged (s : State) (a : Nat) (w : Word) : (s.hwSet a w).staged = s.staged := by unfold State.hwSet; split <;> rfl
@[simp] theorem State.hwSet_due (s : State) (a : Nat) (w : Word) : (s.hwSet a w).due = s.due := by unfold State.hwSet; split <;> rfl
@[simp] theorem State.hwSet_answer (s : State) (a : Nat) (w : Word) : (s.hwSet a w).answer = s.answer := by unfold State.hwSet; split <;> rfl
@[simp] theorem State.hwSet_fabric (s : State) (a : Nat) (w : Word) : (s.hwSet a w).fabric = s.fabric := by unfold State.hwSet; split <;> rfl
@[simp] theorem State.hwSet_sheet (s : State) (a : Nat) (w : Word) : (s.hwSet a w).sheet = s.sheet := by unfold State.hwSet; split <;> rfl
@[simp] theorem State.hwSet_fix (s : State) (a : Nat) (w : Word) : (s.hwSet a w).fix = s.fix := by unfold State.hwSet; split <;> rfl
@[simp] theorem State.hwSet_spk (s : State) (a : Nat) (w : Word) : (s.hwSet a w).spk = s.spk := by unfold State.hwSet; split <;> rfl
@[simp] theorem State.hwSet_ch (s : State) (a : Nat) (w : Word) : (s.hwSet a w).ch = s.ch := by unfold State.hwSet; split <;> rfl
@[simp] theorem State.hwSet_capIn (s : State) (a : Nat) (w : Word) : (s.hwSet a w).capIn = s.capIn := by unfold State.hwSet; split <;> rfl
@[simp] theorem State.hwSet_vcalOff (s : State) (a : Nat) (w : Word) : (s.hwSet a w).vcalOff = s.vcalOff := by unfold State.hwSet; split <;> rfl
@[simp] theorem State.hwSet_pin (s : State) (a : Nat) (w : Word) : (s.hwSet a w).pin = s.pin := by unfold State.hwSet; split <;> rfl
@[simp] theorem State.hwSet_vdet (s : State) (a : Nat) (w : Word) : (s.hwSet a w).vdet = s.vdet := by unfold State.hwSet; split <;> rfl
@[simp] theorem State.hwSet_trgEnd (s : State) (a : Nat) (w : Word) : (s.hwSet a w).trgEnd = s.trgEnd := by unfold State.hwSet; split <;> rfl
@[simp] theorem State.hwSet_trip (s : State) (a : Nat) (w : Word) : (s.hwSet a w).trip = s.trip := by unfold State.hwSet; split <;> rfl
@[simp] theorem State.hwSet_cal (s : State) (a : Nat) (w : Word) : (s.hwSet a w).cal = s.cal := by unfold State.hwSet; split <;> rfl
@[simp] theorem State.hwSet_eng (s : State) (a : Nat) (w : Word) : (s.hwSet a w).eng = s.eng := by unfold State.hwSet; split <;> rfl
@[simp] theorem State.hwSet_ct (s : State) (a : Nat) (w : Word) : (s.hwSet a w).ct = s.ct := by unfold State.hwSet; split <;> rfl
@[simp] theorem State.hwSet_link (s : State) (a : Nat) (w : Word) : (s.hwSet a w).link = s.link := by unfold State.hwSet; split <;> rfl
@[simp] theorem State.hwSet_exg (s : State) (a : Nat) (w : Word) : (s.hwSet a w).exg = s.exg := by unfold State.hwSet; split <;> rfl
@[simp] theorem State.hwSet_shq (s : State) (a : Nat) (w : Word) : (s.hwSet a w).shq = s.shq := by unfold State.hwSet; split <;> rfl
@[simp] theorem State.hwSet_mtr (s : State) (a : Nat) (w : Word) : (s.hwSet a w).mtr = s.mtr := by unfold State.hwSet; split <;> rfl
@[simp] theorem State.hwSet_guard (s : State) (a : Nat) (w : Word) : (s.hwSet a w).guard = s.guard := by unfold State.hwSet; split <;> rfl
@[simp] theorem State.hwSet_rgClosed (s : State) (a : Nat) (w : Word) : (s.hwSet a w).rgClosed = s.rgClosed := by unfold State.hwSet; split <;> rfl
@[simp] theorem State.hwSet_lim (s : State) (a : Nat) (w : Word) : (s.hwSet a w).lim = s.lim := by unfold State.hwSet; split <;> rfl
@[simp] theorem State.hwSet_safe (s : State) (a : Nat) (w : Word) : (s.hwSet a w).safe = s.safe := by unfold State.hwSet; split <;> rfl
@[simp] theorem State.hwSet_evr (s : State) (a : Nat) (w : Word) : (s.hwSet a w).evr = s.evr := by unfold State.hwSet; split <;> rfl
@[simp] theorem State.hwSet_mem (s : State) (a : Nat) (w : Word) : (s.hwSet a w).mem = s.mem := by unfold State.hwSet; split <;> rfl
@[simp] theorem State.hwSet_ecc (s : State) (a : Nat) (w : Word) : (s.hwSet a w).ecc = s.ecc := by unfold State.hwSet; split <;> rfl
@[simp] theorem State.hwSet_spl (s : State) (a : Nat) (w : Word) : (s.hwSet a w).spl = s.spl := by unfold State.hwSet; split <;> rfl
@[simp] theorem State.hwSet_cpy (s : State) (a : Nat) (w : Word) : (s.hwSet a w).cpy = s.cpy := by unfold State.hwSet; split <;> rfl
@[simp] theorem State.hwSet_host (s : State) (a : Nat) (w : Word) : (s.hwSet a w).host = s.host := by unfold State.hwSet; split <;> rfl
@[simp] theorem State.hwSet_keep (s : State) (a : Nat) (w : Word) : (s.hwSet a w).keep = s.keep := by unfold State.hwSet; split <;> rfl
@[simp] theorem State.hwSet_flash (s : State) (a : Nat) (w : Word) : (s.hwSet a w).flash = s.flash := by unfold State.hwSet; split <;> rfl
@[simp] theorem State.hwSet_boot (s : State) (a : Nat) (w : Word) : (s.hwSet a w).boot = s.boot := by unfold State.hwSet; split <;> rfl
@[simp] theorem State.hwSet_cas (s : State) (a : Nat) (w : Word) : (s.hwSet a w).cas = s.cas := by unfold State.hwSet; split <;> rfl
@[simp] theorem State.hwSet_slt (s : State) (a : Nat) (w : Word) : (s.hwSet a w).slt = s.slt := by unfold State.hwSet; split <;> rfl
@[simp] theorem State.hwSet_sram (s : State) (a : Nat) (w : Word) : (s.hwSet a w).sram = s.sram := by unfold State.hwSet; split <;> rfl
@[simp] theorem State.hwSet_order (s : State) (a : Nat) (w : Word) : (s.hwSet a w).order = s.order := by unfold State.hwSet; split <;> rfl
@[simp] theorem State.hwSet_ownerKey (s : State) (a : Nat) (w : Word) : (s.hwSet a w).ownerKey = s.ownerKey := by unfold State.hwSet; split <;> rfl
@[simp] theorem State.hwSet_free (s : State) (a : Nat) (w : Word) : (s.hwSet a w).free = s.free := by unfold State.hwSet; split <;> rfl
@[simp] theorem State.hwSet_pending (s : State) (a : Nat) (w : Word) : (s.hwSet a w).pending = s.pending := by unfold State.hwSet; split <;> rfl

@[simp] theorem State.hwSetBit_tb (s : State) (a i : Nat) : (s.hwSetBit a i).tb = s.tb := State.hwSet_tb s a _
@[simp] theorem State.hwSetBit_tbRun (s : State) (a i : Nat) : (s.hwSetBit a i).tbRun = s.tbRun := State.hwSet_tbRun s a _
@[simp] theorem State.hwSetBit_seen (s : State) (a i : Nat) : (s.hwSetBit a i).seen = s.seen := State.hwSet_seen s a _
@[simp] theorem State.hwSetBit_otp (s : State) (a i : Nat) : (s.hwSetBit a i).otp = s.otp := State.hwSet_otp s a _
@[simp] theorem State.hwSetBit_shadows (s : State) (a i : Nat) : (s.hwSetBit a i).shadows = s.shadows := State.hwSet_shadows s a _
@[simp] theorem State.hwSetBit_staged (s : State) (a i : Nat) : (s.hwSetBit a i).staged = s.staged := State.hwSet_staged s a _
@[simp] theorem State.hwSetBit_due (s : State) (a i : Nat) : (s.hwSetBit a i).due = s.due := State.hwSet_due s a _
@[simp] theorem State.hwSetBit_answer (s : State) (a i : Nat) : (s.hwSetBit a i).answer = s.answer := State.hwSet_answer s a _
@[simp] theorem State.hwSetBit_fabric (s : State) (a i : Nat) : (s.hwSetBit a i).fabric = s.fabric := State.hwSet_fabric s a _
@[simp] theorem State.hwSetBit_sheet (s : State) (a i : Nat) : (s.hwSetBit a i).sheet = s.sheet := State.hwSet_sheet s a _
@[simp] theorem State.hwSetBit_fix (s : State) (a i : Nat) : (s.hwSetBit a i).fix = s.fix := State.hwSet_fix s a _
@[simp] theorem State.hwSetBit_spk (s : State) (a i : Nat) : (s.hwSetBit a i).spk = s.spk := State.hwSet_spk s a _
@[simp] theorem State.hwSetBit_ch (s : State) (a i : Nat) : (s.hwSetBit a i).ch = s.ch := State.hwSet_ch s a _
@[simp] theorem State.hwSetBit_capIn (s : State) (a i : Nat) : (s.hwSetBit a i).capIn = s.capIn := State.hwSet_capIn s a _
@[simp] theorem State.hwSetBit_vcalOff (s : State) (a i : Nat) : (s.hwSetBit a i).vcalOff = s.vcalOff := State.hwSet_vcalOff s a _
@[simp] theorem State.hwSetBit_pin (s : State) (a i : Nat) : (s.hwSetBit a i).pin = s.pin := State.hwSet_pin s a _
@[simp] theorem State.hwSetBit_vdet (s : State) (a i : Nat) : (s.hwSetBit a i).vdet = s.vdet := State.hwSet_vdet s a _
@[simp] theorem State.hwSetBit_trgEnd (s : State) (a i : Nat) : (s.hwSetBit a i).trgEnd = s.trgEnd := State.hwSet_trgEnd s a _
@[simp] theorem State.hwSetBit_trip (s : State) (a i : Nat) : (s.hwSetBit a i).trip = s.trip := State.hwSet_trip s a _
@[simp] theorem State.hwSetBit_cal (s : State) (a i : Nat) : (s.hwSetBit a i).cal = s.cal := State.hwSet_cal s a _
@[simp] theorem State.hwSetBit_eng (s : State) (a i : Nat) : (s.hwSetBit a i).eng = s.eng := State.hwSet_eng s a _
@[simp] theorem State.hwSetBit_ct (s : State) (a i : Nat) : (s.hwSetBit a i).ct = s.ct := State.hwSet_ct s a _
@[simp] theorem State.hwSetBit_link (s : State) (a i : Nat) : (s.hwSetBit a i).link = s.link := State.hwSet_link s a _
@[simp] theorem State.hwSetBit_exg (s : State) (a i : Nat) : (s.hwSetBit a i).exg = s.exg := State.hwSet_exg s a _
@[simp] theorem State.hwSetBit_shq (s : State) (a i : Nat) : (s.hwSetBit a i).shq = s.shq := State.hwSet_shq s a _
@[simp] theorem State.hwSetBit_mtr (s : State) (a i : Nat) : (s.hwSetBit a i).mtr = s.mtr := State.hwSet_mtr s a _
@[simp] theorem State.hwSetBit_guard (s : State) (a i : Nat) : (s.hwSetBit a i).guard = s.guard := State.hwSet_guard s a _
@[simp] theorem State.hwSetBit_rgClosed (s : State) (a i : Nat) : (s.hwSetBit a i).rgClosed = s.rgClosed := State.hwSet_rgClosed s a _
@[simp] theorem State.hwSetBit_lim (s : State) (a i : Nat) : (s.hwSetBit a i).lim = s.lim := State.hwSet_lim s a _
@[simp] theorem State.hwSetBit_safe (s : State) (a i : Nat) : (s.hwSetBit a i).safe = s.safe := State.hwSet_safe s a _
@[simp] theorem State.hwSetBit_evr (s : State) (a i : Nat) : (s.hwSetBit a i).evr = s.evr := State.hwSet_evr s a _
@[simp] theorem State.hwSetBit_mem (s : State) (a i : Nat) : (s.hwSetBit a i).mem = s.mem := State.hwSet_mem s a _
@[simp] theorem State.hwSetBit_ecc (s : State) (a i : Nat) : (s.hwSetBit a i).ecc = s.ecc := State.hwSet_ecc s a _
@[simp] theorem State.hwSetBit_spl (s : State) (a i : Nat) : (s.hwSetBit a i).spl = s.spl := State.hwSet_spl s a _
@[simp] theorem State.hwSetBit_cpy (s : State) (a i : Nat) : (s.hwSetBit a i).cpy = s.cpy := State.hwSet_cpy s a _
@[simp] theorem State.hwSetBit_host (s : State) (a i : Nat) : (s.hwSetBit a i).host = s.host := State.hwSet_host s a _
@[simp] theorem State.hwSetBit_keep (s : State) (a i : Nat) : (s.hwSetBit a i).keep = s.keep := State.hwSet_keep s a _
@[simp] theorem State.hwSetBit_flash (s : State) (a i : Nat) : (s.hwSetBit a i).flash = s.flash := State.hwSet_flash s a _
@[simp] theorem State.hwSetBit_boot (s : State) (a i : Nat) : (s.hwSetBit a i).boot = s.boot := State.hwSet_boot s a _
@[simp] theorem State.hwSetBit_cas (s : State) (a i : Nat) : (s.hwSetBit a i).cas = s.cas := State.hwSet_cas s a _
@[simp] theorem State.hwSetBit_slt (s : State) (a i : Nat) : (s.hwSetBit a i).slt = s.slt := State.hwSet_slt s a _
@[simp] theorem State.hwSetBit_sram (s : State) (a i : Nat) : (s.hwSetBit a i).sram = s.sram := State.hwSet_sram s a _
@[simp] theorem State.hwSetBit_order (s : State) (a i : Nat) : (s.hwSetBit a i).order = s.order := State.hwSet_order s a _
@[simp] theorem State.hwSetBit_ownerKey (s : State) (a i : Nat) : (s.hwSetBit a i).ownerKey = s.ownerKey := State.hwSet_ownerKey s a _
@[simp] theorem State.hwSetBit_free (s : State) (a i : Nat) : (s.hwSetBit a i).free = s.free := State.hwSet_free s a _
@[simp] theorem State.hwSetBit_pending (s : State) (a i : Nat) : (s.hwSetBit a i).pending = s.pending := State.hwSet_pending s a _

@[simp] theorem State.markWr_tb (s : State) (a : Nat) : (s.markWr a).tb = s.tb := by unfold State.markWr; split <;> rfl
@[simp] theorem State.markWr_tbRun (s : State) (a : Nat) : (s.markWr a).tbRun = s.tbRun := by unfold State.markWr; split <;> rfl
@[simp] theorem State.markWr_seen (s : State) (a : Nat) : (s.markWr a).seen = s.seen := by unfold State.markWr; split <;> rfl
@[simp] theorem State.markWr_otp (s : State) (a : Nat) : (s.markWr a).otp = s.otp := by unfold State.markWr; split <;> rfl
@[simp] theorem State.markWr_regs (s : State) (a : Nat) : (s.markWr a).regs = s.regs := by unfold State.markWr; split <;> rfl
@[simp] theorem State.markWr_shadows (s : State) (a : Nat) : (s.markWr a).shadows = s.shadows := by unfold State.markWr; split <;> rfl
@[simp] theorem State.markWr_staged (s : State) (a : Nat) : (s.markWr a).staged = s.staged := by unfold State.markWr; split <;> rfl
@[simp] theorem State.markWr_due (s : State) (a : Nat) : (s.markWr a).due = s.due := by unfold State.markWr; split <;> rfl
@[simp] theorem State.markWr_answer (s : State) (a : Nat) : (s.markWr a).answer = s.answer := by unfold State.markWr; split <;> rfl
@[simp] theorem State.markWr_fabric (s : State) (a : Nat) : (s.markWr a).fabric = s.fabric := by unfold State.markWr; split <;> rfl
@[simp] theorem State.markWr_sheet (s : State) (a : Nat) : (s.markWr a).sheet = s.sheet := by unfold State.markWr; split <;> rfl
@[simp] theorem State.markWr_fix (s : State) (a : Nat) : (s.markWr a).fix = s.fix := by unfold State.markWr; split <;> rfl
@[simp] theorem State.markWr_spk (s : State) (a : Nat) : (s.markWr a).spk = s.spk := by unfold State.markWr; split <;> rfl
@[simp] theorem State.markWr_ch (s : State) (a : Nat) : (s.markWr a).ch = s.ch := by unfold State.markWr; split <;> rfl
@[simp] theorem State.markWr_capIn (s : State) (a : Nat) : (s.markWr a).capIn = s.capIn := by unfold State.markWr; split <;> rfl
@[simp] theorem State.markWr_vcalOff (s : State) (a : Nat) : (s.markWr a).vcalOff = s.vcalOff := by unfold State.markWr; split <;> rfl
@[simp] theorem State.markWr_pin (s : State) (a : Nat) : (s.markWr a).pin = s.pin := by unfold State.markWr; split <;> rfl
@[simp] theorem State.markWr_vdet (s : State) (a : Nat) : (s.markWr a).vdet = s.vdet := by unfold State.markWr; split <;> rfl
@[simp] theorem State.markWr_trgEnd (s : State) (a : Nat) : (s.markWr a).trgEnd = s.trgEnd := by unfold State.markWr; split <;> rfl
@[simp] theorem State.markWr_trip (s : State) (a : Nat) : (s.markWr a).trip = s.trip := by unfold State.markWr; split <;> rfl
@[simp] theorem State.markWr_cal (s : State) (a : Nat) : (s.markWr a).cal = s.cal := by unfold State.markWr; split <;> rfl
@[simp] theorem State.markWr_eng (s : State) (a : Nat) : (s.markWr a).eng = s.eng := by unfold State.markWr; split <;> rfl
@[simp] theorem State.markWr_ct (s : State) (a : Nat) : (s.markWr a).ct = s.ct := by unfold State.markWr; split <;> rfl
@[simp] theorem State.markWr_link (s : State) (a : Nat) : (s.markWr a).link = s.link := by unfold State.markWr; split <;> rfl
@[simp] theorem State.markWr_exg (s : State) (a : Nat) : (s.markWr a).exg = s.exg := by unfold State.markWr; split <;> rfl
@[simp] theorem State.markWr_shq (s : State) (a : Nat) : (s.markWr a).shq = s.shq := by unfold State.markWr; split <;> rfl
@[simp] theorem State.markWr_mtr (s : State) (a : Nat) : (s.markWr a).mtr = s.mtr := by unfold State.markWr; split <;> rfl
@[simp] theorem State.markWr_guard (s : State) (a : Nat) : (s.markWr a).guard = s.guard := by unfold State.markWr; split <;> rfl
@[simp] theorem State.markWr_rgClosed (s : State) (a : Nat) : (s.markWr a).rgClosed = s.rgClosed := by unfold State.markWr; split <;> rfl
@[simp] theorem State.markWr_lim (s : State) (a : Nat) : (s.markWr a).lim = s.lim := by unfold State.markWr; split <;> rfl
@[simp] theorem State.markWr_safe (s : State) (a : Nat) : (s.markWr a).safe = s.safe := by unfold State.markWr; split <;> rfl
@[simp] theorem State.markWr_evr (s : State) (a : Nat) : (s.markWr a).evr = s.evr := by unfold State.markWr; split <;> rfl
@[simp] theorem State.markWr_mem (s : State) (a : Nat) : (s.markWr a).mem = s.mem := by unfold State.markWr; split <;> rfl
@[simp] theorem State.markWr_ecc (s : State) (a : Nat) : (s.markWr a).ecc = s.ecc := by unfold State.markWr; split <;> rfl
@[simp] theorem State.markWr_spl (s : State) (a : Nat) : (s.markWr a).spl = s.spl := by unfold State.markWr; split <;> rfl
@[simp] theorem State.markWr_cpy (s : State) (a : Nat) : (s.markWr a).cpy = s.cpy := by unfold State.markWr; split <;> rfl
@[simp] theorem State.markWr_host (s : State) (a : Nat) : (s.markWr a).host = s.host := by unfold State.markWr; split <;> rfl
@[simp] theorem State.markWr_keep (s : State) (a : Nat) : (s.markWr a).keep = s.keep := by unfold State.markWr; split <;> rfl
@[simp] theorem State.markWr_flash (s : State) (a : Nat) : (s.markWr a).flash = s.flash := by unfold State.markWr; split <;> rfl
@[simp] theorem State.markWr_boot (s : State) (a : Nat) : (s.markWr a).boot = s.boot := by unfold State.markWr; split <;> rfl
@[simp] theorem State.markWr_cas (s : State) (a : Nat) : (s.markWr a).cas = s.cas := by unfold State.markWr; split <;> rfl
@[simp] theorem State.markWr_slt (s : State) (a : Nat) : (s.markWr a).slt = s.slt := by unfold State.markWr; split <;> rfl
@[simp] theorem State.markWr_sram (s : State) (a : Nat) : (s.markWr a).sram = s.sram := by unfold State.markWr; split <;> rfl
@[simp] theorem State.markWr_order (s : State) (a : Nat) : (s.markWr a).order = s.order := by unfold State.markWr; split <;> rfl
@[simp] theorem State.markWr_ownerKey (s : State) (a : Nat) : (s.markWr a).ownerKey = s.ownerKey := by unfold State.markWr; split <;> rfl
@[simp] theorem State.markWr_free (s : State) (a : Nat) : (s.markWr a).free = s.free := by unfold State.markWr; split <;> rfl
@[simp] theorem State.markWr_pending (s : State) (a : Nat) : (s.markWr a).pending = s.pending := by unfold State.markWr; split <;> rfl

@[simp] theorem State.bump_tb (s : State) (a hi lo : Nat) : (s.bump a hi lo).tb = s.tb := by unfold State.bump; split <;> rfl
@[simp] theorem State.bump_tbRun (s : State) (a hi lo : Nat) : (s.bump a hi lo).tbRun = s.tbRun := by unfold State.bump; split <;> rfl
@[simp] theorem State.bump_seen (s : State) (a hi lo : Nat) : (s.bump a hi lo).seen = s.seen := by unfold State.bump; split <;> rfl
@[simp] theorem State.bump_otp (s : State) (a hi lo : Nat) : (s.bump a hi lo).otp = s.otp := by unfold State.bump; split <;> rfl
@[simp] theorem State.bump_shadows (s : State) (a hi lo : Nat) : (s.bump a hi lo).shadows = s.shadows := by unfold State.bump; split <;> rfl
@[simp] theorem State.bump_staged (s : State) (a hi lo : Nat) : (s.bump a hi lo).staged = s.staged := by unfold State.bump; split <;> rfl
@[simp] theorem State.bump_fresh (s : State) (a hi lo : Nat) : (s.bump a hi lo).fresh = s.fresh := by unfold State.bump; split <;> rfl
@[simp] theorem State.bump_due (s : State) (a hi lo : Nat) : (s.bump a hi lo).due = s.due := by unfold State.bump; split <;> rfl
@[simp] theorem State.bump_answer (s : State) (a hi lo : Nat) : (s.bump a hi lo).answer = s.answer := by unfold State.bump; split <;> rfl
@[simp] theorem State.bump_fabric (s : State) (a hi lo : Nat) : (s.bump a hi lo).fabric = s.fabric := by unfold State.bump; split <;> rfl
@[simp] theorem State.bump_sheet (s : State) (a hi lo : Nat) : (s.bump a hi lo).sheet = s.sheet := by unfold State.bump; split <;> rfl
@[simp] theorem State.bump_fix (s : State) (a hi lo : Nat) : (s.bump a hi lo).fix = s.fix := by unfold State.bump; split <;> rfl
@[simp] theorem State.bump_spk (s : State) (a hi lo : Nat) : (s.bump a hi lo).spk = s.spk := by unfold State.bump; split <;> rfl
@[simp] theorem State.bump_ch (s : State) (a hi lo : Nat) : (s.bump a hi lo).ch = s.ch := by unfold State.bump; split <;> rfl
@[simp] theorem State.bump_capIn (s : State) (a hi lo : Nat) : (s.bump a hi lo).capIn = s.capIn := by unfold State.bump; split <;> rfl
@[simp] theorem State.bump_vcalOff (s : State) (a hi lo : Nat) : (s.bump a hi lo).vcalOff = s.vcalOff := by unfold State.bump; split <;> rfl
@[simp] theorem State.bump_pin (s : State) (a hi lo : Nat) : (s.bump a hi lo).pin = s.pin := by unfold State.bump; split <;> rfl
@[simp] theorem State.bump_vdet (s : State) (a hi lo : Nat) : (s.bump a hi lo).vdet = s.vdet := by unfold State.bump; split <;> rfl
@[simp] theorem State.bump_trgEnd (s : State) (a hi lo : Nat) : (s.bump a hi lo).trgEnd = s.trgEnd := by unfold State.bump; split <;> rfl
@[simp] theorem State.bump_trip (s : State) (a hi lo : Nat) : (s.bump a hi lo).trip = s.trip := by unfold State.bump; split <;> rfl
@[simp] theorem State.bump_cal (s : State) (a hi lo : Nat) : (s.bump a hi lo).cal = s.cal := by unfold State.bump; split <;> rfl
@[simp] theorem State.bump_eng (s : State) (a hi lo : Nat) : (s.bump a hi lo).eng = s.eng := by unfold State.bump; split <;> rfl
@[simp] theorem State.bump_ct (s : State) (a hi lo : Nat) : (s.bump a hi lo).ct = s.ct := by unfold State.bump; split <;> rfl
@[simp] theorem State.bump_link (s : State) (a hi lo : Nat) : (s.bump a hi lo).link = s.link := by unfold State.bump; split <;> rfl
@[simp] theorem State.bump_exg (s : State) (a hi lo : Nat) : (s.bump a hi lo).exg = s.exg := by unfold State.bump; split <;> rfl
@[simp] theorem State.bump_shq (s : State) (a hi lo : Nat) : (s.bump a hi lo).shq = s.shq := by unfold State.bump; split <;> rfl
@[simp] theorem State.bump_mtr (s : State) (a hi lo : Nat) : (s.bump a hi lo).mtr = s.mtr := by unfold State.bump; split <;> rfl
@[simp] theorem State.bump_guard (s : State) (a hi lo : Nat) : (s.bump a hi lo).guard = s.guard := by unfold State.bump; split <;> rfl
@[simp] theorem State.bump_rgClosed (s : State) (a hi lo : Nat) : (s.bump a hi lo).rgClosed = s.rgClosed := by unfold State.bump; split <;> rfl
@[simp] theorem State.bump_lim (s : State) (a hi lo : Nat) : (s.bump a hi lo).lim = s.lim := by unfold State.bump; split <;> rfl
@[simp] theorem State.bump_safe (s : State) (a hi lo : Nat) : (s.bump a hi lo).safe = s.safe := by unfold State.bump; split <;> rfl
@[simp] theorem State.bump_evr (s : State) (a hi lo : Nat) : (s.bump a hi lo).evr = s.evr := by unfold State.bump; split <;> rfl
@[simp] theorem State.bump_mem (s : State) (a hi lo : Nat) : (s.bump a hi lo).mem = s.mem := by unfold State.bump; split <;> rfl
@[simp] theorem State.bump_ecc (s : State) (a hi lo : Nat) : (s.bump a hi lo).ecc = s.ecc := by unfold State.bump; split <;> rfl
@[simp] theorem State.bump_spl (s : State) (a hi lo : Nat) : (s.bump a hi lo).spl = s.spl := by unfold State.bump; split <;> rfl
@[simp] theorem State.bump_cpy (s : State) (a hi lo : Nat) : (s.bump a hi lo).cpy = s.cpy := by unfold State.bump; split <;> rfl
@[simp] theorem State.bump_host (s : State) (a hi lo : Nat) : (s.bump a hi lo).host = s.host := by unfold State.bump; split <;> rfl
@[simp] theorem State.bump_keep (s : State) (a hi lo : Nat) : (s.bump a hi lo).keep = s.keep := by unfold State.bump; split <;> rfl
@[simp] theorem State.bump_flash (s : State) (a hi lo : Nat) : (s.bump a hi lo).flash = s.flash := by unfold State.bump; split <;> rfl
@[simp] theorem State.bump_boot (s : State) (a hi lo : Nat) : (s.bump a hi lo).boot = s.boot := by unfold State.bump; split <;> rfl
@[simp] theorem State.bump_cas (s : State) (a hi lo : Nat) : (s.bump a hi lo).cas = s.cas := by unfold State.bump; split <;> rfl
@[simp] theorem State.bump_slt (s : State) (a hi lo : Nat) : (s.bump a hi lo).slt = s.slt := by unfold State.bump; split <;> rfl
@[simp] theorem State.bump_sram (s : State) (a hi lo : Nat) : (s.bump a hi lo).sram = s.sram := by unfold State.bump; split <;> rfl
@[simp] theorem State.bump_order (s : State) (a hi lo : Nat) : (s.bump a hi lo).order = s.order := by unfold State.bump; split <;> rfl
@[simp] theorem State.bump_ownerKey (s : State) (a hi lo : Nat) : (s.bump a hi lo).ownerKey = s.ownerKey := by unfold State.bump; split <;> rfl
@[simp] theorem State.bump_free (s : State) (a hi lo : Nat) : (s.bump a hi lo).free = s.free := by unfold State.bump; split <;> rfl
@[simp] theorem State.bump_pending (s : State) (a hi lo : Nat) : (s.bump a hi lo).pending = s.pending := by unfold State.bump; split <;> rfl

@[simp] theorem State.clearCnt_tb (s : State) (a : Nat) : (s.clearCnt a).tb = s.tb := State.markWr_tb _ a
@[simp] theorem State.clearCnt_tbRun (s : State) (a : Nat) : (s.clearCnt a).tbRun = s.tbRun := State.markWr_tbRun _ a
@[simp] theorem State.clearCnt_seen (s : State) (a : Nat) : (s.clearCnt a).seen = s.seen := State.markWr_seen _ a
@[simp] theorem State.clearCnt_otp (s : State) (a : Nat) : (s.clearCnt a).otp = s.otp := State.markWr_otp _ a
@[simp] theorem State.clearCnt_shadows (s : State) (a : Nat) : (s.clearCnt a).shadows = s.shadows := State.markWr_shadows _ a
@[simp] theorem State.clearCnt_staged (s : State) (a : Nat) : (s.clearCnt a).staged = s.staged := State.markWr_staged _ a
@[simp] theorem State.clearCnt_due (s : State) (a : Nat) : (s.clearCnt a).due = s.due := State.markWr_due _ a
@[simp] theorem State.clearCnt_answer (s : State) (a : Nat) : (s.clearCnt a).answer = s.answer := State.markWr_answer _ a
@[simp] theorem State.clearCnt_fabric (s : State) (a : Nat) : (s.clearCnt a).fabric = s.fabric := State.markWr_fabric _ a
@[simp] theorem State.clearCnt_sheet (s : State) (a : Nat) : (s.clearCnt a).sheet = s.sheet := State.markWr_sheet _ a
@[simp] theorem State.clearCnt_fix (s : State) (a : Nat) : (s.clearCnt a).fix = s.fix := State.markWr_fix _ a
@[simp] theorem State.clearCnt_spk (s : State) (a : Nat) : (s.clearCnt a).spk = s.spk := State.markWr_spk _ a
@[simp] theorem State.clearCnt_ch (s : State) (a : Nat) : (s.clearCnt a).ch = s.ch := State.markWr_ch _ a
@[simp] theorem State.clearCnt_capIn (s : State) (a : Nat) : (s.clearCnt a).capIn = s.capIn := State.markWr_capIn _ a
@[simp] theorem State.clearCnt_vcalOff (s : State) (a : Nat) : (s.clearCnt a).vcalOff = s.vcalOff := State.markWr_vcalOff _ a
@[simp] theorem State.clearCnt_pin (s : State) (a : Nat) : (s.clearCnt a).pin = s.pin := State.markWr_pin _ a
@[simp] theorem State.clearCnt_vdet (s : State) (a : Nat) : (s.clearCnt a).vdet = s.vdet := State.markWr_vdet _ a
@[simp] theorem State.clearCnt_trgEnd (s : State) (a : Nat) : (s.clearCnt a).trgEnd = s.trgEnd := State.markWr_trgEnd _ a
@[simp] theorem State.clearCnt_trip (s : State) (a : Nat) : (s.clearCnt a).trip = s.trip := State.markWr_trip _ a
@[simp] theorem State.clearCnt_cal (s : State) (a : Nat) : (s.clearCnt a).cal = s.cal := State.markWr_cal _ a
@[simp] theorem State.clearCnt_eng (s : State) (a : Nat) : (s.clearCnt a).eng = s.eng := State.markWr_eng _ a
@[simp] theorem State.clearCnt_ct (s : State) (a : Nat) : (s.clearCnt a).ct = s.ct := State.markWr_ct _ a
@[simp] theorem State.clearCnt_link (s : State) (a : Nat) : (s.clearCnt a).link = s.link := State.markWr_link _ a
@[simp] theorem State.clearCnt_exg (s : State) (a : Nat) : (s.clearCnt a).exg = s.exg := State.markWr_exg _ a
@[simp] theorem State.clearCnt_shq (s : State) (a : Nat) : (s.clearCnt a).shq = s.shq := State.markWr_shq _ a
@[simp] theorem State.clearCnt_mtr (s : State) (a : Nat) : (s.clearCnt a).mtr = s.mtr := State.markWr_mtr _ a
@[simp] theorem State.clearCnt_guard (s : State) (a : Nat) : (s.clearCnt a).guard = s.guard := State.markWr_guard _ a
@[simp] theorem State.clearCnt_rgClosed (s : State) (a : Nat) : (s.clearCnt a).rgClosed = s.rgClosed := State.markWr_rgClosed _ a
@[simp] theorem State.clearCnt_lim (s : State) (a : Nat) : (s.clearCnt a).lim = s.lim := State.markWr_lim _ a
@[simp] theorem State.clearCnt_safe (s : State) (a : Nat) : (s.clearCnt a).safe = s.safe := State.markWr_safe _ a
@[simp] theorem State.clearCnt_evr (s : State) (a : Nat) : (s.clearCnt a).evr = s.evr := State.markWr_evr _ a
@[simp] theorem State.clearCnt_mem (s : State) (a : Nat) : (s.clearCnt a).mem = s.mem := State.markWr_mem _ a
@[simp] theorem State.clearCnt_ecc (s : State) (a : Nat) : (s.clearCnt a).ecc = s.ecc := State.markWr_ecc _ a
@[simp] theorem State.clearCnt_spl (s : State) (a : Nat) : (s.clearCnt a).spl = s.spl := State.markWr_spl _ a
@[simp] theorem State.clearCnt_cpy (s : State) (a : Nat) : (s.clearCnt a).cpy = s.cpy := State.markWr_cpy _ a
@[simp] theorem State.clearCnt_host (s : State) (a : Nat) : (s.clearCnt a).host = s.host := State.markWr_host _ a
@[simp] theorem State.clearCnt_keep (s : State) (a : Nat) : (s.clearCnt a).keep = s.keep := State.markWr_keep _ a
@[simp] theorem State.clearCnt_flash (s : State) (a : Nat) : (s.clearCnt a).flash = s.flash := State.markWr_flash _ a
@[simp] theorem State.clearCnt_boot (s : State) (a : Nat) : (s.clearCnt a).boot = s.boot := State.markWr_boot _ a
@[simp] theorem State.clearCnt_cas (s : State) (a : Nat) : (s.clearCnt a).cas = s.cas := State.markWr_cas _ a
@[simp] theorem State.clearCnt_slt (s : State) (a : Nat) : (s.clearCnt a).slt = s.slt := State.markWr_slt _ a
@[simp] theorem State.clearCnt_sram (s : State) (a : Nat) : (s.clearCnt a).sram = s.sram := State.markWr_sram _ a
@[simp] theorem State.clearCnt_order (s : State) (a : Nat) : (s.clearCnt a).order = s.order := State.markWr_order _ a
@[simp] theorem State.clearCnt_ownerKey (s : State) (a : Nat) : (s.clearCnt a).ownerKey = s.ownerKey := State.markWr_ownerKey _ a
@[simp] theorem State.clearCnt_free (s : State) (a : Nat) : (s.clearCnt a).free = s.free := State.markWr_free _ a
@[simp] theorem State.clearCnt_pending (s : State) (a : Nat) : (s.clearCnt a).pending = s.pending := State.markWr_pending _ a

@[simp] theorem State.evtRaise_tb (s : State) (evt en src b : Nat) (always : Bool) : (s.evtRaise evt en src b always).tb = s.tb := by unfold State.evtRaise; dsimp only; split <;> simp
@[simp] theorem State.evtRaise_tbRun (s : State) (evt en src b : Nat) (always : Bool) : (s.evtRaise evt en src b always).tbRun = s.tbRun := by unfold State.evtRaise; dsimp only; split <;> simp
@[simp] theorem State.evtRaise_seen (s : State) (evt en src b : Nat) (always : Bool) : (s.evtRaise evt en src b always).seen = s.seen := by unfold State.evtRaise; dsimp only; split <;> simp
@[simp] theorem State.evtRaise_otp (s : State) (evt en src b : Nat) (always : Bool) : (s.evtRaise evt en src b always).otp = s.otp := by unfold State.evtRaise; dsimp only; split <;> simp
@[simp] theorem State.evtRaise_shadows (s : State) (evt en src b : Nat) (always : Bool) : (s.evtRaise evt en src b always).shadows = s.shadows := by unfold State.evtRaise; dsimp only; split <;> simp
@[simp] theorem State.evtRaise_staged (s : State) (evt en src b : Nat) (always : Bool) : (s.evtRaise evt en src b always).staged = s.staged := by unfold State.evtRaise; dsimp only; split <;> simp
@[simp] theorem State.evtRaise_due (s : State) (evt en src b : Nat) (always : Bool) : (s.evtRaise evt en src b always).due = s.due := by unfold State.evtRaise; dsimp only; split <;> simp
@[simp] theorem State.evtRaise_answer (s : State) (evt en src b : Nat) (always : Bool) : (s.evtRaise evt en src b always).answer = s.answer := by unfold State.evtRaise; dsimp only; split <;> simp
@[simp] theorem State.evtRaise_fabric (s : State) (evt en src b : Nat) (always : Bool) : (s.evtRaise evt en src b always).fabric = s.fabric := by unfold State.evtRaise; dsimp only; split <;> simp
@[simp] theorem State.evtRaise_sheet (s : State) (evt en src b : Nat) (always : Bool) : (s.evtRaise evt en src b always).sheet = s.sheet := by unfold State.evtRaise; dsimp only; split <;> simp
@[simp] theorem State.evtRaise_fix (s : State) (evt en src b : Nat) (always : Bool) : (s.evtRaise evt en src b always).fix = s.fix := by unfold State.evtRaise; dsimp only; split <;> simp
@[simp] theorem State.evtRaise_spk (s : State) (evt en src b : Nat) (always : Bool) : (s.evtRaise evt en src b always).spk = s.spk := by unfold State.evtRaise; dsimp only; split <;> simp
@[simp] theorem State.evtRaise_ch (s : State) (evt en src b : Nat) (always : Bool) : (s.evtRaise evt en src b always).ch = s.ch := by unfold State.evtRaise; dsimp only; split <;> simp
@[simp] theorem State.evtRaise_capIn (s : State) (evt en src b : Nat) (always : Bool) : (s.evtRaise evt en src b always).capIn = s.capIn := by unfold State.evtRaise; dsimp only; split <;> simp
@[simp] theorem State.evtRaise_vcalOff (s : State) (evt en src b : Nat) (always : Bool) : (s.evtRaise evt en src b always).vcalOff = s.vcalOff := by unfold State.evtRaise; dsimp only; split <;> simp
@[simp] theorem State.evtRaise_pin (s : State) (evt en src b : Nat) (always : Bool) : (s.evtRaise evt en src b always).pin = s.pin := by unfold State.evtRaise; dsimp only; split <;> simp
@[simp] theorem State.evtRaise_vdet (s : State) (evt en src b : Nat) (always : Bool) : (s.evtRaise evt en src b always).vdet = s.vdet := by unfold State.evtRaise; dsimp only; split <;> simp
@[simp] theorem State.evtRaise_trgEnd (s : State) (evt en src b : Nat) (always : Bool) : (s.evtRaise evt en src b always).trgEnd = s.trgEnd := by unfold State.evtRaise; dsimp only; split <;> simp
@[simp] theorem State.evtRaise_trip (s : State) (evt en src b : Nat) (always : Bool) : (s.evtRaise evt en src b always).trip = s.trip := by unfold State.evtRaise; dsimp only; split <;> simp
@[simp] theorem State.evtRaise_cal (s : State) (evt en src b : Nat) (always : Bool) : (s.evtRaise evt en src b always).cal = s.cal := by unfold State.evtRaise; dsimp only; split <;> simp
@[simp] theorem State.evtRaise_eng (s : State) (evt en src b : Nat) (always : Bool) : (s.evtRaise evt en src b always).eng = s.eng := by unfold State.evtRaise; dsimp only; split <;> simp
@[simp] theorem State.evtRaise_ct (s : State) (evt en src b : Nat) (always : Bool) : (s.evtRaise evt en src b always).ct = s.ct := by unfold State.evtRaise; dsimp only; split <;> simp
@[simp] theorem State.evtRaise_link (s : State) (evt en src b : Nat) (always : Bool) : (s.evtRaise evt en src b always).link = s.link := by unfold State.evtRaise; dsimp only; split <;> simp
@[simp] theorem State.evtRaise_exg (s : State) (evt en src b : Nat) (always : Bool) : (s.evtRaise evt en src b always).exg = s.exg := by unfold State.evtRaise; dsimp only; split <;> simp
@[simp] theorem State.evtRaise_shq (s : State) (evt en src b : Nat) (always : Bool) : (s.evtRaise evt en src b always).shq = s.shq := by unfold State.evtRaise; dsimp only; split <;> simp
@[simp] theorem State.evtRaise_mtr (s : State) (evt en src b : Nat) (always : Bool) : (s.evtRaise evt en src b always).mtr = s.mtr := by unfold State.evtRaise; dsimp only; split <;> simp
@[simp] theorem State.evtRaise_guard (s : State) (evt en src b : Nat) (always : Bool) : (s.evtRaise evt en src b always).guard = s.guard := by unfold State.evtRaise; dsimp only; split <;> simp
@[simp] theorem State.evtRaise_rgClosed (s : State) (evt en src b : Nat) (always : Bool) : (s.evtRaise evt en src b always).rgClosed = s.rgClosed := by unfold State.evtRaise; dsimp only; split <;> simp
@[simp] theorem State.evtRaise_lim (s : State) (evt en src b : Nat) (always : Bool) : (s.evtRaise evt en src b always).lim = s.lim := by unfold State.evtRaise; dsimp only; split <;> simp
@[simp] theorem State.evtRaise_safe (s : State) (evt en src b : Nat) (always : Bool) : (s.evtRaise evt en src b always).safe = s.safe := by unfold State.evtRaise; dsimp only; split <;> simp
@[simp] theorem State.evtRaise_mem (s : State) (evt en src b : Nat) (always : Bool) : (s.evtRaise evt en src b always).mem = s.mem := by unfold State.evtRaise; dsimp only; split <;> simp
@[simp] theorem State.evtRaise_ecc (s : State) (evt en src b : Nat) (always : Bool) : (s.evtRaise evt en src b always).ecc = s.ecc := by unfold State.evtRaise; dsimp only; split <;> simp
@[simp] theorem State.evtRaise_spl (s : State) (evt en src b : Nat) (always : Bool) : (s.evtRaise evt en src b always).spl = s.spl := by unfold State.evtRaise; dsimp only; split <;> simp
@[simp] theorem State.evtRaise_cpy (s : State) (evt en src b : Nat) (always : Bool) : (s.evtRaise evt en src b always).cpy = s.cpy := by unfold State.evtRaise; dsimp only; split <;> simp
@[simp] theorem State.evtRaise_host (s : State) (evt en src b : Nat) (always : Bool) : (s.evtRaise evt en src b always).host = s.host := by unfold State.evtRaise; dsimp only; split <;> simp
@[simp] theorem State.evtRaise_keep (s : State) (evt en src b : Nat) (always : Bool) : (s.evtRaise evt en src b always).keep = s.keep := by unfold State.evtRaise; dsimp only; split <;> simp
@[simp] theorem State.evtRaise_flash (s : State) (evt en src b : Nat) (always : Bool) : (s.evtRaise evt en src b always).flash = s.flash := by unfold State.evtRaise; dsimp only; split <;> simp
@[simp] theorem State.evtRaise_boot (s : State) (evt en src b : Nat) (always : Bool) : (s.evtRaise evt en src b always).boot = s.boot := by unfold State.evtRaise; dsimp only; split <;> simp
@[simp] theorem State.evtRaise_cas (s : State) (evt en src b : Nat) (always : Bool) : (s.evtRaise evt en src b always).cas = s.cas := by unfold State.evtRaise; dsimp only; split <;> simp
@[simp] theorem State.evtRaise_slt (s : State) (evt en src b : Nat) (always : Bool) : (s.evtRaise evt en src b always).slt = s.slt := by unfold State.evtRaise; dsimp only; split <;> simp
@[simp] theorem State.evtRaise_sram (s : State) (evt en src b : Nat) (always : Bool) : (s.evtRaise evt en src b always).sram = s.sram := by unfold State.evtRaise; dsimp only; split <;> simp
@[simp] theorem State.evtRaise_order (s : State) (evt en src b : Nat) (always : Bool) : (s.evtRaise evt en src b always).order = s.order := by unfold State.evtRaise; dsimp only; split <;> simp
@[simp] theorem State.evtRaise_ownerKey (s : State) (evt en src b : Nat) (always : Bool) : (s.evtRaise evt en src b always).ownerKey = s.ownerKey := by unfold State.evtRaise; dsimp only; split <;> simp
@[simp] theorem State.evtRaise_free (s : State) (evt en src b : Nat) (always : Bool) : (s.evtRaise evt en src b always).free = s.free := by unfold State.evtRaise; dsimp only; split <;> simp
@[simp] theorem State.evtRaise_pending (s : State) (evt en src b : Nat) (always : Bool) : (s.evtRaise evt en src b always).pending = s.pending := by unfold State.evtRaise; dsimp only; split <;> simp

@[simp] theorem State.evrEvt_tb (s : State) (b bit kind cls idx : Nat) : (s.evrEvt b bit kind cls idx).tb = s.tb := by unfold State.evrEvt; dsimp only; split <;> simp
@[simp] theorem State.evrEvt_tbRun (s : State) (b bit kind cls idx : Nat) : (s.evrEvt b bit kind cls idx).tbRun = s.tbRun := by unfold State.evrEvt; dsimp only; split <;> simp
@[simp] theorem State.evrEvt_seen (s : State) (b bit kind cls idx : Nat) : (s.evrEvt b bit kind cls idx).seen = s.seen := by unfold State.evrEvt; dsimp only; split <;> simp
@[simp] theorem State.evrEvt_otp (s : State) (b bit kind cls idx : Nat) : (s.evrEvt b bit kind cls idx).otp = s.otp := by unfold State.evrEvt; dsimp only; split <;> simp
@[simp] theorem State.evrEvt_shadows (s : State) (b bit kind cls idx : Nat) : (s.evrEvt b bit kind cls idx).shadows = s.shadows := by unfold State.evrEvt; dsimp only; split <;> simp
@[simp] theorem State.evrEvt_staged (s : State) (b bit kind cls idx : Nat) : (s.evrEvt b bit kind cls idx).staged = s.staged := by unfold State.evrEvt; dsimp only; split <;> simp
@[simp] theorem State.evrEvt_due (s : State) (b bit kind cls idx : Nat) : (s.evrEvt b bit kind cls idx).due = s.due := by unfold State.evrEvt; dsimp only; split <;> simp
@[simp] theorem State.evrEvt_answer (s : State) (b bit kind cls idx : Nat) : (s.evrEvt b bit kind cls idx).answer = s.answer := by unfold State.evrEvt; dsimp only; split <;> simp
@[simp] theorem State.evrEvt_fabric (s : State) (b bit kind cls idx : Nat) : (s.evrEvt b bit kind cls idx).fabric = s.fabric := by unfold State.evrEvt; dsimp only; split <;> simp
@[simp] theorem State.evrEvt_sheet (s : State) (b bit kind cls idx : Nat) : (s.evrEvt b bit kind cls idx).sheet = s.sheet := by unfold State.evrEvt; dsimp only; split <;> simp
@[simp] theorem State.evrEvt_fix (s : State) (b bit kind cls idx : Nat) : (s.evrEvt b bit kind cls idx).fix = s.fix := by unfold State.evrEvt; dsimp only; split <;> simp
@[simp] theorem State.evrEvt_spk (s : State) (b bit kind cls idx : Nat) : (s.evrEvt b bit kind cls idx).spk = s.spk := by unfold State.evrEvt; dsimp only; split <;> simp
@[simp] theorem State.evrEvt_ch (s : State) (b bit kind cls idx : Nat) : (s.evrEvt b bit kind cls idx).ch = s.ch := by unfold State.evrEvt; dsimp only; split <;> simp
@[simp] theorem State.evrEvt_capIn (s : State) (b bit kind cls idx : Nat) : (s.evrEvt b bit kind cls idx).capIn = s.capIn := by unfold State.evrEvt; dsimp only; split <;> simp
@[simp] theorem State.evrEvt_vcalOff (s : State) (b bit kind cls idx : Nat) : (s.evrEvt b bit kind cls idx).vcalOff = s.vcalOff := by unfold State.evrEvt; dsimp only; split <;> simp
@[simp] theorem State.evrEvt_pin (s : State) (b bit kind cls idx : Nat) : (s.evrEvt b bit kind cls idx).pin = s.pin := by unfold State.evrEvt; dsimp only; split <;> simp
@[simp] theorem State.evrEvt_vdet (s : State) (b bit kind cls idx : Nat) : (s.evrEvt b bit kind cls idx).vdet = s.vdet := by unfold State.evrEvt; dsimp only; split <;> simp
@[simp] theorem State.evrEvt_trgEnd (s : State) (b bit kind cls idx : Nat) : (s.evrEvt b bit kind cls idx).trgEnd = s.trgEnd := by unfold State.evrEvt; dsimp only; split <;> simp
@[simp] theorem State.evrEvt_trip (s : State) (b bit kind cls idx : Nat) : (s.evrEvt b bit kind cls idx).trip = s.trip := by unfold State.evrEvt; dsimp only; split <;> simp
@[simp] theorem State.evrEvt_cal (s : State) (b bit kind cls idx : Nat) : (s.evrEvt b bit kind cls idx).cal = s.cal := by unfold State.evrEvt; dsimp only; split <;> simp
@[simp] theorem State.evrEvt_eng (s : State) (b bit kind cls idx : Nat) : (s.evrEvt b bit kind cls idx).eng = s.eng := by unfold State.evrEvt; dsimp only; split <;> simp
@[simp] theorem State.evrEvt_ct (s : State) (b bit kind cls idx : Nat) : (s.evrEvt b bit kind cls idx).ct = s.ct := by unfold State.evrEvt; dsimp only; split <;> simp
@[simp] theorem State.evrEvt_link (s : State) (b bit kind cls idx : Nat) : (s.evrEvt b bit kind cls idx).link = s.link := by unfold State.evrEvt; dsimp only; split <;> simp
@[simp] theorem State.evrEvt_exg (s : State) (b bit kind cls idx : Nat) : (s.evrEvt b bit kind cls idx).exg = s.exg := by unfold State.evrEvt; dsimp only; split <;> simp
@[simp] theorem State.evrEvt_shq (s : State) (b bit kind cls idx : Nat) : (s.evrEvt b bit kind cls idx).shq = s.shq := by unfold State.evrEvt; dsimp only; split <;> simp
@[simp] theorem State.evrEvt_mtr (s : State) (b bit kind cls idx : Nat) : (s.evrEvt b bit kind cls idx).mtr = s.mtr := by unfold State.evrEvt; dsimp only; split <;> simp
@[simp] theorem State.evrEvt_guard (s : State) (b bit kind cls idx : Nat) : (s.evrEvt b bit kind cls idx).guard = s.guard := by unfold State.evrEvt; dsimp only; split <;> simp
@[simp] theorem State.evrEvt_rgClosed (s : State) (b bit kind cls idx : Nat) : (s.evrEvt b bit kind cls idx).rgClosed = s.rgClosed := by unfold State.evrEvt; dsimp only; split <;> simp
@[simp] theorem State.evrEvt_lim (s : State) (b bit kind cls idx : Nat) : (s.evrEvt b bit kind cls idx).lim = s.lim := by unfold State.evrEvt; dsimp only; split <;> simp
@[simp] theorem State.evrEvt_safe (s : State) (b bit kind cls idx : Nat) : (s.evrEvt b bit kind cls idx).safe = s.safe := by unfold State.evrEvt; dsimp only; split <;> simp
@[simp] theorem State.evrEvt_mem (s : State) (b bit kind cls idx : Nat) : (s.evrEvt b bit kind cls idx).mem = s.mem := by unfold State.evrEvt; dsimp only; split <;> simp
@[simp] theorem State.evrEvt_ecc (s : State) (b bit kind cls idx : Nat) : (s.evrEvt b bit kind cls idx).ecc = s.ecc := by unfold State.evrEvt; dsimp only; split <;> simp
@[simp] theorem State.evrEvt_spl (s : State) (b bit kind cls idx : Nat) : (s.evrEvt b bit kind cls idx).spl = s.spl := by unfold State.evrEvt; dsimp only; split <;> simp
@[simp] theorem State.evrEvt_cpy (s : State) (b bit kind cls idx : Nat) : (s.evrEvt b bit kind cls idx).cpy = s.cpy := by unfold State.evrEvt; dsimp only; split <;> simp
@[simp] theorem State.evrEvt_host (s : State) (b bit kind cls idx : Nat) : (s.evrEvt b bit kind cls idx).host = s.host := by unfold State.evrEvt; dsimp only; split <;> simp
@[simp] theorem State.evrEvt_keep (s : State) (b bit kind cls idx : Nat) : (s.evrEvt b bit kind cls idx).keep = s.keep := by unfold State.evrEvt; dsimp only; split <;> simp
@[simp] theorem State.evrEvt_flash (s : State) (b bit kind cls idx : Nat) : (s.evrEvt b bit kind cls idx).flash = s.flash := by unfold State.evrEvt; dsimp only; split <;> simp
@[simp] theorem State.evrEvt_boot (s : State) (b bit kind cls idx : Nat) : (s.evrEvt b bit kind cls idx).boot = s.boot := by unfold State.evrEvt; dsimp only; split <;> simp
@[simp] theorem State.evrEvt_cas (s : State) (b bit kind cls idx : Nat) : (s.evrEvt b bit kind cls idx).cas = s.cas := by unfold State.evrEvt; dsimp only; split <;> simp
@[simp] theorem State.evrEvt_slt (s : State) (b bit kind cls idx : Nat) : (s.evrEvt b bit kind cls idx).slt = s.slt := by unfold State.evrEvt; dsimp only; split <;> simp
@[simp] theorem State.evrEvt_sram (s : State) (b bit kind cls idx : Nat) : (s.evrEvt b bit kind cls idx).sram = s.sram := by unfold State.evrEvt; dsimp only; split <;> simp
@[simp] theorem State.evrEvt_order (s : State) (b bit kind cls idx : Nat) : (s.evrEvt b bit kind cls idx).order = s.order := by unfold State.evrEvt; dsimp only; split <;> simp
@[simp] theorem State.evrEvt_ownerKey (s : State) (b bit kind cls idx : Nat) : (s.evrEvt b bit kind cls idx).ownerKey = s.ownerKey := by unfold State.evrEvt; dsimp only; split <;> simp
@[simp] theorem State.evrEvt_free (s : State) (b bit kind cls idx : Nat) : (s.evrEvt b bit kind cls idx).free = s.free := by unfold State.evrEvt; dsimp only; split <;> simp
@[simp] theorem State.evrEvt_pending (s : State) (b bit kind cls idx : Nat) : (s.evrEvt b bit kind cls idx).pending = s.pending := by unfold State.evrEvt; dsimp only; split <;> simp


@[simp] theorem State.hwUnset_tb (s : State) (a : Nat) (w : Word) : (s.hwUnset a w).tb = s.tb := by unfold State.hwUnset; split <;> rfl
@[simp] theorem State.hwUnset_tbRun (s : State) (a : Nat) (w : Word) : (s.hwUnset a w).tbRun = s.tbRun := by unfold State.hwUnset; split <;> rfl
@[simp] theorem State.hwUnset_seen (s : State) (a : Nat) (w : Word) : (s.hwUnset a w).seen = s.seen := by unfold State.hwUnset; split <;> rfl
@[simp] theorem State.hwUnset_otp (s : State) (a : Nat) (w : Word) : (s.hwUnset a w).otp = s.otp := by unfold State.hwUnset; split <;> rfl
@[simp] theorem State.hwUnset_shadows (s : State) (a : Nat) (w : Word) : (s.hwUnset a w).shadows = s.shadows := by unfold State.hwUnset; split <;> rfl
@[simp] theorem State.hwUnset_staged (s : State) (a : Nat) (w : Word) : (s.hwUnset a w).staged = s.staged := by unfold State.hwUnset; split <;> rfl
@[simp] theorem State.hwUnset_due (s : State) (a : Nat) (w : Word) : (s.hwUnset a w).due = s.due := by unfold State.hwUnset; split <;> rfl
@[simp] theorem State.hwUnset_answer (s : State) (a : Nat) (w : Word) : (s.hwUnset a w).answer = s.answer := by unfold State.hwUnset; split <;> rfl
@[simp] theorem State.hwUnset_fabric (s : State) (a : Nat) (w : Word) : (s.hwUnset a w).fabric = s.fabric := by unfold State.hwUnset; split <;> rfl
@[simp] theorem State.hwUnset_sheet (s : State) (a : Nat) (w : Word) : (s.hwUnset a w).sheet = s.sheet := by unfold State.hwUnset; split <;> rfl
@[simp] theorem State.hwUnset_fix (s : State) (a : Nat) (w : Word) : (s.hwUnset a w).fix = s.fix := by unfold State.hwUnset; split <;> rfl
@[simp] theorem State.hwUnset_spk (s : State) (a : Nat) (w : Word) : (s.hwUnset a w).spk = s.spk := by unfold State.hwUnset; split <;> rfl
@[simp] theorem State.hwUnset_ch (s : State) (a : Nat) (w : Word) : (s.hwUnset a w).ch = s.ch := by unfold State.hwUnset; split <;> rfl
@[simp] theorem State.hwUnset_capIn (s : State) (a : Nat) (w : Word) : (s.hwUnset a w).capIn = s.capIn := by unfold State.hwUnset; split <;> rfl
@[simp] theorem State.hwUnset_vcalOff (s : State) (a : Nat) (w : Word) : (s.hwUnset a w).vcalOff = s.vcalOff := by unfold State.hwUnset; split <;> rfl
@[simp] theorem State.hwUnset_pin (s : State) (a : Nat) (w : Word) : (s.hwUnset a w).pin = s.pin := by unfold State.hwUnset; split <;> rfl
@[simp] theorem State.hwUnset_vdet (s : State) (a : Nat) (w : Word) : (s.hwUnset a w).vdet = s.vdet := by unfold State.hwUnset; split <;> rfl
@[simp] theorem State.hwUnset_trgEnd (s : State) (a : Nat) (w : Word) : (s.hwUnset a w).trgEnd = s.trgEnd := by unfold State.hwUnset; split <;> rfl
@[simp] theorem State.hwUnset_trip (s : State) (a : Nat) (w : Word) : (s.hwUnset a w).trip = s.trip := by unfold State.hwUnset; split <;> rfl
@[simp] theorem State.hwUnset_cal (s : State) (a : Nat) (w : Word) : (s.hwUnset a w).cal = s.cal := by unfold State.hwUnset; split <;> rfl
@[simp] theorem State.hwUnset_eng (s : State) (a : Nat) (w : Word) : (s.hwUnset a w).eng = s.eng := by unfold State.hwUnset; split <;> rfl
@[simp] theorem State.hwUnset_ct (s : State) (a : Nat) (w : Word) : (s.hwUnset a w).ct = s.ct := by unfold State.hwUnset; split <;> rfl
@[simp] theorem State.hwUnset_link (s : State) (a : Nat) (w : Word) : (s.hwUnset a w).link = s.link := by unfold State.hwUnset; split <;> rfl
@[simp] theorem State.hwUnset_exg (s : State) (a : Nat) (w : Word) : (s.hwUnset a w).exg = s.exg := by unfold State.hwUnset; split <;> rfl
@[simp] theorem State.hwUnset_shq (s : State) (a : Nat) (w : Word) : (s.hwUnset a w).shq = s.shq := by unfold State.hwUnset; split <;> rfl
@[simp] theorem State.hwUnset_mtr (s : State) (a : Nat) (w : Word) : (s.hwUnset a w).mtr = s.mtr := by unfold State.hwUnset; split <;> rfl
@[simp] theorem State.hwUnset_guard (s : State) (a : Nat) (w : Word) : (s.hwUnset a w).guard = s.guard := by unfold State.hwUnset; split <;> rfl
@[simp] theorem State.hwUnset_rgClosed (s : State) (a : Nat) (w : Word) : (s.hwUnset a w).rgClosed = s.rgClosed := by unfold State.hwUnset; split <;> rfl
@[simp] theorem State.hwUnset_lim (s : State) (a : Nat) (w : Word) : (s.hwUnset a w).lim = s.lim := by unfold State.hwUnset; split <;> rfl
@[simp] theorem State.hwUnset_safe (s : State) (a : Nat) (w : Word) : (s.hwUnset a w).safe = s.safe := by unfold State.hwUnset; split <;> rfl
@[simp] theorem State.hwUnset_evr (s : State) (a : Nat) (w : Word) : (s.hwUnset a w).evr = s.evr := by unfold State.hwUnset; split <;> rfl
@[simp] theorem State.hwUnset_mem (s : State) (a : Nat) (w : Word) : (s.hwUnset a w).mem = s.mem := by unfold State.hwUnset; split <;> rfl
@[simp] theorem State.hwUnset_ecc (s : State) (a : Nat) (w : Word) : (s.hwUnset a w).ecc = s.ecc := by unfold State.hwUnset; split <;> rfl
@[simp] theorem State.hwUnset_spl (s : State) (a : Nat) (w : Word) : (s.hwUnset a w).spl = s.spl := by unfold State.hwUnset; split <;> rfl
@[simp] theorem State.hwUnset_cpy (s : State) (a : Nat) (w : Word) : (s.hwUnset a w).cpy = s.cpy := by unfold State.hwUnset; split <;> rfl
@[simp] theorem State.hwUnset_host (s : State) (a : Nat) (w : Word) : (s.hwUnset a w).host = s.host := by unfold State.hwUnset; split <;> rfl
@[simp] theorem State.hwUnset_keep (s : State) (a : Nat) (w : Word) : (s.hwUnset a w).keep = s.keep := by unfold State.hwUnset; split <;> rfl
@[simp] theorem State.hwUnset_flash (s : State) (a : Nat) (w : Word) : (s.hwUnset a w).flash = s.flash := by unfold State.hwUnset; split <;> rfl
@[simp] theorem State.hwUnset_boot (s : State) (a : Nat) (w : Word) : (s.hwUnset a w).boot = s.boot := by unfold State.hwUnset; split <;> rfl
@[simp] theorem State.hwUnset_cas (s : State) (a : Nat) (w : Word) : (s.hwUnset a w).cas = s.cas := by unfold State.hwUnset; split <;> rfl
@[simp] theorem State.hwUnset_slt (s : State) (a : Nat) (w : Word) : (s.hwUnset a w).slt = s.slt := by unfold State.hwUnset; split <;> rfl
@[simp] theorem State.hwUnset_sram (s : State) (a : Nat) (w : Word) : (s.hwUnset a w).sram = s.sram := by unfold State.hwUnset; split <;> rfl
@[simp] theorem State.hwUnset_order (s : State) (a : Nat) (w : Word) : (s.hwUnset a w).order = s.order := by unfold State.hwUnset; split <;> rfl
@[simp] theorem State.hwUnset_ownerKey (s : State) (a : Nat) (w : Word) : (s.hwUnset a w).ownerKey = s.ownerKey := by unfold State.hwUnset; split <;> rfl
@[simp] theorem State.hwUnset_free (s : State) (a : Nat) (w : Word) : (s.hwUnset a w).free = s.free := by unfold State.hwUnset; split <;> rfl
@[simp] theorem State.hwUnset_pending (s : State) (a : Nat) (w : Word) : (s.hwUnset a w).pending = s.pending := by unfold State.hwUnset; split <;> rfl

end Sys2Proof.Machine
end

