-- ==== Sys2Proof/Laws/Writes.lean ====
section
/-! SUPPORT. A write of a register reaches the handler of its block: one lemma per block, and the word that lands. -/

namespace Sys2Proof.Machine

theorem bitAt_mkw {i : Nat} (h : i < 32) (w : Word) : bitAt (w ||| mkw 1 i) i = true := by
  have h1 : ∀ i, i < 32 → (mkw 1 i).getLsbD i = true := by decide
  unfold bitAt
  rw [BitVec.getLsbD_or, h1 i h, Bool.or_true]

/-- A bit that hardware sets is set. -/
theorem State.hwSetBit_rb (s : State) (a : Nat) {i : Nat} (h : i < 32) : (s.hwSetBit a i).rb a i = true := by
  unfold State.rb State.hwSetBit
  rw [State.hwSet_reg_eq, bitAt_mkw h]

theorem writeReg_bus {s : State} {m : Master} {a : Nat} {w : Word} (hm : reachesRegs m = true) :
    writeReg s m a w = answered .ok 0 (regWrite s (masterNow s m) (fixSelOf s m) a w) := by
  unfold writeReg
  rw [hm]
  rfl

theorem masterNow_reaches (s : State) (m : Master) : reachesRegs (masterNow s m) = reachesRegs m := by cases m <;> rfl

/-- A master that is no host transaction is itself. -/
theorem masterNow_other {s : State} {m : Master} (h : ∀ b, m ≠ .host b) : masterNow s m = m := by
  cases m <;> first | rfl | exact absurd rfl (h _)

theorem plainReg_parts {a : Nat} (h : plainReg a = true) : 0x800000 ≤ a ∧ a < 0x1000000 ∧ a % 4 = 0 ∧ isSnapshot a = false ∧
    isKeep a = false ∧ isWindow a = false ∧ ¬(0x00840100 ≤ a ∧ a < 0x00840160) ∧ keptWhole a = false := by
  simp only [plainReg, Bool.and_eq_true, decide_eq_true_eq, Bool.not_eq_true', beq_iff_eq, Bool.and_eq_false_iff,
    decide_eq_false_iff_not] at h
  obtain ⟨⟨⟨⟨⟨⟨⟨h1, h2⟩, h3⟩, h4⟩, h5⟩, h6⟩, h7⟩, h8⟩ := h
  exact ⟨h1, h2, h3, h4, h5, h6, by omega, h8⟩

/-- A register that is not staged is none of those that a group member's writes miss (R242). -/
theorem memberReg_none {s : State} {a : Nat} (h : (regDesc a).sth = 0) : memberReg s a = none := by
  unfold memberReg
  dsimp only
  refine if_neg fun hc => ?_
  simp only [Bool.and_eq_true, decide_eq_true_eq, List.contains_eq_mem, List.mem_cons, List.not_mem_nil, or_false] at hc
  obtain ⟨⟨⟨h1, h2⟩, h3⟩, -⟩ := hc
  have e : regDesc a = chDesc (a % 0x40) := by
    unfold regDesc
    rw [if_neg (by omega), if_neg (by omega), if_pos (by omega), show (a - 0x820000) % 0x40 = a % 0x40 by omega]
  rw [e] at h
  rcases h3 with h3 | h3 | h3 | h3 | h3 | h3 | h3 | h3 <;> rw [h3] at h <;> exact absurd h (by decide)

/-- A word without a 1 in the secure fields, or from a secure master, is no violation. -/
theorem regDeny_none {s : State} {m : Master} {a : Nat} {w : Word} (h : masterSecure m = true ∨ w &&& (regDesc a).rws = 0) :
    regDeny s m a w = s := by
  unfold regDeny
  rcases h with h | h <;> simp [h]

/-- A write of a plain register that is not staged and has writable bits is a write to its block. -/
theorem regWrite_block {s : State} {m : Master} {sel : Option (Fin 4)} {a : Nat} {w : Word} (ha : plainReg a = true)
    (hs : (regDesc a).sth = 0) (hd : masterSecure m = true ∨ w &&& (regDesc a).rws = 0)
    (hw : (regDesc a).rw ||| (regDesc a).wo ||| rwsFor m a ≠ 0) :
    regWrite s m sel a w = blockWrite s m a (mergeBits (s.reg a &&& ((regDesc a).rw ||| (regDesc a).rws)) w
      ((regDesc a).rw ||| (regDesc a).wo ||| rwsFor m a)) := by
  obtain ⟨-, -, -, h5, h6, h7, -, h9⟩ := plainReg_parts ha
  unfold regWrite
  rw [h5, h6, h7, regDeny_none hd]
  show regLand s m sel a w = _
  unfold regLand
  dsimp only
  rw [memberReg_none hs, hs]
  dsimp only
  rw [if_neg (by decide), if_neg fun e => hw e.1]
  unfold landing
  rw [h9]
  rfl

/-- Any master that reaches registers writes a register without RWS bits; staged registers apart. -/
theorem writeReg_plain {s : State} {m : Master} {a : Nat} {w : Word} {rw wo rc ro rst dfl otp : Word} (hm : reachesRegs m = true)
    (ha : plainReg a = true) (hd : regDesc a = ⟨rw, rc, wo, 0, ro, rst, dfl, 0, otp⟩) (hw : rw ||| wo ≠ 0) :
    writeReg s m a w = answered .ok 0 (blockWrite s (masterNow s m) a (mergeBits (s.reg a &&& rw) w (rw ||| wo))) := by
  have hr : rwsFor (masterNow s m) a = 0 := by
    unfold rwsFor
    rw [hd]
    split
    · rfl
    · split
      · split <;> simp
      · rfl
  rw [writeReg_bus hm, regWrite_block ha (by rw [hd]) (.inr (by rw [hd]; exact BitVec.and_zero)) (by rw [hd, hr]; simpa using hw), hd, hr]
  simp

/-- A secure master writes every writable bit. -/
theorem writeReg_secure {s : State} {m : Master} {a : Nat} {w : Word} {rw wo rws rc ro rst dfl otp : Word}
    (hm : masterSecure (masterNow s m) = true) (ha : plainReg a = true) (hd : regDesc a = ⟨rw, rc, wo, rws, ro, rst, dfl, 0, otp⟩)
    (hw : rw ||| wo ||| rws ≠ 0) :
    writeReg s m a w = answered .ok 0 (blockWrite s (masterNow s m) a (mergeBits (s.reg a &&& (rw ||| rws)) w (rw ||| wo ||| rws))) := by
  have hr : rwsFor (masterNow s m) a = rws := by simp [rwsFor, hm, hd]
  have hm2 : reachesRegs m = true := by cases m <;> simp_all [masterSecure, masterNow, reachesRegs]
  rw [writeReg_bus hm2, regWrite_block ha (by rw [hd]) (.inl hm) (by rw [hd, hr]; exact hw), hd, hr]

/-- A master that is not secure leaves the secure fields as they are; a word without a 1 in them is no violation. -/
theorem writeReg_user {s : State} {m : Master} {a : Nat} {w : Word} {rw wo rws rc ro rst dfl otp : Word} (hm : reachesRegs m = true)
    (hs : masterSecure (masterNow s m) = false) (ha : plainReg a = true) (hd : regDesc a = ⟨rw, rc, wo, rws, ro, rst, dfl, 0, otp⟩)
    (hw : rw ||| wo ≠ 0) (hn : a ≠ Reg.SAFE_CMD) (hz : w &&& rws = 0) :
    writeReg s m a w = answered .ok 0 (blockWrite s (masterNow s m) a (mergeBits (s.reg a &&& (rw ||| rws)) w (rw ||| wo))) := by
  have hr : rwsFor (masterNow s m) a = 0 := by
    unfold rwsFor
    rw [hs]
    cases masterNow s m <;> simp [hn]
  rw [writeReg_bus hm, regWrite_block ha (by rw [hd]) (.inr (by rw [hd]; exact hz)) (by rw [hd, hr]; simpa using hw), hd, hr]
  simp

/-- A write-only register takes the bits that it has. -/
theorem mergeBits_wo (w v m : Word) : mergeBits (w &&& 0) v (0 ||| m) = v &&& m := by simp [mergeBits]

/-- A register whose stored bits are all written. -/
theorem mergeBits_rw (x w m : Word) : mergeBits (x &&& m) w m = w &&& m := by
  apply BitVec.eq_of_getLsbD_eq
  intro i _
  simp [mergeBits]
  cases m.getLsbD i <;> simp

theorem blockWrite_global {s : State} {m : Master} {a : Nat} {w : Word} (h : a < 0x00800170) :
    blockWrite s m a w = globalWrite s m a w := by unfold blockWrite; rw [if_pos h]

theorem blockWrite_spk {s : State} {m : Master} {n : Nat} {o : Nat} {w : Word} (hn : n < 8) (ho : o < 0x400) :
    blockWrite s m (0x00810000 + 0x400 * n + o) w = spkWrite s n o w := by
  unfold blockWrite
  iterate 1 rw [if_neg (by omega)]
  rw [if_pos (by omega), show (0x00810000 + 0x400 * n + o - 0x00810000) / 0x400 = n by omega, show (0x00810000 + 0x400 * n + o) % 0x400 = o by omega]

theorem blockWrite_ch {s : State} {m : Master} {n : Nat} {o : Nat} {w : Word} (hn : n < 128) (ho : o < 0x40) :
    blockWrite s m (0x00820000 + 0x40 * n + o) w = chWrite s n o w := by
  unfold blockWrite
  iterate 2 rw [if_neg (by omega)]
  rw [if_pos (by omega), show (0x00820000 + 0x40 * n + o - 0x00820000) / 0x40 = n by omega, show (0x00820000 + 0x40 * n + o) % 0x40 = o by omega]

theorem blockWrite_tio {s : State} {m : Master} {a : Nat} {w : Word} (h1 : 0x00822000 ≤ a) (h2 : a < 0x00822320) :
    blockWrite s m a w = tioWrite s a w := by
  unfold blockWrite
  iterate 3 rw [if_neg (by omega)]
  rw [if_pos (by omega)]

theorem blockWrite_exg {s : State} {m : Master} {g : Nat} {o : Nat} {w : Word} (hg : g < 16) (ho : o < 0x100) :
    blockWrite s m (0x00830000 + 0x100 * g + o) w = exgWrite s g o w := by
  unfold blockWrite
  iterate 4 rw [if_neg (by omega)]
  rw [if_pos (by omega), show (0x00830000 + 0x100 * g + o - 0x00830000) / 0x100 = g by omega, show (0x00830000 + 0x100 * g + o) % 0x100 = o by omega]

theorem blockWrite_exgShared {s : State} {m : Master} {a : Nat} {w : Word} (h1 : 0x00831000 ≤ a) (h2 : a < 0x00831220) :
    blockWrite s m a w = exgSharedWrite s a w := by
  unfold blockWrite
  iterate 5 rw [if_neg (by omega)]
  rw [if_pos (by omega)]

theorem blockWrite_cal {s : State} {m : Master} {a : Nat} {w : Word} (h1 : 0x00840000 ≤ a) (h2 : a < 0x00840180) :
    blockWrite s m a w = calWrite s m a w := by
  unfold blockWrite
  iterate 6 rw [if_neg (by omega)]
  rw [if_pos (by omega)]

theorem blockWrite_eng {s : State} {m : Master} {a : Nat} {w : Word} (h1 : 0x00850000 ≤ a) (h2 : a < 0x00860000) :
    blockWrite s m a w = engWrite s a w := by
  unfold blockWrite
  iterate 7 rw [if_neg (by omega)]
  rw [if_pos (by omega)]

theorem blockWrite_ct {s : State} {m : Master} {a : Nat} {w : Word} (h1 : 0x00860000 ≤ a) (h2 : a < 0x00860600) :
    blockWrite s m a w = ctWrite s a w := by
  unfold blockWrite
  iterate 8 rw [if_neg (by omega)]
  rw [if_pos (by omega)]

theorem blockWrite_link {s : State} {m : Master} {a : Nat} {w : Word} (h1 : 0x00868000 ≤ a) (h2 : a < 0x00869000) :
    blockWrite s m a w = casLinkNote s (linkWrite s a w) := by
  unfold blockWrite
  iterate 9 rw [if_neg (by omega)]
  rw [if_pos (by omega)]

theorem blockWrite_shq {s : State} {m : Master} {n : Nat} {o : Nat} {w : Word} (hn : n < 32) (ho : o < 0x200) :
    blockWrite s m (0x00870000 + 0x200 * n + o) w = shqWrite s n o w := by
  unfold blockWrite
  iterate 10 rw [if_neg (by omega)]
  rw [if_pos (by omega), show (0x00870000 + 0x200 * n + o - 0x00870000) / 0x200 = n by omega, show (0x00870000 + 0x200 * n + o) % 0x200 = o by omega]

theorem blockWrite_safe {s : State} {m : Master} {a : Nat} {w : Word} (h1 : 0x00880000 ≤ a) (h2 : a < 0x00883000) :
    blockWrite s m a w = safeWrite s m a w := by
  unfold blockWrite
  iterate 11 rw [if_neg (by omega)]
  rw [if_pos (by omega)]

theorem blockWrite_evr {s : State} {m : Master} {a : Nat} {w : Word} (h1 : 0x00890000 ≤ a) (h2 : a < 0x00894000) :
    blockWrite s m a w = evrWrite s m a w := by
  unfold blockWrite
  iterate 12 rw [if_neg (by omega)]
  rw [if_pos (by omega)]

theorem blockWrite_spl {s : State} {m : Master} {a : Nat} {w : Word} (h1 : 0x008A0000 ≤ a) (h2 : a < 0x008A0500) :
    blockWrite s m a w = splWrite s m a w := by
  unfold blockWrite
  iterate 13 rw [if_neg (by omega)]
  rw [if_pos (by omega)]

theorem blockWrite_boot {s : State} {m : Master} {a : Nat} {w : Word} (h1 : 0x008C0000 ≤ a) (h2 : a < 0x008C0080) :
    blockWrite s m a w = bootWrite s a w := by
  unfold blockWrite
  iterate 15 rw [if_neg (by omega)]
  rw [if_pos (by omega)]

theorem blockWrite_cas {s : State} {m : Master} {a : Nat} {w : Word} (h1 : 0x008D0000 ≤ a) (h2 : a < 0x008D00C0) :
    blockWrite s m a w = casWrite s a w := by
  unfold blockWrite
  iterate 16 rw [if_neg (by omega)]
  rw [if_pos (by omega)]

theorem blockWrite_slt {s : State} {m : Master} {a : Nat} {w : Word} (h1 : 0x008E0000 ≤ a) (h2 : a < 0x008E0300) :
    blockWrite s m a w = sltWrite s m a w := by
  unfold blockWrite
  iterate 17 rw [if_neg (by omega)]
  rw [if_pos (by omega)]

end Sys2Proof.Machine
end

