-- ==== Sys2Proof/Laws/Commands.lean ====
section
/-! SUPPORT. What a write of each command register lands as: one lemma per register, with the description of the register. -/

namespace Sys2Proof.Machine

set_option Elab.async false

/-- A register whose stored bits are all written takes the word. -/
theorem mergeBits_all {x w p q : Word} (h : p &&& ~~~q = 0) : mergeBits (x &&& p) w q = w &&& q := by
  unfold mergeBits
  rw [BitVec.and_assoc, h]
  simp

theorem desc_RST_CTL : regDesc Reg.RST_CTL = ⟨0x0, 0x0, 0x0, 0xffff0003, 0x0, 0x0, 0x0, 0x0, 0x0⟩ := by decide

theorem plain_RST_CTL : plainReg Reg.RST_CTL = true := by decide

theorem write_RST_CTL {s : State} {m : Master} (hm : masterSecure (masterNow s m) = true) (w : Word) :
    writeReg s m Reg.RST_CTL w = answered .ok 0 (rstCtlWrite s (w &&& 0xFFFF0003)) := by
  rw [writeReg_secure hm (plain_RST_CTL) (desc_RST_CTL) (by decide), mergeBits_all (by decide)]
  rw [blockWrite_global (by decide)]
  rfl

theorem desc_CS_CTL : regDesc Reg.CS_CTL = ⟨0x3c, 0x0, 0x3, 0x0, 0x0, 0x0, 0x0, 0x0, 0x0⟩ := by decide

theorem plain_CS_CTL : plainReg Reg.CS_CTL = true := by decide

theorem write_CS_CTL {s : State} {m : Master} (hm : reachesRegs m = true) (w : Word) :
    writeReg s m Reg.CS_CTL w = answered .ok 0 (csCtlWrite s (masterNow s m) (w &&& 0x3F)) := by
  rw [writeReg_plain hm (plain_CS_CTL) (desc_CS_CTL) (by decide), mergeBits_all (by decide)]
  rw [blockWrite_global (by decide)]
  rfl

theorem desc_FIX_CTL (k : Fin 4) : regDesc (Reg.FIX_CTL k.val) = ⟨0x17730, 0x0, 0x7, 0x0, 0x0, 0x0, 0x0, 0x0, 0x0⟩ := by revert k; decide +kernel

theorem plain_FIX_CTL (k : Fin 4) : plainReg (Reg.FIX_CTL k.val) = true := by revert k; decide +kernel

theorem write_FIX_CTL {s : State} {m : Master} (hm : reachesRegs m = true) (k : Fin 4) (w : Word) :
    writeReg s m (Reg.FIX_CTL k.val) w = answered .ok 0 (fixCtlWrite s k.val (w &&& 0x17737)) := by
  rw [writeReg_plain hm (plain_FIX_CTL k) (desc_FIX_CTL k) (by decide), mergeBits_all (by decide)]
  have hk := k.isLt
  rw [blockWrite_global (by simp only [Reg.FIX_CTL]; omega)]
  unfold globalWrite
  rw [if_neg (by simp only [Reg.FIX_CTL, Reg.CS_CTL]; omega), if_neg (by simp only [Reg.FIX_CTL, Reg.RST_CTL]; omega),
    if_pos (by revert k; decide), show (Reg.FIX_CTL k.val - 0x00800100) / 0x20 = k.val by simp only [Reg.FIX_CTL]; omega]
  rfl

theorem desc_SPK_CTL (n : Fin 8) : regDesc (Reg.SPK_CTL n.val) = ⟨0x1fcd, 0x0, 0x0, 0x0, 0x0, 0x0, 0x1240, 0x0, 0x1fcd⟩ := by revert n; decide +kernel

theorem plain_SPK_CTL (n : Fin 8) : plainReg (Reg.SPK_CTL n.val) = true := by revert n; decide +kernel

theorem write_SPK_CTL {s : State} {m : Master} (hm : reachesRegs m = true) (n : Fin 8) (w : Word) :
    writeReg s m (Reg.SPK_CTL n.val) w = answered .ok 0 (spkWriteCtl s n.val (w &&& 0x1FCD)) := by
  rw [writeReg_plain hm (plain_SPK_CTL n) (desc_SPK_CTL n) (by decide), mergeBits_all (by decide)]
  have hn := n.isLt
  rw [show (Reg.SPK_CTL n.val) = 0x00810000 + 0x400 * n.val + 0 by simp only [Reg.SPK_CTL]; omega, blockWrite_spk n.isLt (by decide)]
  rfl

theorem desc_SPK_CMD (n : Fin 8) : regDesc (Reg.SPK_CMD n.val) = ⟨0x0, 0x0, 0x7, 0x0, 0x0, 0x0, 0x0, 0x0, 0x0⟩ := by revert n; decide +kernel

theorem plain_SPK_CMD (n : Fin 8) : plainReg (Reg.SPK_CMD n.val) = true := by revert n; decide +kernel

theorem write_SPK_CMD {s : State} {m : Master} (hm : reachesRegs m = true) (n : Fin 8) (w : Word) :
    writeReg s m (Reg.SPK_CMD n.val) w = answered .ok 0 (spkCmdWrite s n.val (w &&& 0x7)) := by
  rw [writeReg_plain hm (plain_SPK_CMD n) (desc_SPK_CMD n) (by decide), mergeBits_all (by decide)]
  have hn := n.isLt
  rw [show (Reg.SPK_CMD n.val) = 0x00810000 + 0x400 * n.val + 0x2C by simp only [Reg.SPK_CMD]; omega, blockWrite_spk n.isLt (by decide)]
  rfl

theorem desc_SPK_PH_CTL (n : Fin 8) : regDesc (Reg.SPK_PH_CTL n.val) = ⟨0x777, 0x0, 0x0, 0x0, 0x0, 0x0, 0x0, 0x0, 0x777⟩ := by revert n; decide +kernel

theorem plain_SPK_PH_CTL (n : Fin 8) : plainReg (Reg.SPK_PH_CTL n.val) = true := by revert n; decide +kernel

theorem write_SPK_PH_CTL {s : State} {m : Master} (hm : reachesRegs m = true) (n : Fin 8) (w : Word) :
    writeReg s m (Reg.SPK_PH_CTL n.val) w = answered .ok 0 (phaseWriteCtl s n.val (w &&& 0x777)) := by
  rw [writeReg_plain hm (plain_SPK_PH_CTL n) (desc_SPK_PH_CTL n) (by decide), mergeBits_all (by decide)]
  have hn := n.isLt
  rw [show (Reg.SPK_PH_CTL n.val) = 0x00810000 + 0x400 * n.val + 0x80 by simp only [Reg.SPK_PH_CTL]; omega, blockWrite_spk n.isLt (by decide)]
  rfl

theorem desc_CH_CNT (n : Fin 128) : regDesc (Reg.CH_CNT n.val) = ⟨0xffffffff, 0x0, 0x0, 0x0, 0x0, 0x0, 0x0, 0x0, 0x0⟩ := by revert n; decide +kernel

theorem plain_CH_CNT (n : Fin 128) : plainReg (Reg.CH_CNT n.val) = true := by revert n; decide +kernel

theorem write_CH_CNT {s : State} {m : Master} (hm : reachesRegs m = true) (n : Fin 128) (w : Word) :
    writeReg s m (Reg.CH_CNT n.val) w = answered .ok 0 (chWriteCnt s n.val (w &&& 0xFFFFFFFF)) := by
  rw [writeReg_plain hm (plain_CH_CNT n) (desc_CH_CNT n) (by decide), mergeBits_all (by decide)]
  have hn := n.isLt
  rw [show (Reg.CH_CNT n.val) = 0x00820000 + 0x40 * n.val + 4 by simp only [Reg.CH_CNT]; omega, blockWrite_ch n.isLt (by decide)]
  rfl

theorem desc_CH_CMD (n : Fin 128) : regDesc (Reg.CH_CMD n.val) = ⟨0x0, 0x0, 0xff, 0x0, 0x0, 0x0, 0x0, 0x0, 0x0⟩ := by revert n; decide +kernel

theorem plain_CH_CMD (n : Fin 128) : plainReg (Reg.CH_CMD n.val) = true := by revert n; decide +kernel

theorem write_CH_CMD {s : State} {m : Master} (hm : reachesRegs m = true) (n : Fin 128) (w : Word) :
    writeReg s m (Reg.CH_CMD n.val) w = answered .ok 0 (chCommand s n.val (w &&& 0xFF)) := by
  rw [writeReg_plain hm (plain_CH_CMD n) (desc_CH_CMD n) (by decide), mergeBits_all (by decide)]
  have hn := n.isLt
  rw [show (Reg.CH_CMD n.val) = 0x00820000 + 0x40 * n.val + 0x34 by simp only [Reg.CH_CMD]; omega, blockWrite_ch n.isLt (by decide)]
  rfl

theorem desc_CAL_FLUSH : regDesc Reg.CAL_FLUSH = ⟨0x0, 0x0, 0xfffff001, 0x0, 0x0, 0x0, 0x0, 0x0, 0x0⟩ := by decide

theorem plain_CAL_FLUSH : plainReg Reg.CAL_FLUSH = true := by decide

theorem write_CAL_FLUSH {s : State} {m : Master} (hm : reachesRegs m = true) (w : Word) :
    writeReg s m Reg.CAL_FLUSH w = answered .ok 0 (calFlushWrite s (w &&& 0xFFFFF001)) := by
  rw [writeReg_plain hm (plain_CAL_FLUSH) (desc_CAL_FLUSH) (by decide), mergeBits_all (by decide)]
  rw [blockWrite_cal (by decide) (by decide)]
  rfl

theorem desc_CAL_CMD : regDesc Reg.CAL_CMD = ⟨0x0, 0x0, 0x1, 0x0, 0x0, 0x0, 0x0, 0x0, 0x0⟩ := by decide

theorem plain_CAL_CMD : plainReg Reg.CAL_CMD = true := by decide

theorem write_CAL_CMD {s : State} {m : Master} (hm : reachesRegs m = true) (w : Word) :
    writeReg s m Reg.CAL_CMD w = answered .ok 0 ((if bitAt ((w &&& 0x1)) 0 then calClrOp s else s)) := by
  rw [writeReg_plain hm (plain_CAL_CMD) (desc_CAL_CMD) (by decide), mergeBits_all (by decide)]
  rw [blockWrite_cal (by decide) (by decide)]
  rfl

theorem desc_CAL_SPILL_CTL : regDesc Reg.CAL_SPILL_CTL = ⟨0xff01, 0x0, 0x0, 0x0, 0x0, 0x0, 0x0, 0x0, 0xff01⟩ := by decide

theorem plain_CAL_SPILL_CTL : plainReg Reg.CAL_SPILL_CTL = true := by decide

theorem write_CAL_SPILL_CTL {s : State} {m : Master} (hm : reachesRegs m = true) (w : Word) :
    writeReg s m Reg.CAL_SPILL_CTL w = answered .ok 0 (spillCtlWrite s (w &&& 0xFF01)) := by
  rw [writeReg_plain hm (plain_CAL_SPILL_CTL) (desc_CAL_SPILL_CTL) (by decide), mergeBits_all (by decide)]
  rw [blockWrite_cal (by decide) (by decide)]
  rfl

theorem desc_CT_CTL : regDesc Reg.CT_CTL = ⟨0xf7713, 0x0, 0x0, 0x0, 0x0, 0x0, 0x102, 0x0, 0xf7713⟩ := by decide

theorem plain_CT_CTL : plainReg Reg.CT_CTL = true := by decide

theorem write_CT_CTL {s : State} {m : Master} (hm : reachesRegs m = true) (w : Word) :
    writeReg s m Reg.CT_CTL w = answered .ok 0 (ctCtlWrite s (w &&& 0xF7713)) := by
  rw [writeReg_plain hm (plain_CT_CTL) (desc_CT_CTL) (by decide), mergeBits_all (by decide)]
  rw [blockWrite_ct (by decide) (by decide)]
  rfl

theorem desc_CT_CMD : regDesc Reg.CT_CMD = ⟨0x0, 0x0, 0x1f, 0x0, 0x0, 0x0, 0x0, 0x0, 0x0⟩ := by decide

theorem plain_CT_CMD : plainReg Reg.CT_CMD = true := by decide

theorem write_CT_CMD {s : State} {m : Master} (hm : reachesRegs m = true) (w : Word) :
    writeReg s m Reg.CT_CMD w = answered .ok 0 (ctCmdWrite s (w &&& 0x1F)) := by
  rw [writeReg_plain hm (plain_CT_CMD) (desc_CT_CMD) (by decide), mergeBits_all (by decide)]
  rw [blockWrite_ct (by decide) (by decide)]
  rfl

theorem desc_LINK_CTL (n : Fin 8) : regDesc (Reg.LINK_CTL n.val) = ⟨0x33, 0x0, 0x0, 0x0, 0x0, 0x0, 0x10, 0x0, 0x33⟩ := by revert n; decide +kernel

theorem plain_LINK_CTL (n : Fin 8) : plainReg (Reg.LINK_CTL n.val) = true := by revert n; decide +kernel

theorem write_LINK_CTL {s : State} {m : Master} (hm : reachesRegs m = true) (n : Fin 8) (w : Word) :
    writeReg s m (Reg.LINK_CTL n.val) w = answered .ok 0 (casLinkNote s (linkCtlWrite s n.val (w &&& 0x33))) := by
  rw [writeReg_plain hm (plain_LINK_CTL n) (desc_LINK_CTL n) (by decide), mergeBits_all (by decide)]
  have hn := n.isLt
  rw [blockWrite_link (by simp only [Reg.LINK_CTL]; omega) (by simp only [Reg.LINK_CTL]; omega)]
  unfold linkWrite
  rw [show (Reg.LINK_CTL n.val - 0x00868000) / 0x200 = n.val by simp only [Reg.LINK_CTL]; omega,
    show (Reg.LINK_CTL n.val - 0x00868000) % 0x200 = 0 by simp only [Reg.LINK_CTL]; omega]
  rfl

theorem desc_LINK_CMD (n : Fin 8) : regDesc (Reg.LINK_CMD n.val) = ⟨0x0, 0x0, 0x3, 0x0, 0x0, 0x0, 0x0, 0x0, 0x0⟩ := by revert n; decide +kernel

theorem plain_LINK_CMD (n : Fin 8) : plainReg (Reg.LINK_CMD n.val) = true := by revert n; decide +kernel

theorem write_LINK_CMD {s : State} {m : Master} (hm : reachesRegs m = true) (n : Fin 8) (w : Word) :
    writeReg s m (Reg.LINK_CMD n.val) w = answered .ok 0 (casLinkNote s (linkCmdWrite s n.val (w &&& 0x3))) := by
  rw [writeReg_plain hm (plain_LINK_CMD n) (desc_LINK_CMD n) (by decide), mergeBits_all (by decide)]
  have hn := n.isLt
  rw [blockWrite_link (by simp only [Reg.LINK_CMD]; omega) (by simp only [Reg.LINK_CMD]; omega)]
  unfold linkWrite
  rw [show (Reg.LINK_CMD n.val - 0x00868000) / 0x200 = n.val by simp only [Reg.LINK_CMD]; omega,
    show (Reg.LINK_CMD n.val - 0x00868000) % 0x200 = 0xC by simp only [Reg.LINK_CMD]; omega]
  rfl

theorem desc_EXG_CTL (g : Fin 16) : regDesc (Reg.EXG_CTL g.val) = ⟨0xff078075, 0x0, 0x0, 0x4000, 0x0, 0x0, 0x8070, 0x0, 0xff07c075⟩ := by revert g; decide +kernel

theorem plain_EXG_CTL (g : Fin 16) : plainReg (Reg.EXG_CTL g.val) = true := by revert g; decide +kernel

theorem write_EXG_CTL {s : State} {m : Master} (hm : masterSecure (masterNow s m) = true) (g : Fin 16) (w : Word) :
    writeReg s m (Reg.EXG_CTL g.val) w = answered .ok 0 (exgCtlWrite s g.val (w &&& 0xFF07C075)) := by
  rw [writeReg_secure hm (plain_EXG_CTL g) (desc_EXG_CTL g) (by decide), mergeBits_all (by decide)]
  have hg := g.isLt
  rw [show (Reg.EXG_CTL g.val) = 0x00830000 + 0x100 * g.val + 0 by simp only [Reg.EXG_CTL]; omega, blockWrite_exg g.isLt (by decide)]
  rfl

theorem desc_EXG_GO : regDesc Reg.EXG_GO = ⟨0x0, 0x0, 0xffff, 0x0, 0x0, 0x0, 0x0, 0x0, 0x0⟩ := by decide

theorem plain_EXG_GO : plainReg Reg.EXG_GO = true := by decide

theorem write_EXG_GO {s : State} {m : Master} (hm : reachesRegs m = true) (w : Word) :
    writeReg s m Reg.EXG_GO w = answered .ok 0 (exgGoOp s (w &&& 0xFFFF)) := by
  rw [writeReg_plain hm (plain_EXG_GO) (desc_EXG_GO) (by decide), mergeBits_all (by decide)]
  rw [blockWrite_exgShared (by decide) (by decide)]
  rfl

theorem desc_EXG_CMD (g : Fin 16) : regDesc (Reg.EXG_CMD g.val) = ⟨0x0, 0x0, 0x717, 0x8, 0x0, 0x0, 0x0, 0x0, 0x0⟩ := by revert g; decide +kernel

theorem plain_EXG_CMD (g : Fin 16) : plainReg (Reg.EXG_CMD g.val) = true := by revert g; decide +kernel

theorem write_EXG_CMD {s : State} {m : Master} (hm : masterSecure (masterNow s m) = true) (g : Fin 16) (w : Word) :
    writeReg s m (Reg.EXG_CMD g.val) w = answered .ok 0 (exgCmdWrite s g.val (w &&& 0x71F)) := by
  rw [writeReg_secure hm (plain_EXG_CMD g) (desc_EXG_CMD g) (by decide), mergeBits_all (by decide)]
  have hg := g.isLt
  rw [show (Reg.EXG_CMD g.val) = 0x00830000 + 0x100 * g.val + 0xC by simp only [Reg.EXG_CMD]; omega, blockWrite_exg g.isLt (by decide)]
  rfl

/-- A sequencer that owes nothing takes the write and no more (R286). -/
theorem shqWrite_alone {s : State} {n : Nat} (h : (s.shqAt n).owed = []) (o : Nat) (w : Word) : shqWrite s n o w = shqStore s n o w := by
  unfold shqWrite
  rw [h]
  rfl

theorem desc_SHQ_CTL (n : Fin 32) : regDesc (Reg.SHQ_CTL n.val) = ⟨0x13101, 0x0, 0x0, 0x0, 0x0, 0x0, 0x0, 0x0, 0x13101⟩ := by revert n; decide +kernel

theorem plain_SHQ_CTL (n : Fin 32) : plainReg (Reg.SHQ_CTL n.val) = true := by revert n; decide +kernel

theorem write_SHQ_CTL {s : State} {m : Master} (hm : reachesRegs m = true) (n : Fin 32) (w : Word) :
    writeReg s m (Reg.SHQ_CTL n.val) w = answered .ok 0 (shqWrite s n.val 0 (w &&& 0x13101)) := by
  rw [writeReg_plain hm (plain_SHQ_CTL n) (desc_SHQ_CTL n) (by decide), mergeBits_all (by decide)]
  have hn := n.isLt
  rw [show (Reg.SHQ_CTL n.val) = 0x00870000 + 0x200 * n.val + 0 by simp only [Reg.SHQ_CTL]; omega, blockWrite_shq n.isLt (by decide)]
  rfl

theorem desc_SHQ_CMD (n : Fin 32) : regDesc (Reg.SHQ_CMD n.val) = ⟨0x0, 0x0, 0x3f, 0x0, 0x0, 0x0, 0x0, 0x0, 0x0⟩ := by revert n; decide +kernel

theorem plain_SHQ_CMD (n : Fin 32) : plainReg (Reg.SHQ_CMD n.val) = true := by revert n; decide +kernel

theorem write_SHQ_CMD {s : State} {m : Master} (hm : reachesRegs m = true) (n : Fin 32) (w : Word) :
    writeReg s m (Reg.SHQ_CMD n.val) w = answered .ok 0 (shqWrite s n.val 0x0C (w &&& 0x3F)) := by
  rw [writeReg_plain hm (plain_SHQ_CMD n) (desc_SHQ_CMD n) (by decide), mergeBits_all (by decide)]
  have hn := n.isLt
  rw [show (Reg.SHQ_CMD n.val) = 0x00870000 + 0x200 * n.val + 0xC by simp only [Reg.SHQ_CMD]; omega, blockWrite_shq n.isLt (by decide)]
  rfl

theorem desc_SHQ_TXQ (n : Fin 32) : regDesc (Reg.SHQ_TXQ n.val) = ⟨0x0, 0x0, 0xffffffff, 0x0, 0x0, 0x0, 0x0, 0x0, 0x0⟩ := by revert n; decide +kernel

theorem plain_SHQ_TXQ (n : Fin 32) : plainReg (Reg.SHQ_TXQ n.val) = true := by revert n; decide +kernel

theorem write_SHQ_TXQ {s : State} {m : Master} (hm : reachesRegs m = true) (n : Fin 32) (w : Word) :
    writeReg s m (Reg.SHQ_TXQ n.val) w = answered .ok 0 (shqWrite s n.val 0x38 (w &&& 0xFFFFFFFF)) := by
  rw [writeReg_plain hm (plain_SHQ_TXQ n) (desc_SHQ_TXQ n) (by decide), mergeBits_all (by decide)]
  have hn := n.isLt
  rw [show (Reg.SHQ_TXQ n.val) = 0x00870000 + 0x200 * n.val + 0x38 by simp only [Reg.SHQ_TXQ]; omega, blockWrite_shq n.isLt (by decide)]
  rfl

theorem desc_SHQ_INJ (n : Fin 32) : regDesc (Reg.SHQ_INJ n.val) = ⟨0x0, 0x0, 0xffffff, 0x0, 0x0, 0x0, 0x0, 0x0, 0x0⟩ := by revert n; decide +kernel

theorem plain_SHQ_INJ (n : Fin 32) : plainReg (Reg.SHQ_INJ n.val) = true := by revert n; decide +kernel

theorem write_SHQ_INJ {s : State} {m : Master} (hm : reachesRegs m = true) (n : Fin 32) (w : Word) :
    writeReg s m (Reg.SHQ_INJ n.val) w = answered .ok 0 (shqWrite s n.val 0x40 (w &&& 0xFFFFFF)) := by
  rw [writeReg_plain hm (plain_SHQ_INJ n) (desc_SHQ_INJ n) (by decide), mergeBits_all (by decide)]
  have hn := n.isLt
  rw [show (Reg.SHQ_INJ n.val) = 0x00870000 + 0x200 * n.val + 0x40 by simp only [Reg.SHQ_INJ]; omega, blockWrite_shq n.isLt (by decide)]
  rfl

theorem desc_MTR_CMD : regDesc Reg.MTR_CMD = ⟨0x0, 0x0, 0x0, 0x3ff, 0x0, 0x0, 0x0, 0x0, 0x0⟩ := by decide

theorem plain_MTR_CMD : plainReg Reg.MTR_CMD = true := by decide

theorem write_MTR_CMD {s : State} {m : Master} (hm : masterSecure (masterNow s m) = true) (w : Word) :
    writeReg s m Reg.MTR_CMD w = answered .ok 0 (mtrCmdWrite s (w &&& 0x3FF)) := by
  rw [writeReg_secure hm (plain_MTR_CMD) (desc_MTR_CMD) (by decide), mergeBits_all (by decide)]
  rw [blockWrite_safe (by decide) (by decide)]
  rfl

theorem desc_SAFE_CMD : regDesc Reg.SAFE_CMD = ⟨0x0, 0x0, 0x0, 0xffff0003, 0x0, 0x0, 0x0, 0x0, 0x0⟩ := by decide

theorem plain_SAFE_CMD : plainReg Reg.SAFE_CMD = true := by decide

theorem write_SAFE_CMD {s : State} {m : Master} (hm : masterSecure (masterNow s m) = true) (w : Word) :
    writeReg s m Reg.SAFE_CMD w = answered .ok 0 (safeCmdWrite s (masterNow s m) (w &&& 0xFFFF0003)) := by
  rw [writeReg_secure hm (plain_SAFE_CMD) (desc_SAFE_CMD) (by decide), mergeBits_all (by decide)]
  rw [blockWrite_safe (by decide) (by decide)]
  rfl

theorem desc_HWD_CTL : regDesc Reg.HWD_CTL = ⟨0x0, 0x0, 0x0, 0xe000ffff, 0x0, 0x0, 0x3e8, 0x0, 0xc000ffff⟩ := by decide

theorem plain_HWD_CTL : plainReg Reg.HWD_CTL = true := by decide

theorem write_HWD_CTL {s : State} {m : Master} (hm : masterSecure (masterNow s m) = true) (w : Word) :
    writeReg s m Reg.HWD_CTL w = answered .ok 0 (hwdCtlWrite s (w &&& 0xE000FFFF)) := by
  rw [writeReg_secure hm (plain_HWD_CTL) (desc_HWD_CTL) (by decide), mergeBits_all (by decide)]
  rw [blockWrite_safe (by decide) (by decide)]
  rfl

theorem desc_HWD_KICK : regDesc Reg.HWD_KICK = ⟨0x0, 0x0, 0xff, 0x0, 0x0, 0x0, 0x0, 0x0, 0x0⟩ := by decide

theorem plain_HWD_KICK : plainReg Reg.HWD_KICK = true := by decide

theorem write_HWD_KICK {s : State} {m : Master} (hm : reachesRegs m = true) (w : Word) :
    writeReg s m Reg.HWD_KICK w = answered .ok 0 (hwdKickOp s (masterNow s m) (fld ((w &&& 0xFF)) 7 0)) := by
  rw [writeReg_plain hm (plain_HWD_KICK) (desc_HWD_KICK) (by decide), mergeBits_all (by decide)]
  rw [blockWrite_safe (by decide) (by decide)]
  rfl

theorem desc_FMT_CMD : regDesc Reg.FMT_CMD = ⟨0x0, 0x0, 0x3, 0x0, 0x0, 0x0, 0x0, 0x0, 0x0⟩ := by decide

theorem plain_FMT_CMD : plainReg Reg.FMT_CMD = true := by decide

theorem write_FMT_CMD {s : State} {m : Master} (hm : reachesRegs m = true) (w : Word) :
    writeReg s m Reg.FMT_CMD w = answered .ok 0 (fmtCmdWrite s (w &&& 0x3)) := by
  rw [writeReg_plain hm (plain_FMT_CMD) (desc_FMT_CMD) (by decide), mergeBits_all (by decide)]
  rw [blockWrite_boot (by decide) (by decide)]
  rfl

theorem desc_FMT_REQ : regDesc Reg.FMT_REQ = ⟨0x6000000f, 0x0, 0x80000000, 0x0, 0x0, 0x0, 0x0, 0x0, 0x0⟩ := by decide

theorem plain_FMT_REQ : plainReg Reg.FMT_REQ = true := by decide

theorem write_FMT_REQ {s : State} {m : Master} (hm : reachesRegs m = true) (w : Word) :
    writeReg s m Reg.FMT_REQ w = answered .ok 0 (fmtRequestOp s (w &&& 0xE000000F)) := by
  rw [writeReg_plain hm (plain_FMT_REQ) (desc_FMT_REQ) (by decide), mergeBits_all (by decide)]
  rw [blockWrite_boot (by decide) (by decide)]
  rfl

theorem desc_SPL_OWN (n : Fin 8) : regDesc (Reg.SPL_OWN n.val) = ⟨0x7, 0x0, 0x0, 0x0, 0x0, 0x0, 0x0, 0x0, 0x7⟩ := by revert n; decide +kernel

theorem plain_SPL_OWN (n : Fin 8) : plainReg (Reg.SPL_OWN n.val) = true := by revert n; decide +kernel

theorem write_SPL_OWN {s : State} {m : Master} (hm : reachesRegs m = true) (n : Fin 8) (w : Word) :
    writeReg s m (Reg.SPL_OWN n.val) w = answered .ok 0 (handoverOp s (masterNow s m) n.val (w &&& 0x7)) := by
  rw [writeReg_plain hm (plain_SPL_OWN n) (desc_SPL_OWN n) (by decide), mergeBits_all (by decide)]
  have hn := n.isLt
  rw [blockWrite_spl (by simp only [Reg.SPL_OWN]; omega) (by simp only [Reg.SPL_OWN]; omega)]
  refine congrArg (answered .ok 0) ?_
  unfold splWrite
  simp only [show Reg.SPL_OWN n.val - 0x008A0000 = 0x40 * n.val + 0x0 by simp only [Reg.SPL_OWN]; omega]
  rw [if_pos (by omega), show (0x40 * n.val + 0x0) % 0x40 = 0x0 by omega, show (0x40 * n.val + 0x0) / 0x40 = n.val by omega]
  rfl

theorem desc_SPL_PWR (n : Fin 8) : regDesc (Reg.SPL_PWR n.val) = ⟨0x3, 0x0, 0x0, 0x0, 0x300, 0x0, 0x0, 0x0, 0x3⟩ := by revert n; decide +kernel

theorem plain_SPL_PWR (n : Fin 8) : plainReg (Reg.SPL_PWR n.val) = true := by revert n; decide +kernel

theorem write_SPL_PWR {s : State} {m : Master} (hm : reachesRegs m = true) (n : Fin 8) (w : Word) :
    writeReg s m (Reg.SPL_PWR n.val) w = answered .ok 0 (powerRequestOp s (masterNow s m) n.val (w &&& 0x3)) := by
  rw [writeReg_plain hm (plain_SPL_PWR n) (desc_SPL_PWR n) (by decide), mergeBits_all (by decide)]
  have hn := n.isLt
  rw [blockWrite_spl (by simp only [Reg.SPL_PWR]; omega) (by simp only [Reg.SPL_PWR]; omega)]
  refine congrArg (answered .ok 0) ?_
  unfold splWrite
  simp only [show Reg.SPL_PWR n.val - 0x008A0000 = 0x40 * n.val + 0x4 by simp only [Reg.SPL_PWR]; omega]
  rw [if_pos (by omega), show (0x40 * n.val + 0x4) % 0x40 = 0x4 by omega, show (0x40 * n.val + 0x4) / 0x40 = n.val by omega]
  rfl

theorem desc_SPL_TSTCTL (n : Fin 8) : regDesc (Reg.SPL_TSTCTL n.val) = ⟨0xffff0003, 0x0, 0xc, 0x0, 0x0, 0x0, 0xf40001, 0x0, 0xffff0003⟩ := by revert n; decide +kernel

theorem plain_SPL_TSTCTL (n : Fin 8) : plainReg (Reg.SPL_TSTCTL n.val) = true := by revert n; decide +kernel

theorem write_SPL_TSTCTL {s : State} {m : Master} (hm : reachesRegs m = true) (n : Fin 8) (w : Word) :
    writeReg s m (Reg.SPL_TSTCTL n.val) w = answered .ok 0 (tstCtlWrite s n.val (w &&& 0xFFFF000F)) := by
  rw [writeReg_plain hm (plain_SPL_TSTCTL n) (desc_SPL_TSTCTL n) (by decide), mergeBits_all (by decide)]
  have hn := n.isLt
  rw [blockWrite_spl (by simp only [Reg.SPL_TSTCTL]; omega) (by simp only [Reg.SPL_TSTCTL]; omega)]
  refine congrArg (answered .ok 0) ?_
  unfold splWrite
  simp only [show Reg.SPL_TSTCTL n.val - 0x008A0000 = 0x40 * n.val + 0x1C by simp only [Reg.SPL_TSTCTL]; omega]
  rw [if_pos (by omega), show (0x40 * n.val + 0x1C) % 0x40 = 0x1C by omega, show (0x40 * n.val + 0x1C) / 0x40 = n.val by omega]
  rfl

theorem desc_CPY_CTL (k : Fin 8) : regDesc (Reg.CPY_CTL k.val) = ⟨0xf10, 0x0, 0x3, 0x0, 0x0, 0x0, 0x0, 0x0, 0x0⟩ := by revert k; decide +kernel

theorem plain_CPY_CTL (k : Fin 8) : plainReg (Reg.CPY_CTL k.val) = true := by revert k; decide +kernel

theorem write_CPY_CTL {s : State} {m : Master} (hm : reachesRegs m = true) (k : Fin 8) (w : Word) :
    writeReg s m (Reg.CPY_CTL k.val) w = answered .ok 0 (cpyCtlWrite s (masterNow s m) k.val (w &&& 0xF13)) := by
  rw [writeReg_plain hm (plain_CPY_CTL k) (desc_CPY_CTL k) (by decide), mergeBits_all (by decide)]
  have hk := k.isLt
  rw [blockWrite_spl (by simp only [Reg.CPY_CTL]; omega) (by simp only [Reg.CPY_CTL]; omega)]
  refine congrArg (answered .ok 0) ?_
  unfold splWrite
  simp only [show Reg.CPY_CTL k.val - 0x008A0000 = 0x400 + 0x20 * k.val by simp only [Reg.CPY_CTL]; omega]
  rw [if_neg (by omega), if_pos (by omega), show (0x400 + 0x20 * k.val) % 0x20 = 0 by omega, show (0x400 + 0x20 * k.val - 0x400) / 0x20 = k.val by omega]
  rfl

theorem desc_CAS_CTL : regDesc Reg.CAS_CTL = ⟨0x0, 0x0, 0x0, 0x3, 0x0, 0x0, 0x0, 0x0, 0x3⟩ := by decide

theorem plain_CAS_CTL : plainReg Reg.CAS_CTL = true := by decide

theorem write_CAS_CTL {s : State} {m : Master} (hm : masterSecure (masterNow s m) = true) (w : Word) :
    writeReg s m Reg.CAS_CTL w = answered .ok 0 (casCtlWrite s (w &&& 0x3)) := by
  rw [writeReg_secure hm (plain_CAS_CTL) (desc_CAS_CTL) (by decide), mergeBits_all (by decide)]
  rw [blockWrite_cas (by decide) (by decide)]
  rfl

theorem desc_MBX_CTL : regDesc Reg.MBX_CTL = ⟨0x0, 0x0, 0x3, 0x0, 0x0, 0x0, 0x0, 0x0, 0x0⟩ := by decide

theorem plain_MBX_CTL : plainReg Reg.MBX_CTL = true := by decide

theorem write_MBX_CTL {s : State} {m : Master} (hm : reachesRegs m = true) (w : Word) :
    writeReg s m Reg.MBX_CTL w = answered .ok 0 (mbxCtlWrite s (masterNow s m) (w &&& 0x3)) := by
  rw [writeReg_plain hm (plain_MBX_CTL) (desc_MBX_CTL) (by decide), mergeBits_all (by decide)]
  rw [blockWrite_slt (by decide) (by decide)]
  rfl

theorem desc_EVR_CTL (b : Fin 3) : regDesc (Reg.EVR_CTL b.val) = ⟨0x1, 0x0, 0x6, 0x0, 0x0, 0x0, 0x0, 0x0, 0x1⟩ := by revert b; decide +kernel

theorem plain_EVR_CTL (b : Fin 3) : plainReg (Reg.EVR_CTL b.val) = true := by revert b; decide +kernel

theorem write_EVR_CTL {s : State} {m : Master} (hm : reachesRegs m = true) (b : Fin 3) (w : Word) :
    writeReg s m (Reg.EVR_CTL b.val) w = answered .ok 0 ((if evrReach (masterNow s m) (Reg.EVR_CTL b.val) then evrCtlWrite s b.val (w &&& 0x7) else s)) := by
  rw [writeReg_plain hm (plain_EVR_CTL b) (desc_EVR_CTL b) (by decide), mergeBits_all (by decide)]
  have hb := b.isLt
  rw [blockWrite_evr (by simp only [Reg.EVR_CTL]; omega) (by simp only [Reg.EVR_CTL]; omega)]
  refine congrArg (answered .ok 0) ?_
  unfold evrWrite
  cases h : evrReach (masterNow s m) (Reg.EVR_CTL b.val)
  · rfl
  · have ha : (Reg.EVR_CTL b.val) = 0x00891000 + 0x1000 * b.val := by simp only [Reg.EVR_CTL]
    have h1 : (0x00891000 + 0x1000 * b.val - 0x00891000) / 0x1000 = b.val := by omega
    have h2 : (0x00891000 + 0x1000 * b.val - 0x00891000) % 0x1000 = 0 := by omega
    simp only [Bool.not_true, Bool.false_eq_true, if_false, if_true, ha]
    rw [if_neg (by omega), if_neg (by omega), h1, h2]
    rfl

theorem desc_ENL_CTL (e : Fin 16) : regDesc (Reg.ENL_CTL e.val) = ⟨0x1, 0x0, 0x2, 0x1fff0000, 0x0, 0x0, 0x10000000, 0x0, 0x1fff0001⟩ := by revert e; decide +kernel

theorem plain_ENL_CTL (e : Fin 16) : plainReg (Reg.ENL_CTL e.val) = true := by revert e; decide +kernel

theorem write_ENL_CTL {s : State} {m : Master} (hm : masterSecure (masterNow s m) = true) (e : Fin 16) (w : Word) :
    writeReg s m (Reg.ENL_CTL e.val) w = answered .ok 0 (engCtlWrite s e.val (w &&& 0x1FFF0003)) := by
  rw [writeReg_secure hm (plain_ENL_CTL e) (desc_ENL_CTL e) (by decide), mergeBits_all (by decide)]
  have he := e.isLt
  rw [blockWrite_eng (by simp only [Reg.ENL_CTL]; omega) (by simp only [Reg.ENL_CTL]; omega)]
  unfold engWrite
  simp only [show (Reg.ENL_CTL e.val - 0x00850000) / 0x1000 = e.val by simp only [Reg.ENL_CTL]; omega,
    show (Reg.ENL_CTL e.val - 0x00850000) % 0x1000 = 0 by simp only [Reg.ENL_CTL]; omega]
  rfl

/-! The registers of an engine thread. -/

theorem desc_ENL_TCTL (t : Fin 64) : regDesc (Reg.ENL_TCTL (t.val / 4) (t.val % 4)) =
    ⟨0x120, 0x0, 0x1f, 0xff010000, 0x0, 0x0, 0x0, 0x0, 0xff010100⟩ := by revert t; decide +kernel

theorem plain_ENL_TCTL (t : Fin 64) : plainReg (Reg.ENL_TCTL (t.val / 4) (t.val % 4)) = true := by revert t; decide +kernel

theorem desc_ENL_TMSG (t : Fin 64) : regDesc (Reg.ENL_TMSG (t.val / 4) (t.val % 4)) = ⟨0, 0, 0xffffffff, 0, 0, 0, 0, 0, 0⟩ := by
  revert t; decide +kernel

theorem plain_ENL_TMSG (t : Fin 64) : plainReg (Reg.ENL_TMSG (t.val / 4) (t.val % 4)) = true := by revert t; decide +kernel

theorem desc_ENL_TPC (t : Fin 64) : regDesc (Reg.ENL_TPC (t.val / 4) (t.val % 4)) = ⟨0xfff, 0, 0, 0, 0, 0, 0, 0, 0xfff⟩ := by
  revert t; decide +kernel

theorem plain_ENL_TPC (t : Fin 64) : plainReg (Reg.ENL_TPC (t.val / 4) (t.val % 4)) = true := by revert t; decide +kernel

theorem thread_eq (t : Fin 64) : Fin.ofNat 64 (4 * (t.val / 4) + t.val % 4) = t := by revert t; decide +kernel

theorem engWrite_tctl {s : State} {t : Fin 64} {w : Word} :
    engWrite s (0x00850100 + 0x1000 * (t.val / 4) + 0x40 * (t.val % 4) + 0) w = tctlWrite s t w := by
  have h5 : Fin.ofNat 64 (4 * (t.val / 4) + t.val % 4) = t := thread_eq t
  have ht := t.isLt
  have h1 : (0x00850100 + 0x1000 * (t.val / 4) + 0x40 * (t.val % 4) + 0 - 0x00850000) / 0x1000 = t.val / 4 := by omega
  have h2 : (0x00850100 + 0x1000 * (t.val / 4) + 0x40 * (t.val % 4) + 0 - 0x00850000) % 0x1000 = 0x100 + 0x40 * (t.val % 4) + 0 := by
    omega
  have h3 : (0x100 + 0x40 * (t.val % 4) + 0) % 0x40 = 0 := by omega
  have h4 : (0x100 + 0x40 * (t.val % 4) + 0 - 0x100) / 0x40 = t.val % 4 := by rw [Nat.add_assoc, Nat.add_sub_cancel_left]; omega
  unfold engWrite
  simp only [h1, h2, h3, h4, h5]
  rw [if_neg (by omega), if_neg (by omega), if_pos (by omega)]

theorem engWrite_tpc {s : State} {t : Fin 64} {w : Word} :
    engWrite s (0x00850100 + 0x1000 * (t.val / 4) + 0x40 * (t.val % 4) + 8) w = tpcWrite s t.val w := by
  have h5 : Fin.ofNat 64 (4 * (t.val / 4) + t.val % 4) = t := thread_eq t
  have ht := t.isLt
  have h1 : (0x00850100 + 0x1000 * (t.val / 4) + 0x40 * (t.val % 4) + 8 - 0x00850000) / 0x1000 = t.val / 4 := by omega
  have h2 : (0x00850100 + 0x1000 * (t.val / 4) + 0x40 * (t.val % 4) + 8 - 0x00850000) % 0x1000 = 0x100 + 0x40 * (t.val % 4) + 8 := by
    omega
  have h3 : (0x100 + 0x40 * (t.val % 4) + 8) % 0x40 = 8 := by omega
  have h4 : (0x100 + 0x40 * (t.val % 4) + 8 - 0x100) / 0x40 = t.val % 4 := by rw [Nat.add_assoc, Nat.add_sub_cancel_left]; omega
  unfold engWrite
  simp only [h1, h2, h3, h4, h5]
  rw [if_neg (by omega), if_neg (by omega), if_pos (by omega)]

theorem engWrite_tmsg {s : State} {t : Fin 64} {w : Word} :
    engWrite s (0x00850100 + 0x1000 * (t.val / 4) + 0x40 * (t.val % 4) + 0x18) w = tmsgOp s t.val w := by
  have h5 : Fin.ofNat 64 (4 * (t.val / 4) + t.val % 4) = t := thread_eq t
  have ht := t.isLt
  have h1 : (0x00850100 + 0x1000 * (t.val / 4) + 0x40 * (t.val % 4) + 0x18 - 0x00850000) / 0x1000 = t.val / 4 := by omega
  have h2 : (0x00850100 + 0x1000 * (t.val / 4) + 0x40 * (t.val % 4) + 0x18 - 0x00850000) % 0x1000 = 0x100 + 0x40 * (t.val % 4) + 0x18 := by
    omega
  have h3 : (0x100 + 0x40 * (t.val % 4) + 0x18) % 0x40 = 0x18 := by omega
  have h4 : (0x100 + 0x40 * (t.val % 4) + 0x18 - 0x100) / 0x40 = t.val % 4 := by rw [Nat.add_assoc, Nat.add_sub_cancel_left]; omega
  unfold engWrite
  simp only [h1, h2, h3, h4, h5]
  rw [if_neg (by omega), if_neg (by omega), if_pos (by omega)]

theorem write_ENL_TMSG {s : State} {m : Master} (hm : reachesRegs m = true) (t : Fin 64) (w : Word) :
    writeReg s m (Reg.ENL_TMSG (t.val / 4) (t.val % 4)) w = answered .ok 0 (tmsgOp s t.val w) := by
  have ht := t.isLt
  rw [writeReg_plain hm (plain_ENL_TMSG t) (desc_ENL_TMSG t) (by decide), mergeBits_all (by decide),
    blockWrite_eng (by simp only [Reg.ENL_TMSG]; omega) (by simp only [Reg.ENL_TMSG]; omega),
    show Reg.ENL_TMSG (t.val / 4) (t.val % 4) = 0x00850100 + 0x1000 * (t.val / 4) + 0x40 * (t.val % 4) + 0x18 by
      simp only [Reg.ENL_TMSG]; omega, engWrite_tmsg, show w &&& (0 ||| 0xffffffff) = w from BitVec.and_allOnes]

theorem write_ENL_TPC {s : State} {m : Master} (hm : reachesRegs m = true) (t : Fin 64) (w : Word) :
    writeReg s m (Reg.ENL_TPC (t.val / 4) (t.val % 4)) w = answered .ok 0 (tpcWrite s t.val (w &&& 0xFFF)) := by
  have ht := t.isLt
  rw [writeReg_plain hm (plain_ENL_TPC t) (desc_ENL_TPC t) (by decide), mergeBits_all (by decide),
    blockWrite_eng (by simp only [Reg.ENL_TPC]; omega) (by simp only [Reg.ENL_TPC]; omega),
    show Reg.ENL_TPC (t.val / 4) (t.val % 4) = 0x00850100 + 0x1000 * (t.val / 4) + 0x40 * (t.val % 4) + 8 by
      simp only [Reg.ENL_TPC]; omega, engWrite_tpc]
  rfl

theorem word_or_and (a b m : Word) : (a ||| b) &&& m = (a &&& m) ||| (b &&& m) := by
  apply BitVec.eq_of_getLsbD_eq; intro i _; simp [Bool.and_or_distrib_right]

theorem word_and_or (x a b : Word) : x &&& (a ||| b) = (x &&& a) ||| (x &&& b) := by
  apply BitVec.eq_of_getLsbD_eq; intro i _; simp [Bool.and_or_distrib_left]

theorem tctl_user_word (x : Word) (b : Nat) (hb : b < 5) :
    mergeBits (x &&& (0x120 ||| 0xff010000)) (setBit (x &&& 0x120) b) (0x120 ||| 0x1f) = setBit (x &&& 0xFF010120) b := by
  unfold mergeBits setBit
  rw [word_or_and, BitVec.and_assoc, BitVec.and_assoc, show (0x120 ||| 0xff010000 : Word) &&& ~~~(0x120 ||| 0x1f) = 0xff010000 by decide,
    show (0x120 : Word) &&& (0x120 ||| 0x1f) = 0x120 by decide, show mkw 1 b &&& (0x120 ||| 0x1f) = mkw 1 b by revert hb; revert b; decide,
    ← BitVec.or_assoc, ← word_and_or]
  rfl

theorem tctl_user_zero (x : Word) (b : Nat) (hb : b < 5) : setBit (x &&& 0x120) b &&& 0xff010000 = 0 := by
  unfold setBit
  rw [word_or_and, BitVec.and_assoc, show mkw 1 b &&& 0xff010000 = 0 by revert hb; revert b; decide]
  simp

theorem tctl_secure_word (x : Word) (b : Nat) (hb : b < 5) :
    setBit (x &&& 0xFF010120) b &&& (0x120 ||| 0x1f ||| 0xff010000) = setBit (x &&& 0xFF010120) b := by
  unfold setBit
  rw [word_or_and, BitVec.and_assoc, show mkw 1 b &&& (0x120 ||| 0x1f ||| 0xff010000) = mkw 1 b by revert hb; revert b; decide]
  rfl

/-- A command bit of a thread lands with the thread's configuration kept, whoever writes it. -/
theorem tctlCmd_lands {s : State} {m : Master} (hm : reachesRegs m = true) (t : Fin 64) (b : Nat) (hb : b < 5) :
    tctlCmd s m t.val b = answered .ok 0 (tctlWrite s t (setBit (tctl s t.val &&& 0xFF010120) b)) := by
  have ht := t.isLt
  have hblk : ∀ w, blockWrite s (masterNow s m) (Reg.ENL_TCTL (t.val / 4) (t.val % 4)) w = tctlWrite s t w := by
    intro w
    rw [blockWrite_eng (by simp only [Reg.ENL_TCTL]; omega) (by simp only [Reg.ENL_TCTL]; omega),
      show Reg.ENL_TCTL (t.val / 4) (t.val % 4) = 0x00850100 + 0x1000 * (t.val / 4) + 0x40 * (t.val % 4) + 0 by
        simp only [Reg.ENL_TCTL]; omega, engWrite_tctl]
  unfold tctlCmd
  cases hs : masterSecure (masterNow s m)
  · rw [if_neg (by decide), writeReg_user hm hs (plain_ENL_TCTL t) (desc_ENL_TCTL t) (by decide)
      (by simp only [Reg.ENL_TCTL, Reg.SAFE_CMD]; omega) (tctl_user_zero _ b hb), hblk]
    exact congrArg (fun x => answered .ok 0 (tctlWrite s t x)) (tctl_user_word _ b hb)
  · rw [if_pos rfl, writeReg_secure hs (plain_ENL_TCTL t) (desc_ENL_TCTL t) (by decide), mergeBits_all (by decide), hblk,
      tctl_secure_word _ b hb]

end Sys2Proof.Machine
end

