-- ==== Sys2Proof/Laws/Store.lean ====
section
/-! SUPPORT. The stores of the machine (its memories and the queue), and what keeps them: for each shared operation one lemma, that
it leaves the stores as they were (`…_store`) or keeps the queue and the form of every memory (`…_stored`, `…_kept`). -/

namespace Sys2Proof.Machine

/-- The memories of an engine. -/
structure EngMem where
  iram : List (Nat × Word)
  tray : List Host.Cell
  iecc : List (Nat × Nat)
  tecc : List (Nat × Nat)

def Eng.mems (g : Eng) : EngMem := { iram := g.iram, tray := g.tray, iecc := g.iecc, tecc := g.tecc }

def EngMem.wf (g : EngMem) : Prop :=
  sparseWf zeroWord g.iram = true ∧ sparseWf zeroByte g.tray = true ∧ sparseWf zeroNat g.iecc = true ∧ sparseWf zeroNat g.tecc = true

/-- What few commands touch: memories, OTP, Safelight RAM and the queue of commands. -/
structure Store where
  mem : List Host.Cell
  ecc : List (Nat × Nat)
  keep : List Host.Cell
  flash : FlashChip
  sram : List Host.Cell
  otp : Bool
  order : Nat
  ownerKey : Option (List Byte)
  pending : List Instr
  eng : Vector EngMem 16

def State.store (s : State) : Store :=
  { mem := s.mem, ecc := s.ecc, keep := s.keep, flash := s.flash, sram := s.sram, otp := s.otp, order := s.order,
    ownerKey := s.ownerKey, pending := s.pending, eng := s.eng.map Eng.mems }

@[simp ↓] theorem store_mk x_tb x_tbRun x_otp x_regs x_shadows x_staged x_fresh x_seen x_due x_answer x_fabric x_sheet x_fix x_spk x_ch x_capIn x_vcalOff x_pin x_vdet x_trgEnd x_trip x_cal x_eng x_ct x_link x_exg x_shq x_mtr x_guard x_rgClosed x_lim x_safe x_evr x_mem x_ecc x_spl x_cpy x_host x_keep x_flash x_boot x_cas x_slt x_sram x_order x_ownerKey x_free x_pending :
    State.store (State.mk x_tb x_tbRun x_otp x_regs x_shadows x_staged x_fresh x_seen x_due x_answer x_fabric x_sheet x_fix x_spk x_ch x_capIn x_vcalOff x_pin x_vdet x_trgEnd x_trip x_cal x_eng x_ct x_link x_exg x_shq x_mtr x_guard x_rgClosed x_lim x_safe x_evr x_mem x_ecc x_spl x_cpy x_host x_keep x_flash x_boot x_cas x_slt x_sram x_order x_ownerKey x_free x_pending) =
      { mem := x_mem, ecc := x_ecc, keep := x_keep, flash := x_flash, sram := x_sram, otp := x_otp, order := x_order,
        ownerKey := x_ownerKey, pending := x_pending, eng := x_eng.map Eng.mems } := rfl

@[simp] theorem store_fold (s : State) :
    (⟨s.mem, s.ecc, s.keep, s.flash, s.sram, s.otp, s.order, s.ownerKey, s.pending, s.eng.map Eng.mems⟩ : Store) = s.store := by cases s; rfl

theorem vmodN_map {α β : Type} {n : Nat} (v : Vector α n) (i : Nat) (f : α → α) (g : α → β) (h : ∀ x, g (f x) = g x) :
    (vmodN v i f).map g = v.map g := by
  unfold vmodN
  split
  · rw [Vector.map_set, h]
    ext j hj
    rw [Vector.getElem_set]
    split
    · subst_vars; simp
    · rfl
  · rfl

@[simp] theorem modEng_store (s : State) (e : Nat) (f : Eng → Eng) (h : ∀ g, (f g).mems = g.mems) : (s.modEng e f).store = s.store := by
  simp only [State.modEng, store_mk, vmodN_map _ _ _ _ h]; rfl

@[simp] theorem modThr_store (s : State) (t : Nat) (f : Thr → Thr) : (s.modThr t f).store = s.store :=
  modEng_store _ _ _ fun _ => rfl

theorem forEach_same {α β : Type} (p : State → β) (xs : List α) (s : State) (f : State → α → State) (h : ∀ t x, p (f t x) = p t) :
    p (forEach xs s f) = p s := by
  unfold forEach
  induction xs generalizing s with
  | nil => rfl
  | cons x r ih => rw [List.foldl_cons, ih, h]

@[simp] theorem forEach_store {α : Type} (xs : List α) (s : State) (f : State → α → State) (h : ∀ t x, (f t x).store = t.store) :
    (forEach xs s f).store = s.store := forEach_same State.store xs s f h

@[simp] theorem ite_store (c : Prop) [Decidable c] (a b : State) : (if c then a else b).store = if c then a.store else b.store :=
  apply_ite _ _ _ _

def EngWf (v : Vector EngMem 16) : Prop := ∀ g, g ∈ v.toList → g.wf

theorem forEach_inv {α : Type} (p : State → Prop) (xs : List α) (s : State) (f : State → α → State) (h0 : p s)
    (h : ∀ t x, p t → p (f t x)) : p (forEach xs s f) := by
  unfold forEach
  induction xs generalizing s with
  | nil => exact h0
  | cons x r ih => exact ih _ (h s x h0)


/-- The stores after a reset: the keep store, the flash and the OTP stay. -/
def Store.afterReset (x : Store) : Store :=
  { mem := [], ecc := [], keep := x.keep, flash := x.flash, sram := [], otp := false, order := x.order, ownerKey := x.ownerKey,
    pending := x.pending, eng := Vector.replicate 16 Eng.reset.mems }

@[simp] theorem sparseWf_nil {α : Type} [DecidableEq α] (d : Nat → α) : sparseWf d [] = true := rfl

/-- Every memory is in its canonical form. -/
structure Canon (x : Store) : Prop where
  mem : sparseWf zeroByte x.mem = true
  ecc : sparseWf zeroNat x.ecc = true
  keep : sparseWf zeroByte x.keep = true
  flash : sparseWf erasedByte x.flash.bytes = true
  sram : sparseWf zeroByte x.sram = true
  eng : EngWf x.eng

/-- From `x` to `y` the queue is as it was, and every memory keeps its canonical form. -/
def Stored (x y : Store) : Prop := y.pending = x.pending ∧ (Canon x → Canon y)

@[simp] theorem Stored.refl (x : Store) : Stored x x := ⟨rfl, fun c => c⟩

theorem Stored.trans {x y z : Store} (h1 : Stored x y) (h2 : Stored y z) : Stored x z := ⟨h2.1.trans h1.1, fun c => h2.2 (h1.2 c)⟩

@[simp] theorem stored_ite (x : Store) (c : Prop) [Decidable c] (y z : Store) :
    Stored x (if c then y else z) = if c then Stored x y else Stored x z := apply_ite _ _ _ _

theorem EngWf.reset : EngWf (Vector.replicate 16 Eng.reset.mems) := by
  intro g hg
  rw [Vector.toList_replicate, List.mem_replicate] at hg
  rw [hg.2]
  exact ⟨rfl, rfl, rfl, rfl⟩

@[simp] theorem Stored.after {x y : Store} (h : Stored x y) : Stored x y.afterReset :=
  ⟨h.1, fun c => ⟨rfl, rfl, (h.2 c).keep, (h.2 c).flash, rfl, EngWf.reset⟩⟩

theorem Stored.forEach {α : Type} {x : Store} (xs : List α) (s : State) (f : State → α → State) (h0 : Stored x s.store)
    (h : ∀ t y, Stored x t.store → Stored x (f t y).store) : Stored x (forEach xs s f).store :=
  forEach_inv (fun s => Stored x s.store) xs s f h0 h

theorem Stored.put_mem {x y : Store} (h : Stored x y) (m : List Host.Cell) (hm : sparseWf zeroByte y.mem = true → sparseWf zeroByte m = true) :
    Stored x { y with mem := m } :=
  ⟨h.1, fun c => ⟨hm (h.2 c).mem, (h.2 c).ecc, (h.2 c).keep, (h.2 c).flash, (h.2 c).sram, (h.2 c).eng⟩⟩

theorem Stored.put_ecc {x y : Store} (h : Stored x y) (m : List (Nat × Nat)) (hm : sparseWf zeroNat y.ecc = true → sparseWf zeroNat m = true) :
    Stored x { y with ecc := m } :=
  ⟨h.1, fun c => ⟨(h.2 c).mem, hm (h.2 c).ecc, (h.2 c).keep, (h.2 c).flash, (h.2 c).sram, (h.2 c).eng⟩⟩

theorem Stored.put_keep {x y : Store} (h : Stored x y) (m : List Host.Cell) (hm : sparseWf zeroByte y.keep = true → sparseWf zeroByte m = true) :
    Stored x { y with keep := m } :=
  ⟨h.1, fun c => ⟨(h.2 c).mem, (h.2 c).ecc, hm (h.2 c).keep, (h.2 c).flash, (h.2 c).sram, (h.2 c).eng⟩⟩

theorem Stored.put_flash {x y : Store} (h : Stored x y) (m : FlashChip)
    (hm : sparseWf erasedByte y.flash.bytes = true → sparseWf erasedByte m.bytes = true) : Stored x { y with flash := m } :=
  ⟨h.1, fun c => ⟨(h.2 c).mem, (h.2 c).ecc, (h.2 c).keep, hm (h.2 c).flash, (h.2 c).sram, (h.2 c).eng⟩⟩

theorem Stored.put_sram {x y : Store} (h : Stored x y) (m : List Host.Cell) (hm : sparseWf zeroByte y.sram = true → sparseWf zeroByte m = true) :
    Stored x { y with sram := m } :=
  ⟨h.1, fun c => ⟨(h.2 c).mem, (h.2 c).ecc, (h.2 c).keep, (h.2 c).flash, hm (h.2 c).sram, (h.2 c).eng⟩⟩

theorem Stored.put_eng {x y : Store} (h : Stored x y) (m : Vector EngMem 16) (hm : EngWf y.eng → EngWf m) : Stored x { y with eng := m } :=
  ⟨h.1, fun c => ⟨(h.2 c).mem, (h.2 c).ecc, (h.2 c).keep, (h.2 c).flash, (h.2 c).sram, hm (h.2 c).eng⟩⟩

theorem Stored.put_otp {x y : Store} (h : Stored x y) (b : Bool) : Stored x { y with otp := b } :=
  ⟨h.1, fun c => ⟨(h.2 c).mem, (h.2 c).ecc, (h.2 c).keep, (h.2 c).flash, (h.2 c).sram, (h.2 c).eng⟩⟩

@[simp] theorem stored_eta (x y : Store) :
    Stored x ⟨y.mem, y.ecc, y.keep, y.flash, y.sram, y.otp, y.order, y.ownerKey, y.pending, y.eng⟩ = Stored x y := rfl

theorem Stored.put_owner {x y : Store} (h : Stored x y) (k : Option (List Byte)) : Stored x { y with ownerKey := k } :=
  ⟨h.1, fun c => ⟨(h.2 c).mem, (h.2 c).ecc, (h.2 c).keep, (h.2 c).flash, (h.2 c).sram, (h.2 c).eng⟩⟩

theorem Stored.put_order {x y : Store} (h : Stored x y) (k : Nat) : Stored x { y with order := k } :=
  ⟨h.1, fun c => ⟨(h.2 c).mem, (h.2 c).ecc, (h.2 c).keep, (h.2 c).flash, (h.2 c).sram, (h.2 c).eng⟩⟩

/-- From `s` to `t` the queue is as it was, and every memory keeps its canonical form. -/
def Kept (s t : State) : Prop := Stored s.store t.store

theorem Kept.of_store {s t : State} (h : t.store = s.store) : Kept s t := by
  unfold Kept
  rw [h]
  exact .refl _

theorem Kept.refl (s : State) : Kept s s := .of_store rfl

theorem Kept.trans {s t u : State} (h1 : Kept s t) (h2 : Kept t u) : Kept s u := Stored.trans h1 h2

theorem Kept.then_store {s t u : State} (h1 : Kept s t) (h2 : u.store = t.store) : Kept s u := h1.trans (.of_store h2)

theorem Kept.forEach {α : Type} (xs : List α) (s : State) (f : State → α → State) (h : ∀ t x, Kept t (f t x)) :
    Kept s (forEach xs s f) := forEach_inv (Kept s) xs s f (.refl s) fun t x ht => ht.trans (h t x)

theorem Kept.ite {s t u : State} (c : Prop) [Decidable c] (h1 : Kept s t) (h2 : Kept s u) : Kept s (if c then t else u) := by
  split <;> assumption

theorem Kept.ite2 {α : Type} {s : State} {r q : α × State} (c : Prop) [Decidable c] (h1 : Kept s r.2) (h2 : Kept s q.2) :
    Kept s (if c then r else q).2 := by split <;> assumption

theorem Kept.stored {x : Store} {s t : State} (h : Kept s t) (hk : Stored x s.store) : Stored x t.store := hk.trans h

end Sys2Proof.Machine
end

