-- ==== Sys2Proof/Laws/StoreUnits.lean ====
section
/-! SUPPORT. The memories and the queue under the operations of the units: full frames, and for the few that store, that the stores keep their form. -/

namespace Sys2Proof.Machine

/-! Ops. -/

@[simp] theorem State_setReg_store (s : State) (a : Nat) (w : Word) : (State.setReg s a w).store = s.store := by
  simp [State.setReg]

@[simp] theorem State_setRf_store (s : State) (a hi lo v : Nat) : (State.setRf s a hi lo v).store = s.store := by
  simp [State.setRf]

@[simp] theorem State_modSpk_store (s : State) (n : Nat) (f : Spk → Spk) : (State.modSpk s n f).store = s.store := by
  simp [State.modSpk]

@[simp] theorem State_modCh_store (s : State) (n : Nat) (f : Chan → Chan) : (State.modCh s n f).store = s.store := by
  simp [State.modCh]

@[simp] theorem State_modPin_store (s : State) (n : Nat) (f : Pin → Pin) : (State.modPin s n f).store = s.store := by
  simp [State.modPin]

@[simp] theorem State_modLink_store (s : State) (n : Nat) (f : Link → Link) : (State.modLink s n f).store = s.store := by
  simp [State.modLink]

@[simp] theorem State_modExg_store (s : State) (g : Nat) (f : Exg → Exg) : (State.modExg s g f).store = s.store := by
  simp [State.modExg]

@[simp] theorem State_modShq_store (s : State) (n : Nat) (f : Shq → Shq) : (State.modShq s n f).store = s.store := by
  simp [State.modShq]

@[simp] theorem State_modMtr_store (s : State) (n : Nat) (f : Mtr → Mtr) : (State.modMtr s n f).store = s.store := by
  simp [State.modMtr]

@[simp] theorem State_modLim_store (s : State) (k : Nat) (f : Lim → Lim) : (State.modLim s k f).store = s.store := by
  simp [State.modLim]

@[simp] theorem State_modSpl_store (s : State) (n : Nat) (f : Spl → Spl) : (State.modSpl s n f).store = s.store := by
  simp [State.modSpl]

@[simp] theorem State_modCpy_store (s : State) (k : Nat) (f : Cpy → Cpy) : (State.modCpy s k f).store = s.store := by
  simp [State.modCpy]

@[simp] theorem State_modFix_store (s : State) (k : Nat) (f : FixCh → FixCh) : (State.modFix s k f).store = s.store := by
  simp [State.modFix]

@[simp] theorem State_modBank_store (s : State) (b : Nat) (f : Bank → Bank) : (State.modBank s b f).store = s.store := by
  simp [State.modBank]

@[simp] theorem State_modSlot_store (s : State) (n x : Nat) (f : Slot → Slot) : (State.modSlot s n x f).store = s.store := by
  simp [State.modSlot]

@[simp] theorem State_drawWord_store (s : State) : (State.drawWord s).2.store = s.store := by
  simp [State.drawWord]

@[simp] theorem State_drawBool_store (s : State) : (State.drawBool s).2.store = s.store := by
  simp [State.drawBool]

@[simp] theorem State_putFresh_store (s : State) (f : Fresh) : (State.putFresh s f).store = s.store := by
  simp [State.putFresh]

@[simp] theorem State_markWr_store (s : State) (a : Nat) : (State.markWr s a).store = s.store := by
  unfold State.markWr; (try dsimp only); split <;> simp

@[simp] theorem State_hwSet_store (s : State) (a : Nat) (bits : Word) : (State.hwSet s a bits).store = s.store := by
  unfold State.hwSet; (try dsimp only); split <;> simp

@[simp] theorem State_hwUnset_store (s : State) (a : Nat) (bits : Word) : (State.hwUnset s a bits).store = s.store := by
  unfold State.hwUnset; (try dsimp only); split <;> simp

@[simp] theorem State_hwSetBit_store (s : State) (a i : Nat) : (State.hwSetBit s a i).store = s.store := by
  simp [State.hwSetBit]

@[simp] theorem State_sampled_store (s : State) : (State.sampled s).store = s.store := by
  unfold State.sampled; (try dsimp only); split <;> simp

@[simp] theorem State_mapViews_store (s : State) (k : Nat) (f : TbView → TbView) : (State.mapViews s k f).store = s.store := by
  simp [State.mapViews]

@[simp] theorem State_rcReadTb_store (s : State) (a : Nat) (ret shown : Word) : (State.rcReadTb s a ret shown).2.store = s.store := by
  simp [State.rcReadTb]

@[simp] theorem State_rcRead_store (s : State) (a : Nat) (ret live : Word) : (State.rcRead s a ret live).2.store = s.store := by
  unfold State.rcRead; dsimp only; (repeat' split) <;> simp_all

@[simp] theorem State_bump_store (s : State) (a hi lo : Nat) : (State.bump s a hi lo).store = s.store := by
  unfold State.bump; (try dsimp only); split <;> simp

@[simp] theorem State_clearCnt_store (s : State) (a : Nat) : (State.clearCnt s a).store = s.store := by
  simp [State.clearCnt]

@[simp] theorem State_after_store (s : State) (d : Nat) (e : Due) : (State.after s d e).store = s.store := by
  simp [State.after]

@[simp] theorem State_putShadow_store (s : State) (m : Master) (a : Nat) (w : Word) : (State.putShadow s m a w).store = s.store := by
  simp [State.putShadow]

/-! Records. -/

@[simp] theorem State_raiseIn_store (s : State) (ofTb : Bool) (src kind : Nat) (d : Detail) (safety esc : Bool) : (State.raiseIn s ofTb src kind d safety esc).store = s.store := by
  simp [State.raiseIn]

@[simp] theorem State_raiseAs_store (s : State) (src kind : Nat) (d : Detail) (safety esc : Bool) : (State.raiseAs s src kind d safety esc).store = s.store := by
  simp [State.raiseAs]

@[simp] theorem State_raise0_store (s : State) (src kind : Nat) (d : Detail) : (State.raise0 s src kind d).store = s.store := by
  simp [State.raise0]

@[simp] theorem State_evrEvt_store (s : State) (b bit kind cls idx : Nat) : (State.evrEvt s b bit kind cls idx).store = s.store := by
  unfold State.evrEvt; (try dsimp only); split <;> simp

@[simp] theorem State_evtRaise_store (s : State) (evt en src b : Nat) (always : Bool) : (State.evtRaise s evt en src b always).store = s.store := by
  unfold State.evtRaise; (try dsimp only); split <;> simp

/-! Pins. -/

@[simp] theorem addOnTime_store (s : State) (n : Nat) : (addOnTime s n).store = s.store := by
  unfold addOnTime; (try dsimp only); split <;> simp

@[simp] theorem gateHit_store (s : State) (n : Nat) : (gateHit s n).store = s.store := by
  unfold gateHit; (try dsimp only); split <;> simp

@[simp] theorem settleBall_store (s : State) (n : Nat) (old : Lvl) : (settleBall s n old).store = s.store := by
  unfold settleBall; (try dsimp only); split <;> simp

@[simp] theorem relEvent_store (s : State) (bit : Nat) : (relEvent s bit).store = s.store := by
  unfold relEvent; (try dsimp only); split <;> simp

@[simp] theorem limiterIn_store (s : State) (n : Nat) (l : Lvl) : (limiterIn s n l).store = s.store := by
  unfold limiterIn; (try dsimp only); split <;> simp

@[simp] theorem settlePin_store (s : State) (n : Nat) : (settlePin s n).store = s.store := by
  simp [settlePin]

@[simp] theorem gateOpenOp_store (s : State) (n : Nat) : (gateOpenOp s n).store = s.store := by
  unfold gateOpenOp; (try dsimp only); split <;> simp

@[simp] theorem drivePin_store (s : State) (n : Nat) : (drivePin s n).store = s.store := by
  simp [drivePin]

@[simp] theorem settlePins_store (s : State) (ns : List Nat) : (settlePins s ns).store = s.store := by
  simp [settlePins]

@[simp] theorem drivePins_store (s : State) : (drivePins s).store = s.store := by
  simp [drivePins]

@[simp] theorem directAll_store (s : State) : (directAll s).store = s.store := by
  simp [directAll]

/-! Safe. -/

@[simp] theorem sheetLosePoint_store (s : State) (k : Nat) : (sheetLosePoint s k).store = s.store := by
  unfold sheetLosePoint; (try dsimp only); split <;> simp

@[simp] theorem fixDisarm_store (s : State) (k : Nat) : (fixDisarm s k).store = s.store := by
  unfold fixDisarm; (try dsimp only); split <;> simp

@[simp] theorem fixCancel_store (s : State) (k : Nat) : (fixCancel s k).store = s.store := by
  unfold fixCancel; (try dsimp only); split <;> simp

@[simp] theorem fixDiscard_store (s : State) (k : Nat) : (fixDiscard s k).store = s.store := by
  simp [fixDiscard]

@[simp] theorem exgDiscard_store (s : State) (g : Nat) : (exgDiscard s g).store = s.store := by
  simp [exgDiscard]

@[simp] theorem fmtEvent_store (s : State) (bit src kind : Nat) : (fmtEvent s bit src kind).store = s.store := by
  simp [fmtEvent]

@[simp] theorem abandonChange_store (s : State) : (abandonChange s).store = s.store := by
  unfold abandonChange; (try dsimp only); split <;> simp

@[simp] theorem rundownOver_store (s : State) : (rundownOver s).store = s.store := by
  unfold rundownOver; (try dsimp only); split <;> simp

@[simp] theorem addCause_store (s : State) (bit : Nat) : (addCause s bit).store = s.store := by
  simp [addCause]

@[simp] theorem enterSafeIn_store (s : State) (ofTb : Bool) (bit : Nat) : (enterSafeIn s ofTb bit).store = s.store := by
  unfold enterSafeIn; dsimp only; (repeat' split) <;> simp_all

@[simp] theorem enterSafe_store (s : State) (bit : Nat) : (enterSafe s bit).store = s.store := by
  simp [enterSafe]

@[simp] theorem escalateIn_store (s : State) (ofTb : Bool) (cls src : Nat) : (escalateIn s ofTb cls src).store = s.store := by
  simp [escalateIn]

@[simp] theorem escalate_store (s : State) (cls src : Nat) : (escalate s cls src).store = s.store := by
  simp [escalate]

@[simp] theorem raiseSafety_store (s : State) (cls src kind : Nat) (d : Detail) : (raiseSafety s cls src kind d).store = s.store := by
  unfold raiseSafety; (try dsimp only); split <;> simp

/-! EngBase. -/

@[simp] theorem thrRecord_store (s : State) (t kind : Nat) (d : Word) : (thrRecord s t kind d).store = s.store := by
  simp [thrRecord]

@[simp] theorem evpSet_store (s : State) (t bit : Nat) : (evpSet s t bit).store = s.store := by
  unfold evpSet; (try dsimp only); split <;> simp

@[simp] theorem evpAt_store (s : State) (t bit d : Nat) : (evpAt s t bit d).store = s.store := by
  simp [evpAt]

@[simp] theorem evpTooth_store (s : State) (n : Nat) : (evpTooth s n).store = s.store := by
  simp [evpTooth]

@[simp] theorem evpCap_store (s : State) (ch : Nat) : (evpCap s ch).store = s.store := by
  simp [evpCap]

@[simp] theorem evpFix_store (s : State) (k : Nat) : (evpFix s k).store = s.store := by
  simp [evpFix]

@[simp] theorem thrOvf_store (s : State) (t bit kind : Nat) : (thrOvf s t bit kind).store = s.store := by
  unfold thrOvf; (try dsimp only); split <;> simp

@[simp] theorem wakePush_store (s : State) (t : Nat) (v : BitVec 16) : (wakePush s t v).store = s.store := by
  unfold wakePush; (try dsimp only); split <;> simp

@[simp] theorem thrStop_store (s : State) (t : Nat) : (thrStop s t).store = s.store := by
  simp [thrStop]

@[simp] theorem thrStart_store (s : State) (t : Nat) : (thrStart s t).store = s.store := by
  unfold thrStart; (try dsimp only); split <;> simp

@[simp] theorem thrClrEv_store (s : State) (t : Nat) : (thrClrEv s t).store = s.store := by
  simp [thrClrEv]

@[simp] theorem calForget_store (s : State) (t : Nat) : (calForget s t).store = s.store := by
  simp [calForget]

@[simp] theorem thrRestart_store (s : State) (t : Nat) (pc : BitVec 12) : (thrRestart s t pc).store = s.store := by
  simp [thrRestart]

@[simp] theorem thrCalResult_store (s : State) (t : Nat) (res : Word) : (thrCalResult s t res).store = s.store := by
  simp [thrCalResult]

/-! CalBase. -/

@[simp] theorem State_modCal_store (s : State) (f : Cal → Cal) : (State.modCal s f).store = s.store := by
  simp [State.modCal]

@[simp] theorem calEventIn_store (s : State) (ofTb : Bool) (bit : Nat) (d : Word) : (calEventIn s ofTb bit d).store = s.store := by
  simp [calEventIn]

@[simp] theorem calEventDetail_store (s : State) (bit : Nat) (d : Word) : (calEventDetail s bit d).store = s.store := by
  simp [calEventDetail]

@[simp] theorem calEvent_store (s : State) (bit tag id : Nat) : (calEvent s bit tag id).store = s.store := by
  simp [calEvent]

@[simp] theorem calUnusable_store (s : State) (e : CalEntry) : (calUnusable s e).store = s.store := by
  simp [calUnusable]

@[simp] theorem calUnusableId_store (s : State) (id : Nat) : (calUnusableId s id).store = s.store := by
  unfold calUnusableId; (try dsimp only); split <;> simp

@[simp] theorem calFiredIn_store (s : State) (ofTb : Bool) (id : Nat) : (calFiredIn s ofTb id).store = s.store := by
  unfold calFiredIn; (try dsimp only); split <;> simp

@[simp] theorem calFired_store (s : State) (id : Nat) : (calFired s id).store = s.store := by
  simp [calFired]

/-! Channel. -/

@[simp] theorem setSlotFrac_store (s : State) (n x f : Nat) : (setSlotFrac s n x f).store = s.store := by
  simp [setSlotFrac]

@[simp] theorem chEvent_store (s : State) (n b : Nat) : (chEvent s n b).store = s.store := by
  unfold chEvent; (try dsimp only); split <;> simp

@[simp] theorem pushCap_store (s : State) (n : Nat) (count : Word) (kind slot frac : Nat) (lvl edge cal : Bool) : (pushCap s n count kind slot frac lvl edge cal).store = s.store := by
  simp [pushCap]

@[simp] theorem atTb_store (s : State) (t : Nat) (f : State → State) (h : ∀ t, (f t).store = t.store) : (atTb s t f).store = s.store :=
  (h { s with tb := t } : _)

@[simp] theorem chEventAt_store (s : State) (n b t : Nat) : (chEventAt s n b t).store = s.store := by
  simp [chEventAt]

@[simp] theorem capTaken_store (s : State) (n : Nat) (e : CapEntry) (t : Nat) : (capTaken s n e t).store = s.store := by
  simp [capTaken]

@[simp] theorem capDropped_store (s : State) (n t : Nat) : (capDropped s n t).store = s.store := by
  simp [capDropped]

@[simp] theorem capPushed_store (s : State) (n : Nat) (e : CapEntry) (t : Nat) : (capPushed s n e t).store = s.store := by
  simp [capPushed]

@[simp] theorem capsSettle_store (s : State) : (capsSettle s).store = s.store := by
  simp [capsSettle]

@[simp] theorem acceptCap_store (s : State) (n : Nat) (e : CapEntry) : (acceptCap s n e).store = s.store := by
  simp [acceptCap]

@[simp] theorem acceptCaps_store (s : State) : (acceptCaps s).store = s.store := by
  simp [acceptCaps]

@[simp] theorem outAct_store (s : State) (n key : Nat) (lvl : Option Bool) (place : Nat) : (outAct s n key lvl place).store = s.store := by
  simp [outAct]

@[simp] theorem edgesPlaced_store (s : State) : (edgesPlaced s).store = s.store := by
  simp [edgesPlaced]

@[simp] theorem pulseEnds_store (s : State) (n : Nat) : (pulseEnds s n).store = s.store := by
  unfold pulseEnds; dsimp only; (repeat' split) <;> simp_all

@[simp] theorem pulse_store (s0 : State) (n x : Nat) (w : Word) (place : Nat) : (pulse s0 n x w place).store = s0.store := by
  unfold pulse; dsimp only; (repeat' split) <;> simp_all

@[simp] theorem noteAct_store (s : State) (n : Nat) : (noteAct s n).store = s.store := by
  unfold noteAct; (try dsimp only); split <;> simp

@[simp] theorem slotAction_store (s : State) (n x act place frac : Nat) (w : Word) (cal : Bool) : (slotAction s n x act place frac w cal).store = s.store := by
  unfold slotAction; (try dsimp only); split <;> simp

@[simp] theorem meetFire_store (s : State) (n x : Nat) (only : Bool) : (meetFire s n x only).store = s.store := by
  simp [meetFire]

@[simp] theorem afterFire_store (s : State) (n x : Nat) : (afterFire s n x).store = s.store := by
  unfold afterFire; (try dsimp only); split <;> simp

@[simp] theorem afterMet_store (s : State) (n x : Nat) (only : Bool) : (afterMet s n x only).store = s.store := by
  simp [afterMet]

@[simp] theorem compareFire_store (s : State) (n x : Nat) : (compareFire s n x).store = s.store := by
  unfold compareFire; dsimp only; (repeat' split) <;> simp_all

@[simp] theorem plainFire_store (s : State) (n x act : Nat) : (plainFire s n x act).store = s.store := by
  unfold plainFire; (try dsimp only); split <;> simp

@[simp] theorem memberFire_store (s : State) (n x : Nat) : (memberFire s n x).store = s.store := by
  unfold memberFire; (try dsimp only); split <;> simp

@[simp] theorem wrapFire_store (s : State) (n x : Nat) : (wrapFire s n x).store = s.store := by
  unfold wrapFire; (try dsimp only); split <;> simp

@[simp] theorem updownFire_store (s : State) (n x : Nat) : (updownFire s n x).store = s.store := by
  unfold updownFire; (try dsimp only); split <;> simp

@[simp] theorem evalSlot_store (s : State) (n x : Nat) (changed : Bool) : (evalSlot s n x changed).store = s.store := by
  simp [evalSlot]

@[simp] theorem evalSlots_store (s : State) (n : Nat) (rise : Bool) : (evalSlots s n rise).store = s.store := by
  simp [evalSlots]

@[simp] theorem chEventTick_store (fuel : Nat) : ∀ (s : State) (n : Nat) (rev : Bool), (chEventTick fuel s n rev).store = s.store := by
  induction fuel with
  | zero => intro s n rev; rfl
  | succ f ih =>
    intro s n rev
    unfold chEventTick
    dsimp only
    repeat' split
    all_goals simp_all

@[simp] theorem sourceEvent_store (s : State) (n : Nat) (rev : Bool) : (sourceEvent s n rev).store = s.store := by
  simp [sourceEvent]

@[simp] theorem toothEvents_store (s : State) (u : Nat) (rev : Bool) : (toothEvents s u rev).store = s.store := by
  simp [toothEvents]

@[simp] theorem tbEvent_store (s : State) (n : Nat) : (tbEvent s n).store = s.store := by
  unfold tbEvent; (try dsimp only); split <;> simp

@[simp] theorem slotWithdraw_store (s : State) (n x : Nat) : (slotWithdraw s n x).store = s.store := by
  unfold slotWithdraw; (try dsimp only); split <;> simp

@[simp] theorem slotsDisarm_store (s : State) (n : Nat) : (slotsDisarm s n).store = s.store := by
  simp [slotsDisarm]

@[simp] theorem pulseStop_store (s : State) (n : Nat) : (pulseStop s n).store = s.store := by
  simp [pulseStop]

@[simp] theorem pulseResume_store (s : State) (n : Nat) : (pulseResume s n).store = s.store := by
  simp [pulseResume]

@[simp] theorem ctlTakes_store (s : State) (n : Nat) (old : Word) : (ctlTakes s n old).store = s.store := by
  simp [ctlTakes]

@[simp] theorem chWriteCtl_store (s : State) (n : Nat) (w : Word) : (chWriteCtl s n w).store = s.store := by
  simp [chWriteCtl]

@[simp] theorem chWriteCnt_store (s : State) (n : Nat) (w : Word) : (chWriteCnt s n w).store = s.store := by
  unfold chWriteCnt; (try dsimp only); split <;> simp

@[simp] theorem chWriteTop_store (s : State) (n : Nat) (w : Word) : (chWriteTop s n w).store = s.store := by
  unfold chWriteTop; (try dsimp only); split <;> simp

@[simp] theorem chWriteCmp_store (s : State) (n x : Nat) (w : Word) : (chWriteCmp s n x w).store = s.store := by
  unfold chWriteCmp; dsimp only; (repeat' split) <;> simp_all

@[simp] theorem chWriteAdd_store (s : State) (n : Nat) (w : Word) : (chWriteAdd s n w).store = s.store := by
  unfold chWriteAdd; (try dsimp only); split <;> simp

@[simp] theorem chWritePulse_store (s : State) (n : Nat) (w : Word) : (chWritePulse s n w).store = s.store := by
  simp [chWritePulse]

@[simp] theorem slotWrite_store (s : State) (n x new : Nat) : (slotWrite s n x new).store = s.store := by
  unfold slotWrite; (try dsimp only); split <;> simp

@[simp] theorem chWriteSlots_store (s : State) (n k : Nat) (w : Word) : (chWriteSlots s n k w).store = s.store := by
  simp [chWriteSlots]

@[simp] theorem chFlush_store (s : State) (n : Nat) : (chFlush s n).store = s.store := by
  simp [chFlush]

@[simp] theorem chCapnow_store (s : State) (n : Nat) : (chCapnow s n).store = s.store := by
  simp [chCapnow]

@[simp] theorem chDisarm_store (s : State) (n : Nat) (m : Nat) : (chDisarm s n m).store = s.store := by
  simp [chDisarm]

@[simp] theorem chForce_store (s : State) (n f : Nat) : (chForce s n f).store = s.store := by
  unfold chForce; (try dsimp only); split <;> simp

@[simp] theorem chCommand_store (s : State) (n : Nat) (w : Word) : (chCommand s n w).store = s.store := by
  unfold chCommand; (try dsimp only); split <;> simp

@[simp] theorem capPop_store (s : State) (n out : Nat) : (capPop s n out).store = s.store := by
  simp [capPop]

@[simp] theorem capRead_store (s : State) (n : Nat) : (capRead s n).2.2.store = s.store := by
  unfold capRead; (try dsimp only); split <;> simp

@[simp] theorem capArrives_store (s : State) (n : Nat) (e : CapEntry) : (capArrives s n e).store = s.store := by
  simp [capArrives]

@[simp] theorem memberJoin_store (s : State) (n : Nat) : (memberJoin s n).store = s.store := by
  simp [memberJoin]

@[simp] theorem memberLeave_store (s : State) (n : Nat) (was : Word) : (memberLeave s n was).store = s.store := by
  simp [memberLeave]

@[simp] theorem ticksAhead_store (s : State) (n : Nat) : (ticksAhead s n).store = s.store := by
  simp [ticksAhead]

@[simp] theorem tioAccept_store (s : State) (n : Nat) (lvl : Bool) (stamp : Nat) : (tioAccept s n lvl stamp).store = s.store := by
  unfold tioAccept; (try dsimp only); split <;> simp

/-! Exposure. -/

@[simp] theorem exgEvent_store (s : State) (g b : Nat) : (exgEvent s g b).store = s.store := by
  simp [exgEvent]

@[simp] theorem exgSettle_store (s : State) (g : Nat) : (exgSettle s g).store = s.store := by
  simp [exgSettle]

@[simp] theorem exgSettleLater_store (s : State) (g : Nat) : (exgSettleLater s g).store = s.store := by
  simp [exgSettleLater]

@[simp] theorem exgLatch_store (s : State) (g cause b : Nat) : (exgLatch s g cause b).store = s.store := by
  unfold exgLatch; dsimp only; (repeat' split) <;> simp_all

@[simp] theorem exgCut_store (s : State) (g : Nat) : (exgCut s g).store = s.store := by
  unfold exgCut; (try dsimp only); split <;> simp

@[simp] theorem exgJudge_store (s : State) (g : Nat) : (exgJudge s g).store = s.store := by
  unfold exgJudge; (try dsimp only); split <;> simp

@[simp] theorem maskApply_store (s : State) (g : Nat) : (maskApply s g).store = s.store := by
  unfold maskApply; (try dsimp only); split <;> simp

@[simp] theorem maskMove_store (s : State) (g mp : Nat) : (maskMove s g mp).store = s.store := by
  simp [maskMove]

@[simp] theorem maskDue_store (s : State) (g : Nat) : (maskDue s g).store = s.store := by
  unfold maskDue; (try dsimp only); split <;> simp

@[simp] theorem fixPend_store (s : State) (g : Nat) : (fixPend s g).store = s.store := by
  unfold fixPend; (try dsimp only); split <;> simp

@[simp] theorem exgFixOp_store (s : State) (g : Nat) (force : Bool) : (exgFixOp s g force).store = s.store := by
  unfold exgFixOp; (try dsimp only); split <;> simp

@[simp] theorem stageFlags_store (s : State) (g o : Nat) : (stageFlags s g o).store = s.store := by
  unfold stageFlags; (try dsimp only); split <;> simp

@[simp] theorem lateWriteFix_store (s : State) (g : Nat) : (lateWriteFix s g).store = s.store := by
  unfold lateWriteFix; (try dsimp only); split <;> simp

@[simp] theorem exgStage_store (s : State) (g o : Nat) (w : Word) : (exgStage s g o w).store = s.store := by
  unfold exgStage; (try dsimp only); split <;> simp

@[simp] theorem setActive_store (s : State) (g o : Nat) (w : Word) : (setActive s g o w).store = s.store := by
  simp [setActive]

@[simp] theorem relate_store (s : State) (g r : Nat) : (relate s g r).store = s.store := by
  simp [relate]

@[simp] theorem exgTake_store (s : State) (g r : Nat) : (exgTake s g r).store = s.store := by
  simp [exgTake]

@[simp] theorem exgCommit_store (s : State) (g r : Nat) : (exgCommit s g r).store = s.store := by
  unfold exgCommit; (try dsimp only); split <;> simp

@[simp] theorem exgReload_store (s : State) (g : Nat) : (exgReload s g).store = s.store := by
  unfold exgReload; dsimp only; (repeat' split) <;> simp_all

@[simp] theorem periodBegins_store (s : State) (g : Nat) : (periodBegins s g).store = s.store := by
  unfold periodBegins; (try dsimp only); split <;> simp

@[simp] theorem periodStartOp_store (s : State) (g : Nat) : (periodStartOp s g).store = s.store := by
  unfold periodStartOp; (try dsimp only); split <;> simp

@[simp] theorem exgReloadOp_store (s : State) (g : Nat) : (exgReloadOp s g).store = s.store := by
  simp [exgReloadOp]

@[simp] theorem exgAhead_store (s : State) (g : Nat) : (exgAhead s g).store = s.store := by
  simp [exgAhead]

@[simp] theorem startFix_store (s : State) (g : Nat) (was : Exg) : (startFix s g was).store = s.store := by
  unfold startFix; (try dsimp only); split <;> simp

@[simp] theorem exgStart_store (s : State) (g : Nat) : (exgStart s g).store = s.store := by
  simp [exgStart]

@[simp] theorem exgEnableOp_store (s : State) (g : Nat) : (exgEnableOp s g).store = s.store := by
  unfold exgEnableOp; (try dsimp only); split <;> simp

@[simp] theorem exgDisableOp_store (s0 : State) (g : Nat) : (exgDisableOp s0 g).store = s0.store := by
  simp [exgDisableOp]

@[simp] theorem exgStore_store (s : State) (g o : Nat) (w : Word) (keep : Word) : (exgStore s g o w keep).store = s.store := by
  unfold exgStore; (try dsimp only); split <;> simp

@[simp] theorem exgCtlWrite_store (s : State) (g : Nat) (w : Word) : (exgCtlWrite s g w).store = s.store := by
  unfold exgCtlWrite; (try dsimp only); split <;> simp

@[simp] theorem tripClrOp_store (s : State) (g : Nat) : (tripClrOp s g).store = s.store := by
  unfold tripClrOp; (try dsimp only); split <;> simp

@[simp] theorem commSetOp_store (s : State) (g mp : Nat) : (commSetOp s g mp).store = s.store := by
  simp [commSetOp]

@[simp] theorem exgCmdWrite_store (s : State) (g : Nat) (w : Word) : (exgCmdWrite s g w).store = s.store := by
  unfold exgCmdWrite; (try dsimp only); split <;> simp

@[simp] theorem exgGoOp_store (s : State) (w : Word) : (exgGoOp s w).store = s.store := by
  simp [exgGoOp]

@[simp] theorem exgWrite_store (s : State) (g o : Nat) (w : Word) : (exgWrite s g o w).store = s.store := by
  unfold exgWrite; (try dsimp only); split <;> simp

@[simp] theorem triggerFireOp_store (s : State) (g k : Nat) : (triggerFireOp s g k).store = s.store := by
  unfold triggerFireOp; (try dsimp only); split <;> simp

@[simp] theorem trgPulseEndOp_store (s : State) (m : Nat) : (trgPulseEndOp s m).store = s.store := by
  simp [trgPulseEndOp]

@[simp] theorem commutationOp_store (s : State) (g src : Nat) : (commutationOp s g src).store = s.store := by
  unfold commutationOp; dsimp only; (repeat' split) <;> simp_all

@[simp] theorem tripSet_store (s : State) (i : Nat) (on : Bool) : (tripSet s i on).store = s.store := by
  unfold tripSet; (try dsimp only); split <;> simp

@[simp] theorem tripAssertOp_store (s : State) (e : TripEdge) : (tripAssertOp s e).store = s.store := by
  simp [tripAssertOp]

@[simp] theorem tripCfgWrite_store (s : State) (i : Nat) (w : Word) : (tripCfgWrite s i w).store = s.store := by
  unfold tripCfgWrite; (try dsimp only); split <;> simp

@[simp] theorem blankingEndOp_store (s : State) (g : Nat) : (blankingEndOp s g).store = s.store := by
  unfold blankingEndOp; (try dsimp only); split <;> simp

/-! LinkBase. -/

@[simp] theorem linkEvent_store (s : State) (n b : Nat) : (linkEvent s n b).store = s.store := by
  unfold linkEvent; (try dsimp only); split <;> simp

@[simp] theorem linkCount_store (s : State) (n cnt : Nat) (high : Bool) : (linkCount s n cnt high).store = s.store := by
  unfold linkCount; (try dsimp only); split <;> simp

@[simp] theorem linkLate_store (s : State) (n : Nat) : (linkLate s n).store = s.store := by
  simp [linkLate]

@[simp] theorem linkDefer_store (s : State) (n : Nat) : (linkDefer s n).store = s.store := by
  simp [linkDefer]

@[simp] theorem linkDrop_store (s : State) (n : Nat) : (linkDrop s n).store = s.store := by
  simp [linkDrop]

@[simp] theorem State_send_store (s : State) (n : Nat) (cs : List (Bool × Byte)) : (State.send s n cs).store = s.store := by
  simp [State.send]

@[simp] theorem linkCodeErr_store (s : State) (n k : Nat) : (linkCodeErr s n k).store = s.store := by
  simp [linkCodeErr]

@[simp] theorem linkOffer_store (s : State) (e : CalEntry) : (linkOffer s e).2.store = s.store := by
  unfold linkOffer; dsimp only; (repeat' split) <;> simp_all

@[simp] theorem linkWithdraw_store (s : State) (n id : Nat) : (linkWithdraw s n id).store = s.store := by
  simp [linkWithdraw]

/-! CalStage. -/

@[simp] theorem stageTaken_store (s : State) : (stageTaken s).store = s.store := by
  simp [stageTaken]

/-! Calendar. -/

@[simp] theorem calHwm_store (s : State) (before : Nat) : (calHwm s before).store = s.store := by
  unfold calHwm; (try dsimp only); split <;> simp

@[simp] theorem calPut_store (s : State) (e : CalEntry) : (calPut s e).store = s.store := by
  simp [calPut]

@[simp] theorem calArmAt_store (s : State) (id fire lead : Nat) : (calArmAt s id fire lead).store = s.store := by
  simp [calArmAt]

@[simp] theorem calMeet_store (s : State) (e : CalEntry) (t : Tooth) (prev : Option Tooth) (lead : Nat) : (calMeet s e t prev lead).store = s.store := by
  unfold calMeet; (try dsimp only); split <;> simp

@[simp] theorem calEarly_store (es : List CalEntry) : ∀ (s : State) (n f j stamp : Nat), (calEarly s n f j stamp es).store = s.store := by
  induction es with
  | nil => intro s n f j stamp; rfl
  | cons e r ih =>
    intro s n f j stamp
    unfold calEarly
    dsimp only
    split <;> simp [ih]

@[simp] theorem calTooth_store (s : State) (n : Nat) (t : Tooth) (real : Bool) (prev : Option Tooth) : (calTooth s n t real prev).store = s.store := by
  unfold calTooth; (try dsimp only); split <;> simp

@[simp] theorem calUnload_store (s : State) (e : CalEntry) : (calUnload s e).store = s.store := by
  unfold calUnload; (repeat' split) <;> simp_all

@[simp] theorem calReversal_store (s : State) (n : Nat) : (calReversal s n).store = s.store := by
  simp [calReversal]

@[simp] theorem calDrop_store (s : State) (e : CalEntry) : (calDrop s e).store = s.store := by
  simp [calDrop]

@[simp] theorem calDropSpill_store (s : State) (id : Nat) : (calDropSpill s id).store = s.store := by
  simp [calDropSpill]

@[simp] theorem calFlush_store (s : State) (tag mask : Nat) (unit : Option Nat) : (calFlush s tag mask unit).store = s.store := by
  unfold calFlush; (try dsimp only); split <;> simp

@[simp] theorem calOnLost_store (s : State) (n : Nat) : (calOnLost s n).store = s.store := by
  unfold calOnLost; (try dsimp only); split <;> simp

@[simp] theorem calExpire_store (s : State) (n : Nat) (pos cyc : Word) : (calExpire s n pos cyc).store = s.store := by
  unfold calExpire; (try dsimp only); split <;> simp

@[simp] theorem calPlace_store (s : State) (e : CalEntry) : (calPlace s e).store = s.store := by
  unfold calPlace; dsimp only; (repeat' split) <;> simp_all

@[simp] theorem calRefuse_store (s : State) (who : CalReqer) (d0 : Word) (st : Nat) : (calRefuse s who d0 st).2.store = s.store := by
  unfold calRefuse; (try dsimp only); split <;> simp

@[simp] theorem calTable_store (s : State) (q : CalReq) : (calTable s q).2.store = s.store := by
  simp [calTable]

@[simp] theorem calSpilled_store (s : State) (q : CalReq) (place : Nat) : (calSpilled s q place).2.store = s.store := by
  simp [calSpilled]

@[simp] theorem calInsertOp_store (s : State) (q : CalReq) : (calInsertOp s q).2.store = s.store := by
  unfold calInsertOp; (try dsimp only); split <;> simp

@[simp] theorem calCancelOp_store (s : State) (h : Word) : (calCancelOp s h).2.store = s.store := by
  unfold calCancelOp; dsimp only; (repeat' split) <;> simp_all

@[simp] theorem servedReq_store (s : State) (q : CalReq) : (servedReq s q).store = s.store := by
  unfold servedReq; (try dsimp only); split <;> simp

@[simp] theorem calResult_store (s : State) (who : CalReqer) (res : Word) : (calResult s who res).store = s.store := by
  unfold calResult; (try dsimp only); split <;> simp

@[simp] theorem calAsk_store (s : State) (q : CalReq) : (calAsk s q).store = s.store := by
  unfold calAsk; (try dsimp only); split <;> simp

@[simp] theorem spillExpire_store (s : State) : (spillExpire s).store = s.store := by
  unfold spillExpire; (try dsimp only); (repeat' split) <;> (try rfl) <;> (try (simp; done)) <;> (rw [forEach_store] <;> (try simp) <;> (try (intros; (try dsimp only); (repeat' split) <;> simp_all)))

@[simp] theorem spillTake_store (s : State) (e : CalEntry) : (spillTake s e).store = s.store := by
  unfold spillTake; (try dsimp only); split <;> simp

@[simp] theorem spillWait_store (s : State) (e : CalEntry) : (spillWait s e).store = s.store := by
  simp [spillWait]

@[simp] theorem spillFull_store (s : State) : (spillFull s).store = s.store := by
  unfold spillFull; (repeat' split) <;> simp_all

@[simp] theorem spillCtlWrite_store (s : State) (w : Word) : (spillCtlWrite s w).store = s.store := by
  unfold spillCtlWrite; (try dsimp only); split <;> simp

@[simp] theorem calFixAsk_store (s : State) (k : Nat) (hzn spk : Nat) (pos cyc : Word) : (calFixAsk s k hzn spk pos cyc).store = s.store := by
  simp [calFixAsk]

@[simp] theorem calFixInsert_store (s : State) (k : Nat) (q : CalReq) : (calFixInsert s k q).store = s.store := by
  simp [calFixInsert]

/-! Contact. -/

@[simp] theorem State_modCt_store (s : State) (f : Ct → Ct) : (State.modCt s f).store = s.store := by
  simp [State.modCt]

@[simp] theorem ctEvent_store (s : State) (b : Nat) : (ctEvent s b).store = s.store := by
  unfold ctEvent; (try dsimp only); split <;> simp

@[simp] theorem ctLate_store (s : State) : (ctLate s).store = s.store := by
  simp [ctLate]

@[simp] theorem ctStop_store (s : State) : (ctStop s).store = s.store := by
  unfold ctStop; (try dsimp only); split <;> simp

@[simp] theorem ctAdvance_store (s : State) (b : CtBnd) : (ctAdvance s b).store = s.store := by
  unfold ctAdvance; (try dsimp only); split <;> simp

@[simp] theorem ctIssue_store (s : State) : (ctIssue s).store = s.store := by
  unfold ctIssue; (try dsimp only); split <;> simp

@[simp] theorem convertOne_store (s : State) (lane : Nat) (b : CtBnd) (t : Tooth) (pk : Int) : (convertOne s lane b t pk).store = s.store := by
  unfold convertOne; (try dsimp only); split <;> simp

@[simp] theorem convertLane_store (fuel : Nat) : ∀ (s : State) (lane : Nat) (t : Tooth) (pk : Int), (convertLane fuel s lane t pk).store = s.store := by
  induction fuel with
  | zero => intro s lane t pk; rfl
  | succ f ih =>
    intro s lane t pk
    unfold convertLane
    dsimp only
    repeat' split
    all_goals simp_all

@[simp] theorem ctEarly_store (s : State) (stamp f : Nat) (pk : Int) : (ctEarly s stamp f pk).store = s.store := by
  simp [ctEarly]

@[simp] theorem ctPrune_store (s : State) (pk : Int) : (ctPrune s pk).store = s.store := by
  unfold ctPrune; (try dsimp only); split <;> simp

@[simp] theorem ctTooth_store (s : State) (n : Nat) (t : Tooth) (real : Bool) : (ctTooth s n t real).store = s.store := by
  unfold ctTooth; (try dsimp only); split <;> simp

@[simp] theorem linkSettle_store (s : State) (n : Nat) : (linkSettle s n).store = s.store := by
  simp [linkSettle]

@[simp] theorem ctWithdraw_store (s0 : State) : (ctWithdraw s0).store = s0.store := by
  simp [ctWithdraw]

@[simp] theorem ctReversal_store (s : State) (n : Nat) : (ctReversal s n).store = s.store := by
  unfold ctReversal; (try dsimp only); (repeat' split) <;> (try rfl) <;> (try (simp; done)) <;> (rw [forEach_store] <;> (try simp) <;> (try (intros; (try dsimp only); (repeat' split) <;> simp_all)))

@[simp] theorem rowEdge_store (s : State) (r : Nat) (lvl : Bool) (t lane q : Nat) : (rowEdge s r lvl t lane q).store = s.store := by
  unfold rowEdge; (try dsimp only); split <;> simp

@[simp] theorem ctBlankRows_store (s : State) : (ctBlankRows s).store = s.store := by
  simp [ctBlankRows]

@[simp] theorem ctDiscard_store (s : State) : (ctDiscard s).store = s.store := by
  simp [ctDiscard]

@[simp] theorem ctFromCycle_store (s : State) (c : Nat) : (ctFromCycle s c).store = s.store := by
  simp [ctFromCycle]

@[simp] theorem ctLost_store (s : State) (n : Nat) : (ctLost s n).store = s.store := by
  unfold ctLost; (try dsimp only); split <;> simp

@[simp] theorem ctBack_store (s : State) (n : Nat) : (ctBack s n).store = s.store := by
  unfold ctBack; (try dsimp only); split <;> simp

@[simp] theorem ctJumpTo_store (s : State) (col : Nat) : (ctJumpTo s col).store = s.store := by
  simp [ctJumpTo]

@[simp] theorem ctGoOp_store (s : State) : (ctGoOp s).store = s.store := by
  unfold ctGoOp; (try dsimp only); split <;> simp

@[simp] theorem ctHaltOp_store (s : State) : (ctHaltOp s).store = s.store := by
  simp [ctHaltOp]

@[simp] theorem ctBlankOp_store (s : State) : (ctBlankOp s).store = s.store := by
  simp [ctBlankOp]

@[simp] theorem ctCtlWrite_store (s : State) (w0 : Word) : (ctCtlWrite s w0).store = s.store := by
  unfold ctCtlWrite; (try dsimp only); split <;> simp

@[simp] theorem ctOfsWrite_store (s : State) (k : Nat) (w : Word) : (ctOfsWrite s k w).store = s.store := by
  unfold ctOfsWrite; (try dsimp only); split <;> simp

@[simp] theorem ctCommit_store (s : State) (ws : List (Nat × Word)) : (ctCommit s ws).store = s.store := by
  unfold ctCommit; (try dsimp only); split <;> simp

/-! Sprocket. -/

@[simp] theorem spkEvent_store (s : State) (n b : Nat) : (spkEvent s n b).store = s.store := by
  unfold spkEvent; (try dsimp only); split <;> simp

@[simp] theorem spkGuardNote_store (before s : State) (n : Nat) : (spkGuardNote before s n).store = s.store := by
  unfold spkGuardNote
  split <;> simp

@[simp] theorem dropTeeth_store (s : State) (n : Nat) : (dropTeeth s n).store = s.store := by
  simp [dropTeeth]

@[simp] theorem spkChanged_store (s : State) (n : Nat) (lost : Bool) : (spkChanged s n lost).store = s.store := by
  unfold spkChanged; (try dsimp only); split <;> simp

@[simp] theorem spkLost_store (s : State) (n : Nat) : (spkLost s n).store = s.store := by
  simp [spkLost]

@[simp] theorem spkAcquire_store (s : State) (n : Nat) : (spkAcquire s n).store = s.store := by
  unfold spkAcquire; (try dsimp only); split <;> simp

@[simp] theorem spkTo_store (s : State) (n : Nat) (st : SyncState) : (spkTo s n st).store = s.store := by
  unfold spkTo; (try dsimp only); split <;> simp

@[simp] theorem journalPut_stored {x : Store} (s : State) (n : Nat) (w0 : Word) (ws : List Word) (hk : Stored x s.store) :
    Stored x (journalPut s n w0 ws).store := by
  have h (v : State) (bs : List Byte) (hv : Stored x v.store) (k : Nat) :
      Stored x ({ v with keep := setBytes v.keep (journalAt n) bs, free := k } : State).store :=
    Stored.put_keep hv _ fun h => wf_setBytes _ _ _ h
  unfold journalPut
  dsimp only
  split
  · rw [spkEvent_store]; exact h _ _ hk _
  · exact h _ _ hk _

@[simp] theorem journalWrite_stored {x : Store} (s : State) (n : Nat) (hk : Stored x s.store) : Stored x (journalWrite s n).store := by
  simp [journalWrite, hk]

@[simp] theorem journalVoid_stored {x : Store} (s : State) (n : Nat) (hk : Stored x s.store) : Stored x (journalVoid s n).store := by
  simp [journalVoid, hk]

@[simp] theorem spkAdopt_store (s : State) (n : Nat) : (spkAdopt s n).store = s.store := by
  simp [spkAdopt]

@[simp] theorem spkEnableOp_store (s : State) (n : Nat) : (spkEnableOp s n).store = s.store := by
  unfold spkEnableOp; (try dsimp only); split <;> simp

@[simp] theorem spkDisableOp_store (s : State) (n : Nat) : (spkDisableOp s n).store = s.store := by
  unfold spkDisableOp; (try dsimp only); split <;> simp

@[simp] theorem spkWriteCtl_store (s : State) (n : Nat) (w0 : Word) : (spkWriteCtl s n w0).store = s.store := by
  unfold spkWriteCtl; (try dsimp only); split <;> simp

@[simp] theorem spkResync_store (s : State) (n : Nat) : (spkResync s n).store = s.store := by
  unfold spkResync; (try dsimp only); split <;> simp

@[simp] theorem spkResyncDo_store (s : State) (n : Nat) : (spkResyncDo s n).store = s.store := by
  simp [spkResyncDo]

@[simp] theorem spkEstimate_store (s : State) (n stamp sp : Nat) (used : Bool) : (spkEstimate s n stamp sp used).store = s.store := by
  unfold spkEstimate; (try dsimp only); split <;> simp

@[simp] theorem spkRealSeen_stored {x : Store} (s : State) (n stamp : Nat) (hk : Stored x s.store) : Stored x (spkRealSeen s n stamp).store := by
  simp [spkRealSeen, hk]

@[simp] theorem spkAdvance_store (s : State) (n : Nat) : (spkAdvance s n).store = s.store := by
  simp [spkAdvance]

@[simp] theorem toothOut_store (s : State) (n : Nat) (t : Tooth) (real : Bool) (prev : Option Tooth) : (toothOut s n t real prev).store = s.store := by
  unfold toothOut; (try dsimp only); split <;> simp

@[simp] theorem publishTooth_store (s : State) (n : Nat) (v : SpkView) (t : Tooth) (rev : Bool) : (publishTooth s n v t rev).store = s.store := by
  simp [publishTooth]

@[simp] theorem toothArrives_store (s : State) (n : Nat) (t : Tooth) (real : Bool) (prev : Option Tooth) : (toothArrives s n t real prev).store = s.store := by
  simp [toothArrives]

@[simp] theorem queueVirtual_store (s : State) (n : Nat) (real : Bool) : (queueVirtual s n real).store = s.store := by
  unfold queueVirtual; (try dsimp only); split <;> simp

@[simp] theorem requeueVirtual_store (s : State) (n : Nat) : (requeueVirtual s n).store = s.store := by
  simp [requeueVirtual]

@[simp] theorem spkPublish_store (s : State) (n : Nat) (real : Bool) : (spkPublish s n real).store = s.store := by
  simp [spkPublish]

@[simp] theorem spkNoise_store (s : State) (n : Nat) : (spkNoise s n).store = s.store := by
  simp [spkNoise]

@[simp] theorem spkSync_store (s : State) (n : Nat) : (spkSync s n).2.store = s.store := by
  unfold spkSync; (try dsimp only); split <;> simp

@[simp] theorem spkAcquireTooth_stored {x : Store} (s : State) (n stamp : Nat) (hk : Stored x s.store) : Stored x (spkAcquireTooth s n stamp).store := by
  simp [spkAcquireTooth, hk]

@[simp] theorem spkTrackTooth_stored {x : Store} (s : State) (n stamp : Nat) (hk : Stored x s.store) : Stored x (spkTrackTooth s n stamp).store := by
  simp [spkTrackTooth, hk]

@[simp] theorem spkReal_stored {x : Store} (s : State) (n stamp : Nat) (hk : Stored x s.store) : Stored x (spkReal s n stamp).store := by
  unfold spkReal; (try dsimp only); split <;> simp [hk]

@[simp] theorem spkReverse_store (s : State) (n : Nat) : (spkReverse s n).store = s.store := by
  simp [spkReverse]

@[simp] theorem spkJudge_stored {x : Store} (s : State) (n : Nat) (e : SpkEdge) (hk : Stored x s.store) : Stored x (spkJudge s n e).store := by
  unfold spkJudge; (try dsimp only); (repeat' split) <;> simp [hk]

@[simp] theorem spkDeclare_store (s : State) (n : Nat) : (spkDeclare s n).store = s.store := by
  simp [spkDeclare]

@[simp] theorem spkEdgeOp_stored {x : Store} (s : State) (n : Nat) (e : SpkEdge) (hk : Stored x s.store) : Stored x (spkEdgeOp s n e).store := by
  unfold spkEdgeOp; (try dsimp only); (repeat' split) <;> simp [hk]

@[simp] theorem spkIndexOp_store (s : State) (n : Nat) (e : SpkEdge) : (spkIndexOp s n e).store = s.store := by
  unfold spkIndexOp; (try dsimp only); split <;> simp

@[simp] theorem spkFaultOp_store (s : State) (n : Nat) (i : SpkInput) : (spkFaultOp s n i).store = s.store := by
  unfold spkFaultOp; (try dsimp only); split <;> simp

@[simp] theorem spkMissedOp_store (s : State) (n : Nat) : (spkMissedOp s n).store = s.store := by
  unfold spkMissedOp; (try dsimp only); split <;> simp

@[simp] theorem spkVirtualOp_store (s : State) (n : Nat) : (spkVirtualOp s n).store = s.store := by
  unfold spkVirtualOp; (try dsimp only); split <;> simp

@[simp] theorem spkStopWrite_store (s : State) (n : Nat) (w : Word) : (spkStopWrite s n w).store = s.store := by
  simp [spkStopWrite]

@[simp] theorem spkStopOp_stored {x : Store} (s : State) (n : Nat) (hk : Stored x s.store) : Stored x (spkStopOp s n).store := by
  simp [spkStopOp, hk]

@[simp] theorem phasePop_store (s : State) (n : Nat) : (phasePop s n).store = s.store := by
  unfold phasePop; dsimp only; (repeat' split) <;> simp_all

@[simp] theorem phaseMarkOp_store (s : State) (n : Nat) (m : Mark) : (phaseMarkOp s n m).store = s.store := by
  unfold phaseMarkOp; (try dsimp only); split <;> simp

@[simp] theorem phaseWriteCtl_store (s : State) (n : Nat) (w0 : Word) : (phaseWriteCtl s n w0).store = s.store := by
  unfold phaseWriteCtl; (try dsimp only); split <;> simp

end Sys2Proof.Machine
end

