-- ==== Sys2Proof/Laws/StoreMemory.lean ====
section
/-! SUPPORT. The memories and the queue under spools, records, fix channels, engines and links. -/

namespace Sys2Proof.Machine

/-! CasBase. -/

@[simp] theorem State_modCas_store (s : State) (f : Cas → Cas) : (State.modCas s f).store = s.store := by
  simp [State.modCas]

@[simp] theorem casEventWith_store (s : State) (b : Nat) (d : Word) : (casEventWith s b d).store = s.store := by
  unfold casEventWith; (try dsimp only); split <;> simp

@[simp] theorem casEvent_store (s : State) (b : Nat) : (casEvent s b).store = s.store := by
  simp [casEvent]

@[simp] theorem casTo_store (s : State) (st : CasState) : (casTo s st).store = s.store := by
  unfold casTo; (repeat' split) <;> simp_all

@[simp] theorem casSend_store (s : State) (c : CasCommand) : (casSend s c).store = s.store := by
  unfold casSend; (try dsimp only); split <;> simp

/-! Fix. -/

@[simp] theorem dropShadow_store (s : State) (a : Nat) : (dropShadow s a).store = s.store := by
  simp [dropShadow]

@[simp] theorem retag_store (s : State) (a : Nat) (keep : Option (Fin 4)) : (retag s a keep).store = s.store := by
  unfold retag; (try dsimp only); split <;> simp

@[simp] theorem stageShadow_store (s : State) (k : Fin 4) (a : Nat) (w : Word) : (stageShadow s k a w).store = s.store := by
  unfold stageShadow; dsimp only; (repeat' split) <;> simp_all

@[simp] theorem chApplyAt_store (s : State) (n o : Nat) (v w : Word) : (chApplyAt s n o v w).store = s.store := by
  unfold chApplyAt; (try dsimp only); split <;> simp

@[simp] theorem chApply_store (s : State) (a : Nat) (v : Word) : (chApply s a v).store = s.store := by
  simp [chApply]

@[simp] theorem applyStagedCh_store (s : State) (ws : List (Nat × Word)) : (applyStagedCh s ws).store = s.store := by
  simp [applyStagedCh]

@[simp] theorem applyStagedCt_store (s : State) (ws : List (Nat × Word)) : (applyStagedCt s ws).store = s.store := by
  simp [applyStagedCt]

@[simp] theorem applyStaged_store (s : State) (ws : List (Nat × Word)) : (applyStaged s ws).store = s.store := by
  simp [applyStaged]

@[simp] theorem applyCommit_store (s : State) (ws : List (Nat × Word)) : (applyCommit s ws).store = s.store := by
  simp [applyCommit]

@[simp] theorem goThrough_store (s : State) (a : Nat) (w : Word) : (goThrough s a w).store = s.store := by
  simp [goThrough]

@[simp] theorem stagedWriteOp_store (s : State) (sel : Option (Fin 4)) (a : Nat) (w : Word) : (stagedWriteOp s sel a w).store = s.store := by
  unfold stagedWriteOp; (try dsimp only); split <;> simp

@[simp] theorem csTakeOp_store (s : State) (owner thread mode fx : Nat) (atv : Nat) : (csTakeOp s owner thread mode fx atv).2.store = s.store := by
  unfold csTakeOp; (repeat' split) <;> simp_all

@[simp] theorem csEnd_store (s : State) : (csEnd s).store = s.store := by
  simp [csEnd]

@[simp] theorem csLose_store (s : State) (r : SheetReq) : (csLose s r).store = s.store := by
  have h : ∀ (t : State) (x : Sheet), ({ t with sheet := x } : State).store = t.store := fun _ _ => rfl
  unfold csLose; dsimp only; split
  · rw [modThr_store, h]; split <;> simp
  · rw [h]; split <;> simp

@[simp] theorem csRequest_store (s : State) (m : Master) (rd : Option (Fin 64 × Reg5)) (mode fx : Nat) (atv : Nat) : (csRequest s m rd mode fx atv).2.store = s.store := by
  unfold csRequest; dsimp only; (repeat' split) <;> simp_all

@[simp] theorem sheetLatch_store (s : State) : (sheetLatch s).store = s.store := by
  simp [sheetLatch]

@[simp] theorem csFreezeOp_store (s : State) : (csFreezeOp s).store = s.store := by
  unfold csFreezeOp; (try dsimp only); split <;> simp

@[simp] theorem csReadyOp_store (s : State) : (csReadyOp s).store = s.store := by
  unfold csReadyOp; (try dsimp only); split <;> simp

@[simp] theorem csReleaseOp_store (s : State) : (csReleaseOp s).store = s.store := by
  simp [csReleaseOp]

@[simp] theorem csCtlWrite_store (s : State) (m : Master) (w : Word) : (csCtlWrite s m w).store = s.store := by
  unfold csCtlWrite; (try dsimp only); split <;> simp

@[simp] theorem snapRead_store (s : State) (off : Nat) : (snapRead s off).2.store = s.store := by
  unfold snapRead; (try dsimp only); split <;> simp

@[simp] theorem setPoint_store (s : State) (k : Nat) (p : Point) (chained : Bool) : (setPoint s k p chained).store = s.store := by
  simp [setPoint]

@[simp] theorem fixArmPoint_store (s : State) (k kind spk : Nat) (lo hi : Word) (hzn : Nat) (chained : Bool) : (fixArmPoint s k kind spk lo hi hzn chained).store = s.store := by
  unfold fixArmPoint; (try dsimp only); split <;> simp

@[simp] theorem chainArm_store (s : State) (k kind spk : Nat) (lo hi : Word) (hzn : Nat) : (chainArm s k kind spk lo hi hzn).store = s.store := by
  unfold chainArm; (try dsimp only); split <;> simp

@[simp] theorem fixArmOp_store (s : State) (k : Nat) : (fixArmOp s k).store = s.store := by
  unfold fixArmOp; (try dsimp only); split <;> simp

@[simp] theorem fixCtlWrite_store (s : State) (k : Nat) (w : Word) : (fixCtlWrite s k w).store = s.store := by
  unfold fixCtlWrite; (try dsimp only); split <;> simp

@[simp] theorem commitShadows_store (s : State) (k t : Nat) : (commitShadows s k t).store = s.store := by
  unfold commitShadows; (try dsimp only); split <;> simp

@[simp] theorem linkedGroups_store (s : State) (k : Nat) : (linkedGroups s k).store = s.store := by
  simp [linkedGroups]

@[simp] theorem fixCommitAt_store (s : State) (k t : Nat) : (fixCommitAt s k t).store = s.store := by
  simp [fixCommitAt]

/-! Protect. -/

@[simp] theorem mtrCfgWrite_store (s : State) (n o : Nat) (w : Word) : (mtrCfgWrite s n o w).store = s.store := by
  simp [mtrCfgWrite]

@[simp] theorem mtrForce_store (s : State) (n : Nat) (safety : Bool) : (mtrForce s n safety).store = s.store := by
  unfold mtrForce; (try dsimp only); split <;> simp

@[simp] theorem mtrFree_store (s : State) (n : Nat) : (mtrFree s n).store = s.store := by
  simp [mtrFree]

@[simp] theorem mtrBoundary_store (s : State) (n : Nat) : (mtrBoundary s n).store = s.store := by
  unfold mtrBoundary; (try dsimp only); split <;> simp

@[simp] theorem meterBoundaryOp_store (s : State) : (meterBoundaryOp s).store = s.store := by
  unfold meterBoundaryOp; (try dsimp only); split <;> simp

@[simp] theorem meterOut_store (s : State) (n : Nat) (forced : Bool) : (meterOut s n forced).store = s.store := by
  simp [meterOut]

@[simp] theorem mtrReleaseOp_store (s : State) (n : Nat) : (mtrReleaseOp s n).store = s.store := by
  unfold mtrReleaseOp; (try dsimp only); split <;> simp

@[simp] theorem mtrClrEOp_store (s : State) (n : Nat) : (mtrClrEOp s n).store = s.store := by
  simp [mtrClrEOp]

@[simp] theorem boundaryFirst_store (s : State) : (boundaryFirst s).store = s.store := by
  simp [boundaryFirst]

@[simp] theorem mtrCmdWrite_store (s : State) (w : Word) : (mtrCmdWrite s w).store = s.store := by
  unfold mtrCmdWrite; (try dsimp only); split <;> simp

@[simp] theorem windowStartOp_store (s : State) : (windowStartOp s).store = s.store := by
  unfold windowStartOp; (try dsimp only); split <;> simp

@[simp] theorem delayedEdge_store (s : State) (n : Nat) : (delayedEdge s n).store = s.store := by
  unfold delayedEdge; (try dsimp only); split <;> simp

@[simp] theorem delayedEdgeOp_store (s : State) (n : Nat) : (delayedEdgeOp s n).store = s.store := by
  unfold delayedEdgeOp; (try dsimp only); split <;> simp

@[simp] theorem guardArrives_store (s : State) (u : Nat) (ok : Bool) : (guardArrives s u ok).store = s.store := by
  unfold guardArrives; (try dsimp only); split <;> simp

@[simp] theorem gateJoin_store (s : State) (n : Nat) : (gateJoin s n).store = s.store := by
  simp [gateJoin]

@[simp] theorem groupsJoin_store (s : State) : (groupsJoin s).store = s.store := by
  simp [groupsJoin]

@[simp] theorem safeExitReached_store (s : State) : (safeExitReached s).store = s.store := by
  unfold safeExitReached; (try dsimp only); split <;> simp

@[simp] theorem rundownEnd_store (s : State) : (rundownEnd s).store = s.store := by
  unfold rundownEnd; (try dsimp only); split <;> simp

@[simp] theorem rundownStart_store (s : State) (why : RdWhy) : (rundownStart s why).store = s.store := by
  unfold rundownStart; (try dsimp only); split <;> simp

@[simp] theorem rundownSource_store (s : State) (why : RdWhy) : (rundownSource s why).store = s.store := by
  unfold rundownSource; (try dsimp only); split <;> simp

@[simp] theorem rundownThreadGone_store (s : State) (t : Nat) (fault : Bool) : (rundownThreadGone s t fault).store = s.store := by
  unfold rundownThreadGone; (try dsimp only); split <;> simp

@[simp] theorem rundownTimeoutOp_store (s : State) : (rundownTimeoutOp s).store = s.store := by
  unfold rundownTimeoutOp; (try dsimp only); split <;> simp

@[simp] theorem rdDoneOp_store (s : State) : (rdDoneOp s).store = s.store := by
  simp [rdDoneOp]

@[simp] theorem safePinOp_store (s : State) : (safePinOp s).store = s.store := by
  simp [safePinOp]

@[simp] theorem stopPinOp_store (s : State) : (stopPinOp s).store = s.store := by
  simp [stopPinOp]

@[simp] theorem safeEnterOp_store (s : State) (m : Master) : (safeEnterOp s m).store = s.store := by
  unfold safeEnterOp; (try dsimp only); split <;> simp

@[simp] theorem safeExitOp_store (s : State) : (safeExitOp s).store = s.store := by
  unfold safeExitOp; (try dsimp only); split <;> simp

@[simp] theorem safeCmdWrite_store (s : State) (m : Master) (w : Word) : (safeCmdWrite s m w).store = s.store := by
  unfold safeCmdWrite; (try dsimp only); split <;> simp

@[simp] theorem hwdRestart_store (s : State) : (hwdRestart s).store = s.store := by
  simp [hwdRestart]

@[simp] theorem hwdCtlWrite_store (s : State) (w : Word) : (hwdCtlWrite s w).store = s.store := by
  unfold hwdCtlWrite; (try dsimp only); split <;> simp

@[simp] theorem hwdExpiryOp_store (s : State) : (hwdExpiryOp s).store = s.store := by
  unfold hwdExpiryOp; dsimp only; (repeat' split) <;> simp_all

@[simp] theorem hwdKickOp_store (s0 : State) (m : Master) (v : Nat) : (hwdKickOp s0 m v).store = s0.store := by
  simp [hwdKickOp]

@[simp] theorem safeWrite_store (s : State) (m : Master) (a : Nat) (w : Word) : (safeWrite s m a w).store = s.store := by
  unfold safeWrite; (try dsimp only); split <;> simp

/-! Spools. -/

@[simp] theorem hpEvent_store (s : State) (b : Nat) : (hpEvent s b).store = s.store := by
  simp [hpEvent]

@[simp] theorem hpError_store (s : State) (ev : Nat) (m : Master) (a : Nat) (sz : Size) (wr : Bool) : (hpError s ev m a sz wr).store = s.store := by
  simp [hpError]

@[simp] theorem splEvent_store (s : State) (n b : Nat) (d : Word) : (splEvent s n b d).store = s.store := by
  unfold splEvent; (try dsimp only); split <;> simp

@[simp] theorem splViol_store (s : State) (n b : Nat) (m : Master) (a : Nat) (wr : Bool) : (splViol s n b m a wr).store = s.store := by
  simp [splViol]

@[simp] theorem testAbort_store (s : State) (n : Nat) : (testAbort s n).store = s.store := by
  unfold testAbort; (try dsimp only); split <;> simp

@[simp] theorem eccNote_store (s : State) (m : Master) (a : Nat) (wr : Bool) : (eccNote s m a wr).store = s.store := by
  simp [eccNote]

@[simp] theorem eccCorrect_store (s : State) (m : Master) (a : Nat) : (eccCorrect s m a).store = s.store := by
  simp [eccCorrect]

@[simp] theorem eccClear_stored {x : Store} (s : State) (a : Nat) (hk : Stored x s.store) : Stored x (eccClear s a).store :=
  Stored.put_ecc hk (sparseWrite zeroNat s.ecc a 0) fun h => sparseWf_write _ _ _ _ h

@[simp] theorem writeBack_stored {x : Store} (s : State) (a : Nat) (hk : Stored x s.store) : Stored x (writeBack s a).store := by
  simp [writeBack, hk]

@[simp] theorem writeBacks_stored {x : Store} (s : State) (hk : Stored x s.store) : Stored x (writeBacks s).store := by
  unfold writeBacks; (try dsimp only); (repeat' split) <;> first | exact hk | (simp [hk]; done) | (apply Stored.forEach <;> (try simp [hk]; done) <;> (intro t y ht; (try dsimp only); (repeat' split) <;> simp_all))

@[simp] theorem testCycles_store (s : State) : (testCycles s).store = s.store := by
  simp [testCycles]

@[simp] theorem eccFail_store (s : State) (m : Master) (a : Nat) (wr : Bool) : (eccFail s m a wr).store = s.store := by
  simp [eccFail]

@[simp] theorem bankRead_store (s : State) (m : Master) (a : Nat) : (bankRead s m a).2.store = s.store := by
  unfold bankRead; (try dsimp only); split <;> simp

@[simp] theorem bankWrite_stored {x : Store} (s : State) (m : Master) (a off : Nat) (bs : List Byte) (hk : Stored x s.store) :
    Stored x (bankWrite s m a off bs).2.store := by
  have put {t : State} (h : Stored x t.store) : Stored x ({ t with mem := setBytes t.mem (a + off) bs } : State).store :=
    h.put_mem _ fun h => wf_setBytes _ _ _ h
  unfold bankWrite
  dsimp only
  split
  · exact put (eccClear_stored _ _ hk)
  · split
    · exact put hk
    · exact put (eccClear_stored _ _ (by simpa using hk))
    · simpa using hk

@[simp] theorem bankAccess_stored {x : Store} (s : State) (m : Master) (cls : List Nat) (a rep : Nat) (wr : Option (Nat × List Byte)) (hk : Stored x s.store) : Stored x (bankAccess s m cls a rep wr).2.store := by
  unfold bankAccess; (try dsimp only); (repeat' split) <;> simp [hk]

@[simp] theorem spoolFirst_stored {x : Store} (s : State) (m : Master) (a w : Nat) (wr : Option Word) (hk : Stored x s.store) : Stored x (spoolFirst s m a w wr).2.2.store := by
  simp [spoolFirst, hk]

@[simp] theorem spoolSecond_stored {x : Store} (s : State) (m : Master) (a w lo : Nat) (wr : Option Word) (hk : Stored x s.store) : Stored x (spoolSecond s m a w lo wr).2.2.store := by
  unfold spoolSecond; (try dsimp only); split <;> simp [hk]

@[simp] theorem dropPart_store (s : State) (m : Master) : (dropPart s m).store = s.store := by
  simp [dropPart]

@[simp] theorem putPart_store (s : State) (m : Master) (a w lo : Nat) : (putPart s m a w lo).store = s.store := by
  unfold putPart; (try dsimp only); split <;> simp

@[simp] theorem spoolAccessOp_stored {x : Store} (s : State) (m : Master) (a w : Nat) (wr : Option Word) (hk : Stored x s.store) : Stored x (spoolAccessOp s m a w wr).2.2.store := by
  unfold spoolAccessOp; (try dsimp only); (repeat' split) <;> simp [hk]

theorem spoolAccessOp_kept (s : State) (m : Master) (a w : Nat) (wr : Option Word) : Kept s (spoolAccessOp s m a w wr).2.2 := spoolAccessOp_stored _ _ _ _ _ (.refl _)

@[simp] theorem ownRefused_store (s : State) (m : Master) (n : Nat) : (ownRefused s m n).store = s.store := by
  simp [ownRefused]

@[simp] theorem handoverOp_store (s : State) (m : Master) (n : Nat) (w : Word) : (handoverOp s m n w).store = s.store := by
  unfold handoverOp; (try dsimp only); split <;> simp

@[simp] theorem pwrBegin_store (s : State) (n : Nat) : (pwrBegin s n).store = s.store := by
  unfold pwrBegin; (try dsimp only); split <;> simp

@[simp] theorem powerRequestOp_store (s : State) (m : Master) (n : Nat) (w : Word) : (powerRequestOp s m n w).store = s.store := by
  unfold powerRequestOp; (try dsimp only); split <;> simp

@[simp] theorem spoolClear_stored {x : Store} (s : State) (n : Nat) (hk : Stored x s.store) : Stored x (spoolClear s n).store :=
  (hk.put_mem _ fun h => sparseWf_clearRange _ _ _ _ h).put_ecc _ fun h => sparseWf_clearRange _ _ _ _ h

@[simp] theorem powerDoneOp_stored {x : Store} (s : State) (n : Nat) (hk : Stored x s.store) : Stored x (powerDoneOp s n).store := by
  simp [powerDoneOp, hk]

@[simp] theorem spoolInit_stored {x : Store} (s : State) (n : Nat) (hk : Stored x s.store) : Stored x (spoolInit s n).store := by
  simp [spoolInit, hk]

@[simp] theorem spoolInitOp_stored {x : Store} (s : State) (n : Nat) (hk : Stored x s.store) : Stored x (spoolInitOp s n).store := by
  simp [spoolInitOp, hk]

theorem spoolInitOp_kept (s : State) (n : Nat) : Kept s (spoolInitOp s n) := spoolInitOp_stored _ _ (.refl _)

@[simp] theorem testNext_store (s : State) (n : Nat) : (testNext s n).store = s.store := by
  unfold testNext; (try dsimp only); split <;> simp

@[simp] theorem testBorrowOp_store (s0 : State) (n : Nat) : (testBorrowOp s0 n).store = s0.store := by
  unfold testBorrowOp; dsimp only; (repeat' split) <;> simp_all

@[simp] theorem testReleaseOp_store (s : State) (n : Nat) (fail : Option (Fin 64 × Fin 39)) : (testReleaseOp s n fail).store = s.store := by
  unfold testReleaseOp; (repeat' split) <;> simp_all

@[simp] theorem splClrCntOp_store (s : State) (n : Nat) : (splClrCntOp s n).store = s.store := by
  simp [splClrCntOp]

@[simp] theorem testRestartOp_store (s : State) (n : Nat) : (testRestartOp s n).store = s.store := by
  unfold testRestartOp; (try dsimp only); split <;> simp

@[simp] theorem tstCtlWrite_store (s : State) (n : Nat) (w : Word) : (tstCtlWrite s n w).store = s.store := by
  unfold tstCtlWrite; (try dsimp only); split <;> simp

@[simp] theorem cpyErr_store (s : State) (k cause : Nat) : (cpyErr s k cause).store = s.store := by
  simp [cpyErr]

@[simp] theorem cpyGoOp_store (s : State) (m : Master) (k : Nat) : (cpyGoOp s m k).store = s.store := by
  unfold cpyGoOp; (try dsimp only); split <;> simp

@[simp] theorem cpyStopOp_store (s : State) (m : Master) (k : Nat) : (cpyStopOp s m k).store = s.store := by
  unfold cpyStopOp; (try dsimp only); split <;> simp

@[simp] theorem cpyCtlWrite_store (s : State) (m : Master) (k : Nat) (w : Word) : (cpyCtlWrite s m k w).store = s.store := by
  unfold cpyCtlWrite; (try dsimp only); split <;> simp

@[simp] theorem cpyFailed_store (s : State) (k : Nat) (x0 : BankRes) : (cpyFailed s k x0).store = s.store := by
  unfold cpyFailed; (try dsimp only); split <;> simp

@[simp] theorem cpyReadOp_stored {x : Store} (s : State) (k : Fin 8) (hk : Stored x s.store) : Stored x (cpyReadOp s k).store := by
  have h := bankAccess_stored s (.copy k) (ownClasses s (cpySrc s k.val) (.copy k)) (cpySrc s k.val) (cpySrc s k.val) none hk
  unfold cpyReadOp; dsimp only; split <;> (rename_i heq; rw [heq] at h; simpa using h)

@[simp] theorem cpyWriteOp_stored {x : Store} (s : State) (k : Fin 8) (w : Word) (hk : Stored x s.store) : Stored x (cpyWriteOp s k w).store := by
  have h := bankAccess_stored s (.copy k) (ownClasses s (cpyDst s k.val) (.copy k)) (cpyDst s k.val) (cpyDst s k.val) (some (0, wordBytes w)) hk
  unfold cpyWriteOp; dsimp only; split <;> (rename_i heq; rw [heq] at h; (repeat' split) <;> simpa using h)

@[simp] theorem cpyDoneOp_store (s : State) (k : Nat) : (cpyDoneOp s k).store = s.store := by
  unfold cpyDoneOp; (try dsimp only); split <;> simp

@[simp] theorem splWrite_store (s : State) (m : Master) (a : Nat) (w : Word) : (splWrite s m a w).store = s.store := by
  unfold splWrite; (try dsimp only); split <;> simp

/-! Operands. -/

@[simp] theorem eccCount_store (s : State) (e : Nat) : (eccCount s e).store = s.store := by
  simp [eccCount]

/-! Issue. -/

@[simp] theorem issueTake_store (s : State) (t : Nat) : (issueTake s t).store = s.store := by
  unfold issueTake
  refine (modEng_store _ _ _ ?_).trans rfl
  intro g
  rfl

@[simp] theorem trayUse_store (s : State) (e : Nat) (i : EngIns) : (trayUse s e i).store = s.store := by
  simp [trayUse]

/-! Engine. -/

@[simp] theorem thrFault_store (s : State) (t code : Nat) (d : Word) : (thrFault s t code d).store = s.store := by
  unfold thrFault; (try dsimp only); split <;> simp

@[simp] theorem freeFlags_store (s : State) (keepV : Bool) : (freeFlags s keepV).2.store = s.store := by
  unfold freeFlags; (try dsimp only); split <;> simp

@[simp] theorem unitValue_store (s : State) (t : Nat) (i : EngIns) (a b : Word) : (unitValue s t i a b).store = s.store := by
  unfold unitValue; dsimp only; (repeat' split) <;> simp_all

/-- What an engine's own operations do to the stores: only the engine's memories, which keep their form. -/

def KeepE (s t : State) : Prop := { t.store with eng := s.store.eng } = s.store ∧ (EngWf s.store.eng → EngWf t.store.eng)

theorem KeepE.of_store {s t : State} (h : t.store = s.store) : KeepE s t := by
  refine ⟨by rw [h], fun hw => by rw [h]; exact hw⟩

theorem KeepE.trans {s t u : State} (h1 : KeepE s t) (h2 : KeepE t u) : KeepE s u := by
  refine ⟨?_, fun h => h2.2 (h1.2 h)⟩
  calc ({ u.store with eng := s.store.eng } : Store)
      = { ({ u.store with eng := t.store.eng } : Store) with eng := s.store.eng } := rfl
    _ = { t.store with eng := s.store.eng } := by rw [h2.1]
    _ = s.store := h1.1

theorem KeepE.then_store {s t u : State} (h1 : KeepE s t) (h2 : u.store = t.store) : KeepE s u := h1.trans (.of_store h2)

theorem engWf_set (v : Vector EngMem 16) (i : Nat) (hi : i < 16) (x : EngMem) (h : EngWf v) (hx : x.wf) : EngWf (v.set i x) := by
  intro g hg
  rw [Vector.toList_set] at hg
  rcases List.mem_or_eq_of_mem_set hg with h' | h'
  · exact h g h'
  · rw [h']; exact hx

theorem KeepE.modEng (s : State) (e : Nat) (f : Eng → Eng) (h : ∀ g, g.mems.wf → (f g).mems.wf) : KeepE s (s.modEng e f) := by
  refine ⟨rfl, fun hw => ?_⟩
  show EngWf ((vmodN s.eng e f).map Eng.mems)
  unfold vmodN
  split
  · rename_i he
    rw [Vector.map_set]
    refine engWf_set _ _ _ _ hw (h _ (hw _ ?_))
    have : (s.store.eng)[e] = s.eng[e].mems := Vector.getElem_map _ _
    rw [← this]
    exact Vector.mem_toList_iff.2 (Vector.getElem_mem he)
  · exact hw

def EngRes.Keeps (s : State) : EngRes → Prop
  | .done t => KeepE s t
  | .held t => KeepE s t
  | .fault _ _ => True

def TrayRes.Keeps (s : State) : TrayRes → Prop
  | .ok _ t => KeepE s t
  | _ => True

theorem putThr_keeps (s0 s : State) (t : Nat) (f : Thr → Thr) (h : KeepE s0 s) : (putThr s t f).Keeps s0 :=
  h.then_store (modThr_store _ _ _)

theorem putThr_keeps' (s0 s : State) (t : Nat) (f : Thr → Thr) (h : s.store = s0.store) : (putThr s t f).Keeps s0 :=
  putThr_keeps _ _ _ _ (.of_store h)

theorem trayCheck_keeps (s : State) (e a : Nat) (t : State) (h : trayCheck s e a = some t) : KeepE s t := by
  unfold trayCheck at h
  split at h
  · cases h; exact .of_store rfl
  · cases h
    refine KeepE.trans (.of_store (eccCount_store s e)) (.modEng _ _ _ ?_)
    intro g hg
    simp_all [EngMem.wf, Eng.mems]
  · cases h

theorem trayLoad_keeps (s : State) (e a w : Nat) : (trayLoad s e a w).Keeps s := by
  unfold trayLoad
  repeat' split
  · trivial
  · trivial
  · trivial
  · rename_i h; exact trayCheck_keeps _ _ _ _ h

theorem trayPut_wf (a : Nat) (bs : List Byte) (g : Eng) (hg : g.mems.wf) : ({ g with tray := setBytes g.tray a bs } : Eng).mems.wf := by
  obtain ⟨h1, h2, h3⟩ := hg
  exact ⟨h1, wf_setBytes _ _ _ h2, h3⟩

theorem trayStore_keeps (s : State) (e a w : Nat) (v : Word) : (trayStore s e a w v).Keeps s := by
  unfold trayStore
  dsimp only
  repeat' split
  · trivial
  · trivial
  · refine KeepE.trans (KeepE.modEng s e _ ?_) (KeepE.modEng _ e _ (trayPut_wf _ _))
    intro g hg
    simp_all [EngMem.wf, Eng.mems]
  · trivial
  · rename_i h; exact (trayCheck_keeps _ _ _ _ h).trans (.modEng _ _ _ (trayPut_wf _ _))

theorem trayEnd_keeps (s : State) (t a : Nat) (r : TrayRes) (f : Word → Thr → Thr) (h : r.Keeps s) : (trayEnd t a r f).Keeps s := by
  cases r with
  | ok w u => exact putThr_keeps _ _ _ _ h
  | _ => trivial

theorem engRun_keeps (s : State) (t : Fin 64) (i : EngIns) : (engRun s t i).Keeps s := by
  cases i with
  | trayLoad op rd ra off => exact trayEnd_keeps _ _ _ _ _ (trayLoad_keeps _ _ _ _)
  | trayStore op rd ra off => exact trayEnd_keeps _ _ _ _ _ (trayStore_keeps _ _ _ _ _)
  | divide op rd ra rb =>
    unfold engRun
    dsimp only
    refine putThr_keeps _ _ _ _ (.modEng _ _ _ ?_)
    intro g hg; exact hg
  | _ =>
    simp only [engRun, waitRun, calRun, snapRun, fixarmRun, sendRun, queueAccess, freeFlags, faultIllegal, State.drawBool]
    repeat' split
    all_goals simp only [EngRes.Keeps, putThr]
    all_goals first
      | done
      | (refine KeepE.of_store ?_; simp; done)
      | skip

theorem KeepE.refl (s : State) : KeepE s s := .of_store rfl

theorem KeepE.stored {x : Store} {s t : State} (h : KeepE s t) (hk : Stored x s.store) : Stored x t.store := by
  have e : t.store = { s.store with eng := t.store.eng } := by rw [← h.1]
  rw [e]
  exact hk.put_eng _ h.2

theorem engAttempt_keeps (s : State) (t : Fin 64) (i : EngIns) : KeepE s (engAttempt s t i) := by
  have h := engRun_keeps s t i
  unfold engAttempt
  split
  · exact .of_store (by simp)
  · split
    · rename_i u heq; rw [heq] at h; exact KeepE.then_store h (by simp)
    · rename_i u heq; rw [heq] at h; exact h
    · exact .of_store (by simp)

@[simp] theorem engAttempt_stored {x : Store} (s : State) (t : Fin 64) (i : EngIns) (hk : Stored x s.store) : Stored x (engAttempt s t i).store :=
  (engAttempt_keeps _ _ _).stored hk

@[simp] theorem stepDone_store (s : State) (t : Nat) : (stepDone s t).store = s.store := by
  simp [stepDone]

@[simp] theorem unitResOp_store (s : State) (t : Nat) : (unitResOp s t).store = s.store := by
  unfold unitResOp; (try dsimp only); split <;> simp

@[simp] theorem breakNow_store (s : State) (t : Nat) : (breakNow s t).store = s.store := by
  simp [breakNow]

@[simp] theorem countIssue_store (s : State) (t : Nat) : (countIssue s t).store = s.store := by
  simp [countIssue]

theorem iramRead_keeps (s : State) (e a : Nat) : KeepE s (iramRead s e a).2 := by
  unfold iramRead
  split
  · exact .refl s
  · refine KeepE.trans (.of_store (eccCount_store s e)) (.modEng _ _ _ ?_)
    intro g hg
    simp_all [EngMem.wf, Eng.mems]
  · exact .refl s

theorem iramFetch_keeps (s : State) (e a : Nat) : KeepE s (iramFetch s e a).2 := by
  unfold iramFetch
  split
  · split
    · dsimp only
      split
      · exact .of_store (eccCount_store s e)
      · exact .refl s
    · exact iramRead_keeps s e a
  · exact iramRead_keeps s e a

theorem engGo_keeps (s : State) (t : Fin 64) (ins : Word → Option EngIns) : KeepE s (engGo s t ins) := by
  have h0 : KeepE s (countIssue (issueTake s t.val) t.val) := .of_store (by simp)
  have hr := h0.trans (iramFetch_keeps (countIssue (issueTake s t.val) t.val) (t.val / 4) (s.thrAt t.val).pc.toNat)
  unfold engGo
  dsimp only
  split
  · rename_i heq; rw [heq] at hr; exact hr.then_store (by simp)
  · rename_i heq
    rw [heq] at hr
    split
    · exact hr.then_store (by simp)
    · exact (hr.then_store (trayUse_store _ _ _)).trans (engAttempt_keeps _ _ _)

theorem engIssue_keeps (s : State) (t : Fin 64) (i : EngIns) : KeepE s (engIssue s t i) := by
  unfold engIssue
  repeat' split
  · exact .refl s
  · exact .of_store (by simp)
  · exact engGo_keeps _ _ _

@[simp] theorem engIssue_stored {x : Store} (s : State) (t : Fin 64) (i : EngIns) (hk : Stored x s.store) : Stored x (engIssue s t i).store :=
  (engIssue_keeps _ _ _).stored hk

@[simp] theorem breakpointOp_store (s : State) (t : Nat) : (breakpointOp s t).store = s.store := by
  unfold breakpointOp; (try dsimp only); split <;> simp

theorem stepIssue_keeps (s : State) (t : Fin 64) : KeepE s (stepIssue s t) := by
  unfold stepIssue
  split
  · exact engGo_keeps _ _ _
  · exact .refl s

theorem forEach_keeps {α : Type} (xs : List α) (s : State) (f : State → α → State) (h : ∀ t x, KeepE t (f t x)) :
    KeepE s (forEach xs s f) := forEach_inv (KeepE s) xs s f (.refl s) fun t x ht => ht.trans (h t x)

theorem stepWaiting_keeps (s : State) : KeepE s (stepWaiting s) := by
  refine forEach_keeps _ _ _ ?_
  intro t x
  split
  · exact stepIssue_keeps _ _
  · exact .refl t

@[simp] theorem stepWaiting_stored {x : Store} (s : State) (hk : Stored x s.store) : Stored x (stepWaiting s).store :=
  (stepWaiting_keeps _).stored hk

theorem retryStalls_keeps (s : State) (e : Fin 16) : KeepE s (retryStalls s e) := by
  refine forEach_keeps _ _ _ ?_
  intro t x
  dsimp only
  repeat' split
  · exact .refl t
  · exact engAttempt_keeps _ _ _
  · exact .refl t

@[simp] theorem retryStalls_stored {x : Store} (s : State) (e : Fin 16) (hk : Stored x s.store) : Stored x (retryStalls s e).store :=
  (retryStalls_keeps _ _).stored hk

theorem dividerFreeOp_keeps (s : State) (e : Fin 16) : KeepE s (dividerFreeOp s e) := by
  unfold dividerFreeOp
  split
  · exact .refl s
  · exact retryStalls_keeps s e

@[simp] theorem dividerFreeOp_stored {x : Store} (s : State) (e : Fin 16) (hk : Stored x s.store) : Stored x (dividerFreeOp s e).store :=
  (dividerFreeOp_keeps _ _).stored hk

@[simp] theorem wakeOp_store (s : State) (t : Nat) : (wakeOp s t).store = s.store := by
  unfold wakeOp; (try dsimp only); split <;> simp

@[simp] theorem watchdogOp_store (s : State) (t : Nat) : (watchdogOp s t).store = s.store := by
  unfold watchdogOp; (try dsimp only); split <;> simp

theorem stepOp_keeps (s : State) (t : Fin 64) : KeepE s (stepOp s t) := by
  unfold stepOp
  dsimp only
  split
  · exact .of_store (by simp)
  · split
    · exact .refl s
    · exact KeepE.trans (.of_store (by simp)) (stepIssue_keeps _ _)

@[simp] theorem stepOp_stored {x : Store} (s : State) (t : Fin 64) (hk : Stored x s.store) : Stored x (stepOp s t).store :=
  (stepOp_keeps _ _).stored hk

@[simp] theorem engDisable_store (s : State) (e : Nat) : (engDisable s e).store = s.store := by
  simp [engDisable]

@[simp] theorem engCtlWrite_store (s : State) (e : Nat) (w : Word) : (engCtlWrite s e w).store = s.store := by
  unfold engCtlWrite; (try dsimp only); split <;> simp

theorem tctlWrite_keeps (s : State) (t : Fin 64) (w : Word) : KeepE s (tctlWrite s t w) := by
  unfold tctlWrite
  dsimp only
  split
  · refine KeepE.trans (.of_store ?_) (stepOp_keeps _ _)
    repeat' split
    all_goals simp
  · refine .of_store ?_
    repeat' split
    all_goals simp

@[simp] theorem tctlWrite_stored {x : Store} (s : State) (t : Fin 64) (w : Word) (hk : Stored x s.store) : Stored x (tctlWrite s t w).store :=
  (tctlWrite_keeps _ _ _).stored hk

@[simp] theorem wrDisc_store (s : State) (t : Nat) : (wrDisc s t).store = s.store := by
  simp [wrDisc]

@[simp] theorem tpcWrite_store (s : State) (t : Nat) (w : Word) : (tpcWrite s t w).store = s.store := by
  unfold tpcWrite; (try dsimp only); split <;> simp

@[simp] theorem workWrite_store (s : State) (t r : Nat) (w : Word) : (workWrite s t r w).store = s.store := by
  unfold workWrite; (try dsimp only); split <;> simp

@[simp] theorem tmsgOp_store (s : State) (t : Nat) (w : Word) : (tmsgOp s t w).store = s.store := by
  unfold tmsgOp; (try dsimp only); split <;> simp

@[simp] theorem winErr_store (s : State) (e : Nat) : (winErr s e).store = s.store := by
  simp [winErr]

theorem windowRead_keeps (s : State) (e off : Nat) : KeepE s (windowRead s e off).2 := by
  unfold windowRead
  dsimp only
  split
  · split
    · rename_i h; exact trayCheck_keeps _ _ _ _ h
    · exact .of_store (by simp [winErr])
  · split
    · exact .of_store (by simp [winErr])
    · have hr := iramRead_keeps s e (fld (s.reg (Reg.ENL_WIN e)) 7 4 * 512 + off / 4)
      split
      · rename_i heq; rw [heq] at hr; exact hr
      · rename_i heq; rw [heq] at hr; exact hr.then_store (by simp [winErr])

@[simp] theorem windowRead_stored {x : Store} (s : State) (e off : Nat) (hk : Stored x s.store) : Stored x (windowRead s e off).2.store :=
  (windowRead_keeps _ _ _).stored hk

theorem iramPut_keeps (s : State) (e a : Nat) (w : Word) : KeepE s (iramPut s e a w) := by
  refine .modEng _ _ _ ?_
  intro g hg
  simp_all [EngMem.wf, Eng.mems]

theorem trayPut_keeps (s : State) (e a : Nat) (w : Word) : KeepE s (trayPut s e a w) := by
  refine .modEng _ _ _ ?_
  rintro g ⟨h1, h2, h3, h4⟩
  exact ⟨h1, wf_setMemWord _ _ _ h2, h3, sparseWf_write zeroNat g.tecc a 0 h4⟩

@[simp] theorem noteOld_store (s : State) (e a : Nat) : (noteOld s e a).store = s.store := by
  unfold noteOld
  refine modEng_store _ _ _ ?_
  intro g
  split
  · split <;> rfl
  · rfl

theorem windowWrite_keeps (s : State) (e off : Nat) (w : Word) : KeepE s (windowWrite s e off w) := by
  unfold windowWrite
  dsimp only
  repeat' split
  · exact trayPut_keeps _ _ _ _
  · exact .of_store (by simp [winErr])
  · exact KeepE.trans (.of_store (noteOld_store _ _ _)) (iramPut_keeps _ _ _ _)
  · exact .of_store (by simp)

theorem engWrite_keeps (s : State) (a : Nat) (w : Word) : KeepE s (engWrite s a w) := by
  unfold engWrite
  dsimp only
  repeat' split
  · exact windowWrite_keeps _ _ _ _
  · exact .of_store (by simp)
  · exact tctlWrite_keeps _ _ _
  · exact .of_store (by simp)
  · exact .of_store (by simp)
  · exact .of_store (by simp)
  · exact .of_store (by simp)
  · exact .of_store (by simp)

@[simp] theorem engWrite_stored {x : Store} (s : State) (a : Nat) (w : Word) (hk : Stored x s.store) : Stored x (engWrite s a w).store :=
  (engWrite_keeps _ _ _).stored hk

end Sys2Proof.Machine
end

