-- ==== Sys2Proof/Laws/StoreSystem.lean ====
section
/-! SUPPORT. The memories and the queue under resets, formats, the cascade, the negative and Safelight. -/

namespace Sys2Proof.Machine

/-! Format. -/

@[simp] theorem keepRecPut_stored {x : Store} (s : State) (a : Nat) (ws : List Word) (hk : Stored x s.store) :
    Stored x (keepRecPut s a ws).store := hk.put_keep _ fun h => wf_setBytes _ _ _ h

@[simp] theorem bootRecPut_stored {x : Store} (s : State) (w0 w1 w2 w3 : Word) (hk : Stored x s.store) : Stored x (bootRecPut s w0 w1 w2 w3).store := by
  simp [bootRecPut, hk]

@[simp] theorem fmtRefuse_store (s : State) (f k cause : Nat) : (fmtRefuse s f k cause).store = s.store := by
  unfold fmtRefuse; (try dsimp only); split <;> simp

@[simp] theorem fmtAccept_store (s : State) (f : Nat) (k : Fin 4) (now next chained : Bool) : (fmtAccept s f k now next chained).store = s.store := by
  simp [fmtAccept]

@[simp] theorem fmtRequestOp_store (s0 : State) (w : Word) : (fmtRequestOp s0 w).store = s0.store := by
  unfold fmtRequestOp; (try dsimp only); split <;> simp

@[simp] theorem prepRecord_store (s : State) (k : Fin 4) (r : Nat × Word × Word) : (prepRecord s k r).store = s.store := by
  unfold prepRecord; (try dsimp only); split <;> simp

@[simp] theorem spoolPut_stored {x : Store} (s : State) (a : Nat) (w : Word) (hk : Stored x s.store) : Stored x (spoolPut s a w).store := by
  simp [spoolPut, hk]

@[simp] theorem writeSection_stored {x : Store} (s : State) (c : Section) (hk : Stored x s.store) : Stored x (writeSection s c).store := by
  refine Stored.forEach _ _ _ hk fun t y ht => ?_
  split
  · exact (iramPut_keeps _ _ _ _).stored ht
  · exact (trayPut_keeps _ _ _ _).stored ht
  · exact spoolPut_stored _ _ _ ht
  · exact ht

@[simp] theorem prepSection_stored {x : Store} (s : State) (c : Section) (hk : Stored x s.store) : Stored x (prepSection s c).store := by
  simp [prepSection, hk]

@[simp] theorem prepPart_stored {x : Store} (cs : List Section) (s : State) (hk : Stored x s.store) : Stored x (prepPart s cs).store := by
  induction cs generalizing s with
  | nil => exact hk
  | cons c r ih =>
    have hd : s.drawBool.2.store = s.store := by simp
    unfold prepPart
    split
    rename_i heq
    rw [heq] at hd
    split
    · exact ih _ (prepSection_stored _ _ (by rw [hd]; exact hk))
    · rw [hd]; exact hk

@[simp] theorem prepDiscard_store (s : State) : (prepDiscard s).store = s.store := by
  simp [prepDiscard]

@[simp] theorem casAnswer_store (s : State) (q : Nat) (nack : Option Nat) : (casAnswer s q nack).store = s.store := by
  simp [casAnswer]

@[simp] theorem prepError_stored {x : Store} (s : State) (hk : Stored x s.store) : Stored x (prepError s).store := by
  simp [prepError, hk]

@[simp] theorem fmtArm_store (s : State) : (fmtArm s).store = s.store := by
  unfold fmtArm; (try dsimp only); split <;> simp

@[simp] theorem prepDoneOp_stored {x : Store} (s : State) (err : Bool) (hk : Stored x s.store) : Stored x (prepDoneOp s err).store := by
  have h := Stored.forEach (changeSet s s.boot.target) s prepSection hk fun t y ht => prepSection_stored t y ht
  unfold prepDoneOp
  dsimp only
  split
  · exact hk
  split
  · rw [forEach_store _ _ _ fun t y => testAbort_store t y]; exact hk
  split
  · exact prepError_stored s hk
  split
  · simpa using h
  split
  · simpa using h
  split <;> simpa using h

@[simp] theorem changeFlush_store (s : State) (k t : Nat) : (changeFlush s k t).store = s.store := by
  unfold changeFlush; (try dsimp only); split <;> simp

@[simp] theorem formatFlush_store (s : State) : (formatFlush s).store = s.store := by
  unfold formatFlush; dsimp only; (repeat' split) <;> simp_all

@[simp] theorem startSwThr_store (s : State) (f : Nat) : (startSwThr s f).store = s.store := by
  unfold startSwThr; (try dsimp only); split <;> simp

@[simp] theorem formatCommit_stored {x : Store} (s : State) (k t : Nat) (hk : Stored x s.store) : Stored x (formatCommit s k t).store := by
  unfold formatCommit; (try dsimp only); split <;> simp [hk]

@[simp] theorem fixCommitOp_stored {x : Store} (s : State) (k : Nat) (hk : Stored x s.store) : Stored x (fixCommitOp s k).store := by
  unfold fixCommitOp; (try dsimp only); split <;> simp [hk]

@[simp] theorem fixAhead_stored {x : Store} (s : State) (hk : Stored x s.store) : Stored x (fixAhead s).store :=
  Stored.forEach _ _ _ hk fun t y ht => fixCommitOp_stored t y ht

@[simp] theorem fmtCmdWrite_store (s : State) (w : Word) : (fmtCmdWrite s w).store = s.store := by
  unfold fmtCmdWrite; (try dsimp only); split <;> simp

@[simp] theorem chainAbandon_store (s : State) : (chainAbandon s).store = s.store := by
  unfold chainAbandon; (try dsimp only); split <;> simp

@[simp] theorem bootEvent_store (s : State) (bit : Nat) : (bootEvent s bit).store = s.store := by
  simp [bootEvent]

/-! Link. -/

@[simp] theorem fireEv_store (s : State) (e : CellEv) : (fireEv s e).store = s.store := by
  cases e with
  | act a => simp only [fireEv]; split <;> simp
  | _ => rfl

@[simp] theorem dropAct_store (s : State) (n : Nat) (a : CellAct) : (dropAct s n a).store = s.store := by
  unfold dropAct; (try dsimp only); split <;> simp

@[simp] theorem dropEv_store (s : State) (n c : Nat) (e : CellEv) : (dropEv s n c e).store = s.store := by
  cases e with
  | act a => simp only [dropEv]; split <;> simp
  | _ => simp [dropEv]

@[simp] theorem cellEvent_store (n c w : Nat) (p : CellRun × State) (e : CellEv) : (cellEvent n c w p e).2.store = p.2.store := by
  unfold cellEvent
  dsimp only
  split
  · simp
  split
  · simp
  · split <;> simp

@[simp] theorem cellRun_store (fuel n c w : Nat) (p : CellRun × State) : (cellRun fuel n c w p).2.store = p.2.store := by
  induction fuel generalizing p with
  | zero => rfl
  | succ f ih =>
    unfold cellRun
    split
    · rfl
    · rw [ih]; split <;> simp

theorem cellEvents_store (n c w : Nat) (es : List CellEv) : ∀ p : CellRun × State,
    (es.foldl (cellEvent n c w) p).2.store = p.2.store := by
  induction es with
  | nil => intro p; rfl
  | cons e r ih => intro p; rw [List.foldl_cons, ih, cellEvent_store]

@[simp] theorem cellByte_store (s : State) (n c w : Nat) : (cellByte s n c w).2.store = s.store := by
  unfold cellByte
  dsimp only
  rw [cellRun_store]
  dsimp only
  split <;> simp

@[simp] theorem groupGates_store (s : State) (n : Nat) (raw : List Nat) : (groupGates s n raw).store = s.store := by
  simp [groupGates]

@[simp] theorem linkMiss_store (s : State) (n : Nat) : (linkMiss s n).store = s.store := by
  simp [linkMiss]

theorem cellFold_store (n w : Nat) (cs : List Nat) : ∀ (p : List Nat × State),
    (cs.foldl (fun p c => let (b, t) := cellByte p.2 n c w; (p.1 ++ [b], t)) p).2.store = p.2.store := by
  induction cs with
  | nil => intro p; rfl
  | cons c r ih => intro p; rw [List.foldl_cons, ih]; simp

@[simp] theorem frameSampleOp_store (s : State) (n : Nat) : (frameSampleOp s n).store = s.store := by
  unfold frameSampleOp
  dsimp only
  split
  · rfl
  · have h := cellFold_store n (s.linkAt n).nextW (List.range 128)
      ([], (if (s.linkAt n).missed > 0 then linkMiss s n else s).modLink n fun l => { l with own := ownerBits s n })
    simp only [State_modLink_store, groupGates_store]
    refine h.trans ?_
    dsimp only
    split <;> simp

@[simp] theorem statusFrameOp_store (s0 : State) (n : Nat) (f : StatusFrame) : (statusFrameOp s0 n f).store = s0.store := by
  simp [statusFrameOp]

@[simp] theorem linkDropQueue_store (s : State) (n : Nat) : (linkDropQueue s n).store = s.store := by
  simp [linkDropQueue]

@[simp] theorem linkToLoss_store (s : State) (n : Nat) : (linkToLoss s n).store = s.store := by
  unfold linkToLoss; (try dsimp only); split <;> simp

@[simp] theorem linkUnlock_store (s : State) (n : Nat) : (linkUnlock s n).store = s.store := by
  unfold linkUnlock; (try dsimp only); split <;> simp

@[simp] theorem linkToAlign_store (s : State) (n : Nat) : (linkToAlign s n).store = s.store := by
  simp [linkToAlign]

@[simp] theorem linkCtlWrite_store (s : State) (n : Nat) (w : Word) : (linkCtlWrite s n w).store = s.store := by
  unfold linkCtlWrite; (try dsimp only); split <;> simp

@[simp] theorem linkAlignOp_store (s : State) (n : Nat) : (linkAlignOp s n).store = s.store := by
  unfold linkAlignOp; (try dsimp only); split <;> simp

@[simp] theorem median_store (s : State) (xs : List Nat) : (median s xs).2.store = s.store := by
  unfold median; (try dsimp only); split <;> simp

@[simp] theorem trainFail_store (s : State) (n : Nat) : (trainFail s n).store = s.store := by
  simp [trainFail]

@[simp] theorem trainingRequestOp_store (s : State) (n : Nat) : (trainingRequestOp s n).store = s.store := by
  unfold trainingRequestOp; (try dsimp only); split <;> simp

@[simp] theorem trainDone_store (s : State) (n rtt spr : Nat) (a : TrainAnswer) : (trainDone s n rtt spr a).store = s.store := by
  simp [trainDone]

@[simp] theorem trainingAnswerOp_store (s0 : State) (n : Nat) (a : TrainAnswer) : (trainingAnswerOp s0 n a).store = s0.store := by
  unfold trainingAnswerOp; dsimp only; (repeat' split) <;> simp_all

@[simp] theorem linkLossOp_store (s : State) (n : Nat) (lockLost : Bool) : (linkLossOp s n lockLost).store = s.store := by
  unfold linkLossOp; (try dsimp only); split <;> simp

@[simp] theorem autoRetrainOp_store (s : State) (n : Nat) : (autoRetrainOp s n).store = s.store := by
  unfold autoRetrainOp; (try dsimp only); split <;> simp

@[simp] theorem retrainOp_store (s : State) (n : Nat) : (retrainOp s n).store = s.store := by
  unfold retrainOp; (try dsimp only); split <;> simp

@[simp] theorem linkClrOp_store (s : State) (n : Nat) : (linkClrOp s n).store = s.store := by
  simp [linkClrOp]

@[simp] theorem linkCmdWrite_store (s : State) (n : Nat) (w : Word) : (linkCmdWrite s n w).store = s.store := by
  unfold linkCmdWrite; (try dsimp only); split <;> simp

@[simp] theorem ctClrOp_store (s : State) : (ctClrOp s).store = s.store := by
  simp [ctClrOp]

@[simp] theorem ctCmdWrite_store (s : State) (w : Word) : (ctCmdWrite s w).store = s.store := by
  unfold ctCmdWrite; (try dsimp only); split <;> simp

@[simp] theorem ctLocked_store (s : State) (a : Nat) (w : Word) : (ctLocked s a w).store = s.store := by
  unfold ctLocked; (try dsimp only); split <;> simp

@[simp] theorem ctWrite_store (s : State) (a : Nat) (w : Word) : (ctWrite s a w).store = s.store := by
  unfold ctWrite; (try dsimp only); split <;> simp

@[simp] theorem linkWriteAt_store (s : State) (n o a : Nat) (w : Word) : (linkWriteAt s n o a w).store = s.store := by
  unfold linkWriteAt; (try dsimp only); split <;> simp

@[simp] theorem linkWrite_store (s : State) (a : Nat) (w : Word) : (linkWrite s a w).store = s.store := by
  simp [linkWrite]

/-! Cascade. -/

@[simp] theorem mirrorsLost_store (s : State) : (mirrorsLost s).store = s.store := by
  simp [mirrorsLost]

@[simp] theorem lockLost_store (s : State) : (lockLost s).store = s.store := by
  unfold lockLost; (try dsimp only); split <;> simp

@[simp] theorem dropChainChange_store (s : State) : (dropChainChange s).store = s.store := by
  unfold dropChainChange; (try dsimp only); split <;> simp

@[simp] theorem memberLinkLoss_store (s : State) : (memberLinkLoss s).store = s.store := by
  unfold memberLinkLoss; (try dsimp only); split <;> simp

@[simp] theorem casLinkNote_store (before s0 : State) : (casLinkNote before s0).store = s0.store := by
  unfold casLinkNote; (repeat' split) <;> simp_all

@[simp] theorem cascadeLinkLossOp_store (s : State) : (cascadeLinkLossOp s).store = s.store := by
  unfold cascadeLinkLossOp; (try dsimp only); split <;> simp

@[simp] theorem casCtlWrite_store (s : State) (w : Word) : (casCtlWrite s w).store = s.store := by
  unfold casCtlWrite; (try dsimp only); split <;> simp

@[simp] theorem casWrite_store (s : State) (a : Nat) (w : Word) : (casWrite s a w).store = s.store := by
  unfold casWrite; (try dsimp only); split <;> simp

@[simp] theorem hopOf_store (s : State) (rtt : Nat) : (hopOf s rtt).2.store = s.store := by
  unfold hopOf; (try dsimp only); split <;> simp

@[simp] theorem casLinkUp_store (s : State) (n : Nat) : (casLinkUp s n).store = s.store := by
  unfold casLinkUp; (try dsimp only); split <;> simp

@[simp] theorem cascadeTrainingOp_store (s : State) (version : BitVec 8) (crcOk : Bool) (rtt : Nat) : (cascadeTrainingOp s version crcOk rtt).store = s.store := by
  unfold cascadeTrainingOp; (try dsimp only); split <;> simp

@[simp] theorem cascadeAnswerOp_store (s : State) (version : BitVec 8) (crcOk : Bool) : (cascadeAnswerOp s version crcOk).store = s.store := by
  unfold cascadeAnswerOp; (try dsimp only); split <;> simp

@[simp] theorem casAnswerOp_store (s : State) : (casAnswerOp s).store = s.store := by
  simp [casAnswerOp]

@[simp] theorem casNext_store (s : State) : (casNext s).store = s.store := by
  unfold casNext; (try dsimp only); split <;> simp

@[simp] theorem casEnd_store (s : State) : (casEnd s).store = s.store := by
  simp [casEnd]

@[simp] theorem casComplete_store (s0 : State) (c : CasCommand) : (casComplete s0 c).store = s0.store := by
  unfold casComplete; (try dsimp only); split <;> simp

@[simp] theorem casFail_store (s0 : State) (c : CasCommand) (bit : Nat) : (casFail s0 c bit).store = s0.store := by
  unfold casFail; (try dsimp only); split <;> simp

@[simp] theorem commandTimeoutOp_store (s : State) : (commandTimeoutOp s).store = s.store := by
  unfold commandTimeoutOp; (try dsimp only); split <;> simp

@[simp] theorem splitOp_store (s : State) : (splitOp s).store = s.store := by
  unfold splitOp; (try dsimp only); split <;> simp

@[simp] theorem casJudge_store (s : State) : (casJudge s).store = s.store := by
  unfold casJudge; (try dsimp only); split <;> simp

@[simp] theorem downFrameSendOp_store (s : State) : (downFrameSendOp s).store = s.store := by
  unfold downFrameSendOp; dsimp only; (repeat' split) <;> simp_all

@[simp] theorem memberRead_store (s : State) (i : Nat) (m : MemberRec) : (memberRead s i m).store = s.store := by
  unfold memberRead; (try dsimp only); split <;> simp

theorem memberReads_store (s : State) (f : UpFrame) (xs : List Nat) : (forEach xs s fun s i => match f.records[i]? with
      | some m => memberRead s i m
      | none => s).store = s.store := by
  apply forEach_store
  intro t x
  split <;> simp

@[simp] theorem upFrameOp_store (s0 : State) (f : UpFrame) : (upFrameOp s0 f).store = s0.store := by
  have h0 : (linkCodeErr s0 6 f.codeErrs.toNat).store = s0.store := linkCodeErr_store _ _ _
  unfold upFrameOp
  dsimp only
  rw [← h0]
  generalize linkCodeErr s0 6 f.codeErrs.toNat = s
  have h (t : State) : (forEach (List.range 7) t fun s i => match f.records[i]? with
      | some m => memberRead s i m
      | none => s).store = t.store := memberReads_store t f _
  split
  · rfl
  split
  · simp
  · rw [casJudge_store]
    split
    · rw [State_modCas_store]; exact h s
    · split
      · rw [casFail_store, State_modCas_store]; exact h s
      · split
        · rw [casComplete_store, State_modCas_store]; exact h s
        · rw [State_modCas_store, State_modCas_store]; exact h s

@[simp] theorem memberLostOp_store (s : State) (r : Nat) : (memberLostOp s r).store = s.store := by
  unfold memberLostOp; (try dsimp only); split <;> simp

@[simp] theorem memberState_store (s : State) (wait : Bool) : (memberState s wait).store = s.store := by
  unfold memberState; (try dsimp only); split <;> simp

@[simp] theorem lockJudge_store (s : State) (e : Int) : (lockJudge s e).store = s.store := by
  unfold lockJudge; (try dsimp only); split <;> simp

@[simp] theorem shiftTimes_store (s : State) (mv : Nat → Nat) : (shiftTimes s mv).store = s.store := by
  unfold shiftTimes
  simp only [store_mk]
  rw [Vector.map_map]
  rfl

@[simp] theorem tbStep_store (s : State) (e : Int) : (tbStep s e).store = s.store := by
  simp [tbStep]

@[simp] theorem alignTb_store (s : State) (f : DownFrame) : (alignTb s f).store = s.store := by
  unfold alignTb; (try dsimp only); split <;> simp

@[simp] theorem mirrorLost_store (s : State) (n : Nat) : (mirrorLost s n).store = s.store := by
  unfold mirrorLost; (try dsimp only); split <;> simp

@[simp] theorem mirrorState_store (s : State) (n : Nat) (c : Nat) : (mirrorState s n c).store = s.store := by
  unfold mirrorState; (try dsimp only); split <;> simp

@[simp] theorem mirrorSynced_store (s : State) (n : Nat) (was : SyncState) : (mirrorSynced s n was).store = s.store := by
  simp [mirrorSynced]

@[simp] theorem mirrorTooth_store (s : State) (n : Nat) (r : UnitRec) : (mirrorTooth s n r).store = s.store := by
  unfold mirrorTooth; (try dsimp only); split <;> simp

@[simp] theorem mirrorUnit_store (s : State) (n : Nat) (f : DownFrame) : (mirrorUnit s n f).store = s.store := by
  unfold mirrorUnit; (try dsimp only); split <;> simp

@[simp] theorem mirrorsTake_store (s : State) (f : DownFrame) : (mirrorsTake s f).store = s.store := by
  simp [mirrorsTake]

@[simp] theorem downFrameOp_store (s0 : State) (f : DownFrame) : (downFrameOp s0 f).store = s0.store := by
  simp [downFrameOp]

@[simp] theorem upFrameRepeatOp_store (s0 : State) (f : UpFrame) : (upFrameRepeatOp s0 f).store = s0.store := by
  unfold upFrameRepeatOp; dsimp only; (repeat' split) <;> simp_all

@[simp] theorem casTake_store (s : State) (c : CasCommand) : (casTake s c).store = s.store := by
  simp [casTake]

@[simp] theorem casAck_store (s : State) (c : CasCommand) : (casAck s c).store = s.store := by
  simp [casAck]

@[simp] theorem casNack_store (s : State) (c : CasCommand) (cause : Nat) : (casNack s c cause).store = s.store := by
  simp [casNack]

@[simp] theorem fixPrepOp_store (s0 : State) (c : CasCommand) : (fixPrepOp s0 c).store = s0.store := by
  unfold fixPrepOp; (try dsimp only); split <;> simp

@[simp] theorem fixTimeOp_store (s0 : State) (c : CasCommand) : (fixTimeOp s0 c).store = s0.store := by
  unfold fixTimeOp; (try dsimp only); split <;> simp

@[simp] theorem fixCancelCmdOp_store (s0 : State) (c : CasCommand) : (fixCancelCmdOp s0 c).store = s0.store := by
  unfold fixCancelCmdOp; (try dsimp only); split <;> simp

@[simp] theorem fmtPrepOp_store (s0 : State) (c : CasCommand) : (fmtPrepOp s0 c).store = s0.store := by
  unfold fmtPrepOp; (try dsimp only); split <;> simp

@[simp] theorem fmtAbandonOp_store (s0 : State) (c : CasCommand) : (fmtAbandonOp s0 c).store = s0.store := by
  unfold fmtAbandonOp; (try dsimp only); split <;> simp

@[simp] theorem sendFixTime_store (s : State) (k t : Nat) : (sendFixTime s k t).store = s.store := by
  simp [sendFixTime]

@[simp] theorem linkLossAll_store (s : State) (n : Nat) (lockLost : Bool) : (linkLossAll s n lockLost).store = s.store := by
  simp [linkLossAll]

/-! Shutter. -/

@[simp] theorem shqEvent_store (s : State) (n b : Nat) : (shqEvent s n b).store = s.store := by
  simp [shqEvent]

@[simp] theorem txPopOp_store (s : State) (n : Nat) : (txPopOp s n).2.store = s.store := by
  unfold txPopOp; (try dsimp only); split <;> simp

@[simp] theorem rxPushOp_store (s : State) (n : Nat) (w : Word) : (rxPushOp s n w).store = s.store := by
  simp [rxPushOp]

@[simp] theorem txWrite_store (s : State) (n : Nat) (w : Word) : (txWrite s n w).store = s.store := by
  unfold txWrite; (try dsimp only); split <;> simp

@[simp] theorem rxRead_store (s : State) (n : Nat) : (rxRead s n).2.store = s.store := by
  unfold rxRead; (repeat' split) <;> simp_all

@[simp] theorem shqClear_store (s : State) (n : Nat) : (shqClear s n).store = s.store := by
  simp [shqClear]

@[simp] theorem windowLevel_store (s : State) (n i : Nat) : (windowLevel s n i).2.store = s.store := by
  unfold windowLevel; (try dsimp only); split <;> simp

@[simp] theorem shqDrive_store (s : State) (n : Nat) : (shqDrive s n).store = s.store := by
  simp [shqDrive]

@[simp] theorem shqReach_store (s : State) (n : Nat) (out dir : Word) : (shqReach s n out dir).store = s.store := by
  simp [shqReach]

@[simp] theorem seqSet_store (s : State) (a : Nat) (w : Word) : (seqSet s a w).store = s.store := by
  simp [seqSet]

@[simp] theorem osrSet_store (s : State) (n : Nat) (w : Word) (cnt : Nat) : (osrSet s n w cnt).store = s.store := by
  simp [osrSet]

@[simp] theorem isrSet_store (s : State) (n : Nat) (w : Word) (cnt : Nat) : (isrSet s n w cnt).store = s.store := by
  simp [isrSet]

@[simp] theorem latchPut_store (s : State) (n a first cnt : Nat) (v : Word) : (latchPut s n a first cnt v).store = s.store := by
  unfold latchPut; (try dsimp only); split <;> simp

@[simp] theorem seqDone_store (s : State) : (seqDone s).1.store = s.store := by
  simp [seqDone]

@[simp] theorem seqCond_store (s : State) (n cond pin : Nat) : (seqCond s n cond pin).2.store = s.store := by
  unfold seqCond; (try dsimp only); split <;> simp

@[simp] theorem seqBr_store (s : State) (n cond pin addr : Nat) : (seqBr s n cond pin addr).1.store = s.store := by
  unfold seqBr; (try dsimp only); split <;> simp

@[simp] theorem seqDec_store (s : State) (n : Nat) (cy : Bool) (addr : Nat) : (seqDec s n cy addr).1.store = s.store := by
  unfold seqDec; (try dsimp only); split <;> simp

@[simp] theorem setSeen_store (s : State) (n : Nat) (inj : Bool) : (setSeen s n inj).store = s.store := by
  unfold setSeen; (try dsimp only); split <;> simp

@[simp] theorem seqAwait_store (s : State) (n : Nat) (lvl : Bool) (src p : Nat) (inj : Bool) : (seqAwait s n lvl src p inj).1.store = s.store := by
  unfold seqAwait; dsimp only; (repeat' split) <;> simp_all

@[simp] theorem emitTo_store (s : State) (n dst b : Nat) (d : Word) : (emitTo s n dst b d).1.store = s.store := by
  unfold emitTo; (try dsimp only); split <;> simp

@[simp] theorem seqEmit_store (s : State) (n dst bits : Nat) : (seqEmit s n dst bits).1.store = s.store := by
  unfold seqEmit; dsimp only; (repeat' split) <;> simp_all

@[simp] theorem seqGather_store (s : State) (n src bits : Nat) : (seqGather s n src bits).1.store = s.store := by
  unfold seqGather; dsimp only; (repeat' split) <;> simp_all

@[simp] theorem xferTo_store (s : State) (n dst : Nat) (v : Word) : (xferTo s n dst v).1.store = s.store := by
  unfold xferTo; (try dsimp only); split <;> simp

@[simp] theorem seqXfer_store (s : State) (n dst src op : Nat) : (seqXfer s n dst src op).1.store = s.store := by
  unfold seqXfer; (try dsimp only); split <;> simp

@[simp] theorem seqTake_store (s : State) (n : Nat) (wait ifx : Bool) : (seqTake s n wait ifx).1.store = s.store := by
  unfold seqTake; dsimp only; (repeat' split) <;> simp_all

@[simp] theorem seqGive_store (s : State) (n : Nat) (wait iff : Bool) : (seqGive s n wait iff).1.store = s.store := by
  unfold seqGive; (repeat' split) <;> simp_all

@[simp] theorem seqDrv_store (s : State) (n a first cnt : Nat) (data : BitVec 7) : (seqDrv s n a first cnt data).1.store = s.store := by
  unfold seqDrv; (try dsimp only); split <;> simp

@[simp] theorem seqLdc_store (s : State) (n : Nat) (cy : Bool) (imm : BitVec 14) : (seqLdc s n cy imm).1.store = s.store := by
  unfold seqLdc; (try dsimp only); split <;> simp

@[simp] theorem seqFlag_store (s : State) (n k : Nat) : (seqFlag s n k).1.store = s.store := by
  simp [seqFlag]

@[simp] theorem seqExec_store (s : State) (n : Nat) (inj : Bool) (i : SeqIns) : (seqExec s n inj i).1.store = s.store := by
  cases i <;> simp [seqExec]

@[simp] theorem shqHalts_store (s : State) (n cause : Nat) : (shqHalts s n cause).store = s.store := by
  simp [shqHalts]

@[simp] theorem seqAfter_store (s : State) (n : Nat) (inj : Bool) (hold : Nat) (stop : Bool) (r : SeqRes) : (seqAfter s n inj hold stop r).store = s.store := by
  unfold seqAfter; (repeat' split) <;> simp_all

@[simp] theorem seqRun_store (s : State) (n : Nat) (inj : Bool) (i : SeqIns) (hold : Nat) : (seqRun s n inj i hold).store = s.store := by
  simp [seqRun]

@[simp] theorem seqWord_store (s : State) (n : Nat) (inj : Bool) (w : Nat) : (seqWord s n inj w).store = s.store := by
  unfold seqWord; (try dsimp only); split <;> simp

@[simp] theorem divNext_store (s : State) (n : Nat) : (divNext s n).store = s.store := by
  simp [divNext]

@[simp] theorem divRstOp_store (s : State) (n : Nat) : (divRstOp s n).store = s.store := by
  unfold divRstOp; (try dsimp only); split <;> simp

@[simp] theorem shqEnableOp_store (s : State) (n : Nat) : (shqEnableOp s n).store = s.store := by
  unfold shqEnableOp; dsimp only; (repeat' split) <;> simp_all

@[simp] theorem shqDisableOp_store (s : State) (n : Nat) : (shqDisableOp s n).store = s.store := by
  simp [shqDisableOp]

@[simp] theorem shqCtlWrite_store (s : State) (n : Nat) (w : Word) : (shqCtlWrite s n w).store = s.store := by
  unfold shqCtlWrite; (try dsimp only); split <;> simp

@[simp] theorem shqDivWrite_store (s : State) (n : Nat) (w : Word) : (shqDivWrite s n w).store = s.store := by
  unfold shqDivWrite; (try dsimp only); split <;> simp

@[simp] theorem shqPinsWrite_store (s : State) (n : Nat) (w : Word) : (shqPinsWrite s n w).store = s.store := by
  unfold shqPinsWrite; (try dsimp only); split <;> simp

@[simp] theorem shqHaltWrite_store (s : State) (n o : Nat) (w : Word) : (shqHaltWrite s n o w).store = s.store := by
  unfold shqHaltWrite; (try dsimp only); split <;> simp

@[simp] theorem shqProgWrite_store (s : State) (n k : Nat) (w : Word) : (shqProgWrite s n k w).store = s.store := by
  unfold shqProgWrite; (try dsimp only); split <;> simp

@[simp] theorem shiftClearOp_store (s : State) (n : Nat) : (shiftClearOp s n).store = s.store := by
  unfold shiftClearOp; (try dsimp only); split <;> simp

@[simp] theorem shqStartOp_store (s : State) (n addr : Nat) : (shqStartOp s n addr).store = s.store := by
  unfold shqStartOp; (try dsimp only); split <;> simp

@[simp] theorem shqResumeOp_store (s : State) (n : Nat) : (shqResumeOp s n).store = s.store := by
  unfold shqResumeOp; (try dsimp only); split <;> simp

@[simp] theorem shqHaltOp_store (s : State) (n : Nat) : (shqHaltOp s n).store = s.store := by
  unfold shqHaltOp; (try dsimp only); split <;> simp

@[simp] theorem shqInsOp_store (s : State) (n : Nat) (i : SeqIns) (hold : Nat) : (shqInsOp s n i hold).store = s.store := by
  simp [shqInsOp]

@[simp] theorem shqTickOp_store (s : State) (n : Nat) : (shqTickOp s n).store = s.store := by
  unfold shqTickOp; dsimp only; (repeat' split) <;> simp_all

@[simp] theorem shqActOp_store (s : State) (n : Nat) (a : ShqAct) : (shqActOp s n a).store = s.store := by
  unfold shqActOp; (try dsimp only); split <;> simp

@[simp] theorem shqSettle_store (s : State) (n : Nat) : (shqSettle s n).store = s.store := by
  simp [shqSettle]

@[simp] theorem shqAct_store (s : State) (n : Nat) (a : ShqAct) : (shqAct s n a).store = s.store := by
  simp [shqAct]

@[simp] theorem shqCmdWrite_store (s : State) (n : Nat) (w : Word) : (shqCmdWrite s n w).store = s.store := by
  unfold shqCmdWrite
  dsimp only
  generalize ((if bitAt w 2 then [ShqAct.clear] else []) ++ (if bitAt w 5 then [ShqAct.start none] else [])
    ++ (if bitAt w 1 then [ShqAct.halt] else if bitAt w 0 then [ShqAct.resume] else []) ++ (if bitAt w 4 then [ShqAct.divRst] else [])) = acts
  split <;> simp only [shqSettle_store, State_modShq_store] <;> split <;> simp

@[simp] theorem shqTick_store (s : State) (n : Nat) : (shqTick s n).store = s.store := by
  simp [shqTick]

@[simp] theorem shqIssue_store (s : State) (n : Nat) (i : SeqIns) (hold : Nat) : (shqIssue s n i hold).store = s.store := by
  simp [shqIssue]

@[simp] theorem shqSettleAll_store (s : State) : (shqSettleAll s).store = s.store := by
  simp [shqSettleAll]

@[simp] theorem shqInjWrite_store (s : State) (n : Nat) (w : Word) : (shqInjWrite s n w).store = s.store := by
  unfold shqInjWrite; (try dsimp only); split <;> simp

@[simp] theorem shqStore_store (s : State) (n o : Nat) (w : Word) : (shqStore s n o w).store = s.store := by
  simp [shqStore]

@[simp] theorem shqWrite_store (s : State) (n o : Nat) (w : Word) : (shqWrite s n o w).store = s.store := by
  unfold shqWrite; (try dsimp only); split <;> simp

/-! CalLoad. -/

@[simp] theorem lateLoad_store (s : State) (e : CalEntry) : (lateLoad s e).store = s.store := by
  unfold lateLoad; (try dsimp only); split <;> simp

@[simp] theorem calWait_store (s : State) (e : CalEntry) : (calWait s e).store = s.store := by
  simp [calWait]

@[simp] theorem slotDisplaced_store (s : State) (n x : Nat) : (slotDisplaced s n x).store = s.store := by
  unfold slotDisplaced; (repeat' split) <;> simp_all

@[simp] theorem slotLoad_store (s : State) (e : CalEntry) (x : Nat) : (slotLoad s e x).store = s.store := by
  unfold slotLoad; (try dsimp only); split <;> simp

@[simp] theorem cellHandover_store (s : State) (e : CalEntry) : (cellHandover s e).store = s.store := by
  unfold cellHandover; dsimp only; (repeat' split) <;> simp_all <;> grind [linkWithdraw_store, linkOffer_store, calEvent_store]

@[simp] theorem fixHandover_store (s : State) (e : CalEntry) : (fixHandover s e).store = s.store := by
  unfold fixHandover; (try dsimp only); split <;> simp

@[simp] theorem localEdgeLoad_store (s : State) (l : LocalEdge) : (localEdgeLoad s l).store = s.store := by
  unfold localEdgeLoad; (try dsimp only); split <;> simp

@[simp] theorem entryLoadOp_store (s : State) : (entryLoadOp s).store = s.store := by
  unfold entryLoadOp; (repeat' split) <;> simp_all

@[simp] theorem dispatchAct_store (s : State) (e : CalEntry) : (dispatchAct s e).store = s.store := by
  unfold dispatchAct; (try dsimp only); split <;> simp

@[simp] theorem entryDispatchOp_store (s : State) : (entryDispatchOp s).store = s.store := by
  unfold entryDispatchOp; (try dsimp only); split <;> simp

/-! Negative. -/

@[simp] theorem flashProgram_stored {x : Store} (bs : List Byte) (s : State) (a : Nat) (hk : Stored x s.store) :
    Stored x (flashProgram s a bs).store := by
  induction bs generalizing s a with
  | nil => exact hk
  | cons b r ih =>
    refine ih _ _ ?_
    split
    · exact Stored.put_flash (y := s.store) hk { s.flash with bytes := sparseWrite erasedByte s.flash.bytes a (flashByte s a &&& b) }
        fun h => sparseWf_write _ _ _ _ h
    · exact hk

@[simp] theorem flashErase_stored {x : Store} (s : State) (lo hi : Nat) (hk : Stored x s.store) : Stored x (flashErase s lo hi).store :=
  hk.put_flash _ fun h => sparseWf_clearRange _ _ _ _ h

/-! Resets. -/

@[simp] theorem otpLoad_stored {x : Store} (s : State) (hk : Stored x s.store) : Stored x (otpLoad s).store := by
  have e : (s.eng.map Eng.otp).map Eng.mems = s.eng.map Eng.mems := by rw [Vector.map_map]; rfl
  simp only [otpLoad, settlePins_store, store_mk, e]
  exact Stored.put_otp (y := s.store) hk true

theorem replicate_mems : (Vector.replicate 16 Eng.reset).map Eng.mems = Vector.replicate 16 Eng.reset.mems := by
  simp

@[simp] theorem resetAll_store (s : State) : (resetAll s).store = s.store.afterReset := by
  simp only [resetAll, State.reset, store_mk, replicate_mems]
  rfl

@[simp] theorem countReset_store (s : State) (bit : Nat) : (countReset s bit).store = s.store := by
  simp [countReset]

@[simp] theorem strapPins_store (s : State) (hostMode : Bool) (role : Fin 8) : (strapPins s hostMode role).store = s.store := by
  simp [strapPins]

@[simp] theorem strap_store (s : State) : (strap s).store = s.store := by
  simp [strap]

@[simp] theorem powerOnOp_store (s : State) (hostMode : Bool) (role : Fin 8) : (powerOnOp s hostMode role).store = s.store.afterReset := by
  simp [powerOnOp]

@[simp] theorem safeFirst_store (s : State) : (safeFirst s).store = s.store := by
  simp [safeFirst]

@[simp] theorem pinResetOp_store (s : State) (hostMode : Bool) (role : Fin 8) : (pinResetOp s hostMode role).store = s.store.afterReset := by
  simp [pinResetOp]

@[simp] theorem fullResetOp_store (s : State) (cause : Nat) : (fullResetOp s cause).store = s.store.afterReset := by
  simp [fullResetOp]

@[simp] theorem coreResetOp_store (s : State) (cause : Nat) : (coreResetOp s cause).store =
    ({ s.store.afterReset with
        mem := spoolPart (sltSpools (safeFirst s)) s.store.mem
        ecc := spoolPart (sltSpools (safeFirst s)) s.store.ecc
        sram := s.store.sram } : Store) := by
  have hr : (safeFirst s).store = s.store := safeFirst_store s
  unfold coreResetOp
  dsimp only
  generalize safeFirst s = r at hr ⊢
  rw [countReset_store]
  generalize hs : forEach (sltSpools r) _ _ = s3
  have h3 : s3.store = s.store.afterReset := by rw [← hs]; simp [hr]
  show ({ s3.store with mem := spoolPart (sltSpools r) r.store.mem, ecc := spoolPart (sltSpools r) r.store.ecc, sram := r.store.sram } : Store) = _
  rw [h3, hr]

@[simp] theorem spoolPart_wf {α : Type} [DecidableEq α] (d : Nat → α) (ns : List Nat) (m : List (Nat × α)) (h : sparseWf d m = true) :
    sparseWf d (spoolPart ns m) = true := sparseWf_filter d m _ h

@[simp] theorem coreResetOp_stored {x : Store} (s : State) (cause : Nat) (hk : Stored x s.store) : Stored x (coreResetOp s cause).store := by
  rw [coreResetOp_store]
  exact ⟨hk.1, fun c => ⟨spoolPart_wf _ _ _ (hk.2 c).mem, spoolPart_wf _ _ _ (hk.2 c).ecc, (hk.2 c).keep, (hk.2 c).flash, (hk.2 c).sram, EngWf.reset⟩⟩

@[simp] theorem rstCtlWrite_stored {x : Store} (s : State) (w : Word) (hk : Stored x s.store) : Stored x (rstCtlWrite s w).store := by
  unfold rstCtlWrite
  split
  · exact hk
  split
  · simpa using hk
  split
  · rw [fullResetOp_store]; exact hk.after
  · exact coreResetOp_stored _ _ hk

@[simp] theorem pllLockOp_store (s : State) : (pllLockOp s).store = s.store := by
  unfold pllLockOp; (try dsimp only); split <;> simp

/-! Evr. -/

@[simp] theorem State_modEvr_store (s : State) (f : Evr → Evr) : (State.modEvr s f).store = s.store := by
  simp [State.modEvr]

@[simp] theorem levelSample_store (s : State) (src : Nat) : (levelSample s src).store = s.store := by
  unfold levelSample; dsimp only; (repeat' split) <;> simp_all

@[simp] theorem noteSpan_store (s : State) (r : Raised) : (noteSpan s r).store = s.store := by
  simp [noteSpan]

@[simp] theorem levelRaise_store (s : State) (r : Raised) : (levelRaise s r).store = s.store := by
  simp [levelRaise]

@[simp] theorem State_modRing_store (s : State) (b : Nat) (fast : Bool) (f : Ring → Ring) : (State.modRing s b fast f).store = s.store := by
  unfold State.modRing; (try dsimp only); split <;> simp

@[simp] theorem lostCount_store (s : State) (b : Nat) (fast : Bool) : (lostCount s b fast).store = s.store := by
  simp [lostCount]

@[simp] theorem ringErr_store (s : State) (b : Nat) (fast : Bool) : (ringErr s b fast).store = s.store := by
  simp [ringErr]

@[simp] theorem raiseEscalates_store (s : State) (r : Raised) : (raiseEscalates s r).store = s.store := by
  unfold raiseEscalates; (try dsimp only); split <;> simp

@[simp] theorem mergeAway_store (s : State) (r : Raised) (b : Nat) : (mergeAway s r b).store = s.store := by
  simp [mergeAway]

theorem raiseRepeats_stored {x : Store} (s t : State) (r : Raised) (hk : Stored x s.store) (h : raiseRepeats s r = some t) : Stored x t.store := by
  unfold raiseRepeats at h
  repeat' split at h
  all_goals (first | contradiction | (cases h; simpa using hk))

@[simp] theorem edgeRaise_stored {x : Store} (s : State) (r : Raised) (b : Nat) (hk : Stored x s.store) : Stored x (edgeRaise s r b).store := by
  unfold edgeRaise
  split
  · rename_i h; exact raiseRepeats_stored _ _ _ hk h
  · (try dsimp only); (repeat' split) <;> simp [hk]

@[simp] theorem latchRaise_stored {x : Store} (s0 : State) (r : Raised) (hk : Stored x s0.store) : Stored x (latchRaise s0 r).store := by
  have h0 : Stored x (noteSpan s0 r).store := by simpa using hk
  unfold latchRaise
  dsimp only
  generalize noteSpan s0 r = s at h0 ⊢
  split
  · split
    · exact h0
    · cases hr : raiseRepeats s r with
      | none => exact h0
      | some t => exact raiseRepeats_stored _ _ _ h0 hr
  · (repeat' split) <;> simp [h0]

@[simp] theorem latchRaises_stored {x : Store} (s : State) (hk : Stored x s.store) : Stored x (latchRaises s).store := by
  unfold latchRaises; (try dsimp only); (repeat' split) <;> first | exact hk | (simp [hk]; done) | (apply Stored.forEach <;> (try simp [hk]; done) <;> (intro t y ht; (try dsimp only); (repeat' split) <;> simp_all))

@[simp] theorem evrCycle_stored {x : Store} (s : State) (hk : Stored x s.store) : Stored x (evrCycle s).store := by
  simp [evrCycle, hk]

@[simp] theorem deliver_store (s : State) (p : Pend) (b : Fin 3) : (deliver s p b).store = s.store := by
  unfold deliver; (try dsimp only); split <;> simp

@[simp] theorem deliveryOp_store (s : State) : (deliveryOp s).store = s.store := by
  unfold deliveryOp; (repeat' split) <;> simp_all

@[simp] theorem recordOver_store (s : State) (w : RecWrite) : (recordOver s w).store = s.store := by
  simp [recordOver]

@[simp] theorem recordFail_store (s : State) (w : RecWrite) : (recordFail s w).store = s.store := by
  simp [recordFail]

@[simp] theorem recordPut_stored {x : Store} (s : State) (w : RecWrite) (i : Nat) (hk : Stored x s.store) : Stored x (recordPut s w i).store := by
  have h := bankAccess_stored s .recordCtl (ringClass w.bank.val) (recordAddr4 s w i) (recordAddr4 s w i) (some (0, wordBytes (recordWord s w i))) hk
  unfold recordPut; dsimp only; split <;> (rename_i heq; rw [heq] at h; simpa using h)

@[simp] theorem recordEnd_store (s : State) (w : RecWrite) : (recordEnd s w).store = s.store := by
  simp [recordEnd]

@[simp] theorem repWrite_stored {x : Store} (s : State) (q : Fin 3 × Bool × Nat) (hk : Stored x s.store) : Stored x (repWrite s q).store := by
  unfold repWrite
  dsimp only
  generalize hr : bankAccess _ _ _ _ _ _ = r
  have h : Stored x r.2.store := by rw [← hr]; exact bankAccess_stored _ _ _ _ _ _ hk
  obtain ⟨res, s1⟩ := r
  dsimp only at h ⊢
  split <;> (rename_i heq; cases heq; simpa using h)

@[simp] theorem claimOp_store (s : State) (b : Nat) (fast : Bool) : (claimOp s b fast).2.store = s.store := by
  unfold claimOp; dsimp only; (repeat' split) <;> simp_all

@[simp] theorem doneOp_store (s : State) (b : Nat) (fast : Bool) (idx : Nat) : (doneOp s b fast idx).store = s.store := by
  unfold doneOp; dsimp only; (repeat' split) <;> simp_all

@[simp] theorem evrCfgErr_store (s : State) (b : Nat) (fast : Bool) : (evrCfgErr s b fast).store = s.store := by
  simp [evrCfgErr]

@[simp] theorem ringBaseWrite_store (s : State) (b : Nat) (fast : Bool) (w : Word) : (ringBaseWrite s b fast w).store = s.store := by
  unfold ringBaseWrite; (try dsimp only); split <;> simp

@[simp] theorem ringCfgWrite_store (s : State) (b : Nat) (fast : Bool) (w : Word) : (ringCfgWrite s b fast w).store = s.store := by
  unfold ringCfgWrite; (try dsimp only); split <;> simp

@[simp] theorem clrLost_store (s : State) (b : Nat) (fast : Bool) : (clrLost s b fast).store = s.store := by
  simp [clrLost]

@[simp] theorem evrCtlWrite_store (s : State) (b : Nat) (w : Word) : (evrCtlWrite s b w).store = s.store := by
  unfold evrCtlWrite; (try dsimp only); split <;> simp

@[simp] theorem maskWriteOp_store (s : State) (b k : Nat) (w : Word) : (maskWriteOp s b k w).store = s.store := by
  simp [maskWriteOp]

@[simp] theorem routeWriteOp_store (s : State) (src : Nat) (w : Word) : (routeWriteOp s src w).store = s.store := by
  unfold routeWriteOp; (try dsimp only); split <;> simp

@[simp] theorem evrWrite_store (s : State) (m : Master) (a : Nat) (w : Word) : (evrWrite s m a w).store = s.store := by
  unfold evrWrite; (try dsimp only); split <;> simp

/-! Safelight. -/

@[simp] theorem State_modSlt_store (s : State) (f : Slt → Slt) : (State.modSlt s f).store = s.store := by
  simp [State.modSlt]

@[simp] theorem logPtrsPut_stored {x : Store} (s : State) (o q lost : Nat) (hk : Stored x s.store) : Stored x (logPtrsPut s o q lost).store := by
  simp [logPtrsPut, hk]

@[simp] theorem logForm_stored {x : Store} (s : State) (typ : Nat) (w d : Word) (hk : Stored x s.store) : Stored x (logForm s typ w d).store := by
  simp [logForm, hk]

@[simp] theorem logService_stored {x : Store} (s : State) (code : Nat) (d : Word) (hk : Stored x s.store) : Stored x (logService s code d).store := by
  simp [logService, hk]

@[simp] theorem logDrain_stored {x : Store} (s : State) (hk : Stored x s.store) : Stored x (logDrain s).store := by
  unfold logDrain
  split
  · exact hk
  split
  · exact hk
  · generalize logPtrs s = p
    obtain ⟨o, q, lost⟩ := p
    dsimp only
    generalize hs : State.drawBool _ = r
    have hr : Stored x r.2.store := by
      rw [← hs, State_drawBool_store, State_modSlt_store]
      split <;> simp [hk]
    split
    · exact logPtrsPut_stored _ _ _ _ (flashProgram_stored _ _ _ hr)
    · rw [State_raise0_store, State_modSlt_store]; exact logPtrsPut_stored _ _ _ _ hr

@[simp] theorem logClaimed_stored {x : Store} (s : State) (b : Nat) (fast : Bool) (hk : Stored x s.store) : Stored x (logClaimed s b fast).store := by
  simp [logClaimed, hk]

@[simp] theorem sltRecPut_stored {x : Store} (s : State) (pref neg fw slot : Nat) (hk : Stored x s.store) : Stored x (sltRecPut s pref neg fw slot).store := by
  simp [sltRecPut, hk]

@[simp] theorem armsLoad_store (s : State) : (armsLoad s).store = s.store := by
  simp [armsLoad]

@[simp] theorem performSwitch_stored {x : Store} (s : State) (hk : Stored x s.store) : Stored x (performSwitch s).store := by
  unfold performSwitch
  dsimp only
  rw [State_raise0_store]
  refine logService_stored _ _ _ ?_
  generalize hs : sltRecPut _ _ _ _ _ = s2
  have h2 : Stored x s2.store := by
    rw [← hs]
    refine sltRecPut_stored _ _ _ _ _ ?_
    split
    · exact hk
    · exact bootRecPut_stored _ _ _ _ _ hk
  simpa using h2

@[simp] theorem fwStart_stored {x : Store} (s : State) (k : Nat) (hk : Stored x s.store) : Stored x (fwStart s k).store := by
  unfold fwStart
  dsimp only
  generalize hm : setBytes s.sram 0 _ = m
  have hw : sparseWf zeroByte s.store.sram = true → sparseWf zeroByte m = true := fun h => by rw [← hm]; exact wf_setBytes _ _ _ h
  generalize hs2 : sltRecPut _ _ _ _ _ = s2
  have h2 : Stored x s2.store := by
    rw [← hs2]
    exact sltRecPut_stored _ _ _ _ _ (Stored.put_sram (y := s.store) hk m hw)
  refine logService_stored _ _ _ ?_
  rw [State_modSlt_store]
  split <;> simp [h2]

@[simp] theorem firmwareLoadOp_stored {x : Store} (s : State) (hk : Stored x s.store) : Stored x (firmwareLoadOp s).store := by
  unfold firmwareLoadOp
  dsimp only
  split
  · exact hk
  · generalize hs1 : s.modSlt _ = s1
    have h1 : Stored x s1.store := by rw [← hs1]; simpa using hk
    generalize hs2 : (if s1.slt.certOk = true then s1 else s1.raise0 334 3 (.word 0)) = s2
    have h2 : Stored x s2.store := by rw [← hs2]; split <;> simp [h1]
    generalize hs3 : logService s2 2 (s2.reg Reg.RST_CAUSE) = s3
    have h3 : Stored x s3.store := by rw [← hs3]; simp [h2]
    split
    · exact fwStart_stored _ _ h3
    split
    · split
      · refine logService_stored _ _ _ ?_
        rw [State_drawWord_store]
        exact sltRecPut_stored _ _ _ _ _ (fwStart_stored _ _ h3)
      · exact fwStart_stored _ _ h3
    · exact h3

@[simp] theorem sltWatchdogOp_store (s : State) : (sltWatchdogOp s).store = s.store := by
  simp [sltWatchdogOp]

@[simp] theorem sensorRaise_stored {x : Store} (s : State) (src kind : Nat) (safety : Bool) (d : Word) (hk : Stored x s.store) : Stored x (sensorRaise s src kind safety d).store := by
  simp [sensorRaise, hk]

@[simp] theorem clockFaultOp_stored {x : Store} (s : State) (c : ClockId) (hk : Stored x s.store) : Stored x (clockFaultOp s c).store := by
  simp [clockFaultOp, hk]

@[simp] theorem clockClearedOp_stored {x : Store} (s : State) (c : ClockId) (hk : Stored x s.store) : Stored x (clockClearedOp s c).store := by
  simp [clockClearedOp, hk]

@[simp] theorem clockResetOp_stored {x : Store} (s : State) (c : ClockId) (hk : Stored x s.store) : Stored x (clockResetOp s c).store := by
  unfold clockResetOp; (try dsimp only); split <;> simp [hk]

@[simp] theorem tempReading_stored {x : Store} (s : State) (k : Nat) (r : BitVec 16) (hk : Stored x s.store) : Stored x (tempReading s k r).store := by
  unfold tempReading
  dsimp only
  generalize hs1 : State.modSlt _ _ = s1
  have h1 : Stored x s1.store := by rw [← hs1]; simpa using hk
  split
  · refine sensorRaise_stored _ _ _ _ _ ?_
    split <;> simp [h1]
  · split <;> simp [h1]

@[simp] theorem temperatureSampleOp_stored {x : Store} (s : State) (rs : Vector (BitVec 16) 4) (hk : Stored x s.store) :
    Stored x (temperatureSampleOp s rs).store := Stored.forEach _ _ _ hk fun _ _ h => tempReading_stored _ _ _ h

@[simp] theorem voltReading_stored {x : Store} (s : State) (k : Nat) (r : BitVec 16) (hk : Stored x s.store) : Stored x (voltReading s k r).store := by
  unfold voltReading
  dsimp only
  generalize hs1 : State.modSlt _ _ = s1
  have h1 : Stored x s1.store := by rw [← hs1]; simpa using hk
  split <;> simp [h1]

@[simp] theorem voltageSampleOp_stored {x : Store} (s : State) (rs : Vector (BitVec 16) 6) (hk : Stored x s.store) :
    Stored x (voltageSampleOp s rs).store := Stored.forEach _ _ _ hk fun _ _ h => voltReading_stored _ _ _ h

@[simp] theorem warnRundownOp_store (s : State) : (warnRundownOp s).store = s.store := by
  unfold warnRundownOp; (try dsimp only); split <;> simp

@[simp] theorem lifetimeOp_stored {x : Store} (s : State) (hk : Stored x s.store) : Stored x (lifetimeOp s).store := by
  unfold lifetimeOp
  dsimp only
  split
  · exact hk
  · exact hk.put_keep _ fun h => wf_setMemWord _ _ _ (wf_setBytes _ _ _ h)

@[simp] theorem mbxTimeoutOp_store (s : State) : (mbxTimeoutOp s).store = s.store := by
  unfold mbxTimeoutOp; (try dsimp only); split <;> simp

@[simp] theorem mbxClaimRead_store (s0 : State) (m : Master) : (mbxClaimRead s0 m).2.store = s0.store := by
  unfold mbxClaimRead; dsimp only; (repeat' split) <;> simp_all

@[simp] theorem mbxReleaseOp_store (s : State) (m : Master) : (mbxReleaseOp s m).store = s.store := by
  unfold mbxReleaseOp; (try dsimp only); split <;> simp

@[simp] theorem complete_store (s : State) (st : Nat) (ws : List Word) : (complete s st ws).store = s.store := by
  simp [complete]

@[simp] theorem mbxGoOp_store (s : State) (m : Master) : (mbxGoOp s m).store = s.store := by
  unfold mbxGoOp; (try dsimp only); split <;> simp

theorem serve_stored {x : Store} (s : State) (code : Nat) (f : State → State) (h : ∀ t, Stored x t.store → Stored x (f t).store)
    (hk : Stored x s.store) : Stored x (serve s code f).store := by
  unfold serve
  split
  · exact hk
  split
  · simpa using hk
  split
  · simpa using hk
  · exact h s hk

@[simp] theorem serve_store (s : State) (code : Nat) (f : State → State) (h : ∀ t, (f t).store = t.store) : (serve s code f).store = s.store := by
  unfold serve
  dsimp only
  repeat' split
  all_goals simp [h]

@[simp] theorem mbxCtlWrite_store (s : State) (m : Master) (w : Word) : (mbxCtlWrite s m w).store = s.store := by
  unfold mbxCtlWrite; (try dsimp only); split <;> simp

@[simp] theorem sltWrite_store (s : State) (m : Master) (a : Nat) (w : Word) : (sltWrite s m a w).store = s.store := by
  unfold sltWrite; (try dsimp only); split <;> simp

@[simp] theorem infoOp_store (s : State) : (infoOp s).store = s.store := by
  simp [infoOp]

@[simp] theorem logReadOp_store (s : State) : (logReadOp s).store = s.store := by
  simp [logReadOp]

@[simp] theorem lifeReadOp_store (s : State) : (lifeReadOp s).store = s.store := by
  simp [lifeReadOp]

@[simp] theorem certReadOp_store (s : State) : (certReadOp s).store = s.store := by
  simp [certReadOp]

@[simp] theorem attestOp_store (s : State) : (attestOp s).store = s.store := by
  simp [attestOp]

@[simp] theorem postOp_stored {x : Store} (s : State) (chPass : BitVec 128) (unitPass : BitVec 8) (fail : Word) (hk : Stored x s.store) :
    Stored x (postOp s chPass unitPass fail).store := by
  refine serve_stored _ _ _ (fun t ht => ?_) hk
  dsimp only
  split
  · simpa using ht
  · simp only [State_raise0_store, complete_store]
    refine logService_stored _ _ _ ?_
    generalize hs : forEach _ t _ = s1
    have h1 : Stored x s1.store := by rw [← hs]; simpa using ht
    split <;> simpa using h1

@[simp] theorem rundownCmdOp_store (s : State) : (rundownCmdOp s).store = s.store := by
  simp [rundownCmdOp]

@[simp] theorem resetCmdOp_stored {x : Store} (s : State) (hk : Stored x s.store) : Stored x (resetCmdOp s).store := by
  refine serve_stored _ _ _ (fun t ht => ?_) hk
  split
  · exact coreResetOp_stored _ _ (by simpa using ht)
  · rw [fullResetOp_store]; exact Stored.after (by simpa using ht)
  · simpa using ht

@[simp] theorem updEnd_stored {x : Store} (s : State) (st : Nat) (ws : List Word) (kind : Nat) (hk : Stored x s.store) : Stored x (updEnd s st ws kind).store := by
  simp [updEnd, hk]

@[simp] theorem setVerified_store (s : State) (t : Nat) (b : Bool) : (setVerified s t b).store = s.store := by
  simp [setVerified]

@[simp] theorem updEraseOp_stored {x : Store} (s : State) (ok : Bool) (hk : Stored x s.store) : Stored x (updEraseOp s ok).store := by
  refine serve_stored _ _ _ (fun t ht => ?_) hk
  dsimp only
  split
  · exact updEnd_stored _ _ _ _ ht
  split
  · exact updEnd_stored _ _ _ _ ht
  split
  · simp [ht]
  · refine updEnd_stored _ _ _ _ ?_
    split <;> simp [ht]

@[simp] theorem spoolRun_stored {x : Store} (n : Nat) (s : State) (a : Nat) (acc : List Byte) (hk : Stored x s.store) :
    Stored x (spoolRun n s a acc).2.2.store := by
  induction n generalizing s a acc with
  | zero => exact hk
  | succ n ih =>
    have h := spoolAccessOp_stored s .safelight a 4 none hk
    unfold spoolRun
    split
    rename_i heq
    rw [heq] at h
    split
    · simpa using h
    · exact ih _ _ _ h

@[simp] theorem updWriteOp_stored {x : Store} (s : State) (ok : Bool) (hk : Stored x s.store) : Stored x (updWriteOp s ok).store := by
  refine serve_stored _ _ _ (fun t ht => ?_) hk
  dsimp only
  split
  · exact updEnd_stored _ _ _ _ ht
  split
  · exact updEnd_stored _ _ _ _ ht
  split
  · exact updEnd_stored _ _ _ _ ht
  split
  · simpa using ht
  · generalize hr : spoolRun _ _ _ _ = r
    have h := spoolRun_stored (x := x) ((reqWord t 4).toNat / 4) (setVerified t (reqWord t 1).toNat false) (reqWord t 3).toNat [] (by simpa using ht)
    rw [hr] at h
    obtain ⟨err, bs, s1⟩ := r
    dsimp only at h ⊢
    split
    · exact updEnd_stored _ _ _ _ h
    split
    · refine updEnd_stored _ _ _ _ ?_
      simpa using flashProgram_stored _ _ _ h
    · refine updEnd_stored _ _ _ _ ?_
      split
      · exact flashProgram_stored _ _ _ (by simpa using h)
      · simpa using h

@[simp] theorem updVerifyOp_stored {x : Store} (s : State) (hk : Stored x s.store) : Stored x (updVerifyOp s).store := by
  refine serve_stored _ _ _ (fun t ht => ?_) hk
  dsimp only
  split <;> simp [ht]

@[simp] theorem updArmOp_stored {x : Store} (s : State) (hk : Stored x s.store) : Stored x (updArmOp s).store := by
  refine serve_stored _ _ _ (fun t ht => ?_) hk
  dsimp only
  split <;> simp [ht]

@[simp] theorem updActivateOp_stored {x : Store} (s : State) (hk : Stored x s.store) : Stored x (updActivateOp s).store := by
  refine serve_stored _ _ _ (fun t ht => ?_) hk
  split <;> simp [ht]

@[simp] theorem activateOp_stored {x : Store} (s : State) (hk : Stored x s.store) : Stored x (activateOp s).store := by
  simp [activateOp, hk]

@[simp] theorem keyOwnerOp_stored {x : Store} (s : State) (hk : Stored x s.store) : Stored x (keyOwnerOp s).store := by
  refine serve_stored _ _ _ (fun t ht => ?_) hk
  dsimp only
  split
  · simpa using ht
  · simp only [State_raise0_store, complete_store]
    exact Stored.put_owner (y := t.store) ht _

end Sys2Proof.Machine
end

