-- ==== Sys2Proof/Laws/StoreBus.lean ====
section
/-! SUPPORT. The memories and the queue under register accesses, boot and the passing of a tb. -/

namespace Sys2Proof.Machine

/-! RegRead. -/

@[simp] theorem latch_store (s : State) (m : Master) (a : Nat) : (latch s m a).store = s.store := by
  simp [latch]

theorem engWrite_kept (s : State) (a : Nat) (w : Word) : Kept s (engWrite s a w) := engWrite_stored _ _ _ (.refl _)

@[simp] theorem claimRead_stored {x : Store} (s : State) (m : Master) (a b : Nat) (fast : Bool) (hk : Stored x s.store) : Stored x (claimRead s m a b fast).2.store := by
  unfold claimRead; (try dsimp only); split <;> simp [hk]

theorem plainRead_kept (s : State) (m : Master) (a n : Nat) (c d : Prop) [Decidable c] [Decidable d] (w ret : Word) :
    Kept s (let s1 := latch s m a
      let s2 := if c then phasePop s1 n else s1
      if d then (w, s2) else s2.rcRead a ret w).2 := by
  refine .of_store ?_
  dsimp only
  split
  · dsimp only
    split <;> simp
  · rw [State_rcRead_store]
    split <;> simp

theorem claimRead_kept (s : State) (m : Master) (a b : Nat) (fast : Bool) : Kept s (claimRead s m a b fast).2 := claimRead_stored _ _ _ _ _ (.refl _)

theorem windowRead_kept (s : State) (e off : Nat) : Kept s (windowRead s e off).2 := windowRead_stored _ _ _ (.refl _)

theorem capPair_kept (s : State) (m : Master) (a n : Nat) :
    Kept s (match capRead s n with | (w, x, s1) => (w, s1.putShadow m (a + 4) x)).2 := .of_store (by simp)

theorem regRead_kept (s : State) (m : Master) (a : Nat) (ret : Word) : Kept s (regRead s m a ret).2 := by
  unfold regRead
  refine .ite2 _ (.of_store (by simp)) (.ite2 _ (.refl s) (.ite2 _ (windowRead_kept _ _ _) (.ite2 _ (.refl s)
    (.ite2 _ (.of_store (by simp)) (.ite2 _ (capPair_kept s m a _) (.ite2 _ (.of_store (by simp)) ?_))))))
  cases claimReg a with
  | some p => exact claimRead_kept _ _ _ _ _
  | none => exact plainRead_kept s m a _ _ _ _ _

@[simp] theorem regRead_stored {x : Store} (s : State) (m : Master) (a : Nat) (ret : Word) (hk : Stored x s.store) : Stored x (regRead s m a ret).2.store := (regRead_kept _ _ _ _).stored hk

/-! RegWrite. -/

@[simp] theorem regStore_store (s : State) (a : Nat) (w : Word) : (regStore s a w).store = s.store := by
  simp [regStore]

@[simp] theorem globalWrite_stored {x : Store} (s : State) (m : Master) (a : Nat) (w : Word) (hk : Stored x s.store) : Stored x (globalWrite s m a w).store := by
  simp [globalWrite, hk]

theorem globalWrite_kept (s : State) (m : Master) (a : Nat) (w : Word) : Kept s (globalWrite s m a w) := globalWrite_stored _ _ _ _ (.refl _)

@[simp] theorem spkClrOp_store (s : State) (n : Nat) : (spkClrOp s n).store = s.store := by
  simp [spkClrOp]

@[simp] theorem spkCmdWrite_stored {x : Store} (s : State) (n : Nat) (w : Word) (hk : Stored x s.store) : Stored x (spkCmdWrite s n w).store := by
  simp [spkCmdWrite, hk]

@[simp] theorem spkWrite_stored {x : Store} (s : State) (n o : Nat) (w : Word) (hk : Stored x s.store) : Stored x (spkWrite s n o w).store := by
  simp [spkWrite, hk]

theorem spkWrite_kept (s : State) (n o : Nat) (w : Word) : Kept s (spkWrite s n o w) := spkWrite_stored _ _ _ _ (.refl _)

@[simp] theorem chWrite_store (s : State) (n o : Nat) (w : Word) : (chWrite s n o w).store = s.store := by
  unfold chWrite; (try dsimp only); split <;> simp

@[simp] theorem vcalApply_store (s : State) (k : Nat) : (vcalApply s k).store = s.store := by
  unfold vcalApply; (try dsimp only); split <;> simp

@[simp] theorem vcalCtlWrite_store (s : State) (w : Word) : (vcalCtlWrite s w).store = s.store := by
  unfold vcalCtlWrite; (try dsimp only); split <;> simp

@[simp] theorem tioCfgWrite_store (s : State) (n : Nat) (w : Word) : (tioCfgWrite s n w).store = s.store := by
  simp [tioCfgWrite]

@[simp] theorem tioWrite_store (s : State) (a : Nat) (w : Word) : (tioWrite s a w).store = s.store := by
  unfold tioWrite; (try dsimp only); split <;> simp

@[simp] theorem exgSharedWrite_store (s : State) (a : Nat) (w : Word) : (exgSharedWrite s a w).store = s.store := by
  unfold exgSharedWrite; (try dsimp only); split <;> simp

@[simp] theorem calBankWrite_store (s : State) (m : Master) (a : Nat) (w : Word) : (calBankWrite s m a w).store = s.store := by
  unfold calBankWrite; (try dsimp only); split <;> simp

@[simp] theorem calClrOp_store (s : State) : (calClrOp s).store = s.store := by
  simp [calClrOp]

@[simp] theorem calFlushWrite_store (s : State) (w : Word) : (calFlushWrite s w).store = s.store := by
  unfold calFlushWrite; (try dsimp only); split <;> simp

@[simp] theorem calWrite_store (s : State) (m : Master) (a : Nat) (w : Word) : (calWrite s m a w).store = s.store := by
  unfold calWrite; (try dsimp only); split <;> simp

@[simp] theorem bootWrite_store (s : State) (a : Nat) (w : Word) : (bootWrite s a w).store = s.store := by
  unfold bootWrite; (try dsimp only); split <;> simp

theorem blockWrite_kept (s : State) (m : Master) (a : Nat) (w : Word) : Kept s (blockWrite s m a w) := by
  unfold blockWrite
  refine .ite _ (globalWrite_kept _ _ _ _) ?_
  refine .ite _ (spkWrite_kept _ _ _ _) ?_
  refine .ite _ (.of_store (by simp)) ?_
  refine .ite _ (.of_store (by simp)) ?_
  refine .ite _ (.of_store (by simp)) ?_
  refine .ite _ (.of_store (by simp)) ?_
  refine .ite _ (.of_store (by simp)) ?_
  refine .ite _ (engWrite_kept _ _ _) ?_
  refine .ite _ (.of_store (by simp)) ?_
  refine .ite _ (.of_store (by simp)) ?_
  refine .ite _ (.of_store (by simp)) ?_
  refine .ite _ (.of_store (by simp)) ?_
  refine .ite _ (.of_store (by simp)) ?_
  refine .ite _ (.of_store (by simp)) ?_
  refine .ite _ (.of_store (by simp)) ?_
  refine .ite _ (.of_store (by simp)) ?_
  refine .ite _ (.of_store (by simp)) ?_
  refine .ite _ (.of_store (by simp)) ?_
  exact .refl s

@[simp] theorem blockWrite_stored {x : Store} (s : State) (m : Master) (a : Nat) (w : Word) (hk : Stored x s.store) : Stored x (blockWrite s m a w).store := (blockWrite_kept _ _ _ _).stored hk

@[simp] theorem regDeny_store (s : State) (m : Master) (a : Nat) (w : Word) : (regDeny s m a w).store = s.store := by
  simp [regDeny]

theorem regLand_kept (s : State) (m : Master) (sel : Option (Fin 4)) (a : Nat) (w : Word) : Kept s (regLand s m sel a w) := by
  unfold regLand
  dsimp only
  generalize regDesc a = d
  generalize rwsFor m a = r
  split
  · exact .of_store (by simp)
  · exact .ite _ (.of_store (by simp)) (.ite _ (.refl s) (blockWrite_kept _ _ _ _))

@[simp] theorem regLand_stored {x : Store} (s : State) (m : Master) (sel : Option (Fin 4)) (a : Nat) (w : Word) (hk : Stored x s.store) : Stored x (regLand s m sel a w).store := (regLand_kept _ _ _ _ _).stored hk

theorem regWrite_kept (s : State) (m : Master) (sel : Option (Fin 4)) (a : Nat) (w : Word) : Kept s (regWrite s m sel a w) := by
  unfold regWrite
  split
  · exact .refl s
  split
  · exact ⟨rfl, fun c => ⟨c.mem, c.ecc, wf_setMemWord _ _ _ c.keep, c.flash, c.sram, c.eng⟩⟩
  split
  · exact engWrite_kept _ _ _
  · exact Kept.trans (.of_store (regDeny_store _ _ _ _)) (regLand_kept _ _ _ _ _)

@[simp] theorem regWrite_stored {x : Store} (s : State) (m : Master) (sel : Option (Fin 4)) (a : Nat) (w : Word) (hk : Stored x s.store) : Stored x (regWrite s m sel a w).store := (regWrite_kept _ _ _ _ _).stored hk

theorem regCross_kept (s : State) (m : Master) (sel : Option (Fin 4)) (a : Nat) (w : Word) : Kept s (regCross s m sel a w) := by
  unfold regCross
  split
  · exact Kept.trans (.of_store (regDeny_store s m a w)) (.of_store rfl)
  · exact regWrite_kept _ _ _ _ _

@[simp] theorem regCross_stored {x : Store} (s : State) (m : Master) (sel : Option (Fin 4)) (a : Nat) (w : Word) (hk : Stored x s.store) : Stored x (regCross s m sel a w).store := (regCross_kept _ _ _ _ _).stored hk

/-! Bus. -/

theorem busRead_kept (s : State) (m : Master) (a : Nat) (sz : Size) : Kept s (busRead s m a sz).2.2 := by
  unfold busRead
  dsimp only
  split
  · have h := spoolAccessOp_kept s m a (sizeBytes sz) none
    generalize spoolAccessOp s m a (sizeBytes sz) none = r at h
    obtain ⟨w, e, t⟩ := r
    cases e
    · exact h
    · exact h.then_store (by simp)
  split
  · exact .refl s
  split
  · exact .of_store (by simp)
  · exact regRead_kept _ _ _ _

@[simp] theorem busRead_stored {x : Store} (s : State) (m : Master) (a : Nat) (sz : Size) (hk : Stored x s.store) : Stored x (busRead s m a sz).2.2.store := (busRead_kept _ _ _ _).stored hk

theorem busWrite_kept (s : State) (m : Master) (sel : Option (Fin 4)) (a : Nat) (sz : Size) (w : Word) :
    Kept s (busWrite s m sel a sz w).2 := by
  unfold busWrite
  dsimp only
  split
  · have h := spoolAccessOp_kept s m a (sizeBytes sz) (some w)
    generalize spoolAccessOp s m a (sizeBytes sz) (some w) = r at h
    obtain ⟨w, e, t⟩ := r
    cases e
    · exact h
    · exact h.then_store (by simp)
  split
  · exact .refl s
  split
  · exact .of_store (by simp)
  split
  · exact regCross_kept _ _ _ _ _
  · exact .of_store (by simp)

@[simp] theorem busWrite_stored {x : Store} (s : State) (m : Master) (sel : Option (Fin 4)) (a : Nat) (sz : Size) (w : Word) (hk : Stored x s.store) : Stored x (busWrite s m sel a sz w).2.store := (busWrite_kept _ _ _ _ _ _).stored hk

@[simp] theorem answered_store (st : BusStatus) (d : Word) (s : State) : (answered st d s).store = s.store := by
  simp [answered]

theorem readOp_kept (s : State) (m : Master) (a : Nat) (sz : Size) : Kept s (readOp s m a sz) := by
  unfold readOp
  split
  · exact .refl s
  · exact (busRead_kept s m a sz).then_store (by simp)

@[simp] theorem readOp_stored {x : Store} (s : State) (m : Master) (a : Nat) (sz : Size) (hk : Stored x s.store) : Stored x (readOp s m a sz).store := (readOp_kept _ _ _ _).stored hk

theorem writeOp_kept (s : State) (m : Master) (a : Nat) (sz : Size) (w : Word) : Kept s (writeOp s m a sz w) := by
  unfold writeOp
  split
  · exact .refl s
  · exact (busWrite_kept s m (fixSelOf s m) a sz w).then_store (by simp)

@[simp] theorem writeOp_stored {x : Store} (s : State) (m : Master) (a : Nat) (sz : Size) (w : Word) (hk : Stored x s.store) : Stored x (writeOp s m a sz w).store := (writeOp_kept _ _ _ _ _).stored hk

theorem writeReg_kept (s : State) (m : Master) (a : Nat) (w : Word) : Kept s (writeReg s m a w) := by
  unfold writeReg
  split
  · exact .refl s
  · exact (regWrite_kept _ _ _ _ _).then_store (answered_store _ _ _)

@[simp] theorem writeReg_stored {x : Store} (s : State) (m : Master) (a : Nat) (w : Word) (hk : Stored x s.store) : Stored x (writeReg s m a w).store := (writeReg_kept _ _ _ _).stored hk

@[simp] theorem readReg_stored {x : Store} (s : State) (m : Master) (a : Nat) (hk : Stored x s.store) : Stored x (readReg s m a).store := by
  simp [readReg, hk]

theorem spoolOp_kept (s : State) (m : Master) (a : Nat) (sz : Size) (wr : Option Word) : Kept s (spoolOp s m a sz wr) := by
  unfold spoolOp
  split
  · exact .refl s
  split
  · split
    · exact readOp_kept _ _ _ _
    · exact writeOp_kept _ _ _ _ _
  · exact (spoolAccessOp_kept s m a (sizeBytes sz) wr).then_store (by simp)

@[simp] theorem spoolOp_stored {x : Store} (s : State) (m : Master) (a : Nat) (sz : Size) (wr : Option Word) (hk : Stored x s.store) : Stored x (spoolOp s m a sz wr).store := (spoolOp_kept _ _ _ _ _).stored hk

@[simp] theorem hostBegin_store (s : State) (chg : Bool) : (hostBegin s chg).2.store = s.store := by
  unfold hostBegin; (try dsimp only); split <;> simp

theorem hostBegin_kept (s : State) (chg : Bool) : Kept s (hostBegin s chg).2 := .of_store (by simp)

@[simp] theorem hostBegin_stored {x : Store} (s : State) (chg : Bool) (hk : Stored x s.store) : Stored x (hostBegin s chg).2.store := (hostBegin_kept _ _).stored hk

@[simp] theorem driveByte_store (b : Byte) (s : State) : (driveByte b s).store = s.store := by
  simp [driveByte]

theorem qspiOp_kept (s : State) (a : Nat) (sz : Size) (wr : Option Word) (chg abort : Bool) : Kept s (qspiOp s a sz wr chg abort) := by
  unfold qspiOp
  split
  · exact .refl s
  · dsimp only
    have h0 := hostBegin_kept s chg
    have h1 : Kept s (match wr with
      | none => readOp (hostBegin s chg).2 (.host (hostBegin s chg).1) a sz
      | some w => writeOp (hostBegin s chg).2 (.host (hostBegin s chg).1) a sz w) := by
      split
      · exact h0.trans (readOp_kept _ _ _ _)
      · exact h0.trans (writeOp_kept _ _ _ _ _)
    split
    · exact h1.then_store (hpEvent_store _ _)
    · exact h1

@[simp] theorem qspiOp_stored {x : Store} (s : State) (a : Nat) (sz : Size) (wr : Option Word) (chg abort : Bool) (hk : Stored x s.store) : Stored x (qspiOp s a sz wr chg abort).store := (qspiOp_kept _ _ _ _ _ _).stored hk

@[simp] theorem protoOp_store (s : State) : (protoOp s).store = s.store := by
  unfold protoOp; (try dsimp only); split <;> simp

theorem halfAloneOp_kept (s : State) : Kept s (halfAloneOp s) := by
  unfold halfAloneOp
  split
  · exact .refl s
  · refine Kept.then_store (t := writeOp _ _ _ _ _) ?_ (hpEvent_store _ _)
    exact Kept.trans (.of_store rfl) (writeOp_kept _ _ _ _ _)

@[simp] theorem halfAloneOp_stored {x : Store} (s : State) (hk : Stored x s.store) : Stored x (halfAloneOp s).store := (halfAloneOp_kept _).stored hk

@[simp] theorem halfAloneDue_stored {x : Store} (s : State) (hk : Stored x s.store) : Stored x (halfAloneDue s).store := by
  simp [halfAloneDue, hk]

theorem parWriteOp_kept (s : State) (a0 : Nat) (be0 be1 : Bool) (d : BitVec 16) (chg : Bool) : Kept s (parWriteOp s a0 be0 be1 d chg) := by
  unfold parWriteOp
  split
  · exact .refl s
  · dsimp only
    have h0 : Kept s (hostBegin { s with host := { s.host with kept := none } } chg).2 :=
      Kept.trans (.of_store rfl) (hostBegin_kept _ _)
    split
    · split
      · exact (h0.then_store rfl).trans (writeOp_kept _ _ _ _ _)
      · exact (h0.trans (halfAloneOp_kept _)).trans (writeOp_kept _ _ _ _ _)
    · have h1 := h0.trans (halfAloneOp_kept _)
      split
      · split
        · exact h1.then_store rfl
        · exact h1.trans (writeOp_kept _ _ _ _ _)
      · split
        · exact h1.trans (writeOp_kept _ _ _ _ _)
        · split
          · exact h1.trans (writeOp_kept _ _ _ _ _)
          · exact h1

@[simp] theorem parWriteOp_stored {x : Store} (s : State) (a0 : Nat) (be0 be1 : Bool) (d : BitVec 16) (chg : Bool) (hk : Stored x s.store) : Stored x (parWriteOp s a0 be0 be1 d chg).store := (parWriteOp_kept _ _ _ _ _ _).stored hk

@[simp] theorem highLane_store (s : State) : (highLane s).store = s.store := by
  simp [highLane]

theorem parReadOp_kept (s : State) (a0 : Nat) (be0 be1 chg : Bool) : Kept s (parReadOp s a0 be0 be1 chg) := by
  unfold parReadOp
  split
  · exact .refl s
  · dsimp only
    have h0 := (hostBegin_kept s chg).trans (halfAloneOp_kept _)
    have h2 : Kept s { halfAloneOp (hostBegin s chg).2 with host := { (halfAloneOp (hostBegin s chg).2).host with kept := none } } :=
      h0.then_store rfl
    split
    · split
      · exact (h2.trans (readOp_kept _ _ _ _)).then_store rfl
      · split
        · split
          · exact h2.then_store rfl
          · exact h2.trans (readOp_kept _ _ _ _)
        · exact h2.trans (readOp_kept _ _ _ _)
    · split
      · exact h2.trans (readOp_kept _ _ _ _)
      · split
        · exact (h2.trans (readOp_kept _ _ _ _)).then_store (highLane_store _)
        · exact h2

@[simp] theorem parReadOp_stored {x : Store} (s : State) (a0 : Nat) (be0 be1 chg : Bool) (hk : Stored x s.store) : Stored x (parReadOp s a0 be0 be1 chg).store := (parReadOp_kept _ _ _ _ _).stored hk

@[simp] theorem accFault_store (s : State) (t : Fin 64) (c : FabAcc) : (accFault s t c).store = s.store := by
  unfold accFault; (try dsimp only); split <;> simp

theorem accStore_kept (s : State) (t : Fin 64) (c : FabAcc) : Kept s (accStore s t c) := by
  have h := busWrite_kept s (.engine t) (if c.fs then some c.fk else none) c.addr.toNat c.size c.data
  unfold accStore
  dsimp only
  split
  · rename_i heq; rw [heq] at h; exact h.then_store (accFault_store _ _ _)
  · rename_i heq; rw [heq] at h; exact h

@[simp] theorem accStore_stored {x : Store} (s : State) (t : Fin 64) (c : FabAcc) (hk : Stored x s.store) : Stored x (accStore s t c).store := (accStore_kept _ _ _).stored hk

theorem accLoad_kept (s : State) (t : Fin 64) (c : FabAcc) : Kept s (accLoad s t c) := by
  have h := busRead_kept s (.engine t) c.addr.toNat c.size
  unfold accLoad
  split
  · rename_i heq; rw [heq] at h; exact h.then_store (accFault_store _ _ _)
  · rename_i heq; rw [heq] at h; exact h.then_store (by simp)

@[simp] theorem accLoad_stored {x : Store} (s : State) (t : Fin 64) (c : FabAcc) (hk : Stored x s.store) : Stored x (accLoad s t c).store := (accLoad_kept _ _ _).stored hk

@[simp] theorem accCap_store (s : State) (t : Fin 64) (c : FabAcc) : (accCap s t c).store = s.store := by
  simp [accCap]

theorem accPerform_kept (s : State) (t : Fin 64) (c : FabAcc) : Kept s (accPerform s t c) := by
  unfold accPerform
  split
  · exact accLoad_kept _ _ _
  · exact accStore_kept _ _ _
  · exact .of_store (by simp)
  · exact .of_store (by simp)

@[simp] theorem accPerform_stored {x : Store} (s : State) (t : Fin 64) (c : FabAcc) (hk : Stored x s.store) : Stored x (accPerform s t c).store := (accPerform_kept _ _ _).stored hk

theorem fabricOp_kept (s : State) (t : Fin 64) : Kept s (fabricOp s t) := by
  unfold fabricOp
  split
  · exact .refl s
  · rename_i c r _
    refine Kept.trans ?_ (retryStalls_stored _ _ (.refl _))
    refine Kept.then_store ?_ (stepDone_store _ _)
    exact Kept.trans (.of_store (modThr_store _ _ _)) (accPerform_kept _ _ _)

@[simp] theorem fabricOp_stored {x : Store} (s : State) (t : Fin 64) (hk : Stored x s.store) : Stored x (fabricOp s t).store := (fabricOp_kept _ _).stored hk

/-! Boot. -/

theorem canonFlash_wf (bs : List (Nat × Byte)) : sparseWf erasedByte (canonFlash bs) = true := by
  unfold canonFlash Machine.forEach
  have h (bs : List (Nat × Byte)) : ∀ m, sparseWf erasedByte m = true →
      sparseWf erasedByte (bs.foldl (fun m p => sparseWrite erasedByte m p.1 p.2) m) = true := by
    induction bs with
    | nil => intro m h; exact h
    | cons p r ih => intro m h; exact ih _ (sparseWf_write _ _ _ _ h)
  exact h bs [] rfl

theorem discover_kept (s : State) (chip : Option FlashChip) : Kept s (discover s chip) := by
  cases chip with
  | none =>
    unfold discover
    dsimp only
    refine Kept.then_store ?_ (State_setReg_store _ _ _)
    exact Stored.put_flash (y := s.store) (.refl _) _ fun h => h
  | some c =>
    unfold discover
    dsimp only
    refine Kept.then_store ?_ (State_setReg_store _ _ _)
    exact Stored.put_flash (y := s.store) (.refl _) _ fun _ => canonFlash_wf c.bytes

@[simp] theorem discover_stored {x : Store} (s : State) (chip : Option FlashChip) (hk : Stored x s.store) : Stored x (discover s chip).store := (discover_kept _ _).stored hk

@[simp] theorem setFail_store (s : State) (slot code : Nat) : (setFail s slot code).store = s.store := by
  unfold setFail; (try dsimp only); split <;> simp

theorem EngWf.cleared (v : Vector Eng 16) (f : Eng → Eng) (h : ∀ e, (f e).mems.wf) : EngWf ((v.map f).map Eng.mems) := by
  intro g hg
  rw [Vector.map_map] at hg
  obtain ⟨e, _, rfl⟩ := Vector.mem_map.1 (Vector.mem_toList_iff.1 hg)
  exact h e

theorem bootClean_kept (s : State) : Kept s (bootClean s) := by
  unfold bootClean
  dsimp only
  generalize h : forEach (List.range 8) s _ = s1
  have k : Kept s s1 := by
    rw [← h]
    refine Kept.forEach _ _ _ fun t x => ?_
    exact spoolInit_stored _ _ (by simp)
  refine k.trans (otpLoad_stored _ ?_)
  exact Stored.put_eng (y := s1.store) (.refl _) _ fun _ => EngWf.cleared _ _ fun _ => ⟨rfl, rfl, rfl, rfl⟩

@[simp] theorem bootClean_stored {x : Store} (s : State) (hk : Stored x s.store) : Stored x (bootClean s).store := (bootClean_kept _).stored hk

@[simp] theorem countBoot_stored {x : Store} (s : State) (hk : Stored x s.store) : Stored x (countBoot s).store := by
  simp [countBoot, hk]

theorem countBoot_kept (s : State) : Kept s (countBoot s) := countBoot_stored _ (.refl _)

@[simp] theorem bootSwitch_stored {x : Store} (s : State) (hk : Stored x s.store) : Stored x (bootSwitch s).store := by
  simp [bootSwitch, hk]

theorem bootSwitch_kept (s : State) : Kept s (bootSwitch s) := bootSwitch_stored _ (.refl _)

@[simp] theorem bootCc_store (s : State) : (bootCc s).store = s.store := by
  simp [bootCc]

@[simp] theorem loadSection_stored {x : Store} (s : State) (c : Section) (hk : Stored x s.store) : Stored x (loadSection s c).store := by
  simp [loadSection, hk]

theorem loadSection_kept (s : State) (c : Section) : Kept s (loadSection s c) := loadSection_stored _ _ (.refl _)

@[simp] theorem bootWrite4_stored {x : Store} (s : State) (a : Nat) (w : Word) (hk : Stored x s.store) : Stored x (bootWrite4 s a w).store := by
  simp [bootWrite4, hk]

theorem bootWrite4_kept (s : State) (a : Nat) (w : Word) : Kept s (bootWrite4 s a w) := bootWrite4_stored _ _ _ (.refl _)

@[simp] theorem applyRecord_stored {x : Store} (s0 : State) (r : Nat × Word × Word) (hk : Stored x s0.store) : Stored x (applyRecord s0 r).store := by
  simp [applyRecord, hk]

@[simp] theorem headerLoad_store (s : State) (base len : Nat) : (headerLoad s base len).store = s.store := by
  simp [headerLoad]

theorem applyRecord_kept (s : State) (r : Nat × Word × Word) : Kept s (applyRecord s r) := applyRecord_stored _ _ (.refl _)

theorem loadImage_kept (s : State) (slot : Nat) (cs : List Section) : Kept s (loadImage s slot cs) := by
  unfold loadImage
  dsimp only
  refine Kept.then_store ?_ (startSwThr_store _ _)
  refine Kept.trans ?_ (Kept.forEach _ _ _ applyRecord_kept)
  refine Kept.trans ?_ (Kept.forEach _ _ _ applyRecord_kept)
  refine Kept.then_store (t := headerLoad _ _ _) ?_ rfl
  exact (Kept.forEach _ _ _ loadSection_kept).then_store (headerLoad_store _ _ _)

@[simp] theorem loadImage_stored {x : Store} (s : State) (slot : Nat) (cs : List Section) (hk : Stored x s.store) : Stored x (loadImage s slot cs).store := (loadImage_kept _ _ _).stored hk

@[simp] theorem fellBack_stored {x : Store} (s : State) (slot : Nat) (hk : Stored x s.store) : Stored x (fellBack s slot).store := by
  simp [fellBack, hk]

theorem fellBack_kept (s : State) (slot : Nat) : Kept s (fellBack s slot) := fellBack_stored _ _ (.refl _)

@[simp] theorem factoryImage_store (s : State) : (factoryImage s).store = s.store := by
  simp [factoryImage]



theorem otpLoad_kept (s : State) : Kept s (otpLoad s) := otpLoad_stored _ (.refl _)

theorem bootOp_kept (s0 : State) (chip : Option FlashChip) : Kept s0 (bootOp s0 chip) := by
  unfold bootOp
  split
  · exact .refl s0
  · dsimp only
    have h0 : Kept s0 (forEach (List.range 8) (forEach (List.range 8) s0 testAbort) spoolInitOp) :=
      (Kept.of_store (forEach_store _ _ _ fun t n => testAbort_store t n)).trans (Kept.forEach _ _ _ spoolInitOp_kept)
    generalize forEach (List.range 8) (forEach (List.range 8) s0 testAbort) spoolInitOp = s at h0 ⊢
    split
    · exact h0
    have h1 : Kept s (bootSwitch (discover (otpLoad s) chip)) :=
      (otpLoad_kept s).trans ((discover_kept _ _).trans (bootSwitch_kept _))
    have h2 := h0.trans (h1.trans (countBoot_kept _))
    generalize countBoot (bootSwitch (discover (otpLoad s) chip)) = s2 at h2 ⊢
    split
    · exact h2.trans (loadImage_kept _ _ _)
    · rename_i c _ _ _
      have h3 := h2.trans (Kept.trans (.of_store (setFail_store _ (prefSlot s2) c)) (bootClean_kept _))
      split
      · exact (h3.trans (loadImage_kept _ _ _)).trans (fellBack_kept _ _)
      · exact (h3.trans (Kept.trans (.of_store (setFail_store _ _ _)) (bootClean_kept _))).then_store (factoryImage_store _)

@[simp] theorem bootOp_stored {x : Store} (s0 : State) (chip : Option FlashChip) (hk : Stored x s0.store) : Stored x (bootOp s0 chip).store :=
  (bootOp_kept _ _).stored hk

@[simp] theorem exitRequest_store (s : State) : (exitRequest s).store = s.store := by
  unfold exitRequest; (try dsimp only); split <;> simp

@[simp] theorem exitGate_store (s : State) : (exitGate s).store = s.store := by
  unfold exitGate; (try dsimp only); split <;> simp

@[simp] theorem bootDoneOp_stored {x : Store} (s : State) (hk : Stored x s.store) : Stored x (bootDoneOp s).store := by
  simp [bootDoneOp, hk]

@[simp] theorem gatePoll_store (s : State) : (gatePoll s).store = s.store := by
  unfold gatePoll; (try dsimp only); split <;> simp

@[simp] theorem startGateOp_store (s : State) : (startGateOp s).store = s.store := by
  unfold startGateOp; dsimp only; (repeat' split) <;> simp_all

@[simp] theorem exitRetryOp_store (s : State) : (exitRetryOp s).store = s.store := by
  unfold exitRetryOp; (try dsimp only); split <;> simp

/-! Column. -/

@[simp] theorem modConv_store (s : State) (cv : CtConv) (f : CtConv → CtConv) : (modConv s cv f).store = s.store := by
  simp [modConv]

@[simp] theorem planeOwn_store (s : State) : (planeOwn s).store = s.store := by
  simp [planeOwn]

theorem bankAccess_kept (s : State) (m : Master) (cls : List Nat) (a rep : Nat) (wr : Option (Nat × List Byte)) : Kept s (bankAccess s m cls a rep wr).2 :=
  bankAccess_stored _ _ _ _ _ _ (.refl _)

theorem fetchWord_kept (s : State) (cv : CtConv) (i : Nat) : Kept s (fetchWord s cv i) := by
  unfold fetchWord
  dsimp only
  generalize hr : bankAccess _ _ _ _ _ _ = r
  have h : Kept s r.2 := by rw [← hr]; exact bankAccess_kept _ _ _ _ _ _
  obtain ⟨res, s1⟩ := r
  dsimp only at h ⊢
  split <;> (rename_i heq; cases heq)
  · exact h.then_store (by simp)
  · exact h.then_store (by simp)
  · exact h.then_store (by simp)
  · refine h.then_store ?_
    split <;> simp

@[simp] theorem playWord_store (s : State) (cv : CtConv) (i : Nat) : (playWord s cv i).store = s.store := by
  unfold playWord
  dsimp only
  split
  · refine forEach_store _ _ _ fun t r => ?_
    (repeat' split) <;> simp
  · simp

@[simp] theorem columnPlay_store (s : State) (cv : CtConv) : (columnPlay s cv).store = s.store := by
  simp [columnPlay]

/-! Spill. -/

@[simp] theorem spillLost_store (s : State) : (spillLost s).store = s.store := by
  simp [spillLost]

theorem spillAccess_kept (s : State) (a : Nat) (wr : Option (Nat × List Byte)) : Kept s (spillAccess s a wr) := by
  unfold spillAccess
  generalize hr : bankAccess _ _ _ _ _ _ = r
  have h : Kept s r.2 := by rw [← hr]; exact bankAccess_kept _ _ _ _ _ _
  obtain ⟨res, s1⟩ := r
  dsimp only at h ⊢
  split <;> (rename_i heq; cases heq; exact h.then_store (by simp))

theorem spillWrite_kept (s : State) (a : Nat) : Kept s (spillWrite s a) := (Kept.of_store (State_drawWord_store s)).trans (spillAccess_kept _ _ _)

@[simp] theorem spillBegin_store (s : State) (put : Bool) (place : Nat) : (spillBegin s put place).store = s.store := by
  simp [spillBegin]

/-! Fabric. -/

@[simp] theorem grantAt_store (s : State) (q : FabReq) (p : Nat) : (grantAt s q p).store = s.store := by
  simp [grantAt]

@[simp] theorem noteAsked_store (s : State) (q : FabReq) (p : Nat) : (noteAsked s q p).store = s.store := by
  simp [noteAsked]

@[simp] theorem noteHost_store (s : State) (p : Nat) : (noteHost s p).store = s.store := by
  simp [noteHost]

@[simp] theorem noteWait_store (s : State) (q : FabReq) : (noteWait s q).store = s.store := by
  refine forEach_store _ _ _ fun t p => ?_
  dsimp only
  (repeat' split) <;> simp

@[simp] theorem waitOver_store (s : State) (q : FabReq) : (waitOver s q).store = s.store := by
  simp [waitOver]

@[simp] theorem taken_store (s : State) (q : FabReq) : (taken s q).2.store = s.store := by
  unfold taken
  split
  · exact noteWait_store _ _
  split
  · dsimp only
    rw [forEach_store _ _ _ fun t p => grantAt_store t q p, waitOver_store]
  · exact forEach_store _ _ _ fun t n => testAbort_store t n

@[simp] theorem heldOff_store (s : State) : (heldOff s).store = s.store := rfl

theorem heldOff_kept (s : State) : Kept s (heldOff s) := .of_store rfl

@[simp] theorem qspiHeld_store (s : State) : (qspiHeld s).store = s.store := rfl

theorem qspiHeld_kept (s : State) : Kept s (qspiHeld s) := .of_store rfl

theorem takeSecond_kept (x : Span) (s : State) (lost f : State → State) (hl : ∀ t, Kept t (lost t)) (hf : ∀ t, Kept t (f t)) :
    Kept s (takeSecond x s lost f) := by
  unfold takeSecond
  split
  · exact hf s
  · rename_i q _
    have h : Kept s (taken s q).2 := .of_store (taken_store s q)
    split <;> (rename_i heq; rw [heq] at h)
    · exact h.trans (hf _)
    · exact h.trans (hl _)

theorem takeFirst_kept (x : Span) (s : State) (lost f : State → State) (hl : ∀ t, Kept t (lost t)) (hf : ∀ t, Kept t (f t)) :
    Kept s (takeFirst x s lost f) := by
  have h : Kept s (spoolFirst s x.m x.a x.w x.wr).2.2 := spoolFirst_stored _ _ _ _ _ (.refl _)
  unfold takeFirst
  split
  · exact hf s
  · rename_i heq
    rw [heq] at h
    exact (h.then_store (putPart_store _ _ _ _ _)).trans (takeSecond_kept _ _ _ _ hl hf)

/-- An access that is arbitrated keeps what the access keeps, where being held does. -/
theorem arbitrate_kept (q : Option FabReq) (s : State) (lost f : State → State) (hl : ∀ t, Kept t (lost t)) (hf : ∀ t, Kept t (f t)) :
    Kept s (arbitrate q s lost f) := by
  unfold arbitrate
  split
  · exact hf s
  · rename_i q
    have h : Kept s (taken s q).2 := .of_store (taken_store s q)
    split <;> (rename_i heq; rw [heq] at h)
    · exact h.trans (hl _)
    · split
      · exact h.trans (hf _)
      · exact h.trans (takeFirst_kept _ _ _ _ hl hf)

theorem takeWords_kept (m : Master) (as : List Nat) (s : State) (more : State → Bool) (f : State → Nat → State) (hf : ∀ t a, Kept t (f t a)) :
    Kept s (takeWords m as s more f) := by
  refine Kept.forEach _ _ _ fun t a => ?_
  split
  · exact arbitrate_kept _ _ _ _ (fun t => .refl t) fun t => hf t a
  · exact .refl t

theorem columnFetchOp_kept (s : State) : Kept s (columnFetchOp s) := by
  unfold columnFetchOp
  split
  · exact .refl s
  · rename_i cv _
    dsimp only
    generalize hs : forEach _ s _ = s1
    have h : Kept s s1 := by
      rw [← hs]
      refine Kept.forEach _ _ _ fun t i => ?_
      split
      · exact .refl t
      · exact arbitrate_kept _ _ _ _ (fun t => .refl t) fun t => fetchWord_kept t cv i
    split
    · split
      · exact h.then_store (columnPlay_store _ _)
      · exact h
    · exact h

@[simp] theorem columnFetchOp_stored {x : Store} (s : State) (hk : Stored x s.store) : Stored x (columnFetchOp s).store := (columnFetchOp_kept s).stored hk

theorem recordPut_kept (s : State) (w : RecWrite) (i : Nat) : Kept s (recordPut s w i) := recordPut_stored _ _ _ (.refl _)

theorem recordWriteOp_kept (s : State) : Kept s (recordWriteOp s) := by
  unfold recordWriteOp
  split
  · exact .refl s
  · rename_i w rest _
    dsimp only
    generalize hs : forEach _ s _ = s1
    have h : Kept s s1 := by
      rw [← hs]
      refine Kept.forEach _ _ _ fun t i => ?_
      split
      · exact arbitrate_kept _ _ _ _ (fun t => .refl t) fun t => recordPut_kept t w i
      · exact .refl t
    split
    · split
      · exact h.then_store (recordEnd_store _ _)
      · exact h
    · exact h

@[simp] theorem recordWriteOp_stored {x : Store} (s : State) (hk : Stored x s.store) : Stored x (recordWriteOp s).store := (recordWriteOp_kept s).stored hk

theorem cpyReadOp_kept (s : State) (k : Fin 8) : Kept s (cpyReadOp s k) := cpyReadOp_stored _ _ (.refl _)

theorem cpyWriteOp_kept (s : State) (k : Fin 8) (w : Word) : Kept s (cpyWriteOp s k w) := cpyWriteOp_stored _ _ _ (.refl _)

theorem cpyWordOp_kept (s : State) (k : Unit3) : Kept s (cpyWordOp s k) := by
  have put (t : State) : Kept t (match cpyWord t k.val with
      | some w => if !cpyMoves t k.val || cpyWaits t k.val then t else arbitrate (copyReq t k) t id fun t => cpyWriteOp t k w
      | none => t) := by
    split
    · split
      · exact .refl t
      · exact arbitrate_kept _ _ _ _ (fun t => .refl t) fun t => cpyWriteOp_kept t k _
    · exact .refl t
  unfold cpyWordOp
  dsimp only
  split
  · exact .refl s
  split
  · split
    · exact arbitrate_kept _ _ _ _ (fun t => .refl t) fun t => cpyWriteOp_kept t k _
    · exact .refl s
  · exact (arbitrate_kept _ _ _ _ (fun t => .refl t) fun t => cpyReadOp_kept t k).trans (put _)

@[simp] theorem cpyWordOp_stored {x : Store} (s : State) (k : Unit3) (hk : Stored x s.store) : Stored x (cpyWordOp s k).store := (cpyWordOp_kept s k).stored hk

theorem spillPut_kept (s : State) (q : CalReq) : Kept s (spillPut s q) := by
  unfold spillPut
  dsimp only
  generalize hs : takeWords _ _ _ _ _ = s1
  have h : Kept s s1 := by
    rw [← hs]
    exact (Kept.of_store (spillBegin_store _ _ _)).trans (takeWords_kept _ _ _ _ _ spillWrite_kept)
  split
  · exact h.then_store (by simp)
  split
  · exact h.then_store (by simp)
  · exact h

@[simp] theorem spillPut_stored {x : Store} (s : State) (q : CalReq) (hk : Stored x s.store) : Stored x (spillPut s q).store := (spillPut_kept s q).stored hk

theorem spillMoveOp_kept (s0 : State) : Kept s0 (spillMoveOp s0) := by
  have h0 : Kept s0 (spillFull (spillExpire s0)) := .of_store (by simp)
  unfold spillMoveOp
  dsimp only
  split
  · exact h0
  · generalize hs : takeWords _ _ _ _ _ = s1
    have h : Kept s0 s1 := by
      rw [← hs]
      exact (h0.then_store (spillBegin_store _ _ _)).trans (takeWords_kept _ _ _ _ _ fun t a => spillAccess_kept t a none)
    split
    · exact h.then_store (by simp)
    split
    · exact h.then_store (by simp)
    · exact h

@[simp] theorem spillMoveOp_stored {x : Store} (s0 : State) (hk : Stored x s0.store) : Stored x (spillMoveOp s0).store := (spillMoveOp_kept s0).stored hk

theorem repWrite_kept (s : State) (q : Fin 3 × Bool × Nat) : Kept s (repWrite s q) := repWrite_stored _ _ (.refl _)

theorem repStep_kept (s : State) : Kept s (repStep s) := by
  unfold repStep
  split
  · exact .refl s
  · exact arbitrate_kept _ _ _ _ (fun t => .refl t) fun t => repWrite_kept t _

theorem logRead_kept (s : State) (a : Nat) : Kept s (logRead s a) := by
  have get (t : State) (a : Nat) : Kept t (match spoolAccessOp t .safelight a 4 none with
      | (_, true, s1) => ((0 : Word), hpError s1 0 .safelight a .b4 false)
      | (w, false, s1) => (w, s1)).2 := by
    have h := spoolAccessOp_kept t .safelight a 4 none
    split <;> (rename_i heq; rw [heq] at h)
    · exact h.then_store (hpError_store _ _ _ _ _ _)
    · exact h
  unfold logRead
  dsimp only
  refine Kept.trans ?_ (logForm_stored _ _ _ _ (.refl _))
  exact ((Kept.of_store (State_modSlt_store _ _)).trans (get _ _)).trans (get _ _)

theorem logStep_kept (s : State) : Kept s (logStep s) := by
  unfold logStep
  split
  · exact .refl s
  · exact arbitrate_kept _ _ _ _ (fun t => .refl t) fun t => logRead_kept t _

@[simp] theorem spoolCycle_stored {x : Store} (s : State) (hk : Stored x s.store) : Stored x (spoolCycle s).store := by
  unfold spoolCycle
  rw [testCycles_store]
  exact writeBacks_stored _ ((logStep_kept _).stored ((repStep_kept s).stored hk))

/-! Tick. -/

@[simp] theorem applyDue_stored {x : Store} (s : State) (d : Due) (hk : Stored x s.store) : Stored x (applyDue s d).store := by
  cases d <;> simp [applyDue, hk]

@[simp] theorem applyAllDue_stored {x : Store} (s : State) (hk : Stored x s.store) : Stored x (applyAllDue s).store :=
  Stored.forEach _ _ _ hk fun _ _ ht => applyDue_stored _ _ ht

@[simp] theorem applyLate_stored {x : Store} (s : State) (hk : Stored x s.store) : Stored x (applyLate s).store :=
  Stored.forEach _ _ _ hk fun _ _ ht => applyDue_stored _ _ ht

@[simp] theorem applyResyncs_store (s : State) : (applyResyncs s).store = s.store := by
  refine forEach_store _ _ _ fun t n => ?_
  split <;> simp

@[simp] theorem endTb_stored {x : Store} (s : State) (hk : Stored x s.store) : Stored x (endTb s).store := by
  have h : Stored x (acceptCaps (drivePins (edgesPlaced (applyLate (shqSettleAll s))))).store := by
    rw [acceptCaps_store, drivePins_store, edgesPlaced_store]
    exact applyLate_stored _ (by simpa using hk)
  unfold endTb
  dsimp only
  split
  · refine spoolCycle_stored _ (evrCycle_stored _ ?_)
    rw [applyResyncs_store]
    exact stepWaiting_stored _ h
  · exact h

@[simp] theorem nextTb_store (s : State) : (nextTb s).store = s.store := by
  unfold nextTb; (try dsimp only); split <;> simp

@[simp] theorem pendingReset_stored {x : Store} (s : State) (hk : Stored x s.store) : Stored x (pendingReset s).store := by
  unfold pendingReset; (try dsimp only); (repeat' split) <;> simp [hk]

@[simp] theorem tick_stored {x : Store} (s : State) (hk : Stored x s.store) : Stored x (tick s).store := by
  refine pendingReset_stored _ ?_
  rw [gatePoll_store]
  refine logDrain_stored _ ?_
  rw [sheetLatch_store, formatFlush_store]
  refine applyAllDue_stored _ ?_
  rw [nextTb_store]
  exact endTb_stored _ hk

end Sys2Proof.Machine
end

