-- ==== Sys2Proof/Laws/StoreExec.lean ====
section
/-! SUPPORT. Every command answers a next state, with the queue as it was and every memory in its canonical form. -/

namespace Sys2Proof.Machine

/-! ExecBoot. -/

theorem execBoot_kept (chip : Option FlashChip) (s : State) : ∃ s1, execBoot chip s = .next s1 ∧ Kept s s1 :=
  ⟨_, rfl, by simp [Kept]⟩

theorem execBootDone_kept (s : State) : ∃ s1, execBootDone s = .next s1 ∧ Kept s s1 := ⟨_, rfl, by simp [Kept]⟩

theorem execStartGate_kept (s : State) : ∃ s1, execStartGate s = .next s1 ∧ Kept s s1 :=
  ⟨_, rfl, by simp [Kept]⟩

theorem execExitRetry_kept (s : State) : ∃ s1, execExitRetry s = .next s1 ∧ Kept s s1 := ⟨_, rfl, by simp [Kept]⟩

theorem execFmtRequest_kept (m : Master) (w : Word) (s : State) : ∃ s1, execFmtRequest m w s = .next s1 ∧ Kept s s1 :=
  ⟨_, rfl, writeReg_kept _ _ _ _⟩

theorem execFormatPrepDone_kept (err : Bool) (s : State) : ∃ s1, execFormatPrepDone err s = .next s1 ∧ Kept s s1 :=
  ⟨_, rfl, by simp [Kept]⟩

theorem execAbandon_kept (m : Master) (s : State) : ∃ s1, execAbandon m s = .next s1 ∧ Kept s s1 :=
  ⟨_, rfl, writeReg_kept _ _ _ _⟩

/-! ExecCalendar. -/

@[simp] theorem calPerform_store (s : State) (q : CalReq) : (calPerform s q).2.store = s.store := by
  unfold calPerform; (repeat' split) <;> simp_all

@[simp] theorem calServe_stored {x : Store} (s : State) (cancel : Bool) (hk : Stored x s.store) : Stored x (calServe s cancel).store := by
  unfold calServe
  dsimp only
  (repeat' split) <;> simp [hk]

theorem execCalArm_kept (m : Master) (bank : Fin 2) (s : State) : ∃ s1, execCalArm m bank s = .next s1 ∧ Kept s s1 :=
  ⟨_, rfl, writeReg_kept _ _ _ _⟩

theorem execCalCancel_kept (m : Master) (bank : Fin 2) (handle : Word) (s : State) : ∃ s1, execCalCancel m bank handle s = .next s1 ∧ Kept s s1 :=
  ⟨_, rfl, writeReg_kept _ _ _ _⟩

theorem execCalInsert_kept (s : State) : ∃ s1, execCalInsert s = .next s1 ∧ Kept s s1 := ⟨_, rfl, by simp [Kept]⟩

theorem execEntryCancel_kept (s : State) : ∃ s1, execEntryCancel s = .next s1 ∧ Kept s s1 := ⟨_, rfl, by simp [Kept]⟩

theorem execCalFlush_kept (m : Master) (w : Word) (s : State) : ∃ s1, execCalFlush m w s = .next s1 ∧ Kept s s1 :=
  ⟨_, rfl, writeReg_kept _ _ _ _⟩

theorem execFlushComplete_kept (s : State) : ∃ s1, execFlushComplete s = .next s1 ∧ Kept s s1 := ⟨_, rfl, .of_store rfl⟩

theorem execCalClrCnt_kept (m : Master) (s : State) : ∃ s1, execCalClrCnt m s = .next s1 ∧ Kept s s1 :=
  ⟨_, rfl, writeReg_kept _ _ _ _⟩

theorem execEntryLoad_kept (s : State) : ∃ s1, execEntryLoad s = .next s1 ∧ Kept s s1 := ⟨_, rfl, by simp [Kept]⟩

theorem execEntryDispatch_kept (s : State) : ∃ s1, execEntryDispatch s = .next s1 ∧ Kept s s1 := ⟨_, rfl, by simp [Kept]⟩

theorem execSpillEnable_kept (m : Master) (w : Word) (s : State) : ∃ s1, execSpillEnable m w s = .next s1 ∧ Kept s s1 :=
  ⟨_, rfl, writeReg_kept _ _ _ _⟩

theorem execSpillMove_kept (s : State) : ∃ s1, execSpillMove s = .next s1 ∧ Kept s s1 := ⟨_, rfl, by simp [Kept]⟩

/-! ExecCascade. -/

theorem execCascadeEnable_kept (m : Master) (w : Word) (s : State) : ∃ s1, execCascadeEnable m w s = .next s1 ∧ Kept s s1 :=
  ⟨_, rfl, writeReg_kept _ _ _ _⟩

theorem execCascadeTraining_kept (version _role : BitVec 8) (crcOk : Bool) (rtt : Nat) (s : State) : ∃ s1, execCascadeTraining version _role crcOk rtt s = .next s1 ∧ Kept s s1 :=
  ⟨_, rfl, by simp [Kept]⟩

theorem execDownFrameSend_kept (s : State) : ∃ s1, execDownFrameSend s = .next s1 ∧ Kept s s1 := ⟨_, rfl, by simp [Kept]⟩

theorem execDownFrame_kept (f : DownFrame) (s : State) : ∃ s1, execDownFrame f s = .next s1 ∧ Kept s s1 :=
  ⟨_, rfl, by simp [Kept]⟩

theorem execUpFrame_kept (f : UpFrame) (s : State) : ∃ s1, execUpFrame f s = .next s1 ∧ Kept s s1 := ⟨_, rfl, by simp [Kept]⟩

theorem execFixPrep_kept (c : CasCommand) (s : State) : ∃ s1, execFixPrep c s = .next s1 ∧ Kept s s1 := ⟨_, rfl, by simp [Kept]⟩

theorem execFixTime_kept (c : CasCommand) (s : State) : ∃ s1, execFixTime c s = .next s1 ∧ Kept s s1 := ⟨_, rfl, by simp [Kept]⟩

theorem execFixCancel_kept (c : CasCommand) (s : State) : ∃ s1, execFixCancel c s = .next s1 ∧ Kept s s1 :=
  ⟨_, rfl, by simp [Kept]⟩

theorem execFmtPrep_kept (c : CasCommand) (s : State) : ∃ s1, execFmtPrep c s = .next s1 ∧ Kept s s1 := ⟨_, rfl, by simp [Kept]⟩

theorem execFmtAbandon_kept (c : CasCommand) (s : State) : ∃ s1, execFmtAbandon c s = .next s1 ∧ Kept s s1 :=
  ⟨_, rfl, by simp [Kept]⟩

theorem execCommandTimeout_kept (s : State) : ∃ s1, execCommandTimeout s = .next s1 ∧ Kept s s1 := ⟨_, rfl, by simp [Kept]⟩

theorem execSplit_kept (s : State) : ∃ s1, execSplit s = .next s1 ∧ Kept s s1 := ⟨_, rfl, by simp [Kept]⟩

theorem execMemberLost_kept (role : Fin 8) (s : State) : ∃ s1, execMemberLost role s = .next s1 ∧ Kept s s1 :=
  ⟨_, rfl, by simp [Kept]⟩

theorem execCascadeLinkLoss_kept (s : State) : ∃ s1, execCascadeLinkLoss s = .next s1 ∧ Kept s s1 := ⟨_, rfl, by simp [Kept]⟩

theorem execCascadeRequestAnswer_kept (version _role : BitVec 8) (crcOk : Bool) (s : State) : ∃ s1, execCascadeRequestAnswer version _role crcOk s = .next s1 ∧ Kept s s1 :=
  ⟨_, rfl, by simp [Kept]⟩

theorem execUpFrameRepeat_kept (f : UpFrame) (s : State) : ∃ s1, execUpFrameRepeat f s = .next s1 ∧ Kept s s1 :=
  ⟨_, rfl, by simp [Kept]⟩

/-! ExecChannel. -/

@[simp] theorem inputChangeOp_store (s : State) (n : Nat) (lvl : Bool) (e : InEdge) : (inputChangeOp s n lvl e).store = s.store := by
  unfold inputChangeOp; dsimp only; (repeat' split) <;> simp_all

@[simp] theorem vcalRoundOp_store (s : State) (k : Nat) (fails : Word) : (vcalRoundOp s k fails).store = s.store := by
  unfold vcalRoundOp
  dsimp only
  split <;> simp

@[simp] theorem supplyOp_store (s : State) (k : Nat) (v : Bool) : (supplyOp s k v).store = s.store := by
  simp [supplyOp]

@[simp] theorem chCmd_stored {x : Store} (s : State) (m : Master) (n : Nat) (w : Word) (hk : Stored x s.store) : Stored x (chCmd s m n w).store := by
  simp [chCmd, hk]

theorem execChannelCtlWrite_kept (m : Master) (ch : Fin 128) (w : Word) (s : State) : ∃ s1, execChannelCtlWrite m ch w s = .next s1 ∧ Kept s s1 :=
  ⟨_, rfl, writeReg_kept _ _ _ _⟩

theorem execCounterWrite_kept (m : Master) (ch : Fin 128) (w : Word) (s : State) : ∃ s1, execCounterWrite m ch w s = .next s1 ∧ Kept s s1 :=
  ⟨_, rfl, writeReg_kept _ _ _ _⟩

theorem execCompareWrite_kept (m : Master) (ch : Fin 128) (slot : Fin 4) (w : Word) (s : State) : ∃ s1, execCompareWrite m ch slot w s = .next s1 ∧ Kept s s1 :=
  ⟨_, rfl, writeReg_kept _ _ _ _⟩

theorem execCompareFire_kept (ch : Fin 128) (slot : Fin 4) (s : State) : ∃ s1, execCompareFire ch slot s = .next s1 ∧ Kept s s1 :=
  ⟨_, rfl, by simp [Kept]⟩

theorem execCompareFireWrap_kept (ch : Fin 128) (slot : Fin 4) (s : State) : ∃ s1, execCompareFireWrap ch slot s = .next s1 ∧ Kept s s1 :=
  ⟨_, rfl, by simp [Kept]⟩

theorem execCompareFireUpdown_kept (ch : Fin 128) (slot : Fin 4) (s : State) : ∃ s1, execCompareFireUpdown ch slot s = .next s1 ∧ Kept s s1 :=
  ⟨_, rfl, by simp [Kept]⟩

theorem execPulseEnd_kept (ch : Fin 128) (s : State) : ∃ s1, execPulseEnd ch s = .next s1 ∧ Kept s s1 :=
  ⟨_, rfl, by simp [Kept]⟩

theorem execForce_kept (m : Master) (ch : Fin 128) (f : Fin 4) (s : State) : ∃ s1, execForce m ch f s = .next s1 ∧ Kept s s1 :=
  ⟨_, rfl, writeReg_kept _ _ _ _⟩

theorem execFlush_kept (m : Master) (ch : Fin 128) (s : State) : ∃ s1, execFlush m ch s = .next s1 ∧ Kept s s1 :=
  ⟨_, rfl, writeReg_kept _ _ _ _⟩

theorem execCapnow_kept (m : Master) (ch : Fin 128) (s : State) : ∃ s1, execCapnow m ch s = .next s1 ∧ Kept s s1 :=
  ⟨_, rfl, writeReg_kept _ _ _ _⟩

theorem execDisarm_kept (m : Master) (ch : Fin 128) (slots : BitVec 4) (s : State) : ∃ s1, execDisarm m ch slots s = .next s1 ∧ Kept s s1 :=
  ⟨_, rfl, writeReg_kept _ _ _ _⟩

theorem execTioInputChange_kept (pin : Fin 128) (lvl : Bool) (e : InEdge) (s : State) : ∃ s1, execTioInputChange pin lvl e s = .next s1 ∧ Kept s s1 :=
  ⟨_, rfl, by simp [Kept]⟩

theorem execCaptureRead_kept (m : Master) (ch : Fin 128) (s : State) : ∃ s1, execCaptureRead m ch s = .next s1 ∧ Kept s s1 :=
  ⟨_, rfl, readOp_kept _ _ _ _⟩

theorem execVcalRound_kept (bank : Fin 5) (fails : Word) (s : State) : ∃ s1, execVcalRound bank fails s = .next s1 ∧ Kept s s1 :=
  ⟨_, rfl, by simp [Kept]⟩

theorem execBankSupplyMismatch_kept (bank : Fin 4) (vdet : Bool) (s : State) : ∃ s1, execBankSupplyMismatch bank vdet s = .next s1 ∧ Kept s s1 :=
  ⟨_, rfl, by simp [Kept]⟩

theorem execTbEventTick_kept (ch : Fin 128) (s : State) : ∃ s1, execTbEventTick ch s = .next s1 ∧ Kept s s1 :=
  ⟨_, rfl, by simp [Kept]⟩

theorem hostRow_kept {par : Bool} (s : State) (f : State → State) (h : ∀ t, Kept t (f t)) : Kept s (hostRow par s f) := by
  unfold hostRow
  exact .ite _ (.refl s) (.ite _ (h s) (heldOff_kept s))

/-! ExecContact. -/

theorem execCtEnable_kept (m : Master) (w : Word) (s : State) : ∃ s1, execCtEnable m w s = .next s1 ∧ Kept s s1 :=
  ⟨_, rfl, writeReg_kept _ _ _ _⟩

theorem execCtGo_kept (m : Master) (s : State) : ∃ s1, execCtGo m s = .next s1 ∧ Kept s s1 := ⟨_, rfl, writeReg_kept _ _ _ _⟩

theorem execCtHalt_kept (m : Master) (s : State) : ∃ s1, execCtHalt m s = .next s1 ∧ Kept s s1 :=
  ⟨_, rfl, writeReg_kept _ _ _ _⟩

theorem execCtBlank_kept (m : Master) (s : State) : ∃ s1, execCtBlank m s = .next s1 ∧ Kept s s1 :=
  ⟨_, rfl, writeReg_kept _ _ _ _⟩

theorem execCtJump_kept (m : Master) (s : State) : ∃ s1, execCtJump m s = .next s1 ∧ Kept s s1 :=
  ⟨_, rfl, writeReg_kept _ _ _ _⟩

theorem execCtClrCnt_kept (m : Master) (s : State) : ∃ s1, execCtClrCnt m s = .next s1 ∧ Kept s s1 :=
  ⟨_, rfl, writeReg_kept _ _ _ _⟩

theorem execColumnFetch_kept (s : State) : ∃ s1, execColumnFetch s = .next s1 ∧ Kept s s1 :=
  ⟨_, rfl, columnFetchOp_kept _⟩

theorem execFrameSample_kept (n : Unit3) (s : State) : ∃ s1, execFrameSample n s = .next s1 ∧ Kept s s1 :=
  ⟨_, rfl, by simp [Kept]⟩

theorem execStatusFrame_kept (n : Unit3) (f : StatusFrame) (s : State) : ∃ s1, execStatusFrame n f s = .next s1 ∧ Kept s s1 :=
  ⟨_, rfl, by simp [Kept]⟩

theorem execLinkModeWrite_kept (m : Master) (n : Unit3) (w : Word) (s : State) : ∃ s1, execLinkModeWrite m n w s = .next s1 ∧ Kept s s1 :=
  ⟨_, rfl, writeReg_kept _ _ _ _⟩

theorem execLinkAlign_kept (n : Unit3) (s : State) : ∃ s1, execLinkAlign n s = .next s1 ∧ Kept s s1 := ⟨_, rfl, by simp [Kept]⟩

theorem execTrainingRequest_kept (n : Unit3) (s : State) : ∃ s1, execTrainingRequest n s = .next s1 ∧ Kept s s1 :=
  ⟨_, rfl, by simp [Kept]⟩

theorem execTrainingAnswer_kept (n : Unit3) (ans : TrainAnswer) (s : State) : ∃ s1, execTrainingAnswer n ans s = .next s1 ∧ Kept s s1 :=
  ⟨_, rfl, by simp [Kept]⟩

theorem execLinkLoss_kept (n : Unit3) (lockLost : Bool) (s : State) : ∃ s1, execLinkLoss n lockLost s = .next s1 ∧ Kept s s1 :=
  ⟨_, rfl, by simp [Kept]⟩

theorem execAutoRetrain_kept (n : Unit3) (s : State) : ∃ s1, execAutoRetrain n s = .next s1 ∧ Kept s s1 :=
  ⟨_, rfl, by simp [Kept]⟩

theorem execRetrain_kept (m : Master) (n : Unit3) (s : State) : ∃ s1, execRetrain m n s = .next s1 ∧ Kept s s1 :=
  ⟨_, rfl, writeReg_kept _ _ _ _⟩

theorem execLinkClrCnt_kept (m : Master) (n : Unit3) (s : State) : ∃ s1, execLinkClrCnt m n s = .next s1 ∧ Kept s s1 :=
  ⟨_, rfl, writeReg_kept _ _ _ _⟩

/-! ExecEngine. -/

@[simp] theorem tctlCmd_stored {x : Store} (s : State) (m : Master) (t : Nat) (bit : Nat) (hk : Stored x s.store) : Stored x (tctlCmd s m t bit).store := by
  simp [tctlCmd, hk]

theorem execAdd_kept (t : Fin 64) (rd ra rb : Reg5) (s : State) : ∃ s1, execAdd t rd ra rb s = .next s1 ∧ Kept s s1 :=
  ⟨_, rfl, engIssue_stored _ _ _ (.refl _)⟩

theorem execSub_kept (t : Fin 64) (rd ra rb : Reg5) (s : State) : ∃ s1, execSub t rd ra rb s = .next s1 ∧ Kept s s1 :=
  ⟨_, rfl, engIssue_stored _ _ _ (.refl _)⟩

theorem execSll_kept (t : Fin 64) (rd ra rb : Reg5) (s : State) : ∃ s1, execSll t rd ra rb s = .next s1 ∧ Kept s s1 :=
  ⟨_, rfl, engIssue_stored _ _ _ (.refl _)⟩

theorem execSrl_kept (t : Fin 64) (rd ra rb : Reg5) (s : State) : ∃ s1, execSrl t rd ra rb s = .next s1 ∧ Kept s s1 :=
  ⟨_, rfl, engIssue_stored _ _ _ (.refl _)⟩

theorem execSra_kept (t : Fin 64) (rd ra rb : Reg5) (s : State) : ∃ s1, execSra t rd ra rb s = .next s1 ∧ Kept s s1 :=
  ⟨_, rfl, engIssue_stored _ _ _ (.refl _)⟩

theorem execSlt_kept (t : Fin 64) (rd ra rb : Reg5) (s : State) : ∃ s1, execSlt t rd ra rb s = .next s1 ∧ Kept s s1 :=
  ⟨_, rfl, engIssue_stored _ _ _ (.refl _)⟩

theorem execSltu_kept (t : Fin 64) (rd ra rb : Reg5) (s : State) : ∃ s1, execSltu t rd ra rb s = .next s1 ∧ Kept s s1 :=
  ⟨_, rfl, engIssue_stored _ _ _ (.refl _)⟩

theorem execMin_kept (t : Fin 64) (rd ra rb : Reg5) (s : State) : ∃ s1, execMin t rd ra rb s = .next s1 ∧ Kept s s1 :=
  ⟨_, rfl, engIssue_stored _ _ _ (.refl _)⟩

theorem execMax_kept (t : Fin 64) (rd ra rb : Reg5) (s : State) : ∃ s1, execMax t rd ra rb s = .next s1 ∧ Kept s s1 :=
  ⟨_, rfl, engIssue_stored _ _ _ (.refl _)⟩

theorem execMinu_kept (t : Fin 64) (rd ra rb : Reg5) (s : State) : ∃ s1, execMinu t rd ra rb s = .next s1 ∧ Kept s s1 :=
  ⟨_, rfl, engIssue_stored _ _ _ (.refl _)⟩

theorem execMaxu_kept (t : Fin 64) (rd ra rb : Reg5) (s : State) : ∃ s1, execMaxu t rd ra rb s = .next s1 ∧ Kept s s1 :=
  ⟨_, rfl, engIssue_stored _ _ _ (.refl _)⟩

theorem execMul_kept (t : Fin 64) (rd ra rb : Reg5) (s : State) : ∃ s1, execMul t rd ra rb s = .next s1 ∧ Kept s s1 :=
  ⟨_, rfl, engIssue_stored _ _ _ (.refl _)⟩

theorem execMulh_kept (t : Fin 64) (rd ra rb : Reg5) (s : State) : ∃ s1, execMulh t rd ra rb s = .next s1 ∧ Kept s s1 :=
  ⟨_, rfl, engIssue_stored _ _ _ (.refl _)⟩

theorem execMulhu_kept (t : Fin 64) (rd ra rb : Reg5) (s : State) : ∃ s1, execMulhu t rd ra rb s = .next s1 ∧ Kept s s1 :=
  ⟨_, rfl, engIssue_stored _ _ _ (.refl _)⟩

theorem execEngAnd_kept (t : Fin 64) (rd ra rb : Reg5) (s : State) : ∃ s1, execEngAnd t rd ra rb s = .next s1 ∧ Kept s s1 :=
  ⟨_, rfl, engIssue_stored _ _ _ (.refl _)⟩

theorem execEngOr_kept (t : Fin 64) (rd ra rb : Reg5) (s : State) : ∃ s1, execEngOr t rd ra rb s = .next s1 ∧ Kept s s1 :=
  ⟨_, rfl, engIssue_stored _ _ _ (.refl _)⟩

theorem execEngXor_kept (t : Fin 64) (rd ra rb : Reg5) (s : State) : ∃ s1, execEngXor t rd ra rb s = .next s1 ∧ Kept s s1 :=
  ⟨_, rfl, engIssue_stored _ _ _ (.refl _)⟩

theorem execDiv_kept (t : Fin 64) (rd ra rb : Reg5) (s : State) : ∃ s1, execDiv t rd ra rb s = .next s1 ∧ Kept s s1 :=
  ⟨_, rfl, engIssue_stored _ _ _ (.refl _)⟩

theorem execDivu_kept (t : Fin 64) (rd ra rb : Reg5) (s : State) : ∃ s1, execDivu t rd ra rb s = .next s1 ∧ Kept s s1 :=
  ⟨_, rfl, engIssue_stored _ _ _ (.refl _)⟩

theorem execRem_kept (t : Fin 64) (rd ra rb : Reg5) (s : State) : ∃ s1, execRem t rd ra rb s = .next s1 ∧ Kept s s1 :=
  ⟨_, rfl, engIssue_stored _ _ _ (.refl _)⟩

theorem execRemu_kept (t : Fin 64) (rd ra rb : Reg5) (s : State) : ∃ s1, execRemu t rd ra rb s = .next s1 ∧ Kept s s1 :=
  ⟨_, rfl, engIssue_stored _ _ _ (.refl _)⟩

theorem execAddi_kept (t : Fin 64) (rd ra : Reg5) (i : BitVec 16) (s : State) : ∃ s1, execAddi t rd ra i s = .next s1 ∧ Kept s s1 :=
  ⟨_, rfl, engIssue_stored _ _ _ (.refl _)⟩

theorem execAndi_kept (t : Fin 64) (rd ra : Reg5) (i : BitVec 16) (s : State) : ∃ s1, execAndi t rd ra i s = .next s1 ∧ Kept s s1 :=
  ⟨_, rfl, engIssue_stored _ _ _ (.refl _)⟩

theorem execOri_kept (t : Fin 64) (rd ra : Reg5) (i : BitVec 16) (s : State) : ∃ s1, execOri t rd ra i s = .next s1 ∧ Kept s s1 :=
  ⟨_, rfl, engIssue_stored _ _ _ (.refl _)⟩

theorem execXori_kept (t : Fin 64) (rd ra : Reg5) (i : BitVec 16) (s : State) : ∃ s1, execXori t rd ra i s = .next s1 ∧ Kept s s1 :=
  ⟨_, rfl, engIssue_stored _ _ _ (.refl _)⟩

theorem execCmpi_kept (t : Fin 64) (ra : Reg5) (i : BitVec 16) (s : State) : ∃ s1, execCmpi t ra i s = .next s1 ∧ Kept s s1 :=
  ⟨_, rfl, engIssue_stored _ _ _ (.refl _)⟩

theorem execLui_kept (t : Fin 64) (rd : Reg5) (i : BitVec 16) (s : State) : ∃ s1, execLui t rd i s = .next s1 ∧ Kept s s1 :=
  ⟨_, rfl, engIssue_stored _ _ _ (.refl _)⟩

theorem execSlli_kept (t : Fin 64) (rd ra : Reg5) (sh : Fin 32) (s : State) : ∃ s1, execSlli t rd ra sh s = .next s1 ∧ Kept s s1 :=
  ⟨_, rfl, engIssue_stored _ _ _ (.refl _)⟩

theorem execSrli_kept (t : Fin 64) (rd ra : Reg5) (sh : Fin 32) (s : State) : ∃ s1, execSrli t rd ra sh s = .next s1 ∧ Kept s s1 :=
  ⟨_, rfl, engIssue_stored _ _ _ (.refl _)⟩

theorem execSrai_kept (t : Fin 64) (rd ra : Reg5) (sh : Fin 32) (s : State) : ∃ s1, execSrai t rd ra sh s = .next s1 ∧ Kept s s1 :=
  ⟨_, rfl, engIssue_stored _ _ _ (.refl _)⟩

theorem execLdt_kept (t : Fin 64) (rd ra : Reg5) (off : BitVec 16) (s : State) : ∃ s1, execLdt t rd ra off s = .next s1 ∧ Kept s s1 :=
  ⟨_, rfl, engIssue_stored _ _ _ (.refl _)⟩

theorem execLd_kept (t : Fin 64) (rd ra : Reg5) (off : BitVec 16) (s : State) : ∃ s1, execLd t rd ra off s = .next s1 ∧ Kept s s1 :=
  ⟨_, rfl, engIssue_stored _ _ _ (.refl _)⟩

theorem execLdth_kept (t : Fin 64) (rd ra : Reg5) (off : BitVec 16) (s : State) : ∃ s1, execLdth t rd ra off s = .next s1 ∧ Kept s s1 :=
  ⟨_, rfl, engIssue_stored _ _ _ (.refl _)⟩

theorem execLdh_kept (t : Fin 64) (rd ra : Reg5) (off : BitVec 16) (s : State) : ∃ s1, execLdh t rd ra off s = .next s1 ∧ Kept s s1 :=
  ⟨_, rfl, engIssue_stored _ _ _ (.refl _)⟩

theorem execLdthu_kept (t : Fin 64) (rd ra : Reg5) (off : BitVec 16) (s : State) : ∃ s1, execLdthu t rd ra off s = .next s1 ∧ Kept s s1 :=
  ⟨_, rfl, engIssue_stored _ _ _ (.refl _)⟩

theorem execLdhu_kept (t : Fin 64) (rd ra : Reg5) (off : BitVec 16) (s : State) : ∃ s1, execLdhu t rd ra off s = .next s1 ∧ Kept s s1 :=
  ⟨_, rfl, engIssue_stored _ _ _ (.refl _)⟩

theorem execLdtb_kept (t : Fin 64) (rd ra : Reg5) (off : BitVec 16) (s : State) : ∃ s1, execLdtb t rd ra off s = .next s1 ∧ Kept s s1 :=
  ⟨_, rfl, engIssue_stored _ _ _ (.refl _)⟩

theorem execLdb_kept (t : Fin 64) (rd ra : Reg5) (off : BitVec 16) (s : State) : ∃ s1, execLdb t rd ra off s = .next s1 ∧ Kept s s1 :=
  ⟨_, rfl, engIssue_stored _ _ _ (.refl _)⟩

theorem execLdtbu_kept (t : Fin 64) (rd ra : Reg5) (off : BitVec 16) (s : State) : ∃ s1, execLdtbu t rd ra off s = .next s1 ∧ Kept s s1 :=
  ⟨_, rfl, engIssue_stored _ _ _ (.refl _)⟩

theorem execLdbu_kept (t : Fin 64) (rd ra : Reg5) (off : BitVec 16) (s : State) : ∃ s1, execLdbu t rd ra off s = .next s1 ∧ Kept s s1 :=
  ⟨_, rfl, engIssue_stored _ _ _ (.refl _)⟩

theorem execStt_kept (t : Fin 64) (rd ra : Reg5) (off : BitVec 16) (s : State) : ∃ s1, execStt t rd ra off s = .next s1 ∧ Kept s s1 :=
  ⟨_, rfl, engIssue_stored _ _ _ (.refl _)⟩

theorem execSt_kept (t : Fin 64) (rd ra : Reg5) (off : BitVec 16) (s : State) : ∃ s1, execSt t rd ra off s = .next s1 ∧ Kept s s1 :=
  ⟨_, rfl, engIssue_stored _ _ _ (.refl _)⟩

theorem execStth_kept (t : Fin 64) (rd ra : Reg5) (off : BitVec 16) (s : State) : ∃ s1, execStth t rd ra off s = .next s1 ∧ Kept s s1 :=
  ⟨_, rfl, engIssue_stored _ _ _ (.refl _)⟩

theorem execSth_kept (t : Fin 64) (rd ra : Reg5) (off : BitVec 16) (s : State) : ∃ s1, execSth t rd ra off s = .next s1 ∧ Kept s s1 :=
  ⟨_, rfl, engIssue_stored _ _ _ (.refl _)⟩

theorem execSttb_kept (t : Fin 64) (rd ra : Reg5) (off : BitVec 16) (s : State) : ∃ s1, execSttb t rd ra off s = .next s1 ∧ Kept s s1 :=
  ⟨_, rfl, engIssue_stored _ _ _ (.refl _)⟩

theorem execStb_kept (t : Fin 64) (rd ra : Reg5) (off : BitVec 16) (s : State) : ∃ s1, execStb t rd ra off s = .next s1 ∧ Kept s s1 :=
  ⟨_, rfl, engIssue_stored _ _ _ (.refl _)⟩

theorem execBCond_kept (t : Fin 64) (cond : Fin 16) (off : BitVec 16) (s : State) : ∃ s1, execBCond t cond off s = .next s1 ∧ Kept s s1 :=
  ⟨_, rfl, engIssue_stored _ _ _ (.refl _)⟩

theorem execJal_kept (t : Fin 64) (rd : Reg5) (tgt : BitVec 12) (s : State) : ∃ s1, execJal t rd tgt s = .next s1 ∧ Kept s s1 :=
  ⟨_, rfl, engIssue_stored _ _ _ (.refl _)⟩

theorem execJalr_kept (t : Fin 64) (rd ra : Reg5) (s : State) : ∃ s1, execJalr t rd ra s = .next s1 ∧ Kept s s1 :=
  ⟨_, rfl, engIssue_stored _ _ _ (.refl _)⟩

theorem execWait_kept (t : Fin 64) (rd : Reg5) (mask : BitVec 16) (s : State) : ∃ s1, execWait t rd mask s = .next s1 ∧ Kept s s1 :=
  ⟨_, rfl, engIssue_stored _ _ _ (.refl _)⟩

theorem execCarm_kept (t : Fin 64) (rd ra : Reg5) (s : State) : ∃ s1, execCarm t rd ra s = .next s1 ∧ Kept s s1 :=
  ⟨_, rfl, engIssue_stored _ _ _ (.refl _)⟩

theorem execCcan_kept (t : Fin 64) (rd ra : Reg5) (s : State) : ∃ s1, execCcan t rd ra s = .next s1 ∧ Kept s s1 :=
  ⟨_, rfl, engIssue_stored _ _ _ (.refl _)⟩

theorem execPos_kept (t : Fin 64) (rd : Reg5) (n : Unit3) (s : State) : ∃ s1, execPos t rd n s = .next s1 ∧ Kept s s1 :=
  ⟨_, rfl, engIssue_stored _ _ _ (.refl _)⟩

theorem execSpkr_kept (t : Fin 64) (rd : Reg5) (n : Unit3) (sel : Fin 16) (s : State) : ∃ s1, execSpkr t rd n sel s = .next s1 ∧ Kept s s1 :=
  ⟨_, rfl, engIssue_stored _ _ _ (.refl _)⟩

theorem execP2t_kept (t : Fin 64) (rd ra : Reg5) (n : Unit3) (s : State) : ∃ s1, execP2t t rd ra n s = .next s1 ∧ Kept s s1 :=
  ⟨_, rfl, engIssue_stored _ _ _ (.refl _)⟩

theorem execT2p_kept (t : Fin 64) (rd ra : Reg5) (n : Unit3) (s : State) : ∃ s1, execT2p t rd ra n s = .next s1 ∧ Kept s s1 :=
  ⟨_, rfl, engIssue_stored _ _ _ (.refl _)⟩

theorem execPdist_kept (t : Fin 64) (rd ra rb : Reg5) (n : Unit3) (s : State) : ∃ s1, execPdist t rd ra rb n s = .next s1 ∧ Kept s s1 :=
  ⟨_, rfl, engIssue_stored _ _ _ (.refl _)⟩

theorem execCap_kept (t : Fin 64) (rd : Reg5) (ch : Fin 128) (s : State) : ∃ s1, execCap t rd ch s = .next s1 ∧ Kept s s1 :=
  ⟨_, rfl, engIssue_stored _ _ _ (.refl _)⟩

theorem execSnap_kept (t : Fin 64) (rd ra : Reg5) (mode k : Fin 4) (s : State) : ∃ s1, execSnap t rd ra mode k s = .next s1 ∧ Kept s s1 :=
  ⟨_, rfl, engIssue_stored _ _ _ (.refl _)⟩

theorem execSnrel_kept (t : Fin 64) (s : State) : ∃ s1, execSnrel t s = .next s1 ∧ Kept s s1 :=
  ⟨_, rfl, engIssue_stored _ _ _ (.refl _)⟩

theorem execFixarm_kept (t : Fin 64) (rd ra : Reg5) (k kind : Fin 4) (u : Unit3) (s : State) : ∃ s1, execFixarm t rd ra k kind u s = .next s1 ∧ Kept s s1 :=
  ⟨_, rfl, engIssue_stored _ _ _ (.refl _)⟩

theorem execSend_kept (t : Fin 64) (rd ra rb : Reg5) (s : State) : ∃ s1, execSend t rd ra rb s = .next s1 ∧ Kept s s1 :=
  ⟨_, rfl, engIssue_stored _ _ _ (.refl _)⟩

theorem execRecv_kept (t : Fin 64) (rd : Reg5) (s : State) : ∃ s1, execRecv t rd s = .next s1 ∧ Kept s s1 :=
  ⟨_, rfl, engIssue_stored _ _ _ (.refl _)⟩

theorem execMfs_kept (t : Fin 64) (rd : Reg5) (sel : Fin 16) (s : State) : ∃ s1, execMfs t rd sel s = .next s1 ∧ Kept s s1 :=
  ⟨_, rfl, engIssue_stored _ _ _ (.refl _)⟩

theorem execMts_kept (t : Fin 64) (sel : Fin 16) (ra : Reg5) (s : State) : ∃ s1, execMts t sel ra s = .next s1 ∧ Kept s s1 :=
  ⟨_, rfl, engIssue_stored _ _ _ (.refl _)⟩

theorem execFence_kept (t : Fin 64) (s : State) : ∃ s1, execFence t s = .next s1 ∧ Kept s s1 :=
  ⟨_, rfl, engIssue_stored _ _ _ (.refl _)⟩

theorem execHalt_kept (t : Fin 64) (s : State) : ∃ s1, execHalt t s = .next s1 ∧ Kept s s1 :=
  ⟨_, rfl, engIssue_stored _ _ _ (.refl _)⟩

theorem execFixsel_kept (t : Fin 64) (k : Fin 4) (st : Bool) (s : State) : ∃ s1, execFixsel t k st s = .next s1 ∧ Kept s s1 :=
  ⟨_, rfl, engIssue_stored _ _ _ (.refl _)⟩

theorem execEngRec_kept (t : Fin 64) (ra : Reg5) (kind : Fin 64) (s : State) : ∃ s1, execEngRec t ra kind s = .next s1 ∧ Kept s s1 :=
  ⟨_, rfl, engIssue_stored _ _ _ (.refl _)⟩

theorem execFabricAccessComplete_kept (t : Fin 64) (s : State) : ∃ s1, execFabricAccessComplete t s = .next s1 ∧ Kept s s1 :=
  ⟨_, rfl, arbitrate_kept _ _ _ _ heldOff_kept fun t => by simp [Kept]⟩

theorem execThreadWake_kept (t : Fin 64) (s : State) : ∃ s1, execThreadWake t s = .next s1 ∧ Kept s s1 :=
  ⟨_, rfl, by simp [Kept]⟩

theorem execThreadWatchdog_kept (t : Fin 64) (s : State) : ∃ s1, execThreadWatchdog t s = .next s1 ∧ Kept s s1 :=
  ⟨_, rfl, by simp [Kept]⟩

theorem execBreakpoint_kept (t : Fin 64) (s : State) : ∃ s1, execBreakpoint t s = .next s1 ∧ Kept s s1 :=
  ⟨_, rfl, by simp [Kept]⟩

theorem execThreadStart_kept (m : Master) (t : Fin 64) (s : State) : ∃ s1, execThreadStart m t s = .next s1 ∧ Kept s s1 :=
  ⟨_, rfl, writeReg_kept _ _ _ _⟩

theorem execThreadStop_kept (m : Master) (t : Fin 64) (s : State) : ∃ s1, execThreadStop m t s = .next s1 ∧ Kept s s1 :=
  ⟨_, rfl, writeReg_kept _ _ _ _⟩

theorem execStep_kept (m : Master) (t : Fin 64) (s : State) : ∃ s1, execStep m t s = .next s1 ∧ Kept s s1 :=
  ⟨_, rfl, writeReg_kept _ _ _ _⟩

theorem execDbell_kept (m : Master) (t : Fin 64) (s : State) : ∃ s1, execDbell m t s = .next s1 ∧ Kept s s1 :=
  ⟨_, rfl, writeReg_kept _ _ _ _⟩

theorem execClrEv_kept (m : Master) (t : Fin 64) (s : State) : ∃ s1, execClrEv m t s = .next s1 ∧ Kept s s1 :=
  ⟨_, rfl, writeReg_kept _ _ _ _⟩

theorem execClrEcc_kept (m : Master) (e : Fin 16) (s : State) : ∃ s1, execClrEcc m e s = .next s1 ∧ Kept s s1 :=
  ⟨_, rfl, writeReg_kept _ _ _ _⟩

theorem execEngineDisable_kept (m : Master) (e : Fin 16) (w : Word) (s : State) : ∃ s1, execEngineDisable m e w s = .next s1 ∧ Kept s s1 :=
  ⟨_, rfl, writeReg_kept _ _ _ _⟩

theorem execTmsgWrite_kept (m : Master) (t : Fin 64) (w : Word) (s : State) : ∃ s1, execTmsgWrite m t w s = .next s1 ∧ Kept s s1 :=
  ⟨_, rfl, writeReg_kept _ _ _ _⟩

theorem execWindowAccess_kept (m : Master) (e : Fin 16) (off : Fin 512) (wr : Option Word) (s : State) :
    ∃ s1, execWindowAccess m e off wr s = .next s1 ∧ Kept s s1 :=
  ⟨_, rfl, arbitrate_kept _ _ _ _ heldOff_kept fun t => by
  cases wr with
  | none => exact readReg_stored _ _ _ (.refl _)
  | some w => exact writeReg_kept _ _ _ _⟩

theorem execWorkRegisterWrite_kept (m : Master) (t : Fin 64) (r : Option Reg5) (w : Word) (s : State) : ∃ s1, execWorkRegisterWrite m t r w s = .next s1 ∧ Kept s s1 :=
  ⟨_, rfl, by cases r <;> exact writeReg_kept _ _ _ _⟩

theorem execDividerFree_kept (e : Fin 16) (s : State) : ∃ s1, execDividerFree e s = .next s1 ∧ Kept s s1 :=
  ⟨_, rfl, by simp [Kept]⟩

/-! ExecExposure. -/

@[simp] theorem exgCmd_stored {x : Store} (s : State) (m : Master) (g : Nat) (w : Word) (hk : Stored x s.store) : Stored x (exgCmd s m g w).store := by
  simp [exgCmd, hk]

theorem execExgEnable_kept (m : Master) (g : Fin 16) (w : Word) (s : State) : ∃ s1, execExgEnable m g w s = .next s1 ∧ Kept s s1 :=
  ⟨_, rfl, writeReg_kept _ _ _ _⟩

theorem execExgDisable_kept (m : Master) (g : Fin 16) (w : Word) (s : State) : ∃ s1, execExgDisable m g w s = .next s1 ∧ Kept s s1 :=
  ⟨_, rfl, writeReg_kept _ _ _ _⟩

theorem execExgGo_kept (m : Master) (w : Word) (s : State) : ∃ s1, execExgGo m w s = .next s1 ∧ Kept s s1 :=
  ⟨_, rfl, writeReg_kept _ _ _ _⟩

theorem execExgStagedWrite_kept (m : Master) (g : Fin 16) (off : Nat) (w : Word) (s : State) : ∃ s1, execExgStagedWrite m g off w s = .next s1 ∧ Kept s s1 :=
  ⟨_, rfl, by simp [Kept]⟩

theorem execExgFix_kept (m : Master) (g : Fin 16) (s : State) : ∃ s1, execExgFix m g s = .next s1 ∧ Kept s s1 :=
  ⟨_, rfl, writeReg_kept _ _ _ _⟩

theorem execFixForce_kept (m : Master) (g : Fin 16) (s : State) : ∃ s1, execFixForce m g s = .next s1 ∧ Kept s s1 :=
  ⟨_, rfl, writeReg_kept _ _ _ _⟩

theorem execExgDiscard_kept (m : Master) (g : Fin 16) (s : State) : ∃ s1, execExgDiscard m g s = .next s1 ∧ Kept s s1 :=
  ⟨_, rfl, writeReg_kept _ _ _ _⟩

theorem execTripClr_kept (m : Master) (g : Fin 16) (s : State) : ∃ s1, execTripClr m g s = .next s1 ∧ Kept s s1 :=
  ⟨_, rfl, writeReg_kept _ _ _ _⟩

theorem execCommSet_kept (m : Master) (g : Fin 16) (mp : Fin 8) (s : State) : ∃ s1, execCommSet m g mp s = .next s1 ∧ Kept s s1 :=
  ⟨_, rfl, writeReg_kept _ _ _ _⟩

theorem execPeriodStart_kept (g : Fin 16) (s : State) : ∃ s1, execPeriodStart g s = .next s1 ∧ Kept s s1 :=
  ⟨_, rfl, by simp [Kept]⟩

theorem execReload_kept (g : Fin 16) (s : State) : ∃ s1, execReload g s = .next s1 ∧ Kept s s1 := ⟨_, rfl, by simp [Kept]⟩

theorem execTriggerFire_kept (g : Fin 16) (k : Fin 4) (s : State) : ∃ s1, execTriggerFire g k s = .next s1 ∧ Kept s s1 :=
  ⟨_, rfl, by simp [Kept]⟩

theorem execTrgPulseEnd_kept (p : Fin 8) (s : State) : ∃ s1, execTrgPulseEnd p s = .next s1 ∧ Kept s s1 :=
  ⟨_, rfl, .of_store rfl⟩

theorem execCommutationEvent_kept (g : Fin 16) (src : Fin 4) (s : State) : ∃ s1, execCommutationEvent g src s = .next s1 ∧ Kept s s1 :=
  ⟨_, rfl, by simp [Kept]⟩

theorem execTripAssert_kept (e : TripEdge) (s : State) : ∃ s1, execTripAssert e s = .next s1 ∧ Kept s s1 :=
  ⟨_, rfl, by simp [Kept]⟩

theorem execTripDeassert_kept (i : Fin 16) (s : State) : ∃ s1, execTripDeassert i s = .next s1 ∧ Kept s s1 :=
  ⟨_, rfl, .of_store rfl⟩

theorem execBlankingEnd_kept (g : Fin 16) (s : State) : ∃ s1, execBlankingEnd g s = .next s1 ∧ Kept s s1 :=
  ⟨_, rfl, by simp [Kept]⟩

/-! ExecGlobal. -/

theorem execPowerOnReset_kept (hostMode : Bool) (role : Fin 8) (s : State) : ∃ s1, execPowerOnReset hostMode role s = .next s1 ∧ Kept s s1 :=
  ⟨_, rfl, by simp [Kept]⟩

theorem execPinReset_kept (hostMode : Bool) (role : Fin 8) (s : State) : ∃ s1, execPinReset hostMode role s = .next s1 ∧ Kept s s1 :=
  ⟨_, rfl, by simp [Kept]⟩

theorem execCoreReset_kept (m : Master) (key : BitVec 16) (s : State) : ∃ s1, execCoreReset m key s = .next s1 ∧ Kept s s1 :=
  ⟨_, rfl, writeReg_kept _ _ _ _⟩

theorem execFullReset_kept (m : Master) (key : BitVec 16) (s : State) : ∃ s1, execFullReset m key s = .next s1 ∧ Kept s s1 :=
  ⟨_, rfl, writeReg_kept _ _ _ _⟩

theorem execPllLock_kept (s : State) : ∃ s1, execPllLock s = .next s1 ∧ Kept s s1 := ⟨_, rfl, by simp [Kept]⟩

theorem execTbLoRead_kept (m : Master) (s : State) : ∃ s1, execTbLoRead m s = .next s1 ∧ Kept s s1 :=
  ⟨_, rfl, readOp_kept _ _ _ _⟩

theorem execIdSerialLoRead_kept (m : Master) (s : State) : ∃ s1, execIdSerialLoRead m s = .next s1 ∧ Kept s s1 :=
  ⟨_, rfl, readOp_kept _ _ _ _⟩

theorem execClearOnRead_kept (m : Master) (addr : Nat) (sz : Size) (s : State) : ∃ s1, execClearOnRead m addr sz s = .next s1 ∧ Kept s s1 :=
  ⟨_, rfl, arbitrate_kept _ _ _ _ heldOff_kept fun t => by simp [Kept]⟩

theorem execRegisterWrite_kept (m : Master) (addr : Nat) (w : Word) (s : State) : ∃ s1, execRegisterWrite m addr w s = .next s1 ∧ Kept s s1 :=
  ⟨_, rfl, .ite _ (.refl _) (arbitrate_kept _ _ _ _ heldOff_kept fun t => by simp [Kept])⟩

theorem execStagedWrite_kept (m : Master) (addr : Nat) (w : Word) (s : State) : ∃ s1, execStagedWrite m addr w s = .next s1 ∧ Kept s s1 :=
  ⟨_, rfl, .ite _ (.refl _) (arbitrate_kept _ _ _ _ heldOff_kept fun t => by simp [Kept])⟩

theorem execCsTake_kept (m : Master) (mode fx : Fin 4) (s : State) : ∃ s1, execCsTake m mode fx s = .next s1 ∧ Kept s s1 :=
  ⟨_, rfl, writeReg_kept _ _ _ _⟩

theorem execCsRelease_kept (m : Master) (s : State) : ∃ s1, execCsRelease m s = .next s1 ∧ Kept s s1 :=
  ⟨_, rfl, writeReg_kept _ _ _ _⟩

theorem execContactSheetFreeze_kept (s : State) : ∃ s1, execContactSheetFreeze s = .next s1 ∧ Kept s s1 :=
  ⟨_, rfl, by simp [Kept]⟩

theorem execCsReady_kept (s : State) : ∃ s1, execCsReady s = .next s1 ∧ Kept s s1 := ⟨_, rfl, by simp [Kept]⟩

theorem execSnapshotRead_kept (m : Master) (off : Fin 4096) (s : State) : ∃ s1, execSnapshotRead m off s = .next s1 ∧ Kept s s1 :=
  ⟨_, rfl, arbitrate_kept _ _ _ _ heldOff_kept fun t => by simp [Kept]⟩

theorem execFixChannelArm_kept (m : Master) (k : Fin 4) (s : State) : ∃ s1, execFixChannelArm m k s = .next s1 ∧ Kept s s1 :=
  ⟨_, rfl, writeReg_kept _ _ _ _⟩

theorem execFixChannelCancel_kept (m : Master) (k : Fin 4) (s : State) : ∃ s1, execFixChannelCancel m k s = .next s1 ∧ Kept s s1 :=
  ⟨_, rfl, writeReg_kept _ _ _ _⟩

theorem execFixChannelDiscard_kept (m : Master) (k : Fin 4) (s : State) : ∃ s1, execFixChannelDiscard m k s = .next s1 ∧ Kept s s1 :=
  ⟨_, rfl, writeReg_kept _ _ _ _⟩

theorem execFixCommit_kept (k : Fin 4) (s : State) : ∃ s1, execFixCommit k s = .next s1 ∧ Kept s s1 := ⟨_, rfl, by simp [Kept]⟩

/-! ExecHost. -/

theorem execRead4_kept (addr : Fin 16777216) (hsecChg abort : Bool) (s : State) : ∃ s1, execRead4 addr hsecChg abort s = .next s1 ∧ Kept s s1 :=
  ⟨_, rfl, hostRow_kept _ _ fun t => arbitrate_kept _ _ _ _ heldOff_kept fun t => qspiOp_kept _ _ _ _ _ _⟩

theorem execRead2_kept (addr : Fin 16777216) (hsecChg abort : Bool) (s : State) : ∃ s1, execRead2 addr hsecChg abort s = .next s1 ∧ Kept s s1 :=
  ⟨_, rfl, hostRow_kept _ _ fun t => arbitrate_kept _ _ _ _ heldOff_kept fun t => qspiOp_kept _ _ _ _ _ _⟩

theorem execRead1_kept (addr : Fin 16777216) (hsecChg abort : Bool) (s : State) : ∃ s1, execRead1 addr hsecChg abort s = .next s1 ∧ Kept s s1 :=
  ⟨_, rfl, hostRow_kept _ _ fun t => arbitrate_kept _ _ _ _ heldOff_kept fun t => qspiOp_kept _ _ _ _ _ _⟩

theorem execWrite4_kept (addr : Fin 16777216) (w : Word) (hsecChg abort : Bool) (s : State) : ∃ s1, execWrite4 addr w hsecChg abort s = .next s1 ∧ Kept s s1 :=
  ⟨_, rfl, hostRow_kept _ _ fun t => arbitrate_kept _ _ _ _ heldOff_kept fun t => qspiOp_kept _ _ _ _ _ _⟩

theorem execWrite2_kept (addr : Fin 16777216) (w : BitVec 16) (hsecChg abort : Bool) (s : State) : ∃ s1, execWrite2 addr w hsecChg abort s = .next s1 ∧ Kept s s1 :=
  ⟨_, rfl, hostRow_kept _ _ fun t => arbitrate_kept _ _ _ _ heldOff_kept fun t => qspiOp_kept _ _ _ _ _ _⟩

theorem execWrite1_kept (addr : Fin 16777216) (w : Byte) (hsecChg abort : Bool) (s : State) : ∃ s1, execWrite1 addr w hsecChg abort s = .next s1 ∧ Kept s s1 :=
  ⟨_, rfl, hostRow_kept _ _ fun t => arbitrate_kept _ _ _ _ heldOff_kept fun t => qspiOp_kept _ _ _ _ _ _⟩

theorem execProto_kept (s : State) : ∃ s1, execProto s = .next s1 ∧ Kept s s1 := ⟨_, rfl, by simp [Kept]⟩

theorem execParallelReadCycle_kept (addr : Fin 16777216) (be0 be1 hsecChg : Bool) (s : State) : ∃ s1, execParallelReadCycle addr be0 be1 hsecChg s = .next s1 ∧ Kept s s1 :=
  ⟨_, rfl, hostRow_kept _ _ fun t => arbitrate_kept _ _ _ _ heldOff_kept fun t => by simp [Kept]⟩

theorem execParallelWriteCycle_kept (addr : Fin 16777216) (be0 be1 : Bool) (d : BitVec 16) (hsecChg : Bool) (s : State) : ∃ s1, execParallelWriteCycle addr be0 be1 d hsecChg s = .next s1 ∧ Kept s s1 :=
  ⟨_, rfl, hostRow_kept _ _ fun t => arbitrate_kept _ _ _ _ heldOff_kept fun t => by simp [Kept]⟩

theorem execHalfAlone_kept (s : State) : ∃ s1, execHalfAlone s = .next s1 ∧ Kept s s1 :=
  ⟨_, rfl, arbitrate_kept _ _ _ _ heldOff_kept fun t => by simp [Kept]⟩

/-! ExecProtect. -/

theorem execMeterBoundary_kept (s : State) : ∃ s1, execMeterBoundary s = .next s1 ∧ Kept s s1 := ⟨_, rfl, by simp [Kept]⟩

theorem execMtrRelease_kept (m : Master) (n : Fin 256) (s : State) : ∃ s1, execMtrRelease m n s = .next s1 ∧ Kept s s1 :=
  ⟨_, rfl, writeReg_kept _ _ _ _⟩

theorem execClrE_kept (m : Master) (n : Fin 256) (s : State) : ∃ s1, execClrE m n s = .next s1 ∧ Kept s s1 :=
  ⟨_, rfl, writeReg_kept _ _ _ _⟩

theorem execReleaseWindowStart_kept (s : State) : ∃ s1, execReleaseWindowStart s = .next s1 ∧ Kept s s1 :=
  ⟨_, rfl, by simp [Kept]⟩

theorem execDelayedEdge_kept (pin : Fin 128) (s : State) : ∃ s1, execDelayedEdge pin s = .next s1 ∧ Kept s s1 :=
  ⟨_, rfl, by simp [Kept]⟩

theorem execGuardGateOpen_kept (pin : Fin 128) (s : State) : ∃ s1, execGuardGateOpen pin s = .next s1 ∧ Kept s s1 :=
  ⟨_, rfl, by simp [Kept]⟩

theorem execSafePinAssert_kept (s : State) : ∃ s1, execSafePinAssert s = .next s1 ∧ Kept s s1 :=
  ⟨_, rfl, by simp [Kept]⟩

theorem execStopPinAssert_kept (s : State) : ∃ s1, execStopPinAssert s = .next s1 ∧ Kept s s1 :=
  ⟨_, rfl, by simp [Kept]⟩

theorem execSafeCmdEnter_kept (m : Master) (s : State) : ∃ s1, execSafeCmdEnter m s = .next s1 ∧ Kept s s1 :=
  ⟨_, rfl, writeReg_kept _ _ _ _⟩

theorem execSafeCmdExit_kept (m : Master) (key : BitVec 16) (s : State) : ∃ s1, execSafeCmdExit m key s = .next s1 ∧ Kept s s1 :=
  ⟨_, rfl, writeReg_kept _ _ _ _⟩

theorem execRundownTimeout_kept (s : State) : ∃ s1, execRundownTimeout s = .next s1 ∧ Kept s s1 := ⟨_, rfl, by simp [Kept]⟩

theorem execRdDone_kept (m : Master) (s : State) : ∃ s1, execRdDone m s = .next s1 ∧ Kept s s1 :=
  ⟨_, rfl, writeReg_kept _ _ _ _⟩

theorem execHwdEnable_kept (m : Master) (w : Word) (s : State) : ∃ s1, execHwdEnable m w s = .next s1 ∧ Kept s s1 :=
  ⟨_, rfl, writeReg_kept _ _ _ _⟩

theorem execHwdKick_kept (m : Master) (v : BitVec 8) (s : State) : ∃ s1, execHwdKick m v s = .next s1 ∧ Kept s s1 :=
  ⟨_, rfl, writeReg_kept _ _ _ _⟩

theorem execHwdRearm_kept (m : Master) (s : State) : ∃ s1, execHwdRearm m s = .next s1 ∧ Kept s s1 :=
  ⟨_, rfl, writeReg_kept _ _ _ _⟩

theorem execHwdExpiry_kept (s : State) : ∃ s1, execHwdExpiry s = .next s1 ∧ Kept s s1 := ⟨_, rfl, by simp [Kept]⟩

theorem execSafePinRelease_kept (s : State) : ∃ s1, execSafePinRelease s = .next s1 ∧ Kept s s1 := ⟨_, rfl, .of_store rfl⟩

theorem execStopPinRelease_kept (s : State) : ∃ s1, execStopPinRelease s = .next s1 ∧ Kept s s1 := ⟨_, rfl, .of_store rfl⟩

/-! ExecRecords. -/

theorem execRecordDelivery_kept (s : State) : ∃ s1, execRecordDelivery s = .next s1 ∧ Kept s s1 := ⟨_, rfl, by simp [Kept]⟩

theorem execRecordWriteComplete_kept (s : State) : ∃ s1, execRecordWriteComplete s = .next s1 ∧ Kept s s1 :=
  ⟨_, rfl, recordWriteOp_kept _⟩

theorem execEvrClaim_kept (m : Master) (bank : Fin 3) (fast : Bool) (s : State) : ∃ s1, execEvrClaim m bank fast s = .next s1 ∧ Kept s s1 :=
  ⟨_, rfl, readOp_kept _ _ _ _⟩

theorem execEvrDone_kept (m : Master) (bank : Fin 3) (fast : Bool) (idx : BitVec 12) (s : State) : ∃ s1, execEvrDone m bank fast idx s = .next s1 ∧ Kept s s1 :=
  ⟨_, rfl, writeReg_kept _ _ _ _⟩

theorem execClrLostN_kept (m : Master) (bank : Fin 3) (s : State) : ∃ s1, execClrLostN m bank s = .next s1 ∧ Kept s s1 :=
  ⟨_, rfl, writeReg_kept _ _ _ _⟩

theorem execClrLostF_kept (m : Master) (bank : Fin 3) (s : State) : ∃ s1, execClrLostF m bank s = .next s1 ∧ Kept s s1 :=
  ⟨_, rfl, writeReg_kept _ _ _ _⟩

theorem execRingCfgWrite_kept (m : Master) (bank : Fin 3) (fast isBase : Bool) (w : Word) (s : State) : ∃ s1, execRingCfgWrite m bank fast isBase w s = .next s1 ∧ Kept s s1 :=
  ⟨_, rfl, writeReg_kept _ _ _ _⟩

theorem execMaskWrite_kept (m : Master) (bank : Fin 3) (k : Fin 16) (w : Word) (s : State) : ∃ s1, execMaskWrite m bank k w s = .next s1 ∧ Kept s s1 :=
  ⟨_, rfl, writeReg_kept _ _ _ _⟩

theorem execRouteWrite_kept (m : Master) (src : Fin 512) (w : Word) (s : State) : ∃ s1, execRouteWrite m src w s = .next s1 ∧ Kept s s1 :=
  ⟨_, rfl, writeReg_kept _ _ _ _⟩

/-! ExecSafelight. -/

theorem execFirmwareLoad_kept (s : State) : ∃ s1, execFirmwareLoad s = .next s1 ∧ Kept s s1 := ⟨_, rfl, by simp [Kept]⟩

theorem execSafelightWatchdog_kept (s : State) : ∃ s1, execSafelightWatchdog s = .next s1 ∧ Kept s s1 :=
  ⟨_, rfl, by simp [Kept]⟩

theorem execTemperatureSample_kept (readings : Vector (BitVec 16) 4) (s : State) : ∃ s1, execTemperatureSample readings s = .next s1 ∧ Kept s s1 :=
  ⟨_, rfl, temperatureSampleOp_stored _ _ (.refl _)⟩

theorem execVoltageSample_kept (readings : Vector (BitVec 16) 6) (s : State) : ∃ s1, execVoltageSample readings s = .next s1 ∧ Kept s s1 :=
  ⟨_, rfl, voltageSampleOp_stored _ _ (.refl _)⟩

theorem execClockFault_kept (c : ClockId) (s : State) : ∃ s1, execClockFault c s = .next s1 ∧ Kept s s1 :=
  ⟨_, rfl, by simp [Kept]⟩

theorem execClockFaultReset_kept (c : ClockId) (s : State) : ∃ s1, execClockFaultReset c s = .next s1 ∧ Kept s s1 :=
  ⟨_, rfl, by simp [Kept]⟩

theorem execWarnRundown_kept (s : State) : ∃ s1, execWarnRundown s = .next s1 ∧ Kept s s1 := ⟨_, rfl, by simp [Kept]⟩

theorem execLifetimeUpdate_kept (s : State) : ∃ s1, execLifetimeUpdate s = .next s1 ∧ Kept s s1 := ⟨_, rfl, by simp [Kept]⟩

theorem execMbxClaim_kept (m : Master) (s : State) : ∃ s1, execMbxClaim m s = .next s1 ∧ Kept s s1 :=
  ⟨_, rfl, readOp_kept _ _ _ _⟩

theorem execMbxRelease_kept (m : Master) (s : State) : ∃ s1, execMbxRelease m s = .next s1 ∧ Kept s s1 :=
  ⟨_, rfl, writeReg_kept _ _ _ _⟩

theorem execMbxClaimTimeout_kept (s : State) : ∃ s1, execMbxClaimTimeout s = .next s1 ∧ Kept s s1 := ⟨_, rfl, by simp [Kept]⟩

theorem execMbxGo_kept (m : Master) (s : State) : ∃ s1, execMbxGo m s = .next s1 ∧ Kept s s1 := ⟨_, rfl, writeReg_kept _ _ _ _⟩

theorem execInfo_kept (s : State) : ∃ s1, execInfo s = .next s1 ∧ Kept s s1 := ⟨_, rfl, by simp [Kept]⟩

theorem execLogRead_kept (s : State) : ∃ s1, execLogRead s = .next s1 ∧ Kept s s1 := ⟨_, rfl, by simp [Kept]⟩

theorem execLifeRead_kept (s : State) : ∃ s1, execLifeRead s = .next s1 ∧ Kept s s1 := ⟨_, rfl, by simp [Kept]⟩

theorem execCertRead_kept (s : State) : ∃ s1, execCertRead s = .next s1 ∧ Kept s s1 := ⟨_, rfl, by simp [Kept]⟩

theorem execAttest_kept (s : State) : ∃ s1, execAttest s = .next s1 ∧ Kept s s1 := ⟨_, rfl, by simp [Kept]⟩

theorem execPost_kept (chPass : BitVec 128) (unitPass : BitVec 8) (firstFail : Word) (s : State) : ∃ s1, execPost chPass unitPass firstFail s = .next s1 ∧ Kept s s1 :=
  ⟨_, rfl, by simp [Kept]⟩

theorem execRundown_kept (s : State) : ∃ s1, execRundown s = .next s1 ∧ Kept s s1 := ⟨_, rfl, by simp [Kept]⟩

theorem execReset_kept (s : State) : ∃ s1, execReset s = .next s1 ∧ Kept s s1 := ⟨_, rfl, by simp [Kept]⟩

theorem execUpdErase_kept (flashOk : Bool) (s : State) : ∃ s1, execUpdErase flashOk s = .next s1 ∧ Kept s s1 :=
  ⟨_, rfl, by simp [Kept]⟩

theorem execUpdWrite_kept (flashOk : Bool) (s : State) : ∃ s1, execUpdWrite flashOk s = .next s1 ∧ Kept s s1 :=
  ⟨_, rfl, by simp [Kept]⟩

theorem execUpdVerify_kept (s : State) : ∃ s1, execUpdVerify s = .next s1 ∧ Kept s s1 := ⟨_, rfl, by simp [Kept]⟩

theorem execUpdArm_kept (s : State) : ∃ s1, execUpdArm s = .next s1 ∧ Kept s s1 := ⟨_, rfl, by simp [Kept]⟩

theorem execUpdActivate_kept (s : State) : ∃ s1, execUpdActivate s = .next s1 ∧ Kept s s1 := ⟨_, rfl, by simp [Kept]⟩

theorem execKeyOwner_kept (s : State) : ∃ s1, execKeyOwner s = .next s1 ∧ Kept s s1 := ⟨_, rfl, by simp [Kept]⟩

theorem execClockFaultCleared_kept (c : ClockId) (s : State) : ∃ s1, execClockFaultCleared c s = .next s1 ∧ Kept s s1 :=
  ⟨_, rfl, by simp [Kept]⟩

/-! ExecShutter. -/

@[simp] theorem shqCmd_stored {x : Store} (s : State) (m : Master) (n : Nat) (w : Word) (hk : Stored x s.store) : Stored x (shqCmd s m n w).store := by
  simp [shqCmd, hk]

theorem execShqEnable_kept (m : Master) (n : Fin 32) (w : Word) (s : State) : ∃ s1, execShqEnable m n w s = .next s1 ∧ Kept s s1 :=
  ⟨_, rfl, writeReg_kept _ _ _ _⟩

theorem execShqDisable_kept (m : Master) (n : Fin 32) (w : Word) (s : State) : ∃ s1, execShqDisable m n w s = .next s1 ∧ Kept s s1 :=
  ⟨_, rfl, writeReg_kept _ _ _ _⟩

theorem execSequencerTick_kept (n : Fin 32) (s : State) : ∃ s1, execSequencerTick n s = .next s1 ∧ Kept s s1 :=
  ⟨_, rfl, by simp [Kept]⟩

theorem execBr_kept (n : Fin 32) (cond : Fin 16) (pin : Fin 32) (addr : Fin 64) (hold : Fin 32) (s : State) : ∃ s1, execBr n cond pin addr hold s = .next s1 ∧ Kept s s1 :=
  ⟨_, rfl, by simp [Kept]⟩

theorem execDec_kept (n : Fin 32) (cy : Bool) (addr : Fin 64) (hold : Fin 32) (s : State) : ∃ s1, execDec n cy addr hold s = .next s1 ∧ Kept s s1 :=
  ⟨_, rfl, by simp [Kept]⟩

theorem execAwait_kept (n : Fin 32) (lvl : Bool) (src : Fin 4) (p : Fin 128) (hold : Fin 32) (s : State) : ∃ s1, execAwait n lvl src p hold s = .next s1 ∧ Kept s s1 :=
  ⟨_, rfl, by simp [Kept]⟩

theorem execEmit_kept (n : Fin 32) (code : Fin 8) (bits : Fin 32) (hold : Fin 32) (s : State) : ∃ s1, execEmit n code bits hold s = .next s1 ∧ Kept s s1 :=
  ⟨_, rfl, by simp [Kept]⟩

theorem execGather_kept (n : Fin 32) (code : Fin 8) (bits : Fin 32) (hold : Fin 32) (s : State) : ∃ s1, execGather n code bits hold s = .next s1 ∧ Kept s s1 :=
  ⟨_, rfl, by simp [Kept]⟩

theorem execXfer_kept (n : Fin 32) (dst src : Fin 8) (op : Fin 4) (hold : Fin 32) (s : State) : ∃ s1, execXfer n dst src op hold s = .next s1 ∧ Kept s s1 :=
  ⟨_, rfl, by simp [Kept]⟩

theorem execTake_kept (n : Fin 32) (wait ifx : Bool) (hold : Fin 32) (s : State) : ∃ s1, execTake n wait ifx hold s = .next s1 ∧ Kept s s1 :=
  ⟨_, rfl, by simp [Kept]⟩

theorem execGive_kept (n : Fin 32) (wait iff : Bool) (hold : Fin 32) (s : State) : ∃ s1, execGive n wait iff hold s = .next s1 ∧ Kept s s1 :=
  ⟨_, rfl, by simp [Kept]⟩

theorem execDrv_kept (n : Fin 32) (first : Fin 32) (cnt : Fin 8) (data : BitVec 7) (hold : Fin 32) (s : State) : ∃ s1, execDrv n first cnt data hold s = .next s1 ∧ Kept s s1 :=
  ⟨_, rfl, by simp [Kept]⟩

theorem execDirs_kept (n : Fin 32) (first : Fin 32) (cnt : Fin 8) (data : BitVec 7) (hold : Fin 32) (s : State) : ∃ s1, execDirs n first cnt data hold s = .next s1 ∧ Kept s s1 :=
  ⟨_, rfl, by simp [Kept]⟩

theorem execLdc_kept (n : Fin 32) (cy : Bool) (imm : BitVec 14) (hold : Fin 32) (s : State) : ∃ s1, execLdc n cy imm hold s = .next s1 ∧ Kept s s1 :=
  ⟨_, rfl, by simp [Kept]⟩

theorem execFlag_kept (n : Fin 32) (k : Fin 4) (hold : Fin 32) (s : State) : ∃ s1, execFlag n k hold s = .next s1 ∧ Kept s s1 :=
  ⟨_, rfl, by simp [Kept]⟩

theorem execStop_kept (n : Fin 32) (hold : Fin 32) (s : State) : ∃ s1, execStop n hold s = .next s1 ∧ Kept s s1 :=
  ⟨_, rfl, by simp [Kept]⟩

theorem execResume_kept (m : Master) (n : Fin 32) (s : State) : ∃ s1, execResume m n s = .next s1 ∧ Kept s s1 :=
  ⟨_, rfl, writeReg_kept _ _ _ _⟩

theorem execShqHalt_kept (m : Master) (n : Fin 32) (s : State) : ∃ s1, execShqHalt m n s = .next s1 ∧ Kept s s1 :=
  ⟨_, rfl, writeReg_kept _ _ _ _⟩

theorem execShiftClear_kept (m : Master) (n : Fin 32) (s : State) : ∃ s1, execShiftClear m n s = .next s1 ∧ Kept s s1 :=
  ⟨_, rfl, writeReg_kept _ _ _ _⟩

theorem execQclr_kept (m : Master) (n : Fin 32) (s : State) : ∃ s1, execQclr m n s = .next s1 ∧ Kept s s1 :=
  ⟨_, rfl, writeReg_kept _ _ _ _⟩

theorem execDivRst_kept (m : Master) (n : Fin 32) (s : State) : ∃ s1, execDivRst m n s = .next s1 ∧ Kept s s1 :=
  ⟨_, rfl, writeReg_kept _ _ _ _⟩

theorem execShqStart_kept (m : Master) (n : Fin 32) (s : State) : ∃ s1, execShqStart m n s = .next s1 ∧ Kept s s1 :=
  ⟨_, rfl, writeReg_kept _ _ _ _⟩

theorem execTxqWrite_kept (m : Master) (n : Fin 32) (w : Word) (s : State) : ∃ s1, execTxqWrite m n w s = .next s1 ∧ Kept s s1 :=
  ⟨_, rfl, writeReg_kept _ _ _ _⟩

theorem execRxqRead_kept (m : Master) (n : Fin 32) (s : State) : ∃ s1, execRxqRead m n s = .next s1 ∧ Kept s s1 :=
  ⟨_, rfl, readOp_kept _ _ _ _⟩

theorem execInjection_kept (m : Master) (n : Fin 32) (w : Word) (s : State) : ∃ s1, execInjection m n w s = .next s1 ∧ Kept s s1 :=
  ⟨_, rfl, writeReg_kept _ _ _ _⟩

theorem execProgWrite_kept (m : Master) (n : Fin 32) (off : Nat) (w : Word) (s : State) : ∃ s1, execProgWrite m n off w s = .next s1 ∧ Kept s s1 :=
  ⟨_, rfl, by simp [Kept]⟩

/-! ExecSpools. -/

theorem execSpoolAccess_kept (m : Master) (addr : Nat) (sz : Size) (wr : Option Word) (s : State) : ∃ s1, execSpoolAccess m addr sz wr s = .next s1 ∧ Kept s s1 :=
  ⟨_, rfl, arbitrate_kept _ _ _ _ heldOff_kept fun t => by simp [Kept]⟩

theorem execHandover_kept (m : Master) (n : Unit3) (w : Word) (s : State) : ∃ s1, execHandover m n w s = .next s1 ∧ Kept s s1 :=
  ⟨_, rfl, writeReg_kept _ _ _ _⟩

theorem execPowerRequest_kept (m : Master) (n : Unit3) (w : Word) (s : State) : ∃ s1, execPowerRequest m n w s = .next s1 ∧ Kept s s1 :=
  ⟨_, rfl, writeReg_kept _ _ _ _⟩

theorem execPowerChangeDone_kept (n : Unit3) (s : State) : ∃ s1, execPowerChangeDone n s = .next s1 ∧ Kept s s1 :=
  ⟨_, rfl, by simp [Kept]⟩

theorem execSpoolInitDone_kept (n : Unit3) (s : State) : ∃ s1, execSpoolInitDone n s = .next s1 ∧ Kept s s1 :=
  ⟨_, rfl, by simp [Kept]⟩

theorem execTestRegionBorrow_kept (n : Unit3) (s : State) : ∃ s1, execTestRegionBorrow n s = .next s1 ∧ Kept s s1 :=
  ⟨_, rfl, by simp [Kept]⟩

theorem execTestRegionRelease_kept (n : Unit3) (fail : Option (Fin 64 × Fin 39)) (s : State) : ∃ s1, execTestRegionRelease n fail s = .next s1 ∧ Kept s s1 :=
  ⟨_, rfl, by simp [Kept]⟩

theorem execRestart_kept (m : Master) (n : Unit3) (s : State) : ∃ s1, execRestart m n s = .next s1 ∧ Kept s s1 :=
  ⟨_, rfl, writeReg_kept _ _ _ _⟩

theorem execSplClrCnt_kept (m : Master) (n : Unit3) (s : State) : ∃ s1, execSplClrCnt m n s = .next s1 ∧ Kept s s1 :=
  ⟨_, rfl, writeReg_kept _ _ _ _⟩

theorem execCopyGo_kept (m : Master) (k : Unit3) (w : Word) (s : State) : ∃ s1, execCopyGo m k w s = .next s1 ∧ Kept s s1 :=
  ⟨_, rfl, writeReg_kept _ _ _ _⟩

theorem execCopyStop_kept (m : Master) (k : Unit3) (s : State) : ∃ s1, execCopyStop m k s = .next s1 ∧ Kept s s1 :=
  ⟨_, rfl, writeReg_kept _ _ _ _⟩

theorem execCopyWord_kept (k : Unit3) (s : State) : ∃ s1, execCopyWord k s = .next s1 ∧ Kept s s1 :=
  ⟨_, rfl, cpyWordOp_kept _ _⟩

theorem execCopyDone_kept (k : Unit3) (s : State) : ∃ s1, execCopyDone k s = .next s1 ∧ Kept s s1 := ⟨_, rfl, by simp [Kept]⟩

/-! ExecSprocket. -/

theorem execSpkEnable_kept (m : Master) (n : Unit3) (w : Word) (s : State) : ∃ s1, execSpkEnable m n w s = .next s1 ∧ Kept s s1 :=
  ⟨_, rfl, writeReg_kept _ _ _ _⟩

theorem execSpkDisable_kept (m : Master) (n : Unit3) (w : Word) (s : State) : ∃ s1, execSpkDisable m n w s = .next s1 ∧ Kept s s1 :=
  ⟨_, rfl, writeReg_kept _ _ _ _⟩

theorem execSpkToothEdge_kept (n : Unit3) (e : SpkEdge) (s : State) : ∃ s1, execSpkToothEdge n e s = .next s1 ∧ Kept s s1 :=
  ⟨_, rfl, by simp [Kept]⟩

theorem execSpkIndexEdge_kept (n : Unit3) (e : SpkEdge) (s : State) : ∃ s1, execSpkIndexEdge n e s = .next s1 ∧ Kept s s1 :=
  ⟨_, rfl, by simp [Kept]⟩

theorem execInputFault_kept (n : Unit3) (input : SpkInput) (s : State) : ∃ s1, execInputFault n input s = .next s1 ∧ Kept s s1 :=
  ⟨_, rfl, by simp [Kept]⟩

theorem execMissedTooth_kept (n : Unit3) (s : State) : ∃ s1, execMissedTooth n s = .next s1 ∧ Kept s s1 :=
  ⟨_, rfl, by simp [Kept]⟩

theorem execVirtualTooth_kept (n : Unit3) (s : State) : ∃ s1, execVirtualTooth n s = .next s1 ∧ Kept s s1 :=
  ⟨_, rfl, by simp [Kept]⟩

theorem execStopDetect_kept (n : Unit3) (s : State) : ∃ s1, execStopDetect n s = .next s1 ∧ Kept s s1 :=
  ⟨_, rfl, by simp [Kept]⟩

theorem execResync_kept (m : Master) (n : Unit3) (s : State) : ∃ s1, execResync m n s = .next s1 ∧ Kept s s1 :=
  ⟨_, rfl, writeReg_kept _ _ _ _⟩

theorem execSpkClrCnt_kept (m : Master) (n : Unit3) (s : State) : ∃ s1, execSpkClrCnt m n s = .next s1 ∧ Kept s s1 :=
  ⟨_, rfl, writeReg_kept _ _ _ _⟩

theorem execDropJournal_kept (m : Master) (n : Unit3) (s : State) : ∃ s1, execDropJournal m n s = .next s1 ∧ Kept s s1 :=
  ⟨_, rfl, writeReg_kept _ _ _ _⟩

theorem execSpkPosRead_kept (m : Master) (n : Unit3) (s : State) : ∃ s1, execSpkPosRead m n s = .next s1 ∧ Kept s s1 :=
  ⟨_, rfl, readOp_kept _ _ _ _⟩

theorem execSpkTsLoRead_kept (m : Master) (n : Unit3) (s : State) : ∃ s1, execSpkTsLoRead m n s = .next s1 ∧ Kept s s1 :=
  ⟨_, rfl, readOp_kept _ _ _ _⟩

theorem execPhaseEnable_kept (m : Master) (n : Unit3) (w : Word) (s : State) : ∃ s1, execPhaseEnable m n w s = .next s1 ∧ Kept s s1 :=
  ⟨_, rfl, writeReg_kept _ _ _ _⟩

theorem execPhaseMark_kept (n : Unit3) (mark : Mark) (s : State) : ∃ s1, execPhaseMark n mark s = .next s1 ∧ Kept s s1 :=
  ⟨_, rfl, by simp [Kept]⟩

theorem execPhPosRead_kept (m : Master) (n : Unit3) (s : State) : ∃ s1, execPhPosRead m n s = .next s1 ∧ Kept s s1 :=
  ⟨_, rfl, readOp_kept _ _ _ _⟩

end Sys2Proof.Machine
end

