-- ==== Sys2Proof/Laws/Frames.lean ====
section
/-! SUPPORT. What shared operations leave alone: one lemma per operation and field. -/

namespace Sys2Proof.Machine

theorem forEach_frame {α β : Type} (p : State → β) (xs : List α) (s : State) (f : State → α → State) (h : ∀ t x, p (f t x) = p t) :
    p (forEach xs s f) = p s := by
  unfold forEach
  induction xs generalizing s with
  | nil => rfl
  | cons x r ih => rw [List.foldl_cons, ih, h]

/-! The field `ch`. -/

@[simp] theorem forEach_ch {α : Type} (xs : List α) (s : State) (f : State → α → State) (h : ∀ t x, (f t x).ch = t.ch) :
    (forEach xs s f).ch = s.ch := forEach_frame (fun s : State => s.ch) xs s f h

@[simp] theorem ite_ch (c : Prop) [Decidable c] (a b : State) : (if c then a else b).ch = if c then a.ch else b.ch := apply_ite _ _ _ _

@[simp] theorem State_setReg_ch (s : State) (a : Nat) (w : Word) : (State.setReg s a w).ch = s.ch := by
  rfl

@[simp] theorem State_setRf_ch (s : State) (a hi lo v : Nat) : (State.setRf s a hi lo v).ch = s.ch := by
  rfl

@[simp] theorem State_drawWord_ch (s : State) : (State.drawWord s).2.ch = s.ch := by
  rfl

@[simp] theorem State_drawBool_ch (s : State) : (State.drawBool s).2.ch = s.ch := by
  rfl

@[simp] theorem State_putFresh_ch (s : State) (f : Fresh) : (State.putFresh s f).ch = s.ch := by
  rfl

@[simp] theorem State_markWr_ch (s : State) (a : Nat) : (State.markWr s a).ch = s.ch := by
  unfold State.markWr; split <;> simp

@[simp] theorem State_hwSet_ch (s : State) (a : Nat) (bits : Word) : (State.hwSet s a bits).ch = s.ch := by
  unfold State.hwSet; split <;> simp

@[simp] theorem State_hwUnset_ch (s : State) (a : Nat) (bits : Word) : (State.hwUnset s a bits).ch = s.ch := by
  unfold State.hwUnset; split <;> simp

@[simp] theorem State_hwSetBit_ch (s : State) (a i : Nat) : (State.hwSetBit s a i).ch = s.ch := by
  simp [State.hwSetBit]

@[simp] theorem State_rcReadTb_ch (s : State) (a : Nat) (ret shown : Word) : (State.rcReadTb s a ret shown).2.ch = s.ch := by
  rfl

@[simp] theorem State_rcRead_ch (s : State) (a : Nat) (ret live : Word) : (State.rcRead s a ret live).2.ch = s.ch := by
  unfold State.rcRead; (try dsimp only); (repeat' split) <;> simp_all

@[simp] theorem State_bump_ch (s : State) (a hi lo : Nat) : (State.bump s a hi lo).ch = s.ch := by
  simp [State.bump]

@[simp] theorem State_clearCnt_ch (s : State) (a : Nat) : (State.clearCnt s a).ch = s.ch := by
  simp [State.clearCnt]

@[simp] theorem State_after_ch (s : State) (d : Nat) (e : Due) : (State.after s d e).ch = s.ch := by
  rfl

@[simp] theorem State_putShadow_ch (s : State) (m : Master) (a : Nat) (w : Word) : (State.putShadow s m a w).ch = s.ch := by
  rfl

@[simp] theorem State_raiseIn_ch (s : State) (ofTb : Bool) (src kind : Nat) (d : Detail) (safety esc : Bool) : (State.raiseIn s ofTb src kind d safety esc).ch = s.ch := by
  rfl

@[simp] theorem State_raiseAs_ch (s : State) (src kind : Nat) (d : Detail) (safety esc : Bool) : (State.raiseAs s src kind d safety esc).ch = s.ch := by
  rfl

@[simp] theorem State_raise0_ch (s : State) (src kind : Nat) (d : Detail) : (State.raise0 s src kind d).ch = s.ch := by
  rfl

@[simp] theorem State_evrEvt_ch (s : State) (b bit kind cls idx : Nat) : (State.evrEvt s b bit kind cls idx).ch = s.ch := by
  simp [State.evrEvt]

@[simp] theorem State_evtRaise_ch (s : State) (evt en src b : Nat) (always : Bool) : (State.evtRaise s evt en src b always).ch = s.ch := by
  simp [State.evtRaise]

@[simp] theorem addOnTime_ch (s : State) (n : Nat) : (addOnTime s n).ch = s.ch := by
  rfl

@[simp] theorem gateHit_ch (s : State) (n : Nat) : (gateHit s n).ch = s.ch := by
  simp [gateHit]

@[simp] theorem settleBall_ch (s : State) (n : Nat) (old : Lvl) : (settleBall s n old).ch = s.ch := by
  simp [settleBall]

@[simp] theorem relEvent_ch (s : State) (bit : Nat) : (relEvent s bit).ch = s.ch := by
  simp [relEvent]

@[simp] theorem limiterIn_ch (s : State) (n : Nat) (l : Lvl) : (limiterIn s n l).ch = s.ch := by
  simp [limiterIn]

@[simp] theorem settlePin_ch (s : State) (n : Nat) : (settlePin s n).ch = s.ch := by
  simp [settlePin]

@[simp] theorem gateOpenOp_ch (s : State) (n : Nat) : (gateOpenOp s n).ch = s.ch := by
  simp [gateOpenOp]

@[simp] theorem drivePin_ch (s : State) (n : Nat) : (drivePin s n).ch = s.ch := by
  simp [drivePin]

@[simp] theorem settlePins_ch (s : State) (ns : List Nat) : (settlePins s ns).ch = s.ch := by
  simp [settlePins]

@[simp] theorem drivePins_ch (s : State) : (drivePins s).ch = s.ch := by
  simp [drivePins]

@[simp] theorem directAll_ch (s : State) : (directAll s).ch = s.ch := by
  simp [directAll]

@[simp] theorem sheetLosePoint_ch (s : State) (k : Nat) : (sheetLosePoint s k).ch = s.ch := by
  simp [sheetLosePoint]

@[simp] theorem fixDisarm_ch (s : State) (k : Nat) : (fixDisarm s k).ch = s.ch := by
  simp [fixDisarm]

@[simp] theorem fixCancel_ch (s : State) (k : Nat) : (fixCancel s k).ch = s.ch := by
  simp [fixCancel]

@[simp] theorem fixDiscard_ch (s : State) (k : Nat) : (fixDiscard s k).ch = s.ch := by
  rfl

@[simp] theorem exgDiscard_ch (s : State) (g : Nat) : (exgDiscard s g).ch = s.ch := by
  rw [exgDiscard, State.modExg_ch, forEach_ch]
  intros
  rfl

@[simp] theorem fmtEvent_ch (s : State) (bit src kind : Nat) : (fmtEvent s bit src kind).ch = s.ch := by
  simp [fmtEvent]

@[simp] theorem abandonChange_ch (s : State) : (abandonChange s).ch = s.ch := by
  simp [abandonChange]

@[simp] theorem rundownOver_ch (s : State) : (rundownOver s).ch = s.ch := by
  simp [rundownOver]

@[simp] theorem addCause_ch (s : State) (bit : Nat) : (addCause s bit).ch = s.ch := by
  rfl

@[simp] theorem enterSafeIn_ch (s : State) (ofTb : Bool) (bit : Nat) : (enterSafeIn s ofTb bit).ch = s.ch := by
  unfold enterSafeIn; (try dsimp only); (repeat' split) <;> simp_all

@[simp] theorem enterSafe_ch (s : State) (bit : Nat) : (enterSafe s bit).ch = s.ch := by
  simp [enterSafe]

@[simp] theorem escalateIn_ch (s : State) (ofTb : Bool) (cls src : Nat) : (escalateIn s ofTb cls src).ch = s.ch := by
  simp [escalateIn]

@[simp] theorem escalate_ch (s : State) (cls src : Nat) : (escalate s cls src).ch = s.ch := by
  simp [escalate]

@[simp] theorem raiseSafety_ch (s : State) (cls src kind : Nat) (d : Detail) : (raiseSafety s cls src kind d).ch = s.ch := by
  simp [raiseSafety]

@[simp] theorem thrRecord_ch (s : State) (t kind : Nat) (d : Word) : (thrRecord s t kind d).ch = s.ch := by
  rfl

@[simp] theorem evpSet_ch (s : State) (t bit : Nat) : (evpSet s t bit).ch = s.ch := by
  simp [evpSet]

@[simp] theorem evpAt_ch (s : State) (t bit d : Nat) : (evpAt s t bit d).ch = s.ch := by
  simp [evpAt]

@[simp] theorem evpTooth_ch (s : State) (n : Nat) : (evpTooth s n).ch = s.ch := by
  simp [evpTooth]

@[simp] theorem evpCap_ch (s : State) (ch : Nat) : (evpCap s ch).ch = s.ch := by
  simp [evpCap]

@[simp] theorem evpFix_ch (s : State) (k : Nat) : (evpFix s k).ch = s.ch := by
  simp [evpFix]

@[simp] theorem thrOvf_ch (s : State) (t bit kind : Nat) : (thrOvf s t bit kind).ch = s.ch := by
  simp [thrOvf]

@[simp] theorem wakePush_ch (s : State) (t : Nat) (v : BitVec 16) : (wakePush s t v).ch = s.ch := by
  simp [wakePush]

@[simp] theorem thrStop_ch (s : State) (t : Nat) : (thrStop s t).ch = s.ch := by
  rfl

@[simp] theorem thrStart_ch (s : State) (t : Nat) : (thrStart s t).ch = s.ch := by
  simp [thrStart]

@[simp] theorem thrClrEv_ch (s : State) (t : Nat) : (thrClrEv s t).ch = s.ch := by
  rfl

@[simp] theorem calForget_ch (s : State) (t : Nat) : (calForget s t).ch = s.ch := by
  rfl

@[simp] theorem thrRestart_ch (s : State) (t : Nat) (pc : BitVec 12) : (thrRestart s t pc).ch = s.ch := by
  simp [thrRestart]

@[simp] theorem thrCalResult_ch (s : State) (t : Nat) (res : Word) : (thrCalResult s t res).ch = s.ch := by
  rfl

@[simp] theorem mtrCfgWrite_ch (s : State) (n o : Nat) (w : Word) : (mtrCfgWrite s n o w).ch = s.ch := by
  rfl

@[simp] theorem mtrForce_ch (s : State) (n : Nat) (safety : Bool) : (mtrForce s n safety).ch = s.ch := by
  simp [mtrForce]

@[simp] theorem mtrFree_ch (s : State) (n : Nat) : (mtrFree s n).ch = s.ch := by
  rfl

@[simp] theorem mtrBoundary_ch (s : State) (n : Nat) : (mtrBoundary s n).ch = s.ch := by
  simp [mtrBoundary]

@[simp] theorem meterBoundaryOp_ch (s : State) : (meterBoundaryOp s).ch = s.ch := by
  simp [meterBoundaryOp]

@[simp] theorem meterOut_ch (s : State) (n : Nat) (forced : Bool) : (meterOut s n forced).ch = s.ch := by
  simp [meterOut]

@[simp] theorem mtrReleaseOp_ch (s : State) (n : Nat) : (mtrReleaseOp s n).ch = s.ch := by
  simp [mtrReleaseOp]

@[simp] theorem mtrClrEOp_ch (s : State) (n : Nat) : (mtrClrEOp s n).ch = s.ch := by
  rfl

@[simp] theorem boundaryFirst_ch (s : State) : (boundaryFirst s).ch = s.ch := by
  simp [boundaryFirst]

@[simp] theorem mtrCmdWrite_ch (s : State) (w : Word) : (mtrCmdWrite s w).ch = s.ch := by
  simp [mtrCmdWrite]

@[simp] theorem windowStartOp_ch (s : State) : (windowStartOp s).ch = s.ch := by
  unfold windowStartOp; (try dsimp only); (repeat' split) <;> (try simp_all) <;> (rw [forEach_ch] <;> (try simp) <;> (try (intros; (try dsimp only); (repeat' split) <;> simp_all)))

@[simp] theorem delayedEdge_ch (s : State) (n : Nat) : (delayedEdge s n).ch = s.ch := by
  unfold delayedEdge; (try dsimp only); (repeat' split) <;> simp_all

@[simp] theorem delayedEdgeOp_ch (s : State) (n : Nat) : (delayedEdgeOp s n).ch = s.ch := by
  simp [delayedEdgeOp]

@[simp] theorem guardArrives_ch (s : State) (u : Nat) (ok : Bool) : (guardArrives s u ok).ch = s.ch := by
  simp [guardArrives]

@[simp] theorem gateJoin_ch (s : State) (n : Nat) : (gateJoin s n).ch = s.ch := by
  simp [gateJoin]

@[simp] theorem groupsJoin_ch (s : State) : (groupsJoin s).ch = s.ch := by
  simp [groupsJoin]

@[simp] theorem safeExitReached_ch (s : State) : (safeExitReached s).ch = s.ch := by
  simp [safeExitReached]

@[simp] theorem rundownEnd_ch (s : State) : (rundownEnd s).ch = s.ch := by
  unfold rundownEnd; split <;> simp

@[simp] theorem rundownStart_ch (s : State) (why : RdWhy) : (rundownStart s why).ch = s.ch := by
  unfold rundownStart; (try dsimp only); (repeat' split) <;> simp_all

@[simp] theorem rundownSource_ch (s : State) (why : RdWhy) : (rundownSource s why).ch = s.ch := by
  simp [rundownSource]

@[simp] theorem rundownThreadGone_ch (s : State) (t : Nat) (fault : Bool) : (rundownThreadGone s t fault).ch = s.ch := by
  simp [rundownThreadGone]

@[simp] theorem rundownTimeoutOp_ch (s : State) : (rundownTimeoutOp s).ch = s.ch := by
  unfold rundownTimeoutOp; split <;> simp

@[simp] theorem rdDoneOp_ch (s : State) : (rdDoneOp s).ch = s.ch := by
  simp [rdDoneOp]

@[simp] theorem safePinOp_ch (s : State) : (safePinOp s).ch = s.ch := by
  simp [safePinOp]

@[simp] theorem stopPinOp_ch (s : State) : (stopPinOp s).ch = s.ch := by
  simp [stopPinOp]

@[simp] theorem safeEnterOp_ch (s : State) (m : Master) : (safeEnterOp s m).ch = s.ch := by
  simp [safeEnterOp]

@[simp] theorem safeExitOp_ch (s : State) : (safeExitOp s).ch = s.ch := by
  simp [safeExitOp]

@[simp] theorem safeCmdWrite_ch (s : State) (m : Master) (w : Word) : (safeCmdWrite s m w).ch = s.ch := by
  simp [safeCmdWrite]

@[simp] theorem hwdRestart_ch (s : State) : (hwdRestart s).ch = s.ch := by
  rfl

@[simp] theorem hwdCtlWrite_ch (s : State) (w : Word) : (hwdCtlWrite s w).ch = s.ch := by
  simp [hwdCtlWrite]

@[simp] theorem hwdExpiryOp_ch (s : State) : (hwdExpiryOp s).ch = s.ch := by
  unfold hwdExpiryOp; (try dsimp only); (repeat' split) <;> simp_all

@[simp] theorem hwdKickOp_ch (s0 : State) (m : Master) (v : Nat) : (hwdKickOp s0 m v).ch = s0.ch := by
  simp [hwdKickOp]

@[simp] theorem safeWrite_ch (s : State) (m : Master) (a : Nat) (w : Word) : (safeWrite s m a w).ch = s.ch := by
  simp [safeWrite]

/-! The field `eng`. -/

@[simp] theorem forEach_eng {α : Type} (xs : List α) (s : State) (f : State → α → State) (h : ∀ t x, (f t x).eng = t.eng) :
    (forEach xs s f).eng = s.eng := forEach_frame (fun s : State => s.eng) xs s f h

@[simp] theorem ite_eng (c : Prop) [Decidable c] (a b : State) : (if c then a else b).eng = if c then a.eng else b.eng := apply_ite _ _ _ _

@[simp] theorem State_setReg_eng (s : State) (a : Nat) (w : Word) : (State.setReg s a w).eng = s.eng := by
  rfl

@[simp] theorem State_setRf_eng (s : State) (a hi lo v : Nat) : (State.setRf s a hi lo v).eng = s.eng := by
  rfl

@[simp] theorem State_drawWord_eng (s : State) : (State.drawWord s).2.eng = s.eng := by
  rfl

@[simp] theorem State_drawBool_eng (s : State) : (State.drawBool s).2.eng = s.eng := by
  rfl

@[simp] theorem State_putFresh_eng (s : State) (f : Fresh) : (State.putFresh s f).eng = s.eng := by
  rfl

@[simp] theorem State_markWr_eng (s : State) (a : Nat) : (State.markWr s a).eng = s.eng := by
  unfold State.markWr; split <;> simp

@[simp] theorem State_hwSet_eng (s : State) (a : Nat) (bits : Word) : (State.hwSet s a bits).eng = s.eng := by
  unfold State.hwSet; split <;> simp

@[simp] theorem State_hwUnset_eng (s : State) (a : Nat) (bits : Word) : (State.hwUnset s a bits).eng = s.eng := by
  unfold State.hwUnset; split <;> simp

@[simp] theorem State_hwSetBit_eng (s : State) (a i : Nat) : (State.hwSetBit s a i).eng = s.eng := by
  simp [State.hwSetBit]

@[simp] theorem State_sampled_eng (s : State) : (State.sampled s).eng = s.eng := by
  unfold State.sampled; split <;> simp

@[simp] theorem State_rcReadTb_eng (s : State) (a : Nat) (ret shown : Word) : (State.rcReadTb s a ret shown).2.eng = s.eng := by
  rfl

@[simp] theorem State_rcRead_eng (s : State) (a : Nat) (ret live : Word) : (State.rcRead s a ret live).2.eng = s.eng := by
  unfold State.rcRead; (try dsimp only); (repeat' split) <;> simp_all

@[simp] theorem State_bump_eng (s : State) (a hi lo : Nat) : (State.bump s a hi lo).eng = s.eng := by
  simp [State.bump]

@[simp] theorem State_clearCnt_eng (s : State) (a : Nat) : (State.clearCnt s a).eng = s.eng := by
  simp [State.clearCnt]

@[simp] theorem State_after_eng (s : State) (d : Nat) (e : Due) : (State.after s d e).eng = s.eng := by
  rfl

@[simp] theorem State_putShadow_eng (s : State) (m : Master) (a : Nat) (w : Word) : (State.putShadow s m a w).eng = s.eng := by
  rfl

@[simp] theorem State_raiseIn_eng (s : State) (ofTb : Bool) (src kind : Nat) (d : Detail) (safety esc : Bool) : (State.raiseIn s ofTb src kind d safety esc).eng = s.eng := by
  rfl

@[simp] theorem State_raiseAs_eng (s : State) (src kind : Nat) (d : Detail) (safety esc : Bool) : (State.raiseAs s src kind d safety esc).eng = s.eng := by
  rfl

@[simp] theorem State_raise0_eng (s : State) (src kind : Nat) (d : Detail) : (State.raise0 s src kind d).eng = s.eng := by
  rfl

@[simp] theorem State_evrEvt_eng (s : State) (b bit kind cls idx : Nat) : (State.evrEvt s b bit kind cls idx).eng = s.eng := by
  simp [State.evrEvt]

@[simp] theorem State_evtRaise_eng (s : State) (evt en src b : Nat) (always : Bool) : (State.evtRaise s evt en src b always).eng = s.eng := by
  simp [State.evtRaise]

@[simp] theorem addOnTime_eng (s : State) (n : Nat) : (addOnTime s n).eng = s.eng := by
  rfl

@[simp] theorem gateHit_eng (s : State) (n : Nat) : (gateHit s n).eng = s.eng := by
  simp [gateHit]

@[simp] theorem settleBall_eng (s : State) (n : Nat) (old : Lvl) : (settleBall s n old).eng = s.eng := by
  simp [settleBall]

@[simp] theorem relEvent_eng (s : State) (bit : Nat) : (relEvent s bit).eng = s.eng := by
  simp [relEvent]

@[simp] theorem limiterIn_eng (s : State) (n : Nat) (l : Lvl) : (limiterIn s n l).eng = s.eng := by
  simp [limiterIn]

@[simp] theorem settlePin_eng (s : State) (n : Nat) : (settlePin s n).eng = s.eng := by
  simp [settlePin]

@[simp] theorem gateOpenOp_eng (s : State) (n : Nat) : (gateOpenOp s n).eng = s.eng := by
  simp [gateOpenOp]

@[simp] theorem drivePin_eng (s : State) (n : Nat) : (drivePin s n).eng = s.eng := by
  simp [drivePin]

@[simp] theorem settlePins_eng (s : State) (ns : List Nat) : (settlePins s ns).eng = s.eng := by
  simp [settlePins]

@[simp] theorem drivePins_eng (s : State) : (drivePins s).eng = s.eng := by
  simp [drivePins]

@[simp] theorem directAll_eng (s : State) : (directAll s).eng = s.eng := by
  simp [directAll]

@[simp] theorem sheetLosePoint_eng (s : State) (k : Nat) : (sheetLosePoint s k).eng = s.eng := by
  simp [sheetLosePoint]

@[simp] theorem fixDisarm_eng (s : State) (k : Nat) : (fixDisarm s k).eng = s.eng := by
  simp [fixDisarm]

@[simp] theorem fixCancel_eng (s : State) (k : Nat) : (fixCancel s k).eng = s.eng := by
  simp [fixCancel]

@[simp] theorem fixDiscard_eng (s : State) (k : Nat) : (fixDiscard s k).eng = s.eng := by
  rfl

@[simp] theorem exgDiscard_eng (s : State) (g : Nat) : (exgDiscard s g).eng = s.eng := by
  rw [exgDiscard, State.modExg_eng, forEach_eng]
  intros
  rfl

@[simp] theorem fmtEvent_eng (s : State) (bit src kind : Nat) : (fmtEvent s bit src kind).eng = s.eng := by
  simp [fmtEvent]

@[simp] theorem abandonChange_eng (s : State) : (abandonChange s).eng = s.eng := by
  simp [abandonChange]

@[simp] theorem rundownOver_eng (s : State) : (rundownOver s).eng = s.eng := by
  simp [rundownOver]

@[simp] theorem addCause_eng (s : State) (bit : Nat) : (addCause s bit).eng = s.eng := by
  rfl

@[simp] theorem enterSafeIn_eng (s : State) (ofTb : Bool) (bit : Nat) : (enterSafeIn s ofTb bit).eng = s.eng := by
  unfold enterSafeIn; (try dsimp only); (repeat' split) <;> simp_all

@[simp] theorem enterSafe_eng (s : State) (bit : Nat) : (enterSafe s bit).eng = s.eng := by
  simp [enterSafe]

@[simp] theorem escalateIn_eng (s : State) (ofTb : Bool) (cls src : Nat) : (escalateIn s ofTb cls src).eng = s.eng := by
  simp [escalateIn]

@[simp] theorem escalate_eng (s : State) (cls src : Nat) : (escalate s cls src).eng = s.eng := by
  simp [escalate]

@[simp] theorem raiseSafety_eng (s : State) (cls src kind : Nat) (d : Detail) : (raiseSafety s cls src kind d).eng = s.eng := by
  simp [raiseSafety]

@[simp] theorem thrRecord_eng (s : State) (t kind : Nat) (d : Word) : (thrRecord s t kind d).eng = s.eng := by
  rfl

@[simp] theorem thrOvf_eng (s : State) (t bit kind : Nat) : (thrOvf s t bit kind).eng = s.eng := by
  simp [thrOvf]

@[simp] theorem calForget_eng (s : State) (t : Nat) : (calForget s t).eng = s.eng := by
  rfl

@[simp] theorem mtrCfgWrite_eng (s : State) (n o : Nat) (w : Word) : (mtrCfgWrite s n o w).eng = s.eng := by
  rfl

@[simp] theorem mtrForce_eng (s : State) (n : Nat) (safety : Bool) : (mtrForce s n safety).eng = s.eng := by
  simp [mtrForce]

@[simp] theorem mtrFree_eng (s : State) (n : Nat) : (mtrFree s n).eng = s.eng := by
  rfl

@[simp] theorem mtrBoundary_eng (s : State) (n : Nat) : (mtrBoundary s n).eng = s.eng := by
  simp [mtrBoundary]

@[simp] theorem meterBoundaryOp_eng (s : State) : (meterBoundaryOp s).eng = s.eng := by
  simp [meterBoundaryOp]

@[simp] theorem meterOut_eng (s : State) (n : Nat) (forced : Bool) : (meterOut s n forced).eng = s.eng := by
  simp [meterOut]

@[simp] theorem mtrReleaseOp_eng (s : State) (n : Nat) : (mtrReleaseOp s n).eng = s.eng := by
  simp [mtrReleaseOp]

@[simp] theorem mtrClrEOp_eng (s : State) (n : Nat) : (mtrClrEOp s n).eng = s.eng := by
  rfl

@[simp] theorem boundaryFirst_eng (s : State) : (boundaryFirst s).eng = s.eng := by
  simp [boundaryFirst]

@[simp] theorem mtrCmdWrite_eng (s : State) (w : Word) : (mtrCmdWrite s w).eng = s.eng := by
  simp [mtrCmdWrite]

@[simp] theorem windowStartOp_eng (s : State) : (windowStartOp s).eng = s.eng := by
  unfold windowStartOp; (try dsimp only); (repeat' split) <;> (try simp_all) <;> (rw [forEach_eng] <;> (try simp) <;> (try (intros; (try dsimp only); (repeat' split) <;> simp_all)))

@[simp] theorem delayedEdge_eng (s : State) (n : Nat) : (delayedEdge s n).eng = s.eng := by
  unfold delayedEdge; (try dsimp only); (repeat' split) <;> simp_all

@[simp] theorem delayedEdgeOp_eng (s : State) (n : Nat) : (delayedEdgeOp s n).eng = s.eng := by
  simp [delayedEdgeOp]

@[simp] theorem guardArrives_eng (s : State) (u : Nat) (ok : Bool) : (guardArrives s u ok).eng = s.eng := by
  simp [guardArrives]

@[simp] theorem gateJoin_eng (s : State) (n : Nat) : (gateJoin s n).eng = s.eng := by
  simp [gateJoin]

@[simp] theorem groupsJoin_eng (s : State) : (groupsJoin s).eng = s.eng := by
  simp [groupsJoin]

@[simp] theorem safeExitReached_eng (s : State) : (safeExitReached s).eng = s.eng := by
  simp [safeExitReached]

@[simp] theorem rundownEnd_eng (s : State) : (rundownEnd s).eng = s.eng := by
  unfold rundownEnd; split <;> simp

@[simp] theorem rundownThreadGone_eng (s : State) (t : Nat) (fault : Bool) : (rundownThreadGone s t fault).eng = s.eng := by
  simp [rundownThreadGone]

@[simp] theorem rundownTimeoutOp_eng (s : State) : (rundownTimeoutOp s).eng = s.eng := by
  unfold rundownTimeoutOp; split <;> simp

@[simp] theorem rdDoneOp_eng (s : State) : (rdDoneOp s).eng = s.eng := by
  simp [rdDoneOp]

@[simp] theorem safePinOp_eng (s : State) : (safePinOp s).eng = s.eng := by
  simp [safePinOp]

@[simp] theorem safeEnterOp_eng (s : State) (m : Master) : (safeEnterOp s m).eng = s.eng := by
  simp [safeEnterOp]

@[simp] theorem safeExitOp_eng (s : State) : (safeExitOp s).eng = s.eng := by
  simp [safeExitOp]

@[simp] theorem safeCmdWrite_eng (s : State) (m : Master) (w : Word) : (safeCmdWrite s m w).eng = s.eng := by
  simp [safeCmdWrite]

@[simp] theorem hwdRestart_eng (s : State) : (hwdRestart s).eng = s.eng := by
  rfl

@[simp] theorem hwdCtlWrite_eng (s : State) (w : Word) : (hwdCtlWrite s w).eng = s.eng := by
  simp [hwdCtlWrite]

/-! The field `shq`. -/

@[simp] theorem forEach_shq {α : Type} (xs : List α) (s : State) (f : State → α → State) (h : ∀ t x, (f t x).shq = t.shq) :
    (forEach xs s f).shq = s.shq := forEach_frame (fun s : State => s.shq) xs s f h

@[simp] theorem ite_shq (c : Prop) [Decidable c] (a b : State) : (if c then a else b).shq = if c then a.shq else b.shq := apply_ite _ _ _ _

@[simp] theorem State_setReg_shq (s : State) (a : Nat) (w : Word) : (State.setReg s a w).shq = s.shq := by
  rfl

@[simp] theorem State_setRf_shq (s : State) (a hi lo v : Nat) : (State.setRf s a hi lo v).shq = s.shq := by
  rfl

@[simp] theorem State_drawWord_shq (s : State) : (State.drawWord s).2.shq = s.shq := by
  rfl

@[simp] theorem State_drawBool_shq (s : State) : (State.drawBool s).2.shq = s.shq := by
  rfl

@[simp] theorem State_putFresh_shq (s : State) (f : Fresh) : (State.putFresh s f).shq = s.shq := by
  rfl

@[simp] theorem State_markWr_shq (s : State) (a : Nat) : (State.markWr s a).shq = s.shq := by
  unfold State.markWr; split <;> simp

@[simp] theorem State_hwSet_shq (s : State) (a : Nat) (bits : Word) : (State.hwSet s a bits).shq = s.shq := by
  unfold State.hwSet; split <;> simp

@[simp] theorem State_hwUnset_shq (s : State) (a : Nat) (bits : Word) : (State.hwUnset s a bits).shq = s.shq := by
  unfold State.hwUnset; split <;> simp

@[simp] theorem State_hwSetBit_shq (s : State) (a i : Nat) : (State.hwSetBit s a i).shq = s.shq := by
  simp [State.hwSetBit]

@[simp] theorem State_sampled_shq (s : State) : (State.sampled s).shq = s.shq := by
  unfold State.sampled; split <;> simp

@[simp] theorem State_rcReadTb_shq (s : State) (a : Nat) (ret shown : Word) : (State.rcReadTb s a ret shown).2.shq = s.shq := by
  rfl

@[simp] theorem State_rcRead_shq (s : State) (a : Nat) (ret live : Word) : (State.rcRead s a ret live).2.shq = s.shq := by
  unfold State.rcRead; (try dsimp only); (repeat' split) <;> simp_all

@[simp] theorem State_bump_shq (s : State) (a hi lo : Nat) : (State.bump s a hi lo).shq = s.shq := by
  simp [State.bump]

@[simp] theorem State_clearCnt_shq (s : State) (a : Nat) : (State.clearCnt s a).shq = s.shq := by
  simp [State.clearCnt]

@[simp] theorem State_after_shq (s : State) (d : Nat) (e : Due) : (State.after s d e).shq = s.shq := by
  rfl

@[simp] theorem State_putShadow_shq (s : State) (m : Master) (a : Nat) (w : Word) : (State.putShadow s m a w).shq = s.shq := by
  rfl

@[simp] theorem State_raiseIn_shq (s : State) (ofTb : Bool) (src kind : Nat) (d : Detail) (safety esc : Bool) : (State.raiseIn s ofTb src kind d safety esc).shq = s.shq := by
  rfl

@[simp] theorem State_raiseAs_shq (s : State) (src kind : Nat) (d : Detail) (safety esc : Bool) : (State.raiseAs s src kind d safety esc).shq = s.shq := by
  rfl

@[simp] theorem State_raise0_shq (s : State) (src kind : Nat) (d : Detail) : (State.raise0 s src kind d).shq = s.shq := by
  rfl

@[simp] theorem State_evrEvt_shq (s : State) (b bit kind cls idx : Nat) : (State.evrEvt s b bit kind cls idx).shq = s.shq := by
  simp [State.evrEvt]

@[simp] theorem State_evtRaise_shq (s : State) (evt en src b : Nat) (always : Bool) : (State.evtRaise s evt en src b always).shq = s.shq := by
  simp [State.evtRaise]

@[simp] theorem addOnTime_shq (s : State) (n : Nat) : (addOnTime s n).shq = s.shq := by
  rfl

@[simp] theorem gateHit_shq (s : State) (n : Nat) : (gateHit s n).shq = s.shq := by
  simp [gateHit]

@[simp] theorem settleBall_shq (s : State) (n : Nat) (old : Lvl) : (settleBall s n old).shq = s.shq := by
  simp [settleBall]

@[simp] theorem relEvent_shq (s : State) (bit : Nat) : (relEvent s bit).shq = s.shq := by
  simp [relEvent]

@[simp] theorem limiterIn_shq (s : State) (n : Nat) (l : Lvl) : (limiterIn s n l).shq = s.shq := by
  simp [limiterIn]

@[simp] theorem settlePin_shq (s : State) (n : Nat) : (settlePin s n).shq = s.shq := by
  simp [settlePin]

@[simp] theorem gateOpenOp_shq (s : State) (n : Nat) : (gateOpenOp s n).shq = s.shq := by
  simp [gateOpenOp]

@[simp] theorem drivePin_shq (s : State) (n : Nat) : (drivePin s n).shq = s.shq := by
  simp [drivePin]

@[simp] theorem settlePins_shq (s : State) (ns : List Nat) : (settlePins s ns).shq = s.shq := by
  simp [settlePins]

@[simp] theorem drivePins_shq (s : State) : (drivePins s).shq = s.shq := by
  simp [drivePins]

@[simp] theorem directAll_shq (s : State) : (directAll s).shq = s.shq := by
  simp [directAll]

@[simp] theorem sheetLosePoint_shq (s : State) (k : Nat) : (sheetLosePoint s k).shq = s.shq := by
  simp [sheetLosePoint]

@[simp] theorem fixDisarm_shq (s : State) (k : Nat) : (fixDisarm s k).shq = s.shq := by
  simp [fixDisarm]

@[simp] theorem fixCancel_shq (s : State) (k : Nat) : (fixCancel s k).shq = s.shq := by
  simp [fixCancel]

@[simp] theorem fixDiscard_shq (s : State) (k : Nat) : (fixDiscard s k).shq = s.shq := by
  rfl

@[simp] theorem exgDiscard_shq (s : State) (g : Nat) : (exgDiscard s g).shq = s.shq := by
  rw [exgDiscard, State.modExg_shq, forEach_shq]
  intros
  rfl

@[simp] theorem fmtEvent_shq (s : State) (bit src kind : Nat) : (fmtEvent s bit src kind).shq = s.shq := by
  simp [fmtEvent]

@[simp] theorem abandonChange_shq (s : State) : (abandonChange s).shq = s.shq := by
  simp [abandonChange]

@[simp] theorem rundownOver_shq (s : State) : (rundownOver s).shq = s.shq := by
  simp [rundownOver]

@[simp] theorem addCause_shq (s : State) (bit : Nat) : (addCause s bit).shq = s.shq := by
  rfl

@[simp] theorem enterSafeIn_shq (s : State) (ofTb : Bool) (bit : Nat) : (enterSafeIn s ofTb bit).shq = s.shq := by
  unfold enterSafeIn; (try dsimp only); (repeat' split) <;> simp_all

@[simp] theorem enterSafe_shq (s : State) (bit : Nat) : (enterSafe s bit).shq = s.shq := by
  simp [enterSafe]

@[simp] theorem escalateIn_shq (s : State) (ofTb : Bool) (cls src : Nat) : (escalateIn s ofTb cls src).shq = s.shq := by
  simp [escalateIn]

@[simp] theorem escalate_shq (s : State) (cls src : Nat) : (escalate s cls src).shq = s.shq := by
  simp [escalate]

@[simp] theorem raiseSafety_shq (s : State) (cls src kind : Nat) (d : Detail) : (raiseSafety s cls src kind d).shq = s.shq := by
  simp [raiseSafety]

@[simp] theorem thrRecord_shq (s : State) (t kind : Nat) (d : Word) : (thrRecord s t kind d).shq = s.shq := by
  rfl

@[simp] theorem evpSet_shq (s : State) (t bit : Nat) : (evpSet s t bit).shq = s.shq := by
  simp [evpSet]

@[simp] theorem evpAt_shq (s : State) (t bit d : Nat) : (evpAt s t bit d).shq = s.shq := by
  simp [evpAt]

@[simp] theorem evpTooth_shq (s : State) (n : Nat) : (evpTooth s n).shq = s.shq := by
  simp [evpTooth]

@[simp] theorem evpCap_shq (s : State) (ch : Nat) : (evpCap s ch).shq = s.shq := by
  simp [evpCap]

@[simp] theorem evpFix_shq (s : State) (k : Nat) : (evpFix s k).shq = s.shq := by
  simp [evpFix]

@[simp] theorem thrOvf_shq (s : State) (t bit kind : Nat) : (thrOvf s t bit kind).shq = s.shq := by
  simp [thrOvf]

@[simp] theorem wakePush_shq (s : State) (t : Nat) (v : BitVec 16) : (wakePush s t v).shq = s.shq := by
  simp [wakePush]

@[simp] theorem thrStop_shq (s : State) (t : Nat) : (thrStop s t).shq = s.shq := by
  rfl

@[simp] theorem thrStart_shq (s : State) (t : Nat) : (thrStart s t).shq = s.shq := by
  simp [thrStart]

@[simp] theorem thrClrEv_shq (s : State) (t : Nat) : (thrClrEv s t).shq = s.shq := by
  rfl

@[simp] theorem calForget_shq (s : State) (t : Nat) : (calForget s t).shq = s.shq := by
  rfl

@[simp] theorem thrRestart_shq (s : State) (t : Nat) (pc : BitVec 12) : (thrRestart s t pc).shq = s.shq := by
  simp [thrRestart]

@[simp] theorem thrCalResult_shq (s : State) (t : Nat) (res : Word) : (thrCalResult s t res).shq = s.shq := by
  rfl

@[simp] theorem mtrCfgWrite_shq (s : State) (n o : Nat) (w : Word) : (mtrCfgWrite s n o w).shq = s.shq := by
  rfl

@[simp] theorem mtrForce_shq (s : State) (n : Nat) (safety : Bool) : (mtrForce s n safety).shq = s.shq := by
  simp [mtrForce]

@[simp] theorem mtrFree_shq (s : State) (n : Nat) : (mtrFree s n).shq = s.shq := by
  rfl

@[simp] theorem mtrBoundary_shq (s : State) (n : Nat) : (mtrBoundary s n).shq = s.shq := by
  simp [mtrBoundary]

@[simp] theorem meterBoundaryOp_shq (s : State) : (meterBoundaryOp s).shq = s.shq := by
  simp [meterBoundaryOp]

@[simp] theorem meterOut_shq (s : State) (n : Nat) (forced : Bool) : (meterOut s n forced).shq = s.shq := by
  simp [meterOut]

@[simp] theorem mtrReleaseOp_shq (s : State) (n : Nat) : (mtrReleaseOp s n).shq = s.shq := by
  simp [mtrReleaseOp]

@[simp] theorem mtrClrEOp_shq (s : State) (n : Nat) : (mtrClrEOp s n).shq = s.shq := by
  rfl

@[simp] theorem boundaryFirst_shq (s : State) : (boundaryFirst s).shq = s.shq := by
  simp [boundaryFirst]

@[simp] theorem mtrCmdWrite_shq (s : State) (w : Word) : (mtrCmdWrite s w).shq = s.shq := by
  simp [mtrCmdWrite]

@[simp] theorem windowStartOp_shq (s : State) : (windowStartOp s).shq = s.shq := by
  unfold windowStartOp; (try dsimp only); (repeat' split) <;> (try simp_all) <;> (rw [forEach_shq] <;> (try simp) <;> (try (intros; (try dsimp only); (repeat' split) <;> simp_all)))

@[simp] theorem delayedEdge_shq (s : State) (n : Nat) : (delayedEdge s n).shq = s.shq := by
  unfold delayedEdge; (try dsimp only); (repeat' split) <;> simp_all

@[simp] theorem delayedEdgeOp_shq (s : State) (n : Nat) : (delayedEdgeOp s n).shq = s.shq := by
  simp [delayedEdgeOp]

@[simp] theorem guardArrives_shq (s : State) (u : Nat) (ok : Bool) : (guardArrives s u ok).shq = s.shq := by
  simp [guardArrives]

@[simp] theorem gateJoin_shq (s : State) (n : Nat) : (gateJoin s n).shq = s.shq := by
  simp [gateJoin]

@[simp] theorem groupsJoin_shq (s : State) : (groupsJoin s).shq = s.shq := by
  simp [groupsJoin]

@[simp] theorem safeExitReached_shq (s : State) : (safeExitReached s).shq = s.shq := by
  simp [safeExitReached]

@[simp] theorem rundownEnd_shq (s : State) : (rundownEnd s).shq = s.shq := by
  unfold rundownEnd; split <;> simp

@[simp] theorem rundownStart_shq (s : State) (why : RdWhy) : (rundownStart s why).shq = s.shq := by
  unfold rundownStart; (try dsimp only); (repeat' split) <;> simp_all

@[simp] theorem rundownSource_shq (s : State) (why : RdWhy) : (rundownSource s why).shq = s.shq := by
  simp [rundownSource]

@[simp] theorem rundownThreadGone_shq (s : State) (t : Nat) (fault : Bool) : (rundownThreadGone s t fault).shq = s.shq := by
  simp [rundownThreadGone]

@[simp] theorem rundownTimeoutOp_shq (s : State) : (rundownTimeoutOp s).shq = s.shq := by
  unfold rundownTimeoutOp; split <;> simp

@[simp] theorem rdDoneOp_shq (s : State) : (rdDoneOp s).shq = s.shq := by
  simp [rdDoneOp]

@[simp] theorem safePinOp_shq (s : State) : (safePinOp s).shq = s.shq := by
  simp [safePinOp]

@[simp] theorem stopPinOp_shq (s : State) : (stopPinOp s).shq = s.shq := by
  simp [stopPinOp]

@[simp] theorem safeEnterOp_shq (s : State) (m : Master) : (safeEnterOp s m).shq = s.shq := by
  simp [safeEnterOp]

@[simp] theorem safeExitOp_shq (s : State) : (safeExitOp s).shq = s.shq := by
  simp [safeExitOp]

@[simp] theorem safeCmdWrite_shq (s : State) (m : Master) (w : Word) : (safeCmdWrite s m w).shq = s.shq := by
  simp [safeCmdWrite]

@[simp] theorem hwdRestart_shq (s : State) : (hwdRestart s).shq = s.shq := by
  rfl

@[simp] theorem hwdCtlWrite_shq (s : State) (w : Word) : (hwdCtlWrite s w).shq = s.shq := by
  simp [hwdCtlWrite]

@[simp] theorem hwdExpiryOp_shq (s : State) : (hwdExpiryOp s).shq = s.shq := by
  unfold hwdExpiryOp; (try dsimp only); (repeat' split) <;> simp_all

@[simp] theorem hwdKickOp_shq (s0 : State) (m : Master) (v : Nat) : (hwdKickOp s0 m v).shq = s0.shq := by
  simp [hwdKickOp]

@[simp] theorem safeWrite_shq (s : State) (m : Master) (a : Nat) (w : Word) : (safeWrite s m a w).shq = s.shq := by
  simp [safeWrite]

/-! The field `spk`. -/

@[simp] theorem forEach_spk {α : Type} (xs : List α) (s : State) (f : State → α → State) (h : ∀ t x, (f t x).spk = t.spk) :
    (forEach xs s f).spk = s.spk := forEach_frame (fun s : State => s.spk) xs s f h

@[simp] theorem ite_spk (c : Prop) [Decidable c] (a b : State) : (if c then a else b).spk = if c then a.spk else b.spk := apply_ite _ _ _ _

@[simp] theorem State_setReg_spk (s : State) (a : Nat) (w : Word) : (State.setReg s a w).spk = s.spk := by
  rfl

@[simp] theorem State_setRf_spk (s : State) (a hi lo v : Nat) : (State.setRf s a hi lo v).spk = s.spk := by
  rfl

@[simp] theorem State_drawWord_spk (s : State) : (State.drawWord s).2.spk = s.spk := by
  rfl

@[simp] theorem State_drawBool_spk (s : State) : (State.drawBool s).2.spk = s.spk := by
  rfl

@[simp] theorem State_putFresh_spk (s : State) (f : Fresh) : (State.putFresh s f).spk = s.spk := by
  rfl

@[simp] theorem State_markWr_spk (s : State) (a : Nat) : (State.markWr s a).spk = s.spk := by
  unfold State.markWr; split <;> simp

@[simp] theorem State_hwSet_spk (s : State) (a : Nat) (bits : Word) : (State.hwSet s a bits).spk = s.spk := by
  unfold State.hwSet; split <;> simp

@[simp] theorem State_hwUnset_spk (s : State) (a : Nat) (bits : Word) : (State.hwUnset s a bits).spk = s.spk := by
  unfold State.hwUnset; split <;> simp

@[simp] theorem State_hwSetBit_spk (s : State) (a i : Nat) : (State.hwSetBit s a i).spk = s.spk := by
  simp [State.hwSetBit]

@[simp] theorem State_sampled_spk (s : State) : (State.sampled s).spk = s.spk := by
  unfold State.sampled; split <;> simp

@[simp] theorem State_rcReadTb_spk (s : State) (a : Nat) (ret shown : Word) : (State.rcReadTb s a ret shown).2.spk = s.spk := by
  rfl

@[simp] theorem State_rcRead_spk (s : State) (a : Nat) (ret live : Word) : (State.rcRead s a ret live).2.spk = s.spk := by
  unfold State.rcRead; (try dsimp only); (repeat' split) <;> simp_all

@[simp] theorem State_bump_spk (s : State) (a hi lo : Nat) : (State.bump s a hi lo).spk = s.spk := by
  simp [State.bump]

@[simp] theorem State_clearCnt_spk (s : State) (a : Nat) : (State.clearCnt s a).spk = s.spk := by
  simp [State.clearCnt]

@[simp] theorem State_after_spk (s : State) (d : Nat) (e : Due) : (State.after s d e).spk = s.spk := by
  rfl

@[simp] theorem State_putShadow_spk (s : State) (m : Master) (a : Nat) (w : Word) : (State.putShadow s m a w).spk = s.spk := by
  rfl

@[simp] theorem State_raiseIn_spk (s : State) (ofTb : Bool) (src kind : Nat) (d : Detail) (safety esc : Bool) : (State.raiseIn s ofTb src kind d safety esc).spk = s.spk := by
  rfl

@[simp] theorem State_raiseAs_spk (s : State) (src kind : Nat) (d : Detail) (safety esc : Bool) : (State.raiseAs s src kind d safety esc).spk = s.spk := by
  rfl

@[simp] theorem State_raise0_spk (s : State) (src kind : Nat) (d : Detail) : (State.raise0 s src kind d).spk = s.spk := by
  rfl

@[simp] theorem State_evrEvt_spk (s : State) (b bit kind cls idx : Nat) : (State.evrEvt s b bit kind cls idx).spk = s.spk := by
  simp [State.evrEvt]

@[simp] theorem State_evtRaise_spk (s : State) (evt en src b : Nat) (always : Bool) : (State.evtRaise s evt en src b always).spk = s.spk := by
  simp [State.evtRaise]

@[simp] theorem addOnTime_spk (s : State) (n : Nat) : (addOnTime s n).spk = s.spk := by
  rfl

@[simp] theorem gateHit_spk (s : State) (n : Nat) : (gateHit s n).spk = s.spk := by
  simp [gateHit]

@[simp] theorem settleBall_spk (s : State) (n : Nat) (old : Lvl) : (settleBall s n old).spk = s.spk := by
  simp [settleBall]

@[simp] theorem relEvent_spk (s : State) (bit : Nat) : (relEvent s bit).spk = s.spk := by
  simp [relEvent]

@[simp] theorem limiterIn_spk (s : State) (n : Nat) (l : Lvl) : (limiterIn s n l).spk = s.spk := by
  simp [limiterIn]

@[simp] theorem settlePin_spk (s : State) (n : Nat) : (settlePin s n).spk = s.spk := by
  simp [settlePin]

@[simp] theorem gateOpenOp_spk (s : State) (n : Nat) : (gateOpenOp s n).spk = s.spk := by
  simp [gateOpenOp]

@[simp] theorem drivePin_spk (s : State) (n : Nat) : (drivePin s n).spk = s.spk := by
  simp [drivePin]

@[simp] theorem settlePins_spk (s : State) (ns : List Nat) : (settlePins s ns).spk = s.spk := by
  simp [settlePins]

@[simp] theorem drivePins_spk (s : State) : (drivePins s).spk = s.spk := by
  simp [drivePins]

@[simp] theorem directAll_spk (s : State) : (directAll s).spk = s.spk := by
  simp [directAll]

@[simp] theorem sheetLosePoint_spk (s : State) (k : Nat) : (sheetLosePoint s k).spk = s.spk := by
  simp [sheetLosePoint]

@[simp] theorem fixDisarm_spk (s : State) (k : Nat) : (fixDisarm s k).spk = s.spk := by
  simp [fixDisarm]

@[simp] theorem fixCancel_spk (s : State) (k : Nat) : (fixCancel s k).spk = s.spk := by
  simp [fixCancel]

@[simp] theorem fixDiscard_spk (s : State) (k : Nat) : (fixDiscard s k).spk = s.spk := by
  rfl

@[simp] theorem exgDiscard_spk (s : State) (g : Nat) : (exgDiscard s g).spk = s.spk := by
  rw [exgDiscard, State.modExg_spk, forEach_spk]
  intros
  rfl

@[simp] theorem fmtEvent_spk (s : State) (bit src kind : Nat) : (fmtEvent s bit src kind).spk = s.spk := by
  simp [fmtEvent]

@[simp] theorem abandonChange_spk (s : State) : (abandonChange s).spk = s.spk := by
  simp [abandonChange]

@[simp] theorem rundownOver_spk (s : State) : (rundownOver s).spk = s.spk := by
  simp [rundownOver]

@[simp] theorem addCause_spk (s : State) (bit : Nat) : (addCause s bit).spk = s.spk := by
  rfl

@[simp] theorem enterSafeIn_spk (s : State) (ofTb : Bool) (bit : Nat) : (enterSafeIn s ofTb bit).spk = s.spk := by
  unfold enterSafeIn; (try dsimp only); (repeat' split) <;> simp_all

@[simp] theorem enterSafe_spk (s : State) (bit : Nat) : (enterSafe s bit).spk = s.spk := by
  simp [enterSafe]

@[simp] theorem escalateIn_spk (s : State) (ofTb : Bool) (cls src : Nat) : (escalateIn s ofTb cls src).spk = s.spk := by
  simp [escalateIn]

@[simp] theorem escalate_spk (s : State) (cls src : Nat) : (escalate s cls src).spk = s.spk := by
  simp [escalate]

@[simp] theorem raiseSafety_spk (s : State) (cls src kind : Nat) (d : Detail) : (raiseSafety s cls src kind d).spk = s.spk := by
  simp [raiseSafety]

@[simp] theorem thrRecord_spk (s : State) (t kind : Nat) (d : Word) : (thrRecord s t kind d).spk = s.spk := by
  rfl

@[simp] theorem evpSet_spk (s : State) (t bit : Nat) : (evpSet s t bit).spk = s.spk := by
  simp [evpSet]

@[simp] theorem evpAt_spk (s : State) (t bit d : Nat) : (evpAt s t bit d).spk = s.spk := by
  simp [evpAt]

@[simp] theorem evpTooth_spk (s : State) (n : Nat) : (evpTooth s n).spk = s.spk := by
  simp [evpTooth]

@[simp] theorem evpCap_spk (s : State) (ch : Nat) : (evpCap s ch).spk = s.spk := by
  simp [evpCap]

@[simp] theorem evpFix_spk (s : State) (k : Nat) : (evpFix s k).spk = s.spk := by
  simp [evpFix]

@[simp] theorem thrOvf_spk (s : State) (t bit kind : Nat) : (thrOvf s t bit kind).spk = s.spk := by
  simp [thrOvf]

@[simp] theorem wakePush_spk (s : State) (t : Nat) (v : BitVec 16) : (wakePush s t v).spk = s.spk := by
  simp [wakePush]

@[simp] theorem thrStop_spk (s : State) (t : Nat) : (thrStop s t).spk = s.spk := by
  rfl

@[simp] theorem thrStart_spk (s : State) (t : Nat) : (thrStart s t).spk = s.spk := by
  simp [thrStart]

@[simp] theorem thrClrEv_spk (s : State) (t : Nat) : (thrClrEv s t).spk = s.spk := by
  rfl

@[simp] theorem calForget_spk (s : State) (t : Nat) : (calForget s t).spk = s.spk := by
  rfl

@[simp] theorem thrRestart_spk (s : State) (t : Nat) (pc : BitVec 12) : (thrRestart s t pc).spk = s.spk := by
  simp [thrRestart]

@[simp] theorem thrCalResult_spk (s : State) (t : Nat) (res : Word) : (thrCalResult s t res).spk = s.spk := by
  rfl

@[simp] theorem mtrCfgWrite_spk (s : State) (n o : Nat) (w : Word) : (mtrCfgWrite s n o w).spk = s.spk := by
  rfl

@[simp] theorem mtrForce_spk (s : State) (n : Nat) (safety : Bool) : (mtrForce s n safety).spk = s.spk := by
  simp [mtrForce]

@[simp] theorem mtrFree_spk (s : State) (n : Nat) : (mtrFree s n).spk = s.spk := by
  rfl

@[simp] theorem mtrBoundary_spk (s : State) (n : Nat) : (mtrBoundary s n).spk = s.spk := by
  simp [mtrBoundary]

@[simp] theorem meterBoundaryOp_spk (s : State) : (meterBoundaryOp s).spk = s.spk := by
  simp [meterBoundaryOp]

@[simp] theorem meterOut_spk (s : State) (n : Nat) (forced : Bool) : (meterOut s n forced).spk = s.spk := by
  simp [meterOut]

@[simp] theorem mtrReleaseOp_spk (s : State) (n : Nat) : (mtrReleaseOp s n).spk = s.spk := by
  simp [mtrReleaseOp]

@[simp] theorem mtrClrEOp_spk (s : State) (n : Nat) : (mtrClrEOp s n).spk = s.spk := by
  rfl

@[simp] theorem boundaryFirst_spk (s : State) : (boundaryFirst s).spk = s.spk := by
  simp [boundaryFirst]

@[simp] theorem mtrCmdWrite_spk (s : State) (w : Word) : (mtrCmdWrite s w).spk = s.spk := by
  simp [mtrCmdWrite]

@[simp] theorem windowStartOp_spk (s : State) : (windowStartOp s).spk = s.spk := by
  unfold windowStartOp; (try dsimp only); (repeat' split) <;> (try simp_all) <;> (rw [forEach_spk] <;> (try simp) <;> (try (intros; (try dsimp only); (repeat' split) <;> simp_all)))

@[simp] theorem delayedEdge_spk (s : State) (n : Nat) : (delayedEdge s n).spk = s.spk := by
  unfold delayedEdge; (try dsimp only); (repeat' split) <;> simp_all

@[simp] theorem delayedEdgeOp_spk (s : State) (n : Nat) : (delayedEdgeOp s n).spk = s.spk := by
  simp [delayedEdgeOp]

@[simp] theorem guardArrives_spk (s : State) (u : Nat) (ok : Bool) : (guardArrives s u ok).spk = s.spk := by
  simp [guardArrives]

@[simp] theorem gateJoin_spk (s : State) (n : Nat) : (gateJoin s n).spk = s.spk := by
  simp [gateJoin]

@[simp] theorem groupsJoin_spk (s : State) : (groupsJoin s).spk = s.spk := by
  simp [groupsJoin]

@[simp] theorem safeExitReached_spk (s : State) : (safeExitReached s).spk = s.spk := by
  simp [safeExitReached]

@[simp] theorem rundownEnd_spk (s : State) : (rundownEnd s).spk = s.spk := by
  unfold rundownEnd; split <;> simp

@[simp] theorem rundownStart_spk (s : State) (why : RdWhy) : (rundownStart s why).spk = s.spk := by
  unfold rundownStart; (try dsimp only); (repeat' split) <;> simp_all

@[simp] theorem rundownSource_spk (s : State) (why : RdWhy) : (rundownSource s why).spk = s.spk := by
  simp [rundownSource]

@[simp] theorem rundownThreadGone_spk (s : State) (t : Nat) (fault : Bool) : (rundownThreadGone s t fault).spk = s.spk := by
  simp [rundownThreadGone]

@[simp] theorem rundownTimeoutOp_spk (s : State) : (rundownTimeoutOp s).spk = s.spk := by
  unfold rundownTimeoutOp; split <;> simp

@[simp] theorem rdDoneOp_spk (s : State) : (rdDoneOp s).spk = s.spk := by
  simp [rdDoneOp]

@[simp] theorem safePinOp_spk (s : State) : (safePinOp s).spk = s.spk := by
  simp [safePinOp]

@[simp] theorem stopPinOp_spk (s : State) : (stopPinOp s).spk = s.spk := by
  simp [stopPinOp]

@[simp] theorem safeEnterOp_spk (s : State) (m : Master) : (safeEnterOp s m).spk = s.spk := by
  simp [safeEnterOp]

@[simp] theorem safeExitOp_spk (s : State) : (safeExitOp s).spk = s.spk := by
  simp [safeExitOp]

@[simp] theorem safeCmdWrite_spk (s : State) (m : Master) (w : Word) : (safeCmdWrite s m w).spk = s.spk := by
  simp [safeCmdWrite]

@[simp] theorem hwdRestart_spk (s : State) : (hwdRestart s).spk = s.spk := by
  rfl

@[simp] theorem hwdCtlWrite_spk (s : State) (w : Word) : (hwdCtlWrite s w).spk = s.spk := by
  simp [hwdCtlWrite]

@[simp] theorem hwdExpiryOp_spk (s : State) : (hwdExpiryOp s).spk = s.spk := by
  unfold hwdExpiryOp; (try dsimp only); (repeat' split) <;> simp_all

@[simp] theorem hwdKickOp_spk (s0 : State) (m : Master) (v : Nat) : (hwdKickOp s0 m v).spk = s0.spk := by
  simp [hwdKickOp]

@[simp] theorem safeWrite_spk (s : State) (m : Master) (a : Nat) (w : Word) : (safeWrite s m a w).spk = s.spk := by
  simp [safeWrite]

/-! The field `tb`. -/

@[simp] theorem forEach_tb {α : Type} (xs : List α) (s : State) (f : State → α → State) (h : ∀ t x, (f t x).tb = t.tb) :
    (forEach xs s f).tb = s.tb := forEach_frame (fun s : State => s.tb) xs s f h

@[simp] theorem ite_tb (c : Prop) [Decidable c] (a b : State) : (if c then a else b).tb = if c then a.tb else b.tb := apply_ite _ _ _ _

@[simp] theorem State_setReg_tb (s : State) (a : Nat) (w : Word) : (State.setReg s a w).tb = s.tb := by
  rfl

@[simp] theorem State_setRf_tb (s : State) (a hi lo v : Nat) : (State.setRf s a hi lo v).tb = s.tb := by
  rfl

@[simp] theorem State_drawWord_tb (s : State) : (State.drawWord s).2.tb = s.tb := by
  rfl

@[simp] theorem State_drawBool_tb (s : State) : (State.drawBool s).2.tb = s.tb := by
  rfl

@[simp] theorem State_putFresh_tb (s : State) (f : Fresh) : (State.putFresh s f).tb = s.tb := by
  rfl

@[simp] theorem State_markWr_tb (s : State) (a : Nat) : (State.markWr s a).tb = s.tb := by
  unfold State.markWr; split <;> simp

@[simp] theorem State_hwSet_tb (s : State) (a : Nat) (bits : Word) : (State.hwSet s a bits).tb = s.tb := by
  unfold State.hwSet; split <;> simp

@[simp] theorem State_hwUnset_tb (s : State) (a : Nat) (bits : Word) : (State.hwUnset s a bits).tb = s.tb := by
  unfold State.hwUnset; split <;> simp

@[simp] theorem State_hwSetBit_tb (s : State) (a i : Nat) : (State.hwSetBit s a i).tb = s.tb := by
  simp [State.hwSetBit]

@[simp] theorem State_rcReadTb_tb (s : State) (a : Nat) (ret shown : Word) : (State.rcReadTb s a ret shown).2.tb = s.tb := by
  rfl

@[simp] theorem State_rcRead_tb (s : State) (a : Nat) (ret live : Word) : (State.rcRead s a ret live).2.tb = s.tb := by
  unfold State.rcRead; (try dsimp only); (repeat' split) <;> simp_all

@[simp] theorem State_bump_tb (s : State) (a hi lo : Nat) : (State.bump s a hi lo).tb = s.tb := by
  simp [State.bump]

@[simp] theorem State_clearCnt_tb (s : State) (a : Nat) : (State.clearCnt s a).tb = s.tb := by
  simp [State.clearCnt]

@[simp] theorem State_after_tb (s : State) (d : Nat) (e : Due) : (State.after s d e).tb = s.tb := by
  rfl

@[simp] theorem State_putShadow_tb (s : State) (m : Master) (a : Nat) (w : Word) : (State.putShadow s m a w).tb = s.tb := by
  rfl

@[simp] theorem State_raiseIn_tb (s : State) (ofTb : Bool) (src kind : Nat) (d : Detail) (safety esc : Bool) : (State.raiseIn s ofTb src kind d safety esc).tb = s.tb := by
  rfl

@[simp] theorem State_raiseAs_tb (s : State) (src kind : Nat) (d : Detail) (safety esc : Bool) : (State.raiseAs s src kind d safety esc).tb = s.tb := by
  rfl

@[simp] theorem State_raise0_tb (s : State) (src kind : Nat) (d : Detail) : (State.raise0 s src kind d).tb = s.tb := by
  rfl

@[simp] theorem State_evrEvt_tb (s : State) (b bit kind cls idx : Nat) : (State.evrEvt s b bit kind cls idx).tb = s.tb := by
  simp [State.evrEvt]

@[simp] theorem State_evtRaise_tb (s : State) (evt en src b : Nat) (always : Bool) : (State.evtRaise s evt en src b always).tb = s.tb := by
  simp [State.evtRaise]

@[simp] theorem addOnTime_tb (s : State) (n : Nat) : (addOnTime s n).tb = s.tb := by
  rfl

@[simp] theorem gateHit_tb (s : State) (n : Nat) : (gateHit s n).tb = s.tb := by
  simp [gateHit]

@[simp] theorem settleBall_tb (s : State) (n : Nat) (old : Lvl) : (settleBall s n old).tb = s.tb := by
  simp [settleBall]

@[simp] theorem relEvent_tb (s : State) (bit : Nat) : (relEvent s bit).tb = s.tb := by
  simp [relEvent]

@[simp] theorem limiterIn_tb (s : State) (n : Nat) (l : Lvl) : (limiterIn s n l).tb = s.tb := by
  simp [limiterIn]

@[simp] theorem settlePin_tb (s : State) (n : Nat) : (settlePin s n).tb = s.tb := by
  simp [settlePin]

@[simp] theorem gateOpenOp_tb (s : State) (n : Nat) : (gateOpenOp s n).tb = s.tb := by
  simp [gateOpenOp]

@[simp] theorem drivePin_tb (s : State) (n : Nat) : (drivePin s n).tb = s.tb := by
  simp [drivePin]

@[simp] theorem settlePins_tb (s : State) (ns : List Nat) : (settlePins s ns).tb = s.tb := by
  simp [settlePins]

@[simp] theorem drivePins_tb (s : State) : (drivePins s).tb = s.tb := by
  simp [drivePins]

@[simp] theorem directAll_tb (s : State) : (directAll s).tb = s.tb := by
  simp [directAll]

@[simp] theorem sheetLosePoint_tb (s : State) (k : Nat) : (sheetLosePoint s k).tb = s.tb := by
  simp [sheetLosePoint]

@[simp] theorem fixDisarm_tb (s : State) (k : Nat) : (fixDisarm s k).tb = s.tb := by
  simp [fixDisarm]

@[simp] theorem fixCancel_tb (s : State) (k : Nat) : (fixCancel s k).tb = s.tb := by
  simp [fixCancel]

@[simp] theorem fixDiscard_tb (s : State) (k : Nat) : (fixDiscard s k).tb = s.tb := by
  rfl

@[simp] theorem exgDiscard_tb (s : State) (g : Nat) : (exgDiscard s g).tb = s.tb := by
  rw [exgDiscard, State.modExg_tb, forEach_tb]
  intros
  rfl

@[simp] theorem fmtEvent_tb (s : State) (bit src kind : Nat) : (fmtEvent s bit src kind).tb = s.tb := by
  simp [fmtEvent]

@[simp] theorem abandonChange_tb (s : State) : (abandonChange s).tb = s.tb := by
  simp [abandonChange]

@[simp] theorem rundownOver_tb (s : State) : (rundownOver s).tb = s.tb := by
  simp [rundownOver]

@[simp] theorem addCause_tb (s : State) (bit : Nat) : (addCause s bit).tb = s.tb := by
  rfl

@[simp] theorem enterSafeIn_tb (s : State) (ofTb : Bool) (bit : Nat) : (enterSafeIn s ofTb bit).tb = s.tb := by
  unfold enterSafeIn; (try dsimp only); (repeat' split) <;> simp_all

@[simp] theorem enterSafe_tb (s : State) (bit : Nat) : (enterSafe s bit).tb = s.tb := by
  simp [enterSafe]

@[simp] theorem escalateIn_tb (s : State) (ofTb : Bool) (cls src : Nat) : (escalateIn s ofTb cls src).tb = s.tb := by
  simp [escalateIn]

@[simp] theorem escalate_tb (s : State) (cls src : Nat) : (escalate s cls src).tb = s.tb := by
  simp [escalate]

@[simp] theorem raiseSafety_tb (s : State) (cls src kind : Nat) (d : Detail) : (raiseSafety s cls src kind d).tb = s.tb := by
  simp [raiseSafety]

@[simp] theorem thrRecord_tb (s : State) (t kind : Nat) (d : Word) : (thrRecord s t kind d).tb = s.tb := by
  rfl

@[simp] theorem evpSet_tb (s : State) (t bit : Nat) : (evpSet s t bit).tb = s.tb := by
  simp [evpSet]

@[simp] theorem evpAt_tb (s : State) (t bit d : Nat) : (evpAt s t bit d).tb = s.tb := by
  simp [evpAt]

@[simp] theorem evpTooth_tb (s : State) (n : Nat) : (evpTooth s n).tb = s.tb := by
  simp [evpTooth]

@[simp] theorem evpCap_tb (s : State) (ch : Nat) : (evpCap s ch).tb = s.tb := by
  simp [evpCap]

@[simp] theorem evpFix_tb (s : State) (k : Nat) : (evpFix s k).tb = s.tb := by
  simp [evpFix]

@[simp] theorem thrOvf_tb (s : State) (t bit kind : Nat) : (thrOvf s t bit kind).tb = s.tb := by
  simp [thrOvf]

@[simp] theorem wakePush_tb (s : State) (t : Nat) (v : BitVec 16) : (wakePush s t v).tb = s.tb := by
  simp [wakePush]

@[simp] theorem thrStop_tb (s : State) (t : Nat) : (thrStop s t).tb = s.tb := by
  rfl

@[simp] theorem thrStart_tb (s : State) (t : Nat) : (thrStart s t).tb = s.tb := by
  simp [thrStart]

@[simp] theorem thrClrEv_tb (s : State) (t : Nat) : (thrClrEv s t).tb = s.tb := by
  rfl

@[simp] theorem calForget_tb (s : State) (t : Nat) : (calForget s t).tb = s.tb := by
  rfl

@[simp] theorem thrRestart_tb (s : State) (t : Nat) (pc : BitVec 12) : (thrRestart s t pc).tb = s.tb := by
  simp [thrRestart]

@[simp] theorem thrCalResult_tb (s : State) (t : Nat) (res : Word) : (thrCalResult s t res).tb = s.tb := by
  rfl

@[simp] theorem mtrCfgWrite_tb (s : State) (n o : Nat) (w : Word) : (mtrCfgWrite s n o w).tb = s.tb := by
  rfl

@[simp] theorem mtrForce_tb (s : State) (n : Nat) (safety : Bool) : (mtrForce s n safety).tb = s.tb := by
  simp [mtrForce]

@[simp] theorem mtrFree_tb (s : State) (n : Nat) : (mtrFree s n).tb = s.tb := by
  rfl

@[simp] theorem mtrBoundary_tb (s : State) (n : Nat) : (mtrBoundary s n).tb = s.tb := by
  simp [mtrBoundary]

@[simp] theorem meterBoundaryOp_tb (s : State) : (meterBoundaryOp s).tb = s.tb := by
  simp [meterBoundaryOp]

@[simp] theorem meterOut_tb (s : State) (n : Nat) (forced : Bool) : (meterOut s n forced).tb = s.tb := by
  simp [meterOut]

@[simp] theorem mtrReleaseOp_tb (s : State) (n : Nat) : (mtrReleaseOp s n).tb = s.tb := by
  simp [mtrReleaseOp]

@[simp] theorem mtrClrEOp_tb (s : State) (n : Nat) : (mtrClrEOp s n).tb = s.tb := by
  rfl

@[simp] theorem boundaryFirst_tb (s : State) : (boundaryFirst s).tb = s.tb := by
  simp [boundaryFirst]

@[simp] theorem mtrCmdWrite_tb (s : State) (w : Word) : (mtrCmdWrite s w).tb = s.tb := by
  simp [mtrCmdWrite]

@[simp] theorem windowStartOp_tb (s : State) : (windowStartOp s).tb = s.tb := by
  unfold windowStartOp; (try dsimp only); (repeat' split) <;> (try simp_all) <;> (rw [forEach_tb] <;> (try simp) <;> (try (intros; (try dsimp only); (repeat' split) <;> simp_all)))

@[simp] theorem delayedEdge_tb (s : State) (n : Nat) : (delayedEdge s n).tb = s.tb := by
  unfold delayedEdge; (try dsimp only); (repeat' split) <;> simp_all

@[simp] theorem delayedEdgeOp_tb (s : State) (n : Nat) : (delayedEdgeOp s n).tb = s.tb := by
  simp [delayedEdgeOp]

@[simp] theorem guardArrives_tb (s : State) (u : Nat) (ok : Bool) : (guardArrives s u ok).tb = s.tb := by
  simp [guardArrives]

@[simp] theorem gateJoin_tb (s : State) (n : Nat) : (gateJoin s n).tb = s.tb := by
  simp [gateJoin]

@[simp] theorem groupsJoin_tb (s : State) : (groupsJoin s).tb = s.tb := by
  simp [groupsJoin]

@[simp] theorem safeExitReached_tb (s : State) : (safeExitReached s).tb = s.tb := by
  simp [safeExitReached]

@[simp] theorem rundownEnd_tb (s : State) : (rundownEnd s).tb = s.tb := by
  unfold rundownEnd; split <;> simp

@[simp] theorem rundownStart_tb (s : State) (why : RdWhy) : (rundownStart s why).tb = s.tb := by
  unfold rundownStart; (try dsimp only); (repeat' split) <;> simp_all

@[simp] theorem rundownSource_tb (s : State) (why : RdWhy) : (rundownSource s why).tb = s.tb := by
  simp [rundownSource]

@[simp] theorem rundownThreadGone_tb (s : State) (t : Nat) (fault : Bool) : (rundownThreadGone s t fault).tb = s.tb := by
  simp [rundownThreadGone]

@[simp] theorem rundownTimeoutOp_tb (s : State) : (rundownTimeoutOp s).tb = s.tb := by
  unfold rundownTimeoutOp; split <;> simp

@[simp] theorem rdDoneOp_tb (s : State) : (rdDoneOp s).tb = s.tb := by
  simp [rdDoneOp]

@[simp] theorem safePinOp_tb (s : State) : (safePinOp s).tb = s.tb := by
  simp [safePinOp]

@[simp] theorem stopPinOp_tb (s : State) : (stopPinOp s).tb = s.tb := by
  simp [stopPinOp]

@[simp] theorem safeEnterOp_tb (s : State) (m : Master) : (safeEnterOp s m).tb = s.tb := by
  simp [safeEnterOp]

@[simp] theorem safeExitOp_tb (s : State) : (safeExitOp s).tb = s.tb := by
  simp [safeExitOp]

@[simp] theorem safeCmdWrite_tb (s : State) (m : Master) (w : Word) : (safeCmdWrite s m w).tb = s.tb := by
  simp [safeCmdWrite]

@[simp] theorem hwdRestart_tb (s : State) : (hwdRestart s).tb = s.tb := by
  rfl

@[simp] theorem hwdCtlWrite_tb (s : State) (w : Word) : (hwdCtlWrite s w).tb = s.tb := by
  simp [hwdCtlWrite]

@[simp] theorem hwdExpiryOp_tb (s : State) : (hwdExpiryOp s).tb = s.tb := by
  unfold hwdExpiryOp; (try dsimp only); (repeat' split) <;> simp_all

@[simp] theorem hwdKickOp_tb (s0 : State) (m : Master) (v : Nat) : (hwdKickOp s0 m v).tb = s0.tb := by
  simp [hwdKickOp]

@[simp] theorem safeWrite_tb (s : State) (m : Master) (a : Nat) (w : Word) : (safeWrite s m a w).tb = s.tb := by
  simp [safeWrite]

/-! The field `tbRun`. -/

@[simp] theorem forEach_tbRun {α : Type} (xs : List α) (s : State) (f : State → α → State) (h : ∀ t x, (f t x).tbRun = t.tbRun) :
    (forEach xs s f).tbRun = s.tbRun := forEach_frame (fun s : State => s.tbRun) xs s f h

@[simp] theorem ite_tbRun (c : Prop) [Decidable c] (a b : State) : (if c then a else b).tbRun = if c then a.tbRun else b.tbRun := apply_ite _ _ _ _

@[simp] theorem State_setReg_tbRun (s : State) (a : Nat) (w : Word) : (State.setReg s a w).tbRun = s.tbRun := by
  rfl

@[simp] theorem State_setRf_tbRun (s : State) (a hi lo v : Nat) : (State.setRf s a hi lo v).tbRun = s.tbRun := by
  rfl

@[simp] theorem State_drawWord_tbRun (s : State) : (State.drawWord s).2.tbRun = s.tbRun := by
  rfl

@[simp] theorem State_drawBool_tbRun (s : State) : (State.drawBool s).2.tbRun = s.tbRun := by
  rfl

@[simp] theorem State_putFresh_tbRun (s : State) (f : Fresh) : (State.putFresh s f).tbRun = s.tbRun := by
  rfl

@[simp] theorem State_markWr_tbRun (s : State) (a : Nat) : (State.markWr s a).tbRun = s.tbRun := by
  unfold State.markWr; split <;> simp

@[simp] theorem State_hwSet_tbRun (s : State) (a : Nat) (bits : Word) : (State.hwSet s a bits).tbRun = s.tbRun := by
  unfold State.hwSet; split <;> simp

@[simp] theorem State_hwUnset_tbRun (s : State) (a : Nat) (bits : Word) : (State.hwUnset s a bits).tbRun = s.tbRun := by
  unfold State.hwUnset; split <;> simp

@[simp] theorem State_hwSetBit_tbRun (s : State) (a i : Nat) : (State.hwSetBit s a i).tbRun = s.tbRun := by
  simp [State.hwSetBit]

@[simp] theorem State_sampled_tbRun (s : State) : (State.sampled s).tbRun = s.tbRun := by
  unfold State.sampled; split <;> simp

@[simp] theorem State_rcReadTb_tbRun (s : State) (a : Nat) (ret shown : Word) : (State.rcReadTb s a ret shown).2.tbRun = s.tbRun := by
  rfl

@[simp] theorem State_rcRead_tbRun (s : State) (a : Nat) (ret live : Word) : (State.rcRead s a ret live).2.tbRun = s.tbRun := by
  unfold State.rcRead; (try dsimp only); (repeat' split) <;> simp_all

@[simp] theorem State_bump_tbRun (s : State) (a hi lo : Nat) : (State.bump s a hi lo).tbRun = s.tbRun := by
  simp [State.bump]

@[simp] theorem State_clearCnt_tbRun (s : State) (a : Nat) : (State.clearCnt s a).tbRun = s.tbRun := by
  simp [State.clearCnt]

@[simp] theorem State_after_tbRun (s : State) (d : Nat) (e : Due) : (State.after s d e).tbRun = s.tbRun := by
  rfl

@[simp] theorem State_putShadow_tbRun (s : State) (m : Master) (a : Nat) (w : Word) : (State.putShadow s m a w).tbRun = s.tbRun := by
  rfl

@[simp] theorem State_raiseIn_tbRun (s : State) (ofTb : Bool) (src kind : Nat) (d : Detail) (safety esc : Bool) : (State.raiseIn s ofTb src kind d safety esc).tbRun = s.tbRun := by
  rfl

@[simp] theorem State_raiseAs_tbRun (s : State) (src kind : Nat) (d : Detail) (safety esc : Bool) : (State.raiseAs s src kind d safety esc).tbRun = s.tbRun := by
  rfl

@[simp] theorem State_raise0_tbRun (s : State) (src kind : Nat) (d : Detail) : (State.raise0 s src kind d).tbRun = s.tbRun := by
  rfl

@[simp] theorem State_evrEvt_tbRun (s : State) (b bit kind cls idx : Nat) : (State.evrEvt s b bit kind cls idx).tbRun = s.tbRun := by
  simp [State.evrEvt]

@[simp] theorem State_evtRaise_tbRun (s : State) (evt en src b : Nat) (always : Bool) : (State.evtRaise s evt en src b always).tbRun = s.tbRun := by
  simp [State.evtRaise]

@[simp] theorem addOnTime_tbRun (s : State) (n : Nat) : (addOnTime s n).tbRun = s.tbRun := by
  rfl

@[simp] theorem gateHit_tbRun (s : State) (n : Nat) : (gateHit s n).tbRun = s.tbRun := by
  simp [gateHit]

@[simp] theorem settleBall_tbRun (s : State) (n : Nat) (old : Lvl) : (settleBall s n old).tbRun = s.tbRun := by
  simp [settleBall]

@[simp] theorem relEvent_tbRun (s : State) (bit : Nat) : (relEvent s bit).tbRun = s.tbRun := by
  simp [relEvent]

@[simp] theorem limiterIn_tbRun (s : State) (n : Nat) (l : Lvl) : (limiterIn s n l).tbRun = s.tbRun := by
  simp [limiterIn]

@[simp] theorem settlePin_tbRun (s : State) (n : Nat) : (settlePin s n).tbRun = s.tbRun := by
  simp [settlePin]

@[simp] theorem gateOpenOp_tbRun (s : State) (n : Nat) : (gateOpenOp s n).tbRun = s.tbRun := by
  simp [gateOpenOp]

@[simp] theorem drivePin_tbRun (s : State) (n : Nat) : (drivePin s n).tbRun = s.tbRun := by
  simp [drivePin]

@[simp] theorem settlePins_tbRun (s : State) (ns : List Nat) : (settlePins s ns).tbRun = s.tbRun := by
  simp [settlePins]

@[simp] theorem drivePins_tbRun (s : State) : (drivePins s).tbRun = s.tbRun := by
  simp [drivePins]

@[simp] theorem directAll_tbRun (s : State) : (directAll s).tbRun = s.tbRun := by
  simp [directAll]

@[simp] theorem sheetLosePoint_tbRun (s : State) (k : Nat) : (sheetLosePoint s k).tbRun = s.tbRun := by
  simp [sheetLosePoint]

@[simp] theorem fixDisarm_tbRun (s : State) (k : Nat) : (fixDisarm s k).tbRun = s.tbRun := by
  simp [fixDisarm]

@[simp] theorem fixCancel_tbRun (s : State) (k : Nat) : (fixCancel s k).tbRun = s.tbRun := by
  simp [fixCancel]

@[simp] theorem fixDiscard_tbRun (s : State) (k : Nat) : (fixDiscard s k).tbRun = s.tbRun := by
  rfl

@[simp] theorem exgDiscard_tbRun (s : State) (g : Nat) : (exgDiscard s g).tbRun = s.tbRun := by
  rw [exgDiscard, State.modExg_tbRun, forEach_tbRun]
  intros
  rfl

@[simp] theorem fmtEvent_tbRun (s : State) (bit src kind : Nat) : (fmtEvent s bit src kind).tbRun = s.tbRun := by
  simp [fmtEvent]

@[simp] theorem abandonChange_tbRun (s : State) : (abandonChange s).tbRun = s.tbRun := by
  simp [abandonChange]

@[simp] theorem rundownOver_tbRun (s : State) : (rundownOver s).tbRun = s.tbRun := by
  simp [rundownOver]

@[simp] theorem addCause_tbRun (s : State) (bit : Nat) : (addCause s bit).tbRun = s.tbRun := by
  rfl

@[simp] theorem enterSafeIn_tbRun (s : State) (ofTb : Bool) (bit : Nat) : (enterSafeIn s ofTb bit).tbRun = s.tbRun := by
  unfold enterSafeIn; (try dsimp only); (repeat' split) <;> simp_all

@[simp] theorem enterSafe_tbRun (s : State) (bit : Nat) : (enterSafe s bit).tbRun = s.tbRun := by
  simp [enterSafe]

@[simp] theorem escalateIn_tbRun (s : State) (ofTb : Bool) (cls src : Nat) : (escalateIn s ofTb cls src).tbRun = s.tbRun := by
  simp [escalateIn]

@[simp] theorem escalate_tbRun (s : State) (cls src : Nat) : (escalate s cls src).tbRun = s.tbRun := by
  simp [escalate]

@[simp] theorem raiseSafety_tbRun (s : State) (cls src kind : Nat) (d : Detail) : (raiseSafety s cls src kind d).tbRun = s.tbRun := by
  simp [raiseSafety]

@[simp] theorem thrRecord_tbRun (s : State) (t kind : Nat) (d : Word) : (thrRecord s t kind d).tbRun = s.tbRun := by
  rfl

@[simp] theorem evpSet_tbRun (s : State) (t bit : Nat) : (evpSet s t bit).tbRun = s.tbRun := by
  simp [evpSet]

@[simp] theorem evpAt_tbRun (s : State) (t bit d : Nat) : (evpAt s t bit d).tbRun = s.tbRun := by
  simp [evpAt]

@[simp] theorem evpTooth_tbRun (s : State) (n : Nat) : (evpTooth s n).tbRun = s.tbRun := by
  simp [evpTooth]

@[simp] theorem evpCap_tbRun (s : State) (ch : Nat) : (evpCap s ch).tbRun = s.tbRun := by
  simp [evpCap]

@[simp] theorem evpFix_tbRun (s : State) (k : Nat) : (evpFix s k).tbRun = s.tbRun := by
  simp [evpFix]

@[simp] theorem thrOvf_tbRun (s : State) (t bit kind : Nat) : (thrOvf s t bit kind).tbRun = s.tbRun := by
  simp [thrOvf]

@[simp] theorem wakePush_tbRun (s : State) (t : Nat) (v : BitVec 16) : (wakePush s t v).tbRun = s.tbRun := by
  simp [wakePush]

@[simp] theorem thrStop_tbRun (s : State) (t : Nat) : (thrStop s t).tbRun = s.tbRun := by
  rfl

@[simp] theorem thrStart_tbRun (s : State) (t : Nat) : (thrStart s t).tbRun = s.tbRun := by
  simp [thrStart]

@[simp] theorem thrClrEv_tbRun (s : State) (t : Nat) : (thrClrEv s t).tbRun = s.tbRun := by
  rfl

@[simp] theorem calForget_tbRun (s : State) (t : Nat) : (calForget s t).tbRun = s.tbRun := by
  rfl

@[simp] theorem thrRestart_tbRun (s : State) (t : Nat) (pc : BitVec 12) : (thrRestart s t pc).tbRun = s.tbRun := by
  simp [thrRestart]

@[simp] theorem thrCalResult_tbRun (s : State) (t : Nat) (res : Word) : (thrCalResult s t res).tbRun = s.tbRun := by
  rfl

@[simp] theorem mtrCfgWrite_tbRun (s : State) (n o : Nat) (w : Word) : (mtrCfgWrite s n o w).tbRun = s.tbRun := by
  rfl

@[simp] theorem mtrForce_tbRun (s : State) (n : Nat) (safety : Bool) : (mtrForce s n safety).tbRun = s.tbRun := by
  simp [mtrForce]

@[simp] theorem mtrFree_tbRun (s : State) (n : Nat) : (mtrFree s n).tbRun = s.tbRun := by
  rfl

@[simp] theorem mtrBoundary_tbRun (s : State) (n : Nat) : (mtrBoundary s n).tbRun = s.tbRun := by
  simp [mtrBoundary]

@[simp] theorem meterBoundaryOp_tbRun (s : State) : (meterBoundaryOp s).tbRun = s.tbRun := by
  simp [meterBoundaryOp]

@[simp] theorem meterOut_tbRun (s : State) (n : Nat) (forced : Bool) : (meterOut s n forced).tbRun = s.tbRun := by
  simp [meterOut]

@[simp] theorem mtrReleaseOp_tbRun (s : State) (n : Nat) : (mtrReleaseOp s n).tbRun = s.tbRun := by
  simp [mtrReleaseOp]

@[simp] theorem mtrClrEOp_tbRun (s : State) (n : Nat) : (mtrClrEOp s n).tbRun = s.tbRun := by
  rfl

@[simp] theorem boundaryFirst_tbRun (s : State) : (boundaryFirst s).tbRun = s.tbRun := by
  simp [boundaryFirst]

@[simp] theorem mtrCmdWrite_tbRun (s : State) (w : Word) : (mtrCmdWrite s w).tbRun = s.tbRun := by
  simp [mtrCmdWrite]

@[simp] theorem windowStartOp_tbRun (s : State) : (windowStartOp s).tbRun = s.tbRun := by
  unfold windowStartOp; (try dsimp only); (repeat' split) <;> (try simp_all) <;> (rw [forEach_tbRun] <;> (try simp) <;> (try (intros; (try dsimp only); (repeat' split) <;> simp_all)))

@[simp] theorem delayedEdge_tbRun (s : State) (n : Nat) : (delayedEdge s n).tbRun = s.tbRun := by
  unfold delayedEdge; (try dsimp only); (repeat' split) <;> simp_all

@[simp] theorem delayedEdgeOp_tbRun (s : State) (n : Nat) : (delayedEdgeOp s n).tbRun = s.tbRun := by
  simp [delayedEdgeOp]

@[simp] theorem guardArrives_tbRun (s : State) (u : Nat) (ok : Bool) : (guardArrives s u ok).tbRun = s.tbRun := by
  simp [guardArrives]

@[simp] theorem gateJoin_tbRun (s : State) (n : Nat) : (gateJoin s n).tbRun = s.tbRun := by
  simp [gateJoin]

@[simp] theorem groupsJoin_tbRun (s : State) : (groupsJoin s).tbRun = s.tbRun := by
  simp [groupsJoin]

@[simp] theorem safeExitReached_tbRun (s : State) : (safeExitReached s).tbRun = s.tbRun := by
  simp [safeExitReached]

@[simp] theorem rundownEnd_tbRun (s : State) : (rundownEnd s).tbRun = s.tbRun := by
  unfold rundownEnd; split <;> simp

@[simp] theorem rundownStart_tbRun (s : State) (why : RdWhy) : (rundownStart s why).tbRun = s.tbRun := by
  unfold rundownStart; (try dsimp only); (repeat' split) <;> simp_all

@[simp] theorem rundownSource_tbRun (s : State) (why : RdWhy) : (rundownSource s why).tbRun = s.tbRun := by
  simp [rundownSource]

@[simp] theorem rundownThreadGone_tbRun (s : State) (t : Nat) (fault : Bool) : (rundownThreadGone s t fault).tbRun = s.tbRun := by
  simp [rundownThreadGone]

@[simp] theorem rundownTimeoutOp_tbRun (s : State) : (rundownTimeoutOp s).tbRun = s.tbRun := by
  unfold rundownTimeoutOp; split <;> simp

@[simp] theorem rdDoneOp_tbRun (s : State) : (rdDoneOp s).tbRun = s.tbRun := by
  simp [rdDoneOp]

@[simp] theorem safePinOp_tbRun (s : State) : (safePinOp s).tbRun = s.tbRun := by
  simp [safePinOp]

@[simp] theorem stopPinOp_tbRun (s : State) : (stopPinOp s).tbRun = s.tbRun := by
  simp [stopPinOp]

@[simp] theorem safeEnterOp_tbRun (s : State) (m : Master) : (safeEnterOp s m).tbRun = s.tbRun := by
  simp [safeEnterOp]

@[simp] theorem safeExitOp_tbRun (s : State) : (safeExitOp s).tbRun = s.tbRun := by
  simp [safeExitOp]

@[simp] theorem safeCmdWrite_tbRun (s : State) (m : Master) (w : Word) : (safeCmdWrite s m w).tbRun = s.tbRun := by
  simp [safeCmdWrite]

@[simp] theorem hwdRestart_tbRun (s : State) : (hwdRestart s).tbRun = s.tbRun := by
  rfl

@[simp] theorem hwdCtlWrite_tbRun (s : State) (w : Word) : (hwdCtlWrite s w).tbRun = s.tbRun := by
  simp [hwdCtlWrite]

@[simp] theorem hwdExpiryOp_tbRun (s : State) : (hwdExpiryOp s).tbRun = s.tbRun := by
  unfold hwdExpiryOp; (try dsimp only); (repeat' split) <;> simp_all

@[simp] theorem hwdKickOp_tbRun (s0 : State) (m : Master) (v : Nat) : (hwdKickOp s0 m v).tbRun = s0.tbRun := by
  simp [hwdKickOp]

@[simp] theorem safeWrite_tbRun (s : State) (m : Master) (a : Nat) (w : Word) : (safeWrite s m a w).tbRun = s.tbRun := by
  simp [safeWrite]

/-! The field `host`. -/

@[simp] theorem forEach_host {α : Type} (xs : List α) (s : State) (f : State → α → State) (h : ∀ t x, (f t x).host = t.host) :
    (forEach xs s f).host = s.host := forEach_frame (fun s : State => s.host) xs s f h

@[simp] theorem ite_host (c : Prop) [Decidable c] (a b : State) : (if c then a else b).host = if c then a.host else b.host := apply_ite _ _ _ _

@[simp] theorem State_setReg_host (s : State) (a : Nat) (w : Word) : (State.setReg s a w).host = s.host := by
  rfl

@[simp] theorem State_setRf_host (s : State) (a hi lo v : Nat) : (State.setRf s a hi lo v).host = s.host := by
  rfl

@[simp] theorem State_drawWord_host (s : State) : (State.drawWord s).2.host = s.host := by
  rfl

@[simp] theorem State_drawBool_host (s : State) : (State.drawBool s).2.host = s.host := by
  rfl

@[simp] theorem State_putFresh_host (s : State) (f : Fresh) : (State.putFresh s f).host = s.host := by
  rfl

@[simp] theorem State_markWr_host (s : State) (a : Nat) : (State.markWr s a).host = s.host := by
  unfold State.markWr; split <;> simp

@[simp] theorem State_hwSet_host (s : State) (a : Nat) (bits : Word) : (State.hwSet s a bits).host = s.host := by
  unfold State.hwSet; split <;> simp

@[simp] theorem State_hwUnset_host (s : State) (a : Nat) (bits : Word) : (State.hwUnset s a bits).host = s.host := by
  unfold State.hwUnset; split <;> simp

@[simp] theorem State_hwSetBit_host (s : State) (a i : Nat) : (State.hwSetBit s a i).host = s.host := by
  simp [State.hwSetBit]

@[simp] theorem State_sampled_host (s : State) : (State.sampled s).host = s.host := by
  unfold State.sampled; split <;> simp

@[simp] theorem State_rcReadTb_host (s : State) (a : Nat) (ret shown : Word) : (State.rcReadTb s a ret shown).2.host = s.host := by
  rfl

@[simp] theorem State_rcRead_host (s : State) (a : Nat) (ret live : Word) : (State.rcRead s a ret live).2.host = s.host := by
  unfold State.rcRead; (try dsimp only); (repeat' split) <;> simp_all

@[simp] theorem State_bump_host (s : State) (a hi lo : Nat) : (State.bump s a hi lo).host = s.host := by
  simp [State.bump]

@[simp] theorem State_clearCnt_host (s : State) (a : Nat) : (State.clearCnt s a).host = s.host := by
  simp [State.clearCnt]

@[simp] theorem State_after_host (s : State) (d : Nat) (e : Due) : (State.after s d e).host = s.host := by
  rfl

@[simp] theorem State_putShadow_host (s : State) (m : Master) (a : Nat) (w : Word) : (State.putShadow s m a w).host = s.host := by
  rfl

@[simp] theorem State_raiseIn_host (s : State) (ofTb : Bool) (src kind : Nat) (d : Detail) (safety esc : Bool) : (State.raiseIn s ofTb src kind d safety esc).host = s.host := by
  rfl

@[simp] theorem State_raiseAs_host (s : State) (src kind : Nat) (d : Detail) (safety esc : Bool) : (State.raiseAs s src kind d safety esc).host = s.host := by
  rfl

@[simp] theorem State_raise0_host (s : State) (src kind : Nat) (d : Detail) : (State.raise0 s src kind d).host = s.host := by
  rfl

@[simp] theorem State_evrEvt_host (s : State) (b bit kind cls idx : Nat) : (State.evrEvt s b bit kind cls idx).host = s.host := by
  simp [State.evrEvt]

@[simp] theorem State_evtRaise_host (s : State) (evt en src b : Nat) (always : Bool) : (State.evtRaise s evt en src b always).host = s.host := by
  simp [State.evtRaise]

@[simp] theorem addOnTime_host (s : State) (n : Nat) : (addOnTime s n).host = s.host := by
  rfl

@[simp] theorem gateHit_host (s : State) (n : Nat) : (gateHit s n).host = s.host := by
  simp [gateHit]

@[simp] theorem settleBall_host (s : State) (n : Nat) (old : Lvl) : (settleBall s n old).host = s.host := by
  simp [settleBall]

@[simp] theorem relEvent_host (s : State) (bit : Nat) : (relEvent s bit).host = s.host := by
  simp [relEvent]

@[simp] theorem limiterIn_host (s : State) (n : Nat) (l : Lvl) : (limiterIn s n l).host = s.host := by
  simp [limiterIn]

@[simp] theorem settlePin_host (s : State) (n : Nat) : (settlePin s n).host = s.host := by
  simp [settlePin]

@[simp] theorem gateOpenOp_host (s : State) (n : Nat) : (gateOpenOp s n).host = s.host := by
  simp [gateOpenOp]

@[simp] theorem drivePin_host (s : State) (n : Nat) : (drivePin s n).host = s.host := by
  simp [drivePin]

@[simp] theorem settlePins_host (s : State) (ns : List Nat) : (settlePins s ns).host = s.host := by
  simp [settlePins]

@[simp] theorem drivePins_host (s : State) : (drivePins s).host = s.host := by
  simp [drivePins]

@[simp] theorem directAll_host (s : State) : (directAll s).host = s.host := by
  simp [directAll]

@[simp] theorem sheetLosePoint_host (s : State) (k : Nat) : (sheetLosePoint s k).host = s.host := by
  simp [sheetLosePoint]

@[simp] theorem fixDisarm_host (s : State) (k : Nat) : (fixDisarm s k).host = s.host := by
  simp [fixDisarm]

@[simp] theorem fixCancel_host (s : State) (k : Nat) : (fixCancel s k).host = s.host := by
  simp [fixCancel]

@[simp] theorem fixDiscard_host (s : State) (k : Nat) : (fixDiscard s k).host = s.host := by
  rfl

@[simp] theorem exgDiscard_host (s : State) (g : Nat) : (exgDiscard s g).host = s.host := by
  rw [exgDiscard, State.modExg_host, forEach_host]
  intros
  rfl

@[simp] theorem fmtEvent_host (s : State) (bit src kind : Nat) : (fmtEvent s bit src kind).host = s.host := by
  simp [fmtEvent]

@[simp] theorem abandonChange_host (s : State) : (abandonChange s).host = s.host := by
  simp [abandonChange]

@[simp] theorem rundownOver_host (s : State) : (rundownOver s).host = s.host := by
  simp [rundownOver]

@[simp] theorem addCause_host (s : State) (bit : Nat) : (addCause s bit).host = s.host := by
  rfl

@[simp] theorem enterSafeIn_host (s : State) (ofTb : Bool) (bit : Nat) : (enterSafeIn s ofTb bit).host = s.host := by
  unfold enterSafeIn; (try dsimp only); (repeat' split) <;> simp_all

@[simp] theorem enterSafe_host (s : State) (bit : Nat) : (enterSafe s bit).host = s.host := by
  simp [enterSafe]

@[simp] theorem escalateIn_host (s : State) (ofTb : Bool) (cls src : Nat) : (escalateIn s ofTb cls src).host = s.host := by
  simp [escalateIn]

@[simp] theorem escalate_host (s : State) (cls src : Nat) : (escalate s cls src).host = s.host := by
  simp [escalate]

@[simp] theorem raiseSafety_host (s : State) (cls src kind : Nat) (d : Detail) : (raiseSafety s cls src kind d).host = s.host := by
  simp [raiseSafety]

@[simp] theorem thrRecord_host (s : State) (t kind : Nat) (d : Word) : (thrRecord s t kind d).host = s.host := by
  rfl

@[simp] theorem evpSet_host (s : State) (t bit : Nat) : (evpSet s t bit).host = s.host := by
  simp [evpSet]

@[simp] theorem evpAt_host (s : State) (t bit d : Nat) : (evpAt s t bit d).host = s.host := by
  simp [evpAt]

@[simp] theorem evpTooth_host (s : State) (n : Nat) : (evpTooth s n).host = s.host := by
  simp [evpTooth]

@[simp] theorem evpCap_host (s : State) (ch : Nat) : (evpCap s ch).host = s.host := by
  simp [evpCap]

@[simp] theorem evpFix_host (s : State) (k : Nat) : (evpFix s k).host = s.host := by
  simp [evpFix]

@[simp] theorem thrOvf_host (s : State) (t bit kind : Nat) : (thrOvf s t bit kind).host = s.host := by
  simp [thrOvf]

@[simp] theorem wakePush_host (s : State) (t : Nat) (v : BitVec 16) : (wakePush s t v).host = s.host := by
  simp [wakePush]

@[simp] theorem thrStop_host (s : State) (t : Nat) : (thrStop s t).host = s.host := by
  rfl

@[simp] theorem thrStart_host (s : State) (t : Nat) : (thrStart s t).host = s.host := by
  simp [thrStart]

@[simp] theorem thrClrEv_host (s : State) (t : Nat) : (thrClrEv s t).host = s.host := by
  rfl

@[simp] theorem calForget_host (s : State) (t : Nat) : (calForget s t).host = s.host := by
  rfl

@[simp] theorem thrRestart_host (s : State) (t : Nat) (pc : BitVec 12) : (thrRestart s t pc).host = s.host := by
  simp [thrRestart]

@[simp] theorem thrCalResult_host (s : State) (t : Nat) (res : Word) : (thrCalResult s t res).host = s.host := by
  rfl

@[simp] theorem mtrCfgWrite_host (s : State) (n o : Nat) (w : Word) : (mtrCfgWrite s n o w).host = s.host := by
  rfl

@[simp] theorem mtrForce_host (s : State) (n : Nat) (safety : Bool) : (mtrForce s n safety).host = s.host := by
  simp [mtrForce]

@[simp] theorem mtrFree_host (s : State) (n : Nat) : (mtrFree s n).host = s.host := by
  rfl

@[simp] theorem mtrBoundary_host (s : State) (n : Nat) : (mtrBoundary s n).host = s.host := by
  simp [mtrBoundary]

@[simp] theorem meterBoundaryOp_host (s : State) : (meterBoundaryOp s).host = s.host := by
  simp [meterBoundaryOp]

@[simp] theorem meterOut_host (s : State) (n : Nat) (forced : Bool) : (meterOut s n forced).host = s.host := by
  simp [meterOut]

@[simp] theorem mtrReleaseOp_host (s : State) (n : Nat) : (mtrReleaseOp s n).host = s.host := by
  simp [mtrReleaseOp]

@[simp] theorem mtrClrEOp_host (s : State) (n : Nat) : (mtrClrEOp s n).host = s.host := by
  rfl

@[simp] theorem boundaryFirst_host (s : State) : (boundaryFirst s).host = s.host := by
  simp [boundaryFirst]

@[simp] theorem mtrCmdWrite_host (s : State) (w : Word) : (mtrCmdWrite s w).host = s.host := by
  simp [mtrCmdWrite]

@[simp] theorem windowStartOp_host (s : State) : (windowStartOp s).host = s.host := by
  unfold windowStartOp; (try dsimp only); (repeat' split) <;> (try simp_all) <;> (rw [forEach_host] <;> (try simp) <;> (try (intros; (try dsimp only); (repeat' split) <;> simp_all)))

@[simp] theorem delayedEdge_host (s : State) (n : Nat) : (delayedEdge s n).host = s.host := by
  unfold delayedEdge; (try dsimp only); (repeat' split) <;> simp_all

@[simp] theorem delayedEdgeOp_host (s : State) (n : Nat) : (delayedEdgeOp s n).host = s.host := by
  simp [delayedEdgeOp]

@[simp] theorem guardArrives_host (s : State) (u : Nat) (ok : Bool) : (guardArrives s u ok).host = s.host := by
  simp [guardArrives]

@[simp] theorem gateJoin_host (s : State) (n : Nat) : (gateJoin s n).host = s.host := by
  simp [gateJoin]

@[simp] theorem groupsJoin_host (s : State) : (groupsJoin s).host = s.host := by
  simp [groupsJoin]

@[simp] theorem safeExitReached_host (s : State) : (safeExitReached s).host = s.host := by
  simp [safeExitReached]

@[simp] theorem rundownEnd_host (s : State) : (rundownEnd s).host = s.host := by
  unfold rundownEnd; split <;> simp

@[simp] theorem rundownStart_host (s : State) (why : RdWhy) : (rundownStart s why).host = s.host := by
  unfold rundownStart; (try dsimp only); (repeat' split) <;> simp_all

@[simp] theorem rundownSource_host (s : State) (why : RdWhy) : (rundownSource s why).host = s.host := by
  simp [rundownSource]

@[simp] theorem rundownThreadGone_host (s : State) (t : Nat) (fault : Bool) : (rundownThreadGone s t fault).host = s.host := by
  simp [rundownThreadGone]

@[simp] theorem rundownTimeoutOp_host (s : State) : (rundownTimeoutOp s).host = s.host := by
  unfold rundownTimeoutOp; split <;> simp

@[simp] theorem rdDoneOp_host (s : State) : (rdDoneOp s).host = s.host := by
  simp [rdDoneOp]

@[simp] theorem safePinOp_host (s : State) : (safePinOp s).host = s.host := by
  simp [safePinOp]

@[simp] theorem stopPinOp_host (s : State) : (stopPinOp s).host = s.host := by
  simp [stopPinOp]

@[simp] theorem safeEnterOp_host (s : State) (m : Master) : (safeEnterOp s m).host = s.host := by
  simp [safeEnterOp]

@[simp] theorem safeExitOp_host (s : State) : (safeExitOp s).host = s.host := by
  simp [safeExitOp]

@[simp] theorem safeCmdWrite_host (s : State) (m : Master) (w : Word) : (safeCmdWrite s m w).host = s.host := by
  simp [safeCmdWrite]

@[simp] theorem hwdRestart_host (s : State) : (hwdRestart s).host = s.host := by
  rfl

@[simp] theorem hwdCtlWrite_host (s : State) (w : Word) : (hwdCtlWrite s w).host = s.host := by
  simp [hwdCtlWrite]

@[simp] theorem hwdExpiryOp_host (s : State) : (hwdExpiryOp s).host = s.host := by
  unfold hwdExpiryOp; (try dsimp only); (repeat' split) <;> simp_all

@[simp] theorem hwdKickOp_host (s0 : State) (m : Master) (v : Nat) : (hwdKickOp s0 m v).host = s0.host := by
  simp [hwdKickOp]

@[simp] theorem safeWrite_host (s : State) (m : Master) (a : Nat) (w : Word) : (safeWrite s m a w).host = s.host := by
  simp [safeWrite]

end Sys2Proof.Machine
end

