-- ==== Sys2Proof/Laws/Engine.lean ====
section
/-! SUPPORT. The issue of an engine instruction: what `Issues` gives, and the state in which an instruction has completed. -/

namespace Sys2Proof.Machine

@[simp] theorem State.modThr_divTb (s : State) (t e : Nat) (f : Thr → Thr) : ((s.modThr t f).engAt e).divTb = (s.engAt e).divTb := by
  by_cases h : e = t / 4
  · subst h
    by_cases h2 : t / 4 < 16
    · rw [State.modThr, State.engAt_modEng_eq _ _ _ h2]
    · simp [State.engAt, vget, h2]
  · rw [State.modThr, State.engAt_modEng_ne _ _ _ _ h]

theorem countIssue_thr (s : State) (t : Fin 64) :
    (countIssue s t.val).thrAt t.val = { s.thrAt t.val with icnt := (s.thrAt t.val).icnt + 1 } := State.thrAt_modThr_eq s t.val _ t.isLt

theorem thrAt_of_eng {s u : State} (h : s.eng = u.eng) (t : Nat) : s.thrAt t = u.thrAt t := by
  unfold State.thrAt State.engAt
  rw [h]

theorem engAt_of_eng {s u : State} (h : s.eng = u.eng) (e : Nat) : s.engAt e = u.engAt e := by
  unfold State.engAt
  rw [h]

theorem eccCount_eng (s : State) (e : Nat) : (eccCount s e).eng = s.eng := by simp [eccCount]

/-- A change of an engine that keeps one field keeps it at every engine. -/
theorem State.engAt_modEng_keeps {α : Type} (p : Eng → α) (s : State) (e n : Nat) (f : Eng → Eng) (h : ∀ g, p (f g) = p g) :
    p ((s.modEng n f).engAt e) = p (s.engAt e) := by
  by_cases he : e = n
  · subst he
    by_cases h2 : e < 16
    · rw [State.engAt_modEng_eq _ _ _ h2, h]
    · simp [State.engAt, vget, h2]
  · rw [State.engAt_modEng_ne _ _ _ _ he]

theorem State.thrAt_modEng_keeps (s : State) (t n : Nat) (f : Eng → Eng) (h : ∀ g, (f g).thr = g.thr) :
    (s.modEng n f).thrAt t = s.thrAt t := by
  unfold State.thrAt
  rw [State.engAt_modEng_keeps Eng.thr s _ n f h]

/-- What a fetch leaves behind: nothing, a count of a corrected error, or that and the corrected word (R162). -/
theorem iramFetch_state (s : State) (e a : Nat) : (iramFetch s e a).2 = s ∨ (iramFetch s e a).2 = eccCount s e ∨
    (iramFetch s e a).2 = (eccCount s e).modEng e fun g => { g with iecc := sparseWrite zeroNat g.iecc a 0 } := by
  have h : (iramRead s e a).2 = s ∨ (iramRead s e a).2 = eccCount s e ∨
      (iramRead s e a).2 = (eccCount s e).modEng e fun g => { g with iecc := sparseWrite zeroNat g.iecc a 0 } := by
    unfold iramRead
    split
    · exact .inl rfl
    · exact .inr (.inr rfl)
    · exact .inl rfl
  unfold iramFetch
  split
  · split
    · dsimp only
      split
      · exact .inr (.inl rfl)
      · exact .inl rfl
    · exact h
  · exact h

/-- A fetch keeps what neither the counts of the engines nor their instruction memories' check bits make up. -/
theorem iramFetch_leaves {α : Type} (p : State → α) (s : State) (e a : Nat) (h1 : p (eccCount s e) = p s)
    (h2 : ∀ (s : State) f, (∀ g : Eng, f g = { g with iecc := (f g).iecc }) → p (s.modEng e f) = p s) :
    p (iramFetch s e a).2 = p s := by
  rcases iramFetch_state s e a with h | h | h <;> rw [h]
  · exact h1
  · rw [h2 _ _ fun _ => rfl, h1]

theorem issueTake_engine (s : State) (t : Nat) : ∃ f : Eng → Eng, (∀ g, f g = { g with lastIss := (f g).lastIss }) ∧
    (issueTake s t).eng = (s.modEng (t / 4) f).eng := ⟨_, fun _ => rfl, rfl⟩

/-- An issue keeps what the issue slots, the threads last issued and counted, the counts of corrected errors and the check bits of
instruction memories do not make up. -/
theorem issuing_keeps {α : Type} (p : State → α) (s : State) (t : Fin 64) (hf : ∀ (s : State) f, p { s with fabric := f } = p s)
    (he : ∀ s, p (eccCount s (t.val / 4)) = p s)
    (hg : ∀ (s : State) f, (∀ g : Eng, f g = { g with iecc := (f g).iecc, lastIss := (f g).lastIss }) → p (s.modEng (t.val / 4) f) = p s)
    (hc : ∀ s, p (countIssue s t.val) = p s) : p (issuing s t) = p s := by
  unfold issuing
  rw [iramFetch_leaves p _ _ _ (he _) fun s f h => hg s f fun g => by rw [h g], hc]
  unfold issueTake
  rw [hg _ _ fun _ => rfl, hf]

theorem modEng_thr_of_shape {f : Eng → Eng} (h : ∀ g : Eng, f g = { g with iecc := (f g).iecc, lastIss := (f g).lastIss }) (g : Eng) :
    (f g).thr = g.thr := by rw [h g]

theorem thrAt_issueTake (s : State) (t u : Nat) : (issueTake s t).thrAt u = s.thrAt u :=
  State.thrAt_modEng_keeps _ _ _ _ fun _ => rfl

theorem thrAt_iramFetch (s : State) (e a u : Nat) : (iramFetch s e a).2.thrAt u = s.thrAt u :=
  iramFetch_leaves (fun s => s.thrAt u) s e a (thrAt_of_eng (eccCount_eng s e) u) fun s f h => State.thrAt_modEng_keeps s u e f fun g => by rw [h g]

/-- The thread that issues has its instruction counted. -/
theorem issuing_thr (s : State) (t : Fin 64) :
    (issuing s t).thrAt t.val = { s.thrAt t.val with icnt := (s.thrAt t.val).icnt + 1 } := by
  unfold issuing
  rw [thrAt_iramFetch, countIssue_thr, thrAt_issueTake]

/-- The other threads stay as they are. -/
theorem issuing_other (s : State) (t : Fin 64) (u : Nat) (h : u ≠ t.val) : (issuing s t).thrAt u = s.thrAt u := by
  unfold issuing
  rw [thrAt_iramFetch, countIssue, State.thrAt_modThr_ne _ _ _ _ t.isLt h, thrAt_issueTake]

theorem issuing_fab (s : State) (t : Fin 64) (u : Nat) : ((issuing s t).thrAt u).fab = (s.thrAt u).fab := by
  by_cases h : u = t.val
  · subst h; rw [issuing_thr]
  · rw [issuing_other _ _ _ h]

theorem postedStores_issuing (s : State) (t : Fin 64) (e : Nat) : postedStores (issuing s t) e = postedStores s e := by
  simp only [postedStores, issuing_fab]

@[simp] theorem issuing_tb (s : State) (t : Fin 64) : (issuing s t).tb = s.tb :=
  issuing_keeps (fun s => s.tb) s t (fun _ _ => rfl) (fun s => by simp [eccCount]) (fun _ _ _ => rfl) fun _ => rfl

@[simp] theorem issuing_pending (s : State) (t : Fin 64) : (issuing s t).pending = s.pending :=
  issuing_keeps (fun s => s.pending) s t (fun _ _ => rfl) (fun s => by simp [eccCount]) (fun _ _ _ => rfl) fun _ => rfl

@[simp] theorem issuing_ch (s : State) (t : Fin 64) : (issuing s t).ch = s.ch :=
  issuing_keeps (fun s => s.ch) s t (fun _ _ => rfl) (fun s => by simp [eccCount]) (fun _ _ _ => rfl) fun _ => rfl

@[simp] theorem issuing_spk (s : State) (t : Fin 64) : (issuing s t).spk = s.spk :=
  issuing_keeps (fun s => s.spk) s t (fun _ _ => rfl) (fun s => by simp [eccCount]) (fun _ _ _ => rfl) fun _ => rfl

@[simp] theorem issuing_sheet (s : State) (t : Fin 64) : (issuing s t).sheet = s.sheet :=
  issuing_keeps (fun s => s.sheet) s t (fun _ _ => rfl) (fun s => by simp [eccCount]) (fun _ _ _ => rfl) fun _ => rfl

@[simp] theorem issuing_mem (s : State) (t : Fin 64) : (issuing s t).mem = s.mem :=
  issuing_keeps (fun s => s.mem) s t (fun _ _ => rfl) (fun s => by simp [eccCount]) (fun _ _ _ => rfl) fun _ => rfl

/-- Trays, their check bits and the divider are no part of an issue. -/
theorem issuing_engAt {α : Type} (p : Eng → α) (h : ∀ g a b x, p { g with iecc := a, lastIss := b, thr := x } = p g) (s : State) (t : Fin 64)
    (e : Nat) : p ((issuing s t).engAt e) = p (s.engAt e) :=
  issuing_keeps (fun s => p (s.engAt e)) s t (fun _ _ => rfl) (fun s => congrArg p (engAt_of_eng (eccCount_eng s _) e))
    (fun s f hf => State.engAt_modEng_keeps p s e _ f fun g => by rw [hf g]; exact h g _ _ g.thr)
    fun s => State.engAt_modEng_keeps p s e _ _ fun g => h g g.iecc g.lastIss _

theorem issuing_divTb (s : State) (t : Fin 64) (e : Nat) : ((issuing s t).engAt e).divTb = (s.engAt e).divTb :=
  issuing_engAt Eng.divTb (fun _ _ _ _ => rfl) s t e

theorem mustStall_issuing (s : State) (t : Fin 64) (i : EngIns) : mustStall (issuing s t) t.val i = mustStall s t.val i := by
  cases i <;> simp only [mustStall, issuing_fab, postedStores_issuing, issuing_tb, issuing_divTb]

/-- What a fetch brings depends on the word and its check bits. -/
theorem iramFetch_word {s u : State} (e a : Nat) (hc : s.cc = u.cc) (h1 : (s.engAt e).iram = (u.engAt e).iram)
    (h2 : (s.engAt e).iecc = (u.engAt e).iecc) (h3 : (s.engAt e).winOld = (u.engAt e).winOld) : (iramFetch s e a).1 = (iramFetch u e a).1 := by
  have h : (iramRead s e a).1 = (iramRead u e a).1 := by
    unfold iramRead
    rw [h1, h2]
    split <;> rfl
  unfold iramFetch
  rw [h3, hc]
  split
  · split
    · rfl
    · exact h
  · exact h

theorem fetch_issues (s : State) (t : Fin 64) (a : Nat) :
    (iramFetch (countIssue (issueTake s t.val) t.val) (t.val / 4) a).1 = (iramFetch s (t.val / 4) a).1 := by
  have h {α : Type} (p : Eng → α) (h1 : ∀ g x, p { g with lastIss := x } = p g) (h2 : ∀ g x, p { g with thr := x } = p g) :
      p ((countIssue (issueTake s t.val) t.val).engAt (t.val / 4)) = p (s.engAt (t.val / 4)) := by
    rw [countIssue, State.modThr, State.engAt_modEng_keeps p _ _ _ _ fun g => h2 g _]
    exact State.engAt_modEng_keeps p _ _ _ _ fun g => h1 g _
  exact iramFetch_word _ _ rfl (h Eng.iram (fun _ _ => rfl) fun _ _ => rfl) (h Eng.iecc (fun _ _ => rfl) fun _ _ => rfl)
    (h Eng.winOld (fun _ _ => rfl) fun _ _ => rfl)

/-- An instruction that uses no tray leaves its engine's tray free. -/
@[simp] theorem trayUse_none (s : State) (e : Nat) {i : EngIns} (h : usesTray i = false) : trayUse s e i = s := by
  rw [trayUse, h, if_neg Bool.false_ne_true]

theorem trayUse_thr (s : State) (e u : Nat) (i : EngIns) : (trayUse s e i).thrAt u = s.thrAt u := by
  unfold trayUse; split <;> rfl

/-- No instruction that uses a tray has to wait. -/
theorem mustStall_tray {s : State} {t : Nat} {i : EngIns} (h : usesTray i = true) : mustStall s t i = false := by
  cases i <;> first | rfl | cases h

/-- An instruction that is taken is attempted, once the issue is made. -/
theorem engIssue_fetches {s : State} {t : Fin 64} {i : EngIns} (h : Fetches s t i) :
    engIssue s t i = engAttempt (trayUse (issuing s t) (t.val / 4) i) t i := by
  obtain ⟨h1, h2, h3, h4, hu, h5, h6, h7⟩ := h
  obtain ⟨w, hw⟩ := Option.isSome_iff_exists.mp (by rw [← fetch_issues] at h7; exact h7)
  have hu' : (usesTray i && trayTaken s (t.val / 4)) = false := by
    cases hi : usesTray i
    · rfl
    · exact hu hi
  simp only [engIssue, eligible, canIssue, h1, h2, h3, h4, hu', h5, h6, engGo]
  simp only [issuing]
  generalize he : iramFetch (countIssue (issueTake s t.val) t.val) (t.val / 4) (s.thrAt t.val).pc.toNat = x at *
  obtain ⟨o, s1⟩ := x
  dsimp only at hw
  subst hw
  rfl

/-- An instruction that issues and need not wait has its effect. -/
theorem engIssue_issues {s : State} {t : Fin 64} {i : EngIns} (h : Issues s t i) (hu : usesTray i = false) :
    engIssue s t i = match engRun (issuing s t) t i with
      | .done s1 => s1.modThr t.val fun g => g.issued s.tb i
      | .held s1 => s1
      | .fault c d => thrFault (issuing s t) t.val c d := by
  rw [engIssue_fetches h.1, trayUse_none _ _ hu, engAttempt, mustStall_issuing, h.2, issuing_tb]
  rfl

/-- The same of a load or store of the tray, which has the tray for this cc (R176). -/
theorem engIssue_tray {s : State} {t : Fin 64} {i : EngIns} (h : Issues s t i) (hu : usesTray i = true) :
    engIssue s t i = match engRun (trayUse (issuing s t) (t.val / 4) i) t i with
      | .done s1 => s1.modThr t.val fun g => g.issued s.tb i
      | .held s1 => s1
      | .fault c d => thrFault (trayUse (issuing s t) (t.val / 4) i) t.val c d := by
  have hb : (trayUse (issuing s t) (t.val / 4) i).tb = s.tb := by unfold trayUse; split <;> exact issuing_tb s t
  rw [engIssue_fetches h.1, engAttempt, mustStall_tray hu, hb]
  rfl

/-- An instruction that issues and has to wait stalls. -/
theorem engIssue_stalls {s : State} {t : Fin 64} {i : EngIns} (h : Stalls s t i) :
    engIssue s t i = (issuing s t).modThr t.val fun g => { g.move s.tb .stall with stall := .retry i } := by
  have hu : usesTray i = false := by
    cases hi : usesTray i
    · rfl
    · exact absurd h.2 (by rw [mustStall_tray hi]; exact Bool.false_ne_true)
  rw [engIssue_fetches h.1, trayUse_none _ _ hu, engAttempt, mustStall_issuing, h.2, issuing_tb]
  rfl

/-- An instruction whose whole effect is on its thread. -/
theorem engIssue_took {s : State} {t : Fin 64} {i : EngIns} (h : Issues s t i) (hu : usesTray i = false) (f : Thr → Thr) (hi : leavesOpen i = none)
    (hr : engRun (issuing s t) t i = putThr (issuing s t) t.val f) : engIssue s t i = Took s t f := by
  rw [engIssue_issues h hu, hr]
  simp only [putThr, State.modThr_modThr, Took, Ended, issuing_tb]
  congr 1
  funext g
  unfold Thr.issued
  rw [hi]

@[simp] theorem Thr.setW_z (h : Thr) (r : Nat) (v : Word) : (h.setW r v).z = h.z := by unfold Thr.setW; split <;> rfl
@[simp] theorem Thr.setW_n (h : Thr) (r : Nat) (v : Word) : (h.setW r v).n = h.n := by unfold Thr.setW; split <;> rfl
@[simp] theorem Thr.setW_c (h : Thr) (r : Nat) (v : Word) : (h.setW r v).c = h.c := by unfold Thr.setW; split <;> rfl
@[simp] theorem Thr.setW_v (h : Thr) (r : Nat) (v : Word) : (h.setW r v).v = h.v := by unfold Thr.setW; split <;> rfl
@[simp] theorem Thr.setW_st (h : Thr) (r : Nat) (v : Word) : (h.setW r v).st = h.st := by unfold Thr.setW; split <;> rfl
@[simp] theorem Thr.setW_pc (h : Thr) (r : Nat) (v : Word) : (h.setW r v).pc = h.pc := by unfold Thr.setW; split <;> rfl
@[simp] theorem Thr.setW_fk (h : Thr) (r : Nat) (v : Word) : (h.setW r v).fk = h.fk := by unfold Thr.setW; split <;> rfl
@[simp] theorem Thr.setW_fs (h : Thr) (r : Nat) (v : Word) : (h.setW r v).fs = h.fs := by unfold Thr.setW; split <;> rfl
@[simp] theorem Thr.setW_evp (h : Thr) (r : Nat) (v : Word) : (h.setW r v).evp = h.evp := by unfold Thr.setW; split <;> rfl
@[simp] theorem Thr.setW_wq (h : Thr) (r : Nat) (v : Word) : (h.setW r v).wq = h.wq := by unfold Thr.setW; split <;> rfl
@[simp] theorem Thr.setW_mq (h : Thr) (r : Nat) (v : Word) : (h.setW r v).mq = h.mq := by unfold Thr.setW; split <;> rfl
@[simp] theorem Thr.setW_fault (h : Thr) (r : Nat) (v : Word) : (h.setW r v).fault = h.fault := by unfold Thr.setW; split <;> rfl
@[simp] theorem Thr.setW_fltW (h : Thr) (r : Nat) (v : Word) : (h.setW r v).fltW = h.fltW := by unfold Thr.setW; split <;> rfl
@[simp] theorem Thr.setW_tbHi (h : Thr) (r : Nat) (v : Word) : (h.setW r v).tbHi = h.tbHi := by unfold Thr.setW; split <;> rfl
@[simp] theorem Thr.setW_wait (h : Thr) (r : Nat) (v : Word) : (h.setW r v).wait = h.wait := by unfold Thr.setW; split <;> rfl
@[simp] theorem Thr.setW_stall (h : Thr) (r : Nat) (v : Word) : (h.setW r v).stall = h.stall := by unfold Thr.setW; split <;> rfl
@[simp] theorem Thr.setW_stopPend (h : Thr) (r : Nat) (v : Word) : (h.setW r v).stopPend = h.stopPend := by unfold Thr.setW; split <;> rfl
@[simp] theorem Thr.setW_stepping (h : Thr) (r : Nat) (v : Word) : (h.setW r v).stepping = h.stepping := by unfold Thr.setW; split <;> rfl
@[simp] theorem Thr.setW_fab (h : Thr) (r : Nat) (v : Word) : (h.setW r v).fab = h.fab := by unfold Thr.setW; split <;> rfl
@[simp] theorem Thr.setW_wdCount (h : Thr) (r : Nat) (v : Word) : (h.setW r v).wdCount = h.wdCount := by unfold Thr.setW; split <;> rfl
@[simp] theorem Thr.setW_wdTb (h : Thr) (r : Nat) (v : Word) : (h.setW r v).wdTb = h.wdTb := by unfold Thr.setW; split <;> rfl
@[simp] theorem Thr.setW_wqNew (h : Thr) (r : Nat) (v : Word) : (h.setW r v).wqNew = h.wqNew := by unfold Thr.setW; split <;> rfl
@[simp] theorem Thr.setW_mqNew (h : Thr) (r : Nat) (v : Word) : (h.setW r v).mqNew = h.mqNew := by unfold Thr.setW; split <;> rfl
@[simp] theorem Thr.setW_icnt (h : Thr) (r : Nat) (v : Word) : (h.setW r v).icnt = h.icnt := by unfold Thr.setW; split <;> rfl

@[simp] theorem Thr.setW_count (h : Thr) (r : Nat) (v x : Word) : ({ h with icnt := x } : Thr).setW r v = { h.setW r v with icnt := x } := by
  unfold Thr.setW; split <;> rfl

@[simp] theorem getW_issuing (s : State) (t : Fin 64) (r : Nat) : ((issuing s t).thrAt t.val).getW r = (s.thrAt t.val).getW r := by
  rw [issuing_thr]; rfl

theorem State.modThr_congr (s : State) (t : Nat) (f g : Thr → Thr) (h : f (s.thrAt t) = g (s.thrAt t)) : s.modThr t f = s.modThr t g := by
  unfold State.modThr State.modEng
  unfold State.thrAt State.engAt at h
  simp only [State.mk.injEq, true_and, and_true]
  by_cases h1 : t / 4 < 16
  · have h2 : t % 4 < 4 := Nat.mod_lt _ (by decide)
    simp only [vget, vmodN, h1, h2, dite_true] at h ⊢
    rw [h]
  · simp only [vmodN, h1, dite_false]

/-- A fault (R164, R201): the thread alone among the engines changes. -/
theorem thrFault_eng (s : State) (t code : Nat) (d : Word) : (thrFault s t code d).eng = (s.modThr t fun h =>
    { h.move s.tb .fault with
      fault := code, fltW := d, stall := .none, wait := none, stopPend := false, stepping := false, stepOut := none }).eng := by
  unfold thrFault
  dsimp only
  split <;> simp [calForget, State.modThr, State.modEng]

theorem thrFault_thr (s : State) (t : Fin 64) (code : Nat) (d : Word) : (thrFault s t.val code d).thrAt t.val =
    { (s.thrAt t.val).move s.tb .fault with
      fault := code, fltW := d, stall := .none, wait := none, stopPend := false, stepping := false, stepOut := none } := by
  rw [thrAt_of_eng (thrFault_eng s t.val code d), State.thrAt_modThr_eq _ _ _ t.isLt]

theorem vmodN_getElem {α : Type} {n : Nat} (v : Vector α n) (i : Nat) (f : α → α) (k : Nat) (hk : k < n) :
    (vmodN v i f)[k] = if i = k then f v[k] else v[k] := by
  unfold vmodN
  split
  · rw [Vector.getElem_set]
    split
    · subst_vars; rfl
    · rfl
  · rw [if_neg (by omega)]

theorem vmodN_comm {α : Type} {n : Nat} (v : Vector α n) (i j : Nat) (h : i ≠ j) (f g : α → α) :
    vmodN (vmodN v i f) j g = vmodN (vmodN v j g) i f := by
  apply Vector.ext
  intro k hk
  simp only [vmodN_getElem]
  by_cases h1 : i = k <;> by_cases h2 : j = k <;> simp [h1, h2] <;> omega

theorem vmodN_twice {α : Type} {n : Nat} (v : Vector α n) (i : Nat) (f g : α → α) :
    vmodN (vmodN v i f) i g = vmodN v i fun x => g (f x) := by
  apply Vector.ext
  intro k hk
  simp only [vmodN_getElem]
  by_cases h1 : i = k <;> simp [h1]

/-- Changes of two threads commute. -/
theorem State.modThr_comm (s : State) (t u : Fin 64) (hne : u ≠ t) (f g : Thr → Thr) :
    (s.modThr t.val f).modThr u.val g = (s.modThr u.val g).modThr t.val f := by
  have hv : u.val ≠ t.val := fun e => hne (Fin.ext e)
  simp only [State.modThr, State.modEng]
  congr 1
  by_cases he : t.val / 4 = u.val / 4
  · rw [he, vmodN_twice, vmodN_twice]
    congr 1
    funext e
    simp only [vmodN_comm e.thr (t.val % 4) (u.val % 4) (by omega)]
  · rw [vmodN_comm _ _ _ he]

end Sys2Proof.Machine
end

