-- ==== Sys2Proof/Laws/Reads.lean ====
section
/-! SUPPORT. A read of a register: the access reaches the register, and what a register without effects on read shows. -/

namespace Sys2Proof.Machine

/-- A word read of the register space is a read of the register. -/
theorem readReg_bus {s : State} {m : Master} {a : Nat} (hm : reachesRegs m = true) (h1 : 0x800000 ≤ a)
    (h2 : a < 0x1000000) (h4 : a % 4 = 0) (h5 : reservedAt a 4 = false) :
    readOp s m a .b4 = answered .ok (regRead s m a 0xFFFFFFFF).1 (regRead s m a 0xFFFFFFFF).2 := by
  have e : a / 4 * 4 = a := by omega
  unfold readOp busRead
  simp only [hm, Bool.not_true, Bool.false_eq_true, if_false, show sizeBytes .b4 = 4 from rfl, e, h4]
  rw [if_neg (by omega), if_neg (by rw [h5, Bool.or_false, decide_eq_true_eq]; omega)]
  simp only [Nat.mul_zero, BitVec.ushiftRight_zero, show (0 != 0) = false from rfl, Bool.false_eq_true, if_false]
  rw [show (BitVec.ofNat 32 ((2 ^ (8 * 4) - 1) * 2 ^ 0)) = BitVec.allOnes 32 from rfl, BitVec.and_allOnes]
  rfl

/-- A register without write-only and secure bits shows the word that typed state gives, or the stored word, once the OTP step has
given its fields their defaults. -/
theorem regShow_all {s : State} {m : Master} {a : Nat} (h6 : (regDesc a).wo = 0) (h7 : (regDesc a).rws = 0)
    (h8 : s.otp = true ∨ (regDesc a).otp = 0) (h9 : tbDomain a = false) :
    regShow s m a = (readTimed s a).getD ((readCore s m a).getD (s.reg a)) := by
  unfold regShow
  rw [h9, if_neg Bool.false_ne_true]
  dsimp only
  have e : (if s.otp = true then 0xFFFFFFFF else ~~~(regDesc a).otp : Word) = 0xFFFFFFFF := by
    rcases h8 with h | h
    · rw [if_pos h]
    · rw [h]; exact ite_self _
  rw [h6, h7, e]
  rw [show (~~~(0 : Word)) = BitVec.allOnes 32 by decide, show (0xFFFFFFFF : Word) = BitVec.allOnes 32 by decide, ite_self,
    BitVec.and_allOnes, BitVec.and_allOnes, BitVec.and_allOnes]

/-- A read of a register that is neither latched nor popped nor claimed nor cleared. -/
theorem regRead_shown {s : State} {m : Master} {a : Nat} (ha : plainReg a = true) (h1 : isLatched a = false)
    (h2 : a ≠ Reg.MBX_CLAIM) (h3 : ¬(0x00820000 ≤ a ∧ a < 0x00822000 ∧ a % 0x40 = 0x2C))
    (h4 : ¬(0x00870000 ≤ a ∧ a < 0x00874000 ∧ a % 0x200 = 0x3C)) (h5 : claimReg a = none) (h8 : (regDesc a).rc = 0) :
    regRead s m a 0xFFFFFFFF = (regShow s m a,
      if 0x00810000 ≤ a ∧ a < 0x00812000 ∧ a % 0x400 = 0x90 then
        phasePop (latch s m a) ((a - 0x00810000) / 0x400) else latch s m a) := by
  obtain ⟨p1, p2, p4, p5, p6, p7, p8, -⟩ := plainReg_parts ha
  unfold regRead
  rw [if_neg (by rw [p5]; exact Bool.false_ne_true), if_neg (by rw [p6]; exact Bool.false_ne_true),
    if_neg (by rw [p7]; exact Bool.false_ne_true), if_neg (by rw [h1]; exact Bool.false_ne_true), if_neg h2, if_neg h3, if_neg h4, h5]
  dsimp only
  rw [if_pos (Or.inl h8)]

end Sys2Proof.Machine
end

