-- ==== Sys2Proof/WellFormed.lean ====
section
/-! DEFINITION. The commands that the device can be given: who sends an access to a register, the addresses that a general
access names, and the shape of the frames that arrive (R2, R31, R41, R247, R284, R337, R364, Tables 14-1 and 14-4). -/

namespace Sys2Proof

/-- The masters that reach registers (R41). -/
def sender : Master → Bool
  | .host _ => true
  | .engine _ => true
  | .safelight => true
  | _ => false

/-- The bytes of an access. -/
def opBytes : Size → Nat
  | .b1 => 1
  | .b2 => 2
  | .b4 => 4

/-- A register with a staged field (R32). -/
def stagedAddr (a : Nat) : Bool := (Machine.regDesc a).sth != 0

/-- Well-formed commands. -/
def Instr.wf : Instr → Bool
  | .powerOnReset _ _ => true
  | .pinReset _ _ => true
  | .coreReset m _ => sender m
  | .fullReset m _ => sender m
  | .pllLock => true
  | .tbLoRead m => sender m
  | .idSerialLoRead m => sender m
  | .clearOnRead m addr sz => sender m && decide (0x800000 ≤ addr) && decide (addr < 0x1000000) && addr % opBytes sz == 0
  | .registerWrite m addr _ => sender m && decide (0x800000 ≤ addr) && decide (addr < 0x1000000) && addr % 4 == 0
  | .stagedWrite m addr _ => sender m && stagedAddr addr
  | .csTake m _ _ => sender m
  | .csRelease m => sender m
  | .contactSheetFreeze => true
  | .csReady => true
  | .snapshotRead m _ => sender m
  | .fixChannelArm m _ => sender m
  | .fixChannelCancel m _ => sender m
  | .fixChannelDiscard m _ => sender m
  | .fixCommit _ => true
  | .spkEnable m _ _ => sender m
  | .spkDisable m _ _ => sender m
  | .spkToothEdge _ e => e.input != .z
  | .spkIndexEdge _ e => e.input == .z
  | .inputFault _ _ => true
  | .missedTooth _ => true
  | .virtualTooth _ => true
  | .stopDetect _ => true
  | .resync m _ => sender m
  | .spkClrCnt m _ => sender m
  | .dropJournal m _ => sender m
  | .spkPosRead m _ => sender m
  | .spkTsLoRead m _ => sender m
  | .phaseEnable m _ _ => sender m
  | .phaseMark _ _ => true
  | .phPosRead m _ => sender m
  | .channelCtlWrite m _ _ => sender m
  | .counterWrite m _ _ => sender m
  | .compareWrite m _ _ _ => sender m
  | .compareFire _ _ => true
  | .compareFireWrap _ _ => true
  | .compareFireUpdown _ _ => true
  | .pulseEnd _ => true
  | .force m _ _ => sender m
  | .flush m _ => sender m
  | .capnow m _ => sender m
  | .disarm m _ _ => sender m
  | .tioInputChange _ _ _ => true
  | .captureRead m _ => sender m
  | .vcalRound _ _ => true
  | .bankSupplyMismatch _ _ => true
  | .calArm m _ => sender m
  | .calCancel m _ _ => sender m
  | .calInsert => true
  | .entryCancel => true
  | .calFlush m _ => sender m
  | .flushComplete => true
  | .calClrCnt m => sender m
  | .entryLoad => true
  | .entryDispatch => true
  | .spillEnable m _ => sender m
  | .spillMove => true
  | .add _ _ _ _ => true
  | .sub _ _ _ _ => true
  | .engAnd _ _ _ _ => true
  | .engOr _ _ _ _ => true
  | .engXor _ _ _ _ => true
  | .sll _ _ _ _ => true
  | .srl _ _ _ _ => true
  | .sra _ _ _ _ => true
  | .slt _ _ _ _ => true
  | .sltu _ _ _ _ => true
  | .min _ _ _ _ => true
  | .max _ _ _ _ => true
  | .minu _ _ _ _ => true
  | .maxu _ _ _ _ => true
  | .mul _ _ _ _ => true
  | .mulh _ _ _ _ => true
  | .mulhu _ _ _ _ => true
  | .div _ _ _ _ => true
  | .divu _ _ _ _ => true
  | .rem _ _ _ _ => true
  | .remu _ _ _ _ => true
  | .addi _ _ _ _ => true
  | .cmpi _ _ _ => true
  | .andi _ _ _ _ => true
  | .ori _ _ _ _ => true
  | .xori _ _ _ _ => true
  | .lui _ _ _ => true
  | .slli _ _ _ _ => true
  | .srli _ _ _ _ => true
  | .srai _ _ _ _ => true
  | .ldt _ _ _ _ => true
  | .ldth _ _ _ _ => true
  | .ldthu _ _ _ _ => true
  | .ldtb _ _ _ _ => true
  | .ldtbu _ _ _ _ => true
  | .stt _ _ _ _ => true
  | .stth _ _ _ _ => true
  | .sttb _ _ _ _ => true
  | .ld _ _ _ _ => true
  | .ldh _ _ _ _ => true
  | .ldhu _ _ _ _ => true
  | .ldb _ _ _ _ => true
  | .ldbu _ _ _ _ => true
  | .st _ _ _ _ => true
  | .sth _ _ _ _ => true
  | .stb _ _ _ _ => true
  | .fabricAccessComplete _ => true
  | .bCond _ _ _ => true
  | .jal _ _ _ => true
  | .jalr _ _ _ => true
  | .wait _ _ _ => true
  | .threadWake _ => true
  | .carm _ _ _ => true
  | .ccan _ _ _ => true
  | .pos _ _ _ => true
  | .spkr _ _ _ _ => true
  | .p2t _ _ _ _ => true
  | .t2p _ _ _ _ => true
  | .pdist _ _ _ _ _ => true
  | .cap _ _ _ => true
  | .snap _ _ _ _ _ => true
  | .snrel _ => true
  | .fixsel _ _ _ => true
  | .fixarm _ _ _ _ _ _ => true
  | .send _ _ _ _ => true
  | .recv _ _ => true
  | .engRec _ _ _ => true
  | .mfs _ _ _ => true
  | .mts _ _ _ => true
  | .fence _ => true
  | .halt _ => true
  | .threadWatchdog _ => true
  | .breakpoint _ => true
  | .threadStart m _ => sender m
  | .threadStop m _ => sender m
  | .step m _ => sender m
  | .clrEv m _ => sender m
  | .dbell m _ => sender m
  | .clrEcc m _ => sender m
  | .engineDisable m _ _ => sender m
  | .tmsgWrite m _ _ => sender m
  | .windowAccess m _ _ _ => sender m
  | .workRegisterWrite m _ _ _ => sender m
  | .ctEnable m _ => sender m
  | .ctGo m => sender m
  | .ctHalt m => sender m
  | .ctBlank m => sender m
  | .ctJump m => sender m
  | .ctClrCnt m => sender m
  | .columnFetch => true
  | .frameSample _ => true
  | .statusFrame _ _ => true
  | .linkModeWrite m _ _ => sender m
  | .linkAlign _ => true
  | .trainingRequest _ => true
  | .trainingAnswer _ _ => true
  | .linkLoss _ _ => true
  | .autoRetrain _ => true
  | .retrain m _ => sender m
  | .linkClrCnt m _ => sender m
  | .exgEnable m _ _ => sender m
  | .exgDisable m _ _ => sender m
  | .exgGo m _ => sender m
  | .exgStagedWrite m _ off _ => sender m && decide (0x10 ≤ off) && decide (off ≤ 0x4C) && off % 4 == 0
  | .exgFix m _ => sender m
  | .fixForce m _ => sender m
  | .exgDiscard m _ => sender m
  | .commSet m _ _ => sender m
  | .tripClr m _ => sender m
  | .periodStart _ => true
  | .reload _ => true
  | .triggerFire _ _ => true
  | .trgPulseEnd _ => true
  | .commutationEvent _ _ => true
  | .tripAssert _ => true
  | .shqEnable m _ _ => sender m
  | .shqDisable m _ _ => sender m
  | .sequencerTick _ => true
  | .br _ _ _ _ _ => true
  | .dec _ _ _ _ => true
  | .await _ _ _ _ _ => true
  | .emit _ _ _ _ => true
  | .gather _ _ _ _ => true
  | .xfer _ _ _ _ _ => true
  | .take _ _ _ _ => true
  | .give _ _ _ _ => true
  | .drv _ _ _ _ _ => true
  | .dirs _ _ _ _ _ => true
  | .ldc _ _ _ _ => true
  | .flag _ _ _ => true
  | .stop _ _ => true
  | .resume m _ => sender m
  | .shqHalt m _ => sender m
  | .shqStart m _ => sender m
  | .divRst m _ => sender m
  | .qclr m _ => sender m
  | .shiftClear m _ => sender m
  | .txqWrite m _ _ => sender m
  | .rxqRead m _ => sender m
  | .injection m _ _ => sender m
  | .progWrite m _ off _ => sender m && decide (off < 64)
  | .meterBoundary => true
  | .mtrRelease m _ => sender m
  | .clrE m _ => sender m
  | .releaseWindowStart => true
  | .delayedEdge _ => true
  | .guardGateOpen _ => true
  | .safePinAssert => true
  | .stopPinAssert => true
  | .safeCmdEnter m => sender m
  | .safeCmdExit m _ => sender m
  | .rundownTimeout => true
  | .rdDone m => sender m
  | .hwdEnable m _ => sender m
  | .hwdKick m _ => sender m
  | .hwdRearm m => sender m
  | .hwdExpiry => true
  | .recordDelivery => true
  | .recordWriteComplete => true
  | .evrClaim m _ _ => sender m
  | .evrDone m _ _ _ => sender m
  | .clrLostN m _ => sender m
  | .clrLostF m _ => sender m
  | .ringCfgWrite m _ _ _ _ => sender m
  | .maskWrite m _ _ _ => sender m
  | .routeWrite m _ _ => sender m
  | .spoolAccess _ addr _ _ => decide (addr < 0x800000)
  | .handover m _ _ => sender m
  | .powerRequest m _ _ => sender m
  | .powerChangeDone _ => true
  | .spoolInitDone _ => true
  | .testRegionBorrow _ => true
  | .testRegionRelease _ _ => true
  | .restart m _ => sender m
  | .splClrCnt m _ => sender m
  | .copyGo m _ _ => sender m
  | .copyStop m _ => sender m
  | .copyWord _ => true
  | .copyDone _ => true
  | .read4 _ _ _ => true
  | .read2 _ _ _ => true
  | .read1 _ _ _ => true
  | .write4 _ _ _ _ => true
  | .write2 _ _ _ _ => true
  | .write1 _ _ _ _ => true
  | .proto => true
  | .parallelReadCycle _ _ _ _ => true
  | .parallelWriteCycle _ _ _ _ _ => true
  | .halfAlone => true
  | .boot _ => true
  | .bootDone => true
  | .startGate => true
  | .exitRetry => true
  | .fmtRequest m _ => sender m
  | .formatPrepDone _ => true
  | .abandon m => sender m
  | .cascadeEnable m _ => sender m
  | .cascadeTraining _ _ _ _ => true
  | .downFrameSend => true
  | .downFrame f => f.units.length == 8
  | .upFrame f => f.records.length == 7
  | .fixPrep _ => true
  | .fixTime _ => true
  | .fixCancel _ => true
  | .fmtPrep _ => true
  | .fmtAbandon _ => true
  | .commandTimeout => true
  | .split => true
  | .memberLost _ => true
  | .cascadeLinkLoss => true
  | .firmwareLoad => true
  | .safelightWatchdog => true
  | .temperatureSample _ => true
  | .voltageSample _ => true
  | .clockFault _ => true
  | .clockFaultReset _ => true
  | .warnRundown => true
  | .lifetimeUpdate => true
  | .mbxClaim m => sender m
  | .mbxRelease m => sender m
  | .mbxClaimTimeout => true
  | .mbxGo m => sender m
  | .info => true
  | .logRead => true
  | .lifeRead => true
  | .certRead => true
  | .attest => true
  | .post _ _ _ => true
  | .rundown => true
  | .reset => true
  | .updErase _ => true
  | .updWrite _ => true
  | .updVerify => true
  | .updArm => true
  | .updActivate => true
  | .keyOwner => true
  | .tbEventTick _ => true
  | .dividerFree _ => true
  | .blankingEnd _ => true
  | .tripDeassert _ => true
  | .safePinRelease => true
  | .stopPinRelease => true
  | .cascadeRequestAnswer _ _ _ => true
  | .upFrameRepeat f => f.records.length == 7
  | .clockFaultCleared _ => true

/-- A well-formed command, as a proposition. -/
abbrev Instr.WellFormed (c : Instr) : Prop := c.wf = true

end Sys2Proof
end

