-- ==== Sys2Proof/Tests/Slice0.lean ====
section
/-! SUPPORT. The model's own tests: ill-formed commands that `Instr.wf` refuses, one step of a command on a small state with the
result that the rules give, and for every statement with hypotheses the states and operands that meet them (`meets_…`). -/

namespace Sys2Proof.Tests

/-! The tests are elaborated one after another: side by side they ask for more threads than the check's memory limit allows. -/

set_option Elab.async false

open Sys2Proof.Machine

/-- The host, not secure, and the secure host. -/
abbrev hst : Master := .host false
abbrev sec : Master := .host true

abbrev r0 : State := State.reset

/-- Registers given by address and word. -/
def regs (l : List (Nat × Word)) (s : State) : State := l.foldl (fun t p => t.setReg p.1 p.2) s

/-- The state after a command. -/
def after (c : Instr) (s : State) : State :=
  match exec c s with
  | .next t => t
  | _ => s

/-- A state in which a transaction of the host is secure: SECHOST is 1 and HSEC is high. -/
def secured (s : State) : State := regs [(Reg.HP_SEC, 1)] { s with host := { s.host with hsec := true } }

/-- `Clear` and `Grants` as tests of a state. -/
def clearNow (s : State) (r : FabReq) : Bool := granted s r && (testsHit s r.words == [])
def grantsNow (s : State) (q : Option FabReq) : Bool :=
  match q with
  | none => true
  | some r => clearNow s r && match r.two with
    | none => true
    | some x => (spoolFirst (placed s r) x.m x.a x.w x.wr).1 == .uncorr || match secondReq x with
      | none => true
      | some r2 => clearNow (halfMade s r x) r2

theorem clearNow_clear {s : State} {r : FabReq} (h : clearNow s r = true) : Clear s r := by
  simpa [clearNow, Clear] using h

theorem grantsNow_grants {s : State} {q : Option FabReq} (h : grantsNow s q = true) : Grants s q := by
  intro r hr
  subst hr
  simp only [grantsNow, Bool.and_eq_true] at h
  refine ⟨clearNow_clear h.1, fun x hx => ?_⟩
  simp only [hx, Bool.or_eq_true, beq_iff_eq] at h
  refine h.2.imp id fun h2 r2 hr2 => ?_
  simp only [hr2] at h2
  exact clearNow_clear h2

/-! ## Well-formed commands -/

theorem test_wf_sender : (Instr.csRelease .contact).wf = false := by decide
theorem test_wf_sender_copy : (Instr.mbxGo (.copy 0)).wf = false := by decide
theorem test_wf_read_low : (Instr.clearOnRead hst 0x7FFFFC .b4).wf = false := by decide
theorem test_wf_read_high : (Instr.clearOnRead hst 0x1000000 .b4).wf = false := by decide
theorem test_wf_read_align : (Instr.clearOnRead hst 0x800002 .b4).wf = false := by decide
theorem test_wf_read_half : (Instr.clearOnRead hst 0x800002 .b2).wf = true := by decide
theorem test_wf_write_low : (Instr.registerWrite hst 0x7FFFFC 0).wf = false := by decide
theorem test_wf_write_high : (Instr.registerWrite hst 0x1000000 0).wf = false := by decide
theorem test_wf_write_align : (Instr.registerWrite hst 0x800001 0).wf = false := by decide
theorem test_wf_staged : (Instr.stagedWrite hst Reg.RST_CAUSE 0).wf = false := by decide
theorem test_wf_staged_ok : (Instr.stagedWrite hst (Reg.CH_ADD 0) 0).wf = true := by decide
theorem test_wf_tooth_input : (Instr.spkToothEdge 0 { input := .z, rise := true, stamp := 0, back := none }).wf = false := by decide
theorem test_wf_index_input : (Instr.spkIndexEdge 0 { input := .a, rise := true, stamp := 0, back := none }).wf = false := by decide
theorem test_wf_exg_low : (Instr.exgStagedWrite hst 0 0x0C 0).wf = false := by decide
theorem test_wf_exg_high : (Instr.exgStagedWrite hst 0 0x50 0).wf = false := by decide
theorem test_wf_exg_align : (Instr.exgStagedWrite hst 0 0x11 0).wf = false := by decide
theorem test_wf_prog : (Instr.progWrite hst 0 64 0).wf = false := by decide
theorem test_wf_spool : (Instr.spoolAccess hst 0x800000 .b1 none).wf = false := by decide
theorem test_wf_down_frame : (Instr.downFrame { crcOk := true, cv := 1, seq := 0, tbW := 0, dly := 0, units := [], cmd :=
    { code := 0, fixCh := 0, kind := 0, spk := 0, cseq := 0, newFmt := 0, lo := 0, hi := 0 }, stamp := 0, codeErrs := 0 }).wf = false := by decide
theorem test_wf_up_frame : (Instr.upFrame { crcOk := true, seq := 0, records := [], codeErrs := 0 }).wf = false := by decide
theorem test_wf_up_repeat : (Instr.upFrameRepeat { crcOk := true, seq := 0, records := [], codeErrs := 0 }).wf = false := by decide

/-! ## The queue, reset, registers -/

theorem test_step_runs_front : (match step { r0 with pending := [.pllLock, .dividerFree 0] } with
    | .next t => t.pending.length == 1 | _ => false) = true := by decide +kernel

theorem test_step_idles : step r0 = .next (tick r0) := rfl

theorem test_tb_counts : (nextTb { r0 with tb := 9, tbRun := true }).tb = 10 ∧ (nextTb r0).tb = 0 := by decide +kernel

theorem test_pll_lock : (after .pllLock { r0 with boot := { r0.boot with step := 1 } }).tbRun = true := by decide +kernel

theorem meets_Resets : masterSecure (masterNow (secured r0) sec) = true ∧ masterSecure (masterNow r0 .safelight) = true ∧ (0 : BitVec 16) ≠ 0xA5C3 ∧ r0.rb Reg.CLK_STAT 2 = false ∧
    (regs [(Reg.CLK_STAT, 4)] r0).rb Reg.CLK_STAT 2 = true := by decide +kernel

/-- TB_HI is latched by the read of TB_LO (R21). -/
theorem test_tb_lo : (after (.tbLoRead hst) { r0 with tb := 0x500000007 }).answer = { status := .ok, data := 7 } ∧
    (after (.tbLoRead hst) { r0 with tb := 0x500000007 }).shadow hst Reg.TB_HI = 5 := by decide +kernel

def phase1 : State := r0.modSpk 2 fun u => { u with fifo := [{ pos := 1, cyc := 2, err := 3 }] }

/-- The same FIFO with a mark of this tb that found it full, and one that holds a mark of this tb alone. -/
def phaseLost : State := phase1.modSpk 2 fun u => { u with phLost := some (0, { pos := 4, cyc := 5, err := 6 }, true) }
def phaseNew : State := phase1.modSpk 2 fun u => { u with phNew := (0, 1) }

theorem meets_LatchedReads : reachesRegs hst = true ∧ ({ r0 with otp := true } : State).otp = true ∧ r0.otp = false ∧
    (phase1.spkAt 2).phOld 0 = [{ pos := 1, cyc := 2, err := 3 }] ∧ (phase1.spkAt 2).phLost = none ∧
    (phaseLost.spkAt 2).phOld 0 = [{ pos := 1, cyc := 2, err := 3 }] ∧
    (phaseLost.spkAt 2).phLost = some (0, { pos := 4, cyc := 5, err := 6 }, true) ∧ (phaseNew.spkAt 2).phOld 0 = [] := by decide +kernel

theorem test_ph_pos : (after (.phPosRead hst 2) phase1).answer.data = 1 ∧ (after (.phPosRead hst 2) phase1).shadow hst (Reg.SPK_PH_ERR 2) = 3 := by
  decide +kernel

/-- A sheet with a take at tb 5 pending, in tb 6; one that is ready; and a fix channel 1 with a point. -/
def taking : State := { r0 with tb := 6, sheet := { r0.sheet with busy := true, at_ := some 5 } }
def ready : State := { r0 with sheet := { r0.sheet with ready := true, snap := [(0, 7)] } }

/-- The sheet was asked for by thread 3 in this cc. -/
def askedFor : State := { r0 with sheet := { r0.sheet with req := some { cc := 0, rank := 3, ok := true, rd := none, owner := 0, thread := 0, late := true } } }

/-- The host asked for it, and holds it, before a thread. -/
def askedHost : State := { r0 with sheet := { r0.sheet with
  busy := true, req := some { cc := 0, rank := 66, ok := true, rd := none, owner := 0, thread := 0, late := false } } }
def pointed : State := { r0 with tb := 6 }.modFix 1 fun f => { f with point := .at 5 }

theorem meets_ContactSheet : reachesRegs hst = true ∧ (r0.sheet.busy = false ∧ r0.sheet.ready = false) ∧
    r0.sheet.req.all (fun r => r.cc ≠ r0.cc) = true ∧
    passed r0.tb ((regs [(Reg.CS_AT_LO, 9)] r0).reg Reg.CS_AT_LO).toNat = false ∧ passed 9 9 = true ∧ fixPendingNow pointed 1 = true ∧
    ((r0.modFix 1 fun f => { f with point := .calendar }).fixAt 1).point ≠ .none ∧
    fixReached (r0.modFix 1 fun f => { f with point := .calendar }) 1 = none ∧ (r0.fixAt 1).lastT ≠ some r0.tb ∧
    ¬(taking.sheet.busy = false ∧ taking.sheet.ready = false) ∧ fixPendingNow r0 0 = false ∧
    askedFor.sheet.req.map SheetReq.rank = some 3 ∧ askedFor.cc = 0 ∧ 3 < csRank hst ∧
    askedHost.sheet.req.map SheetReq.ok = some true ∧ csRank (.engine 5) < 66 ∧ askedHost.sheet.busy = true ∧
    askedHost.sheet.filling = false ∧ grantsNow r0 (busReq r0 hst 0x00801004 .b4 none) = true ∧
    grantsNow ready (busReq ready hst 0x00801004 .b4 none) = true ∧ ready.sheet.ready = true ∧ r0.sheet.ready = false ∧ (0x0FFC : Nat) % 4 = 0 ∧ (0x0FFD : Nat) % 4 ≠ 0 ∧
    grantsNow r0 (busReq r0 hst 0x00801FFD .b4 none) = true ∧ taking.sheet.filling = false ∧ csReached taking = true ∧ taking.sheet.held = none ∧ csReached { taking with tb := 4 } = false ∧
    ({ taking with sheet := { taking.sheet with filling := true } } : State).sheet.owner ≠ 1 := by decide +kernel

theorem test_snapshot : (after (.snapshotRead hst 0) ready).answer.data = 7 ∧
    (after (.snapshotRead hst 0) r0).rb Reg.CS_STAT 3 = true := by decide +kernel

/-- A host that stages through channel 2. -/
def staging : State := regs [(Reg.FIX_HSEL, 6)] r0

/-- A host's channel 0 armed across the cascade by its master in RUN. -/
def chaining : State :=
  { regs [(Reg.FIX_CTL 0, 0x10000), (Reg.CAS_CTL, 1)] r0 with cas := { r0.cas with st := .run, cv := 2, cmd := none } }

/-- The places of the register bus are taken in this cc. -/
def full : State := { r0 with fabric := { r0.fabric with used := (busReq r0 hst 0x00820000 .b4 none).elim [] FabReq.places } }

theorem meets_FixChannels : reachesRegs hst = true ∧ grantsNow staging (busReq staging hst (Reg.CH_ADD 0) .b4 (some 7)) = true ∧ plainReg (Reg.CH_ADD 0) = true ∧
    tbDomain (Reg.CH_ADD 0) = true ∧ (regDesc (Reg.CH_ADD 0)).sth ≠ 0 ∧ (regDesc (Reg.CH_ADD 0)).sth &&& ~~~(regDesc (Reg.CH_ADD 0)).rw = 0 ∧
    (regDesc (Reg.CH_ADD 0)).rws = 0 ∧ memberReg staging (Reg.CH_ADD 0) = none ∧ plainReg (Reg.CT_STEP) = true ∧
    tbDomain (Reg.CT_STEP) = false ∧ (regDesc (Reg.CT_STEP)).sth ≠ 0 ∧ (regDesc (Reg.CT_STEP)).sth &&& ~~~(regDesc (Reg.CT_STEP)).rw = 0 ∧
    (regDesc (Reg.CT_STEP)).rws = 0 ∧ memberReg staging (Reg.CT_STEP) = none ∧ fixSelOf (regs [(Reg.FIX_HSEL, 0)] r0) hst = none ∧
    fixSelOf staging hst = some 2 ∧ staging.staged = [] ∧ (staging.fixAt 2).lastT ≠ some staging.tb ∧ (regDesc Reg.RST_CAUSE).sth = 0 ∧
    fixPendingNow pointed 1 = true ∧ fixPendingNow r0 0 = false ∧ (r0.reg (Reg.FIX_CTL 0)).getLsbD 16 = false ∧
    (r0.reg (Reg.FIX_CTL 0)).toNat / 16 % 4 = 0 ∧ ((regs [(Reg.FIX_CTL 0, 0x10), (Reg.FIX_POINT_LO 0, 9)] r0).reg (Reg.FIX_CTL 0)).toNat / 16 % 4 = 1 ∧
    passed r0.tb 9 = false ∧ (pointed.fixAt 1).point = .at 5 ∧ passed pointed.tb 5 = true ∧ passed 4 5 = false ∧ passed 5 5 = true ∧
    (r0.fixAt 1).point = .none ∧ r0.due = [] ∧ pointed.boot.phase ≠ 2 ∧ (chaining.reg (Reg.FIX_CTL 0)).getLsbD 16 = true ∧
    casMaster chaining = true ∧ chaining.cas.st = .run ∧ chaining.cas.cmd = none ∧ 2 ≤ chaining.cas.cv ∧ casMaster { r0 with cas := { r0.cas with role := 1 } } = false ∧
    fixReached r0 1 = none ∧ fixReached pointed 1 = some 5 ∧ pointed.boot.tooLate = false := by decide +kernel

/-- A staged write to a block of the core goes to its shadow at once; one to the TB domain lands 3 tb later (R14, R32). -/
theorem test_staged : (after (.stagedWrite hst (Reg.CT_STEP) 0x30) staging).reg (Reg.CT_STEP) = 0 ∧
    (after (.stagedWrite hst (Reg.CT_STEP) 0x30) staging).staged.map Staged.addr = [Reg.CT_STEP] ∧
    (after (.stagedWrite hst (Reg.CH_ADD 0) 0x30) staging).due.map Prod.fst = [3] ∧
    (applyDue staging (.land hst (some 2) (Reg.CH_ADD 0) 0x30)).staged.map Staged.word = [0x30] := by decide +kernel

theorem test_commit : ((after (.fixCommit 1) pointed).fixAt 1).lastT = some 5 := by decide +kernel

theorem meets_RegisterAccess : reachesRegs .safelight = true ∧ plainReg 0x00800FFC = true ∧ regDesc 0x00800FFC = RegDesc.none ∧
    tbDomain 0x00800FFC = false ∧ tbDomain (Reg.CH_ADD 0) = true ∧ grantsNow r0 (busReq r0 .safelight Reg.CS_AT_LO .b4 (some 7)) = true ∧
    (0 : Nat) < 0x800000 ∧ r0.freshAt Reg.HP_EVT = none ∧ sparseGet r0.seen.begun Reg.HP_EVT = none ∧
    ({ r0 with otp := true } : State).otp = true ∧ (busReq full hst 0x00820000 .b4 none).map (granted full) = some false ∧
    reservedAt 0x00800FF5 4 = true ∧ reservedAt Reg.HP_EVT 4 = false ∧ reservedAt (Reg.CH_ADD 0) 4 = false ∧
    reservedAt (Reg.HP_EVT + 1) 4 = false ∧ (Reg.HP_EVT + 1) % 4 ≠ 0 ∧ reservedAt (Reg.HP_EVT + 1) 1 = false ∧
    grantsNow r0 (busReq r0 hst 0x1000000 .b4 (some 7)) = true ∧ grantsNow r0 (busReq r0 hst 0x1000000 .b4 none) = true := by decide +kernel

/-- A word across a bank border is two accesses, each granted its own bank (R337). -/
theorem meets_Grants_two : grantsNow r0 (busReq r0 hst 2 .b4 none) = true ∧ (busReq r0 hst 2 .b4 none).map (fun r => r.two.isSome) = some true ∧
    Grants r0 (busReq r0 hst 2 .b4 none) := by
  have h : grantsNow r0 (busReq r0 hst 2 .b4 none) = true := by decide +kernel
  exact ⟨h, by decide +kernel, grantsNow_grants h⟩

/-- Event bits clear as they are read (R370). -/
theorem test_clear_on_read : (after (.clearOnRead hst Reg.HP_EVT .b4) (regs [(Reg.HP_EVT, 5)] r0)).answer.data = 5 ∧
    (after (.clearOnRead hst Reg.HP_EVT .b4) (regs [(Reg.HP_EVT, 5)] r0)).reg Reg.HP_EVT = 0 := by decide +kernel

theorem test_write_point : (after (.registerWrite hst Reg.CS_AT_LO 0x12345678) r0).reg Reg.CS_AT_LO = 0x12345678 := by decide +kernel

/-! ## Engines -/

/-- Thread 5 (engine 1) READY with `a` in w2 and `b` in w3. -/
def thr5 (a b : Word) : State :=
  (regs [(Reg.ENL_CTL 1, 1)] r0).modThr 5 fun h => ({ h with st := .ready } : Thr).setW 2 a |>.setW 3 b

/-- Instructions of every form, which thread 5 issues: no operand is held, nothing stalls it. -/
def forms : List EngIns :=
  [.alu .add 1 2 3, .alu .sub 1 2 3, .alu .and 1 2 3, .alu .or 1 2 3, .alu .xor 1 2 3, .alu .sll 1 2 3, .alu .srl 1 2 3, .alu .sra 1 2 3,
   .alu .slt 1 2 3, .alu .sltu 1 2 3, .alu .min 1 2 3, .alu .max 1 2 3, .alu .minu 1 2 3, .alu .maxu 1 2 3, .alu .mul 1 2 3,
   .alu .mulh 1 2 3, .alu .mulhu 1 2 3, .divide .div 1 2 3, .divide .divu 1 2 3, .divide .rem 1 2 3, .divide .remu 1 2 3] ++
  [.imm .addi 1 2 0xFFFF, .imm .cmpi 0 2 1, .imm .andi 1 2 1, .imm .ori 1 2 1, .imm .xori 1 2 1, .imm .lui 1 0 1, .shift .slli 1 2 31,
   .shift .srli 1 2 31, .shift .srai 1 2 31, .trayLoad .w 1 2 0, .trayLoad .h 1 2 2, .trayLoad .hu 1 2 2, .trayLoad .b 1 2 3,
   .trayLoad .bu 1 2 3, .trayStore .w 3 2 0, .trayStore .h 3 2 2, .trayStore .b 3 2 3, .load .w 1 2 0, .load .h 1 2 0, .load .hu 1 2 0,
   .load .b 1 2 0, .load .bu 1 2 0, .store .w 3 2 0, .store .h 3 2 0, .store .b 3 2 0] ++
  [.bcond 14 0xFFFF, .bcond 15 0, .jal 1 0xFFF, .jalr 1 2, .wait 1 0x100, .wait 1 0, .carm 1 27, .ccan 1 2, .pos 30 7, .spkr 1 7 5,
   .spkr 1 7 6, .p2t 30 30 7, .t2p 30 30 7, .pdist 1 2 3 7, .cap 30 127, .cap 31 0, .pos 0 0, .snap 1 30 2 3, .snap 1 31 3 0, .snrel,
   .fixsel 3 true, .fixarm 1 30 3 3 7, .fixarm 1 31 0 0 0, .send 1 2 3, .recv 1, .record 2 8, .record 2 7, .mfs 1 7, .mfs 1 8, .mts 0 2,
   .mts 5 2, .mts 4 2, .fence, .halt, .carm 1 28]

theorem meets_Issues : ∀ i ∈ forms, enlOn (thr5 7 9) (5 / 4) = true ∧ ((thr5 7 9).thrAt 5).st = .ready ∧ ((thr5 7 9).thrAt 5).stepOut = none ∧
    loadHazard ((thr5 7 9).thrAt 5) i = false ∧ trayTaken (thr5 7 9) (5 / 4) = false ∧ chosen (thr5 7 9) 5 = true ∧ atBreak (thr5 7 9) 5 = false ∧
    (iramFetch (thr5 7 9) (5 / 4) ((thr5 7 9).thrAt 5).pc.toNat).1.isSome = true ∧ mustStall (thr5 7 9) 5 i = false := by decide +kernel

/-- An instance of the premise as the statements write it. -/
theorem meets_Issues_add : Issues (thr5 7 9) 5 (.alu .add 1 2 3) := by
  obtain ⟨a, b, c, d, y, e, f, g, h⟩ := meets_Issues (.alu .add 1 2 3) (by decide)
  exact ⟨⟨a, b, c, d, fun _ => y, e, f, g⟩, h⟩

def w1 (c : Instr) (s : State) : Word := wreg (after c s) 5 1

theorem test_add : w1 (.add 5 1 2 3) (thr5 0xFFFFFFFF 2) = 1 ∧ ((after (.add 5 1 2 3) (thr5 0xFFFFFFFF 2)).thrAt 5).c = true := by decide +kernel
theorem test_sub : w1 (.sub 5 1 2 3) (thr5 1 2) = 0xFFFFFFFF ∧ ((after (.sub 5 1 2 3) (thr5 1 2)).thrAt 5).c = false := by decide +kernel
theorem test_sub_v : ((after (.sub 5 1 2 3) (thr5 0x80000000 1)).thrAt 5).v = true := by decide +kernel
theorem test_sra : w1 (.sra 5 1 2 3) (thr5 0x80000000 33) = 0xC0000000 := by decide +kernel
theorem test_slt : w1 (.slt 5 1 2 3) (thr5 0xFFFFFFFF 0) = 1 ∧ w1 (.sltu 5 1 2 3) (thr5 0xFFFFFFFF 0) = 0 := by decide +kernel
theorem test_mulh : w1 (.mulh 5 1 2 3) (thr5 0xFFFFFFFF 2) = 0xFFFFFFFF ∧ w1 (.mulhu 5 1 2 3) (thr5 0xFFFFFFFF 2) = 1 := by decide +kernel
theorem test_addi : w1 (.addi 5 1 2 0xFFFF) (thr5 7 0) = 6 := by decide +kernel
theorem test_andi : w1 (.andi 5 1 2 0x8001) (thr5 0xFFFFFFFF 0) = 0x8001 := by decide +kernel
theorem test_lui : w1 (.lui 5 1 0x1234) (thr5 0 0) = 0x12340000 := by decide +kernel
theorem test_w0 : wreg (after (.add 5 0 2 3) (thr5 1 2)) 5 0 = 0 := by decide +kernel

theorem test_div_zero : w1 (.div 5 1 2 3) (thr5 7 0) = 0xFFFFFFFF ∧ ((after (.div 5 1 2 3) (thr5 7 0)).thrAt 5).v = true := by decide +kernel
theorem test_div_trunc : w1 (.div 5 1 2 3) (thr5 0xFFFFFFF9 2) = 0xFFFFFFFD ∧ w1 (.rem 5 1 2 3) (thr5 0xFFFFFFF9 2) = 0xFFFFFFFF := by
  decide +kernel

/-- The divider of engine 1 busy until tb 36, and the thread that meets it. -/
def dividing : State := (thr5 7 9).modEng 1 fun g => { g with divTb := 36 }

theorem meets_EngineDivide : dividing.tb < (dividing.engAt 1).divTb ∧ enlOn dividing 1 = true ∧ (dividing.thrAt 5).st = .ready ∧
    (dividing.thrAt 5).stepOut = none ∧ chosen dividing 5 = true ∧ atBreak dividing 5 = false ∧
    loadHazard (dividing.thrAt 5) (.divide .div 1 2 3) = false ∧ (({ dividing with tb := 36 } : State).engAt 1).divTb ≤ 36 ∧
    ∀ j : Fin 4, (dividing.thrAt (4 + j.val)).st ≠ .stall := by decide +kernel

theorem test_div_stalls : ((after (.div 5 1 2 3) dividing).thrAt 5).st = .stall := by decide +kernel

theorem meets_EngineTray : (wreg (thr5 0x7FFC 9) 5 2 + (0 : BitVec 16).signExtend 32).toNat % 65536 = 0x7FFC ∧
    sparseRead zeroNat ((thr5 0x7FFC 9).engAt 1).tecc 0x7FFC = 0 ∧ (0x7FFC : Nat) % 4 = 0 := by decide +kernel

/-- The state a cc later, in which thread 5 can issue again. -/
def later (s : State) : State := { s with tb := s.tb + 2, fabric := { s.fabric with used := [] } }

theorem test_tray : w1 (.ldtb 5 1 2 3) (later (after (.stt 5 3 2 0) (thr5 0x40 0x89ABCDEF))) = 0xFFFFFF89 ∧
    w1 (.ldthu 5 1 2 2) (later (after (.stt 5 3 2 0) (thr5 0x40 0x89ABCDEF))) = 0x89AB := by decide +kernel

theorem meets_EngineTrayFaults : 0x8000 ≤ (wreg (thr5 0x8000 0) 5 2).toNat % 65536 ∧ (0x7FFF : Nat) % 4 ≠ 0 ∧ (0x7FFF : Nat) % 2 ≠ 0 ∧
    1 < sparseRead zeroNat (((thr5 0x40 0).modEng 1 fun g => { g with tecc := [(0x40, 2)] }).engAt 1).tecc 0x40 := by decide +kernel

theorem test_tray_faults : ((after (.ldt 5 1 2 0) (thr5 0x8000 0)).thrAt 5).fault = 2 ∧ ((after (.ldt 5 1 2 2) (thr5 0x40 0)).thrAt 5).fault = 3 := by
  decide +kernel

/-- A load and a store at spool 2, which engines own and which is ON. -/
def fabric (i : Instr) : State :=
  after i (regs [(Reg.SPL_OWN 2, 1)] (thr5 0x200010 0xBEEF) |>.modSpl 2 fun p => { p with st := .on })

theorem meets_EngineFabricAccess : ((fabric (.ldhu 5 1 2 0)).thrAt 5).fab.length = 1 ∧ ((fabric (.sth 5 3 2 0)).thrAt 5).fab.length = 1 ∧
    grantsNow (fabric (.ldhu 5 1 2 0)) (threadReq (fabric (.ldhu 5 1 2 0)) 5) = true ∧
    grantsNow (fabric (.sth 5 3 2 0)) (threadReq (fabric (.sth 5 3 2 0)) 5) = true ∧
    grantsNow (fabric (.cap 5 1 127)) (threadReq (fabric (.cap 5 1 127)) 5) = true ∧
    grantsNow (fabric (.snrel 5)) (threadReq (fabric (.snrel 5)) 5) = true ∧
    (let s := fabric (.ldhu 5 1 2 0)
     let full : State := { s with fabric := { s.fabric with used := (threadReq s 5).elim [] FabReq.places } }
     (threadReq full 5).map (granted full)) = some false ∧ ((thr5 0 0).thrAt 5).fab = [] ∧
    ((fabric (.cap 5 1 127)).thrAt 5).fab.map FabAcc.kind = [.cap] ∧ ((fabric (.snrel 5)).thrAt 5).fab.map FabAcc.kind = [.snrel] ∧
    (busRead (fabric (.ldhu 5 1 2 0)) (.engine 5) 0x200010 .b2).1 ≠ .buserr ∧
    (busRead (fabric (.ldhu 5 1 2 1)) (.engine 5) 0x800001 .b2).1 = .buserr ∧
    (busWrite (fabric (.sth 5 3 2 0)) (.engine 5) none 0x200010 .b2 0xBEEF).1 ≠ .buserr ∧
    (busWrite (fabric (.sth 5 3 2 1)) (.engine 5) none 0x800001 .b2 0xBEEF).1 = .buserr := by decide +kernel

theorem test_fabric : byteAt (after (.fabricAccessComplete 5) (fabric (.sth 5 3 2 0))).mem 0x200011 = 0xBE ∧
    byteAt (after (.fabricAccessComplete 5) (fabric (.sth 5 3 2 0))).mem 0x200012 = 0 := by decide +kernel

theorem test_branch : ((after (.bCond 5 0 0xFFFE) (thr5 0 0)).thrAt 5).pc = 0xFFF ∧ ((after (.bCond 5 15 0) (thr5 0 0)).thrAt 5).fault = 1 := by
  decide +kernel

theorem test_jalr : ((after (.jalr 5 2 2) (thr5 0x123 0)).thrAt 5).pc = 0x123 ∧ wreg (after (.jalr 5 2 2) (thr5 0x123 0)) 5 2 = 1 := by
  decide +kernel

/-- Thread 5 asleep for event 13, without and with it. -/
def asleep : State := after (.wait 5 1 0x2000) (thr5 0 0)

theorem meets_EngineWait : (asleep.thrAt 5).st = .sleep ∧ (asleep.thrAt 5).wait = some (1, 0x2000) ∧ ((thr5 0 0).thrAt 5).st ≠ .sleep ∧
    (asleep.thrAt 5).evpAll &&& 0x2000 = 0 ∧ ((asleep.modThr 5 fun h => { h with evp := 0x2000 }).thrAt 5).evpAll &&& 0x2000 ≠ 0 ∧
    (0x2000 : BitVec 16) ≠ 0 ∧
    let h := ((thr5 0 0).modThr 5 fun h => { h with evp := 0x2000 }).thrAt 5
    h.evpAll &&& 0x2000 &&& ~~~(((if h.evpNew.1 = 0 then h.evpNew.2 else (0, h.evp)).1 &&& ~~~(if h.evpNew.1 = 0 then h.evpNew.2 else (0, h.evp)).2).setWidth 32) ≠ 0 := by
  decide +kernel

/-- An event that sets again in the cc in which the wait clears it stays (R168). -/
def again : State := asleep.modThr 5 fun h => { h with evp := 0x2000, evpNew := (0, 0x2000, 0x2000) }

theorem test_wait_again : ((after (.threadWake 5) again).thrAt 5).evp = 0x2000 ∧
    ((after (.threadWake 5) (asleep.modThr 5 fun h => { h with evp := 0x2000 })).thrAt 5).evp = 0 := by decide +kernel

theorem test_wait : ((after (.threadWake 5) (asleep.modThr 5 fun h => { h with evp := 0x2000 })).thrAt 5).st = .ready ∧
    w1 (.threadWake 5) (asleep.modThr 5 fun h => { h with evp := 0x2000 }) = 0x2000 := by decide +kernel

/-- Thread 9's message queue full. -/
def full9 : State := (thr5 7 9).modThr 9 fun h => { h with mq := List.replicate 8 1 }

theorem meets_EngineMessages : (wreg (thr5 7 9) 5 3).toNat = 9 ∧ popsNow (issuing (thr5 7 9) 5) 9 = false ∧
    ((issuing (thr5 7 9) 5).thrAt 9).mq.length < 8 ∧ ¬((issuing full9 5).thrAt 9).mq.length < 8 ∧ popsNow (issuing full9 5) 9 = false ∧
    (full9.thrAt 9).mq = 1 :: List.replicate 7 1 ∧ ((thr5 7 9).thrAt 5).mq = [] ∧ reachesRegs (.engine 63) = true := by decide +kernel

/-- Thread 9's queue full, with a recv of it that issues in this cc. -/
def popping : State := { (regs [(Reg.ENL_CTL 2, 1)] full9).modThr 9 fun h => { h with st := .ready } with pending := [.recv 9 1] }

theorem meets_EngineMessages_pop : popsNow popping 9 = true ∧ (popping.thrAt 9).mq.length = 8 ∧ popsNow (issuing popping 5) 9 = true := by
  decide +kernel

theorem test_send_pop : ((after (.tmsgWrite hst 9 7) popping).thrAt 9).mq.length = 9 ∧
    ((after (.tmsgWrite hst 9 7) full9).thrAt 9).mq.length = 8 := by decide +kernel

theorem test_send : ((after (.send 5 1 2 3) (thr5 7 9)).thrAt 9).mq = [7] ∧ w1 (.send 5 1 2 3) full9 = 1 := by decide +kernel

theorem meets_EngineSpecial : (8 : Nat) ≤ (8 : Fin 16).val ∧ (1 : Fin 16) ≠ 0 ∧ (1 : Fin 16) ≠ 5 := by decide

theorem test_mfs : w1 (.mfs 5 1 1) (thr5 0 0) = 5 ∧ w1 (.mfs 5 1 6) (thr5 0 0) = 1 ∧ ((after (.mfs 5 1 8) (thr5 0 0)).thrAt 5).fault = 1 := by
  decide +kernel

/-- Unit 7 SYNCED with a predicted period of 1,000 tb and a last tooth at 100; channel 127 with one capture. -/
def turning : State :=
  let tooth : Tooth := { stamp := 1600, pos := 0x10000, cyc := 0, span := 1, tPred := 1000 * 4096 }
  (({ thr5 0x10000 0 with tb := 600 }).modSpk 7 fun u => { u with
    st := .synced, haveTooth := true, stamp := 1600, pos := 0x10000, tValid := true, tPred := 1000 * 4096, hist := [tooth], ev := some tooth,
    vis := { u.vis with pos := 0x10000, stamp := 1600, tPred := 1000 * 4096, tValid := true } }).modCh 127 fun c =>
    { c with fifo := [{ count := 5, tag := 0x40 }] }

theorem meets_EnginePosition : (p2tValue turning 7 0x10000 0).isSome = true ∧ (t2pValue turning 7 200 0).isSome = true ∧
    (turning.spkAt 0).st.valid = false ∧ (turning.spkAt 7).lastEv ≠ none ∧ (1 : Fin 32).val ≤ 30 ∧ (30 : Fin 32).val ≤ 30 ∧
    (5 : Fin 16).val ≤ 5 ∧ (turning.spkAt 7).st.valid = true ∧ (turning.spkAt 7).tValid = true ∧ (turning.spkAt 0).tValid = false := by
  decide +kernel

/-- A distance of as many teeth as a cycle has brings 0 with C = 1 (R193). -/
theorem test_pdist_far : let s := (thr5 0x30000 0).setReg (Reg.SPK_CYCLE 7) 3
    let far := applyDue (s.modThr 5 fun h => { h with out := [(.pdist 1 2 3 7, 0x30000, 0)] }) (.unitRes 5)
    let near := applyDue (s.modThr 5 fun h => { h with out := [(.pdist 1 2 3 7, 0x20000, 0x10000)] }) (.unitRes 5)
    (far.thrAt 5).c = true ∧ (far.thrAt 5).getW 1 = 0 ∧ (near.thrAt 5).c = false ∧ (near.thrAt 5).getW 1 = 0x10000 := by decide +kernel

/-- A cap completes as an access of the fabric; a spkr takes its result 4 tb after its cc (R190, R194). -/
theorem test_cap : w1 (.fabricAccessComplete 5) (later (after (.cap 5 1 127) turning)) = 5 ∧
    wreg (after (.fabricAccessComplete 5) (later (after (.cap 5 1 0) turning))) 5 2 = 0x8000 ∧
    (after (.spkr 5 1 7 5) turning).due.map Prod.fst = [604] := by decide +kernel

theorem meets_EngineRequests : (27 : Fin 32).val ≤ 27 ∧ (2 : Fin 4).val ≤ 2 ∧ (30 : Fin 32).val ≤ 30 ∧ 8 ≤ (63 : Fin 64).val ∧
    (thr5 0 0).safe.rundown = none := by decide +kernel

/-- Thread 5 READY at a word with an uncorrectable error. -/
def badWord : State := (thr5 7 64).modEng 1 fun g => { g with iecc := [(0, 2)] }

theorem test_halt : ((after (.halt 5) (thr5 0 0)).thrAt 5).st = .stopped ∧ ((after (.halt 5) (thr5 0 0)).thrAt 5).pc = 1 := by decide +kernel

theorem test_carm : ((after (.carm 5 1 2) (thr5 0 0)).cal.reqs).length = 1 ∧ ((after (.carm 5 1 2) (thr5 0 0)).thrAt 5).st = .stall := by
  decide +kernel

theorem meets_EngineIllegalOperands : 64 ≤ (wreg (thr5 7 64) 5 3).toNat ∧ 28 ≤ (31 : Fin 32).val ∧ 6 ≤ (15 : Fin 16).val ∧
    (7 : Fin 64).val < 8 ∧ enlOn badWord 1 = true ∧ (badWord.thrAt 5).st = .ready ∧ (badWord.thrAt 5).stepOut = none ∧ chosen badWord 5 = true ∧
    atBreak badWord 5 = false ∧ loadHazard (badWord.thrAt 5) .halt = false ∧ (iramFetch badWord 1 (badWord.thrAt 5).pc.toNat).1 = none := by
  decide +kernel



/-- Thread 5 in the state given, with its word the instruction `add`. -/
def thrIn (st : ThrState) : State :=
  ((thr5 7 9).modThr 5 fun h => { h with st := st }).modEng 1 fun g => { g with iram := [(0, engEncode (.alu .add 1 2 3))] }

/-- Thread 5 about to issue one instruction; at a word that is no instruction; at its enabled breakpoint; READY for 10,000 tb with
WDOG 1. -/
def stepping (s : State) : State := s.modThr 5 fun h => { h with st := .ready, stepping := true }
def noWord (st : ThrState) : State := (thr5 7 9).modThr 5 fun h => { h with st := st }
def breaking : State := regs [(Reg.ENL_TCTL 1 1, 0x20)] (thrIn .ready)
def watched : State := ({ regs [(Reg.ENL_TCTL 1 1, 0x01000000)] (thrIn .ready) with tb := 10000 }).modThr 5 fun h => { h with wdOn := true }

theorem meets_ThreadCommands : enlOn (thrIn .debug) 1 = true ∧ enlOn r0 1 = false ∧ ((thrIn .stopped).thrAt 5).st = .stopped ∧
    ((thrIn .fault).thrAt 5).st = .fault ∧ ((thrIn .sleep).thrAt 5).st = .sleep ∧ ((thrIn .stall).thrAt 5).st = .stall ∧
    ((thrIn .debug).thrAt 5).st = .debug ∧ nextEligible (stepping (thrIn .debug)) 5 = true ∧ chosen (stepping (thrIn .debug)) 5 = true ∧
    nextEligible (stepping (noWord .debug)) 5 = true ∧ (iramFetch (stepping (noWord .debug)) 1 0).1.map engDecode = some none ∧
    (iramFetch (stepping (thrIn .debug)) 1 0).1.map engDecode = some (some (.alu .add 1 2 3)) ∧
    nextEligible (stepping (later (after (.add 5 1 2 3) (thrIn .debug)))) 5 = true ∧
    chosen (stepping (issuing (thrIn .debug) 4)) 5 = false ∧
    nextEligible breaking 5 = true ∧ chosen breaking 5 = true ∧ (breaking.reg (Reg.ENL_TCTL 1 1)).getLsbD 5 = true ∧
    (breaking.thrAt 5).stepping = false ∧ (breaking.reg (Reg.ENL_TBKPT 1 1)).setWidth 12 = (breaking.thrAt 5).pc ∧
    (thrIn .ready).reg (Reg.ENL_TCTL 1 1) = 0 ∧ (watched.reg (Reg.ENL_TCTL 1 1)).toNat / 2 ^ 24 * 10000 = 10000 ∧
    (watched.thrAt 5).wdOn = true ∧ 10000 ≤ (watched.thrAt 5).wdCount + (watched.tb - (watched.thrAt 5).wdTb) := by decide +kernel

theorem test_start : ((after (.threadStart hst 5) (thrIn .fault)).thrAt 5).st = .ready ∧
    (after (.threadStart hst 5) (regs [(Reg.ENL_CTL 1, 0)] (thrIn .fault))).rb (Reg.ENL_STAT 1) 2 = true := by decide +kernel

theorem test_watchdog : ((after (.threadWatchdog 5) watched).thrAt 5).fault = 7 ∧
    ((after (.threadWatchdog 5) { watched with tb := 9999 }).thrAt 5).st = .ready := by decide +kernel

theorem meets_EngineControl : ((thrIn .stopped).thrAt 5).st = .stopped ∧ ((thrIn .ready).thrAt 5).st = .ready ∧
    (thrIn .ready).rb (Reg.ENL_CTL 1) 0 = true ∧ (thrIn .ready).safe.rundown = none ∧ (0 : Word) &&& 0x1FFF0000 = 0 := by decide +kernel

theorem test_disable : ((after (.engineDisable hst 1 0) (thrIn .ready)).thrAt 5).st = .stopped ∧
    ((after (.engineDisable hst 1 0) (thrIn .stall)).thrAt 5).stopPend = true := by decide +kernel

/-- Engine 1 with its window on the tray, and with WOPEN at 4,096 and thread 5 READY. -/
def window : State := regs [(Reg.ENL_WIN 1, 0xF1)] (thrIn .ready)
def locked : State := regs [(Reg.ENL_CTL 1, 0x10000001)] (thrIn .ready)

/-- A row of thread 5 that takes the tray in this cc waits in the queue (R176). -/
def trayFirst : State := { window with pending := [.ldt 5 1 0 0] }

theorem meets_EngineWindow_tray : trayWanted trayFirst 1 = true ∧
    (busReq trayFirst hst (windowAddr 1 511) .b4 none).map (granted trayFirst) = some false ∧
    (busReq trayFirst hst (windowAddr 1 511) .b4 (some 5)).map (granted trayFirst) = some false ∧
    grantsNow window (busReq window hst (windowAddr 1 511) .b4 none) = true ∧
    grantsNow window (busReq window hst (windowAddr 1 511) .b4 (some 5)) = true ∧
    grantsNow locked (busReq locked hst (windowAddr 1 511) .b4 (some 5)) = true ∧
    grantsNow (thrIn .stopped) (busReq (thrIn .stopped) hst (windowAddr 1 511) .b4 (some 5)) = true ∧
    (after (.windowAccess hst 1 511 none) trayFirst).answer.status = .held := by decide +kernel

theorem meets_EngineWindow : (window.reg (Reg.ENL_WIN 1)).getLsbD 0 = true ∧ (locked.reg (Reg.ENL_WIN 1)).getLsbD 0 = false ∧
    (window.reg (Reg.ENL_WIN 1)).toNat / 16 % 16 = 15 ∧ (locked.reg (Reg.ENL_WIN 1)).toNat / 16 % 16 < 8 ∧
    (trayCheck window 1 (15 * 2048 + 4 * 511)).isSome = true ∧
    trayCheck (window.modEng 1 fun g => { g with tecc := [(15 * 2048, 2)] }) 1 (15 * 2048) = none ∧
    (iramRead locked 1 511).1.isSome = true ∧ sparseRead zeroNat (locked.engAt 1).iecc 511 = 0 ∧
    8 ≤ ((regs [(Reg.ENL_WIN 1, 0x80)] r0).reg (Reg.ENL_WIN 1)).toNat / 16 % 16 ∧ (locked.thrAt 5).st = .ready ∧
    ¬(locked.reg (Reg.ENL_CTL 1)).toNat / 2 ^ 16 % 2 ^ 13 ≤ 511 ∧ (∀ j : Fin 4, ((thrIn .stopped).thrAt (4 + j.val)).st = .stopped) := by decide +kernel

theorem test_window : memWord ((after (.windowAccess hst 1 511 (some 0xAABBCCDD)) window).engAt 1).tray 0x7FFC = 0xAABBCCDD ∧
    (after (.windowAccess hst 1 511 (some 5)) locked).rb (Reg.ENL_STAT 1) 0 = true := by decide +kernel

theorem meets_EngineCodeRoundTrip : ∀ i ∈ forms, engInsWf i = true := by decide +kernel

/-! ## Sprocket units, channels and pins -/

/-- Unit 7's registers: 60 teeth of which 2 are missing, K 60, a legal gap window. -/
def wheel : State := regs [(Reg.SPK_WHEEL 7, 0x2003C), (Reg.SPK_CYCLE 7, 60), (Reg.SPK_GAPWIN 7, 0x400019), (Reg.SPK_PRESET 7, 0x50000)] r0

theorem meets_SprocketEnable : wheel.rb (Reg.SPK_CTL 7) 0 = false ∧ r0.rf (Reg.SPK_WHEEL 7) 15 0 = 0 ∧
    wheel.rf (Reg.SPK_WHEEL 7) 15 0 = 60 ∧ wheel.rf (Reg.SPK_CYCLE 7) 15 0 = 60 ∧ wheel.rf (Reg.SPK_CYCLE 7) 31 16 = 0 ∧
    wheel.rf (Reg.SPK_WHEEL 7) 18 16 = 2 ∧ wheel.rf (Reg.SPK_GAPWIN 7) 7 0 = 0x19 ∧ wheel.rf (Reg.SPK_GAPWIN 7) 23 16 = 0x40 ∧
    (0x41 : Word).toNat / 64 % 4 = 1 ∧ (0x41 : Word).toNat / 512 % 4 = 0 ∧ (0x41 : Word).getLsbD 11 = false ∧ (0x01 : Word).toNat / 64 % 4 = 0 ∧
    (after (.spkEnable hst 7 1) wheel).rb (Reg.SPK_CTL 7) 0 = true := by decide +kernel

theorem test_spk_enable : ((after (.spkEnable hst 7 1) wheel).spkAt 7).st = .synced ∧ ((after (.spkEnable hst 7 1) wheel).spkAt 7).pos = 0x50000 ∧
    ((after (.spkEnable hst 7 0x41) wheel).spkAt 7).st = .acquire ∧ (after (.spkEnable hst 7 1) r0).rb (Reg.SPK_EVT 7) 12 = true := by decide +kernel

/-- Unit 7 SYNCED without a reference, its last tooth at 100 tb, before and after its second interval. -/
def synced : State := { regs [(Reg.SPK_WHEEL 7, 60), (Reg.SPK_CYCLE 7, 60), (Reg.SPK_STOP 7, 0x10001), (Reg.SPK_CTL 7, 1)] r0 with tb := 5000 }.modSpk 7 fun u =>
  { u with st := .synced, haveTooth := true, haveReal := true, realStamp := 1600, stamp := 1600, pos := 0x10000, cfg := { u.cfg with floor := 0xFFFF } }
def paced : State := synced.modSpk 7 fun u => { u with tValid := true, haveRef := true, tRef := 1600, tPred := 1000 * 4096, tPrev := 16000 * 256 }

/-- A rise on A at `t` tb. -/
def rise (t : Nat) : SpkEdge := { input := .a, rise := true, stamp := 16 * t, back := none }

/-- The state at another tb; and unit 7 in mode TOOTH_DIR, its B level low, travelling forward. -/
def at_ (t : Nat) (s : State) : State := { s with tb := t }
def twoWay : State := regs [(Reg.SPK_CTL 7, 5)] paced

theorem meets_SprocketTeeth : (at_ 1114 paced).tb = ((rise 1100).stamp + 15) / 16 + 10 + 4 ∧ ¬(at_ 1113 paced).tb = ((rise 1100).stamp + 15) / 16 + 10 + 4 ∧
    (∀ b, (rise 1100).back = some b → 1110 * 16 ≤ b) ∧ (synced.spkAt 7).st ≠ .off ∧ spkMirrors synced 7 = false ∧
    synced.rf (Reg.SPK_CTL 7) 3 2 = 0 ∧ ((true != (synced.reg (Reg.SPK_INCFG 7)).getLsbD 4) ≠ (synced.reg (Reg.SPK_INCFG 7)).getLsbD 1) ∧
    (rise 149).stamp < (synced.spkAt 7).stamp + 800 ∧ ¬(rise 1100).stamp < (paced.spkAt 7).stamp + 800 ∧
    ¬((rise 1100).stamp - 1600) * 4096 < min 12 ((paced.spkAt 7).cfg.win.toNat % 16) * (paced.spkAt 7).tPred ∧
    (paced.spkAt 7).tValid = true ∧ (paced.spkAt 7).haveRef = true ∧ (paced.spkAt 7).sRef = 0 ∧ (paced.spkAt 7).mirInGap = false ∧
    max (paced.rf (Reg.SPK_WIN 7) 11 8) (min 12 (paced.rf (Reg.SPK_WIN 7) 3 0)) * (paced.spkAt 7).tPred ≤ ((rise 1100).stamp - 1600) * 256 * 16 ∧
    ((rise 1100).stamp - 1600) * 256 ≤ 0x0FFFFFFF * 4096 ∧ (synced.spkAt 7).dirRev = false ∧ (synced.spkAt 7).revHold = none ∧
    (r0.spkAt 7).st = .off ∧ (false != (synced.reg (Reg.SPK_INCFG 7)).getLsbD 4) = (synced.reg (Reg.SPK_INCFG 7)).getLsbD 1 ∧
    twoWay.rf (Reg.SPK_CTL 7) 3 2 = 1 ∧ (((twoWay.spkAt 7).lvlB != (twoWay.reg (Reg.SPK_INCFG 7)).getLsbD 5) != twoWay.rb (Reg.SPK_CTL 7) 8) = false ∧
    (((((twoWay.modSpk 7 fun u => { u with lvlB := true }).spkAt 7).lvlB != (twoWay.reg (Reg.SPK_INCFG 7)).getLsbD 5) !=
      twoWay.rb (Reg.SPK_CTL 7) 8) = !(twoWay.spkAt 7).dirRev) := by
  refine ⟨by decide +kernel, by decide +kernel, ?_, by decide +kernel⟩
  intro b h; cases h

theorem test_tooth : ((after (.spkToothEdge 7 (rise 1100)) (at_ 1114 paced)).spkAt 7).stamp = 17600 ∧
    ((after (.spkToothEdge 7 (rise 1100)) (at_ 1114 paced)).spkAt 7).pos = 0x20000 ∧
    ((after (.spkToothEdge 7 (rise 1100)) (at_ 1114 paced)).spkAt 7).tPred = 1000 * 4096 ∧
    ((after (.spkToothEdge 7 (rise 1100)) (at_ 1115 paced)).spkAt 7).stamp = 1600 := by decide +kernel

theorem test_noise : (after (.spkToothEdge 7 (rise 149)) (at_ 163 synced)).rb (Reg.SPK_EVT 7) 3 = true := by decide +kernel

theorem test_reversal : ((after (.spkToothEdge 7 (rise 1100)) ((at_ 1114 twoWay).modSpk 7 fun u => { u with lvlB := true })).spkAt 7).dirRev = true := by
  decide +kernel

theorem meets_SprocketEvents : (regs [(Reg.SPK_INCFG 7, 1)] paced).rb (Reg.SPK_INCFG 7) 0 = true ∧
    (regs [(Reg.SPK_INCFG 7, 1)] paced).rb (Reg.SPK_INCFG 7) 8 = false ∧ (paced.reg (Reg.SPK_INCFG 7)).getLsbD 0 = false ∧
    spkMirrors paced 7 = false ∧ (paced.spkAt 7).st.valid = true ∧ ((paced.spkAt 7).stAt paced.tb).valid = true ∧ (paced.spkAt 7).tValid = true ∧
    (paced.spkAt 7).tPred < (paced.spkAt 7).cfg.floor * 1000 * 4096 ∧ (r0.spkAt 7).st.valid = false ∧
    ((paced.spkAt 7).stamp * 4096 + 24 * (paced.spkAt 7).tPred + 65535) / 65536 + 10 + 4 = 1614 ∧ spkInGap paced 7 = false ∧
    (paced.spkAt 7).st = .synced ∧ ((paced.modSpk 7 fun u => { u with st := .suspect, missn := 1 }).spkAt 7).st = .suspect ∧
    max 1 (((paced.modSpk 7 fun u => { u with st := .suspect, missn := 1 }).spkAt 7).cfg.win.toNat / 2 ^ 24 % 16) ≤ 1 ∧
    (paced.spkAt 7).virtq = [] ∧ (paced.spkAt 7).stopped = false ∧ toothWaits paced 7 = false ∧
    (paced.spkAt 7).stopFrom.getD (((if (paced.spkAt 7).haveReal then (paced.spkAt 7).realStamp else (paced.spkAt 7).enTb * 16) + 15) / 16 +
      max 1 (paced.rf (Reg.SPK_STOP 7) 15 0) * 1000) + max 1 (paced.rf (Reg.SPK_STOP 7) 31 16) * 1000000 = 1001100 ∧ (r0.spkAt 7).st = .off ∧
    paced.rf (Reg.SPK_CTL 7) 7 6 = 0 ∧ (regs [(Reg.SPK_CTL 7, 0x41)] paced).rf (Reg.SPK_CTL 7) 7 6 ≠ 0 := by decide +kernel

def aTooth : Tooth := { stamp := 1600, pos := 0x10000, cyc := 0, span := 1, tPred := 1000 * 4096 }

theorem meets_SprocketEvents_virtual : ((paced.modSpk 7 fun u => { u with virtq := [(0, aTooth)] }).spkAt 7).virtq = [(0, aTooth)] ∧
    (0 + 4095) / 4096 + 1000 + 12 ≤ paced.tb := by decide +kernel

/-- The deadline of unit 7's next tooth is 1,600 tb: at its F + 4 alone, at that with an edge stamped before it, and with one stamped
at it. -/
def overdue : State := at_ 1614 paced
def justBefore : State := { overdue with pending := [.spkToothEdge 7 { input := .a, rise := true, stamp := 25592, back := none }] }

theorem meets_SprocketEvents_missed : missDue overdue 7 = true ∧ overdue.pending = [] ∧ missDue (at_ 1613 paced) 7 = false ∧
    missDue (edgesAhead justBefore 7 (some (missDeadline justBefore 7))) 7 = false ∧ missDue justBefore 7 = true ∧
    missDeadline overdue 7 ≤ (rise 1600).stamp * 4096 ∧ overdue.tb = ((rise 1600).stamp + 15) / 16 + 10 + 4 ∧
    missDue (after (.missedTooth 7) overdue) 7 = false ∧
    ((overdue.modSpk 7 fun u => { u with st := .quick }).spkAt 7).st = .quick ∧
    missDue (overdue.modSpk 7 fun u => { u with st := .quick }) 7 = true := by decide +kernel

theorem test_missed : ((after (.missedTooth 7) overdue).spkAt 7).st = .suspect ∧ ((after (.missedTooth 7) overdue).spkAt 7).stamp = 17600 ∧
    ((after (.missedTooth 7) justBefore).spkAt 7).stamp = 1600 := by decide +kernel

/-- One tb before the stop time nothing happens (R74). -/
theorem test_stop : ((after (.stopDetect 7) { paced with tb := 1001099 }).spkAt 7).stopped = false := by decide +kernel

/-- Phase measurement of unit 0 against unit 7, which is SYNCED; a window that holds no position; a full FIFO. -/
def phasing : State := regs [(Reg.SPK_PH_CTL 0, 0x701)] paced
def narrow : State := regs [(Reg.SPK_PH_WLO 0, 0x300000), (Reg.SPK_PH_WHI 0, 0x300001)] phasing
def crowded : State := phasing.modSpk 0 fun u => { u with fifo := List.replicate 2 { pos := 1, cyc := 2, err := 3 } }

/-- Its mark at 100 tb, taken at 122; and marks of PHYS 0 of unit 7 in place of its index edges. -/
def mark100 : Mark := { rise := true, was := false, stamp := 1600, back := none }
def zeroMarks : State := (regs [(Reg.SPK_PH_CTL 0, 0x773)] paced).modSpk 7 fun u => { u with zeros := [1600] }

theorem meets_SprocketJournal : (phasing.reg (Reg.SPK_PH_CTL 0)).getLsbD 0 = true ∧ (phasing.reg (Reg.SPK_PH_CTL 0)).getLsbD 1 = false ∧
    (at_ 122 phasing).tb = (mark100.stamp + 15) / 16 + 10 + 12 ∧ (mark100.rise != phasing.rb (Reg.SPK_INCFG 0) 6) = !(phasing.reg (Reg.SPK_PH_CTL 0)).getLsbD 2 ∧
    (zeroMarks.reg (Reg.SPK_PH_CTL 0)).getLsbD 1 = true ∧ zeroMarks.rf (Reg.SPK_PH_CTL 0) 6 4 = 7 ∧
    (zeroMarks.spkAt 7).zeros.contains mark100.stamp = true ∧ ¬phasing.tb = (mark100.stamp + 15) / 16 + 10 + 12 ∧
    phasing.rf (Reg.SPK_PH_CTL 0) 10 8 = 7 ∧ (phasing.spkAt 7).st = .synced ∧ (r0.spkAt 0).st ≠ .synced ∧
    phasing.reg (Reg.SPK_PH_WLO 0) = phasing.reg (Reg.SPK_PH_WHI 0) ∧ narrow.reg (Reg.SPK_PH_WLO 0) < narrow.reg (Reg.SPK_PH_WHI 0) ∧
    ¬narrow.reg (Reg.SPK_PH_WLO 0) ≤ (phasePos narrow 7 1600).1 ∧ 2 ≤ (crowded.spkAt 0).fifo.length ∧ (phasing.spkAt 0).fifo.length < 2 ∧
    (r0.reg (Reg.SPK_PH_CTL 0)).getLsbD 0 = false ∧ r0.rb (Reg.SPK_CTL 0) 0 = false ∧ r0.rf (Reg.SPK_CTL 0) 7 6 ≠ 2 ∧
    (regs [(Reg.SPK_CTL 0, 0x80)] r0).rf (Reg.SPK_CTL 0) 7 6 = 2 ∧ (regs [(Reg.SPK_CTL 0, 1)] phasing).rb (Reg.SPK_CTL 0) 0 = true ∧
    (0x701 ^^^ phasing.reg (Reg.SPK_PH_CTL 0)) &&& 0x776 = 0 ∧ phasing.reg (Reg.SPK_PH_CTL 0) &&& 0x88 = 0 ∧
    (0x711 ^^^ phasing.reg (Reg.SPK_PH_CTL 0)) &&& 0x776 ≠ 0 := by decide +kernel

theorem test_phase_mark : ((after (.phaseMark 0 mark100) (at_ 122 phasing)).spkAt 0).fifo.length = 1 ∧
    ((after (.phaseMark 0 mark100) (at_ 122 zeroMarks)).spkAt 0).fifo.length = 1 ∧
    (after (.phaseMark 0 mark100) (at_ 122 narrow)).rf (Reg.SPK_PH_STAT 0) 31 16 = 1 := by decide +kernel

/-- Channel 17 on TB events with PRESC 2, in FREE and in WRAP with TOP 3. -/
def free17 : State := (regs [(Reg.CH_CTL 17, 0x02000003)] { r0 with tb := 9 }).modCh 17 fun c => { c with cnt := 3, presc := 2 }
def wrap17 : State := (regs [(Reg.CH_CTL 17, 0x02000005)] { r0 with tb := 9 }).modCh 17 fun c => { c with cnt := 3, presc := 2, top := 3 }

/-- In UPDOWN at 1, at 0 and at TOP. -/
def updown17 (k : Word) : State := (regs [(Reg.CH_CTL 17, 0x02000007)] { r0 with tb := 9 }).modCh 17 fun c => { c with cnt := k, presc := 2, top := 3 }

theorem meets_ChannelCounter : reachesRegs .safelight = true ∧ fixSelOf r0 .safelight = none ∧ r0.staged = [] ∧ (0x02000003 : Word).toNat / 2 % 8 < 4 ∧
    (0x0000000B : Word).toNat / 2 % 8 ≥ 4 ∧ (0x02000003 : Word).toNat / 2 ^ 16 % 8 < 5 ∧ ¬((0x02000003 : Word).toNat / 2 ^ 16 % 8 = 3 ∧ (17 : Fin 128).val = 0) ∧
    exgMember (regs [(Reg.EXG_CTL 2, 0x11)] r0) 17 = true ∧ exgMember r0 17 = false ∧ r0.rf (Reg.CH_CTL 17) 3 1 = 0 ∧
    free17.rf (Reg.CH_CTL 17) 3 1 = 1 ∧ wrap17.rf (Reg.CH_CTL 17) 3 1 = 2 ∧ free17.rb (Reg.CH_CTL 17) 0 = true ∧ free17.rf (Reg.CH_CTL 17) 18 16 = 0 ∧
    (free17.chAt 17).cntTb ≠ some 9 ∧ (free17.chAt 17).tickTb ≠ some 9 ∧ (free17.chAt 17).hist = [] ∧ free17.rf (Reg.CH_CTL 17) 31 24 ≤ (free17.chAt 17).presc ∧
    ((free17.modCh 17 fun c => { c with presc := 1 }).chAt 17).presc < free17.rf (Reg.CH_CTL 17) 31 24 ∧
    ((free17.modCh 17 fun c => { c with tickTb := some 9 }).chAt 17).tickTb = some free17.tb ∧
    (updown17 1).rf (Reg.CH_CTL 17) 3 1 = 3 ∧ 0 < ((updown17 1).chAt 17).cnt.toNat ∧ ((updown17 1).chAt 17).cnt.toNat < max 1 ((updown17 1).chAt 17).top.toNat ∧
    ((updown17 0).chAt 17).cnt = 0 ∧ ((updown17 3).chAt 17).cnt.toNat = max 1 ((updown17 3).chAt 17).top.toNat := by decide +kernel

theorem test_count : ((after (.tbEventTick 17) free17).chAt 17).cnt = 4 ∧ ((after (.tbEventTick 17) wrap17).chAt 17).cnt = 0 := by decide +kernel

/-- Channel 17 with slot B a compare slot at 5 that sets the output, in FREE at count 5 and 7, in WRAP and in UPDOWN. -/
def slotB (mode : Word) (cnt : Word) (slot : Word) : State :=
  ((regs [(Reg.CH_CTL 17, mode), (Reg.CH_SLOT 17 0, slot)] { r0 with tb := 9 }).modCh 17 fun c => { c with cnt := cnt }).modSlot 17 1 fun t =>
    { t with armed := true, cmp := 5, due := some (9, true) }

theorem meets_CompareSlots : reachesRegs hst = true ∧ (slotB 3 5 0x00110000).rf (Reg.CH_SLOT 17 0) 31 16 % 4 = 1 ∧
    (slotB 3 5 0x00110000).rf (Reg.CH_SLOT 17 0) 31 16 / 16 % 8 = 1 ∧ (slotB 3 5 0x00110000).rb (Reg.CH_CTL 17) 0 = true ∧
    (slotB 3 5 0x00110000).rf (Reg.CH_CTL 17) 3 1 = 1 ∧ ((slotB 3 5 0x00110000).chAt 17 |>.slotAt 1).armed = true ∧
    ((slotB 3 5 0x00110000).chAt 17 |>.slotAt 1).lastFire = none ∧ ((slotB 3 5 0x00110000).chAt 17 |>.slotAt 1).load = none ∧
    ((slotB 3 5 0x00110000).chAt 17 |>.slotAt 1).fire = none ∧ ((slotB 3 5 0x00110000).chAt 17).edgeNow = none ∧
    (((after (.compareFire 17 1) (regs [(Reg.CH_ADD 17, 0x20)] (slotB 3 5 0x04110000))).chAt 17).slotAt 1).fire.map (fun f => f.1) = some 9 ∧
    (chCount (slotB 3 5 0x00110000) 17 - 5).toNat = 0 ∧ (chCount (slotB 3 7 0x00110000) 17 - 5).toNat = 2 ∧
    2 ^ 31 ≤ (chCount (slotB 3 4 0x00110000) 17 - 5).toNat ∧ (slotB 3 5 0x08110000).rf (Reg.CH_SLOT 17 0) 31 16 / 2 ^ 11 % 2 = 1 ∧
    (slotB 3 5 0x04110000).rf (Reg.CH_SLOT 17 0) 31 16 / 2 ^ 10 % 2 = 1 ∧ 16 ≤ ((regs [(Reg.CH_ADD 17, 0x20)] r0).reg (Reg.CH_ADD 17)).toNat ∧
    (slotB 5 5 0x00110000).rf (Reg.CH_CTL 17) 3 1 = 2 ∧ (slotB 7 5 0x00110000).rf (Reg.CH_CTL 17) 3 1 = 3 ∧
    ((slotB 7 5 0x00110000).chAt 17 |>.slotAt 1).due = some (9, true) ∧ true ≠ ((slotB 7 5 0x00110000).chAt 17 |>.slotAt 1).q ∧
    (((slotB 7 5 0x00110000).modSlot 17 1 fun t => { t with q := true }).chAt 17 |>.slotAt 1).q = true ∧
    ((r0.chAt 17).slotAt 1).due = none ∧ ((r0.chAt 17).slotAt 1).armed = false ∧ ((r0.chAt 17).slotAt 1).xfire = none ∧ exgMember r0 17 = false := by
  decide +kernel

/-- A write of CMPx in the tb in which the slot would have fired with auto-add: the value before the write still fires (R101). -/
def cmpWritten : State := (regs [(Reg.CH_ADD 17, 0x20)] (slotB 3 5 0x04110000)).modSlot 17 1 fun t => { t with cmp := 90, xfire := some (9, 4, 0, false) }

theorem meets_CompareSlots_met : ((cmpWritten.chAt 17).slotAt 1).xfire = some (9, 4, 0, false) ∧ ((cmpWritten.chAt 17).slotAt 1).lastFire ≠ some 9 ∧
    cmpWritten.rf (Reg.CH_SLOT 17 0) 31 16 / 2 ^ 10 % 2 = 1 ∧ cmpWritten.rf (Reg.CH_SLOT 17 0) 31 16 / 2 ^ 11 % 2 = 0 ∧
    cmpWritten.rf (Reg.CH_SLOT 17 0) 31 16 / 2 ^ 12 = 0 ∧ 16 ≤ (cmpWritten.reg (Reg.CH_ADD 17)).toNat ∧
    (chCount cmpWritten 17 - 4).toNat < 2 ^ 31 ∧ chCount cmpWritten 17 ≠ 4 ∧ cmpWritten.pending = [] := by decide +kernel

theorem test_fire_met : ((after (.compareFire 17 1) cmpWritten).chAt 17).out = true ∧ (((after (.compareFire 17 1) cmpWritten).chAt 17).slotAt 1).cmp = 90 ∧
    (after (.compareFire 17 1) cmpWritten).rb (Reg.CH_STAT 17) 13 = true := by decide +kernel

theorem test_fire : ((after (.compareFire 17 1) (slotB 3 7 0x00110000)).chAt 17).out = true ∧
    (after (.compareFire 17 1) (slotB 3 7 0x00110000)).rb (Reg.CH_STAT 17) 5 = true ∧
    ((after (.compareFire 17 1) (slotB 3 4 0x00110000)).chAt 17).out = false := by decide +kernel

theorem test_fire_wrap : ((after (.compareFireWrap 17 1) (slotB 5 5 0x00110000)).chAt 17).out = true ∧
    ((after (.compareFireUpdown 17 1) (slotB 7 5 0x00110000)).chAt 17).out = false := by decide +kernel

/-- With auto-add the slot moves on by CHn_ADD and stays armed (R101). -/
theorem test_auto_add : (((after (.compareFire 17 1) (regs [(Reg.CH_ADD 17, 0x20)] (slotB 3 5 0x04110000))).chAt 17).slotAt 1).cmp = 7 := by decide +kernel

/-- Channel 17 with a pulse that ends at 3 tb. -/
def pulsing : State := (regs [(Reg.CH_CTL 17, 1)] { r0 with tb := 3 }).modCh 17 fun c => { c with out := true, pulseEnd := some 48, fifo := [{ count := 5, tag := 0x40 }] }

theorem meets_ChannelCommands : reachesRegs hst = true ∧ exgMember pulsing 17 = false ∧ exgMember (regs [(Reg.EXG_CTL 2, 0x11)] r0) 17 = true ∧
    pulsing.rb (Reg.CH_CTL 17) 0 = true ∧ r0.rb (Reg.CH_CTL 17) 0 = false ∧ (pulsing.chAt 17).pulseEnd = some 48 ∧ 48 / 16 ≤ pulsing.tb ∧
    (pulsing.chAt 17).fifo = [{ count := 5, tag := 0x40 }] ∧ (r0.chAt 17).fifo = [] ∧ ({ pulsing with tb := 2 } : State).tb < 48 / 16 ∧
    (pulsing.chAt 17).edgeNow = none ∧
    ((pulsing.modCh 17 fun c => { c with pulseEnd := none, pulseCnt := some 0 }).chAt 17).pulseCnt = some 0 ∧
    (r0.chAt 17).pulseEnd = none ∧ (r0.chAt 17).pulseCnt = none ∧ pulsing.pending = [] ∧
    ((pulsing.sampled).chAt 17).fifo = [{ count := 5, tag := 0x40 }] ∧ ((r0.sampled).chAt 17).fifo = [] ∧ pulsing.seen.waits = [] ∧
    (regs [(Reg.CH_SLOT 17 0, 0x08000000)] r0).rb (Reg.CH_SLOT 17 0) 27 = true := by decide +kernel

theorem test_pulse_end : ((after (.pulseEnd 17) pulsing).chAt 17).out = false ∧ ((after (.pulseEnd 17) { pulsing with tb := 2 }).chAt 17).out = true := by
  decide +kernel

theorem test_force_member : (after (.force hst 17 1) (regs [(Reg.EXG_CTL 2, 0x11)] r0)).rb (Reg.CH_STAT 17) 14 = true := by decide +kernel

/-- Channel 17 in capture mode on both edges, and calibration on. -/
def capturing : State := regs [(Reg.CH_CTL 17, 1), (Reg.CH_SLOT 17 0, 0x202), (Reg.VCAL_CTL, 1)] { r0 with tb := 10, tbRun := true }

theorem meets_PinInputs : (capturing.pinAt 17).acc ≠ true ∧ (160 + 15) / 16 + capturing.rf (Reg.TIO_CFG 17) 15 8 = capturing.tb ∧
    (capturing.pinAt 17).ball = .z ∧ capturing.rf (Reg.CH_SLOT 17 0) 15 0 % 4 = 2 ∧ capturing.rf (Reg.CH_SLOT 17 0) 15 0 / 2 ^ 8 % 4 = 2 ∧
    capturing.rb Reg.VCAL_CTL 0 = true ∧ capturing.tbRun = true ∧ capturing.rb Reg.VCAL_CTL 1 = false ∧ (10 : Nat) * 16 ≤ 160 ∧
    (regs [(Reg.VCAL_CTL, 3)] capturing).rb Reg.VCAL_CTL 1 = true ∧ (regs [(Reg.VCAL_CTL, 0)] capturing).rb Reg.VCAL_CTL 0 = false ∧
    ¬(336 + 15) / 16 = capturing.tb := by decide +kernel

/-- Channel 17 in FREE on the edges of its own pin, with one at the start of this tb. -/
def ownClock : State := (regs [(Reg.CH_CTL 17, 0x20003), (Reg.CH_SLOT 17 0, 0x202)] { r0 with tb := 10 }).modCh 17 fun c => { c with cnt := 6 }

theorem meets_PinInputs_clock : chClk ownClock 17 = 2 ∧ chMode ownClock 17 = 1 ∧ chOn ownClock 17 = true ∧ exgMember ownClock 17 = false ∧
    chPresc ownClock 17 ≤ (ownClock.chAt 17).presc ∧ (ownClock.chAt 17).cntTb ≠ some 10 ∧ (ownClock.chAt 17).hist = [] ∧
    (160 : Nat) = 16 * ownClock.tb ∧ ownClock.pending = [] ∧
    ((capturing.modCh 17 fun c => { c with tickTb := some 10 }).chAt 17).tickTb = some 10 ∧ chClk capturing 17 ≠ 1 ∧ chClk capturing 17 ≠ 2 := by
  decide +kernel

theorem test_input_clock : (after (.tioInputChange 17 true { stamp := 160, back := none }) ownClock).due.filterMap
    (fun d => match d.2 with | .cap 17 e => some e.count | _ => none) = [7] := by decide +kernel

theorem test_input : ((after (.tioInputChange 17 true { stamp := 160, back := none }) capturing).pinAt 17).acc = true ∧
    (after (.tioInputChange 17 true { stamp := 160, back := none }) capturing).due.map (fun d => d.1) = [14] ∧
    ((after (.tioInputChange 17 true { stamp := 160, back := some 159 }) capturing).pinAt 17).acc = false := by decide +kernel

/-! ## Calendar, contact engine, links -/

/-- One request at the calendar, from bank `b`. -/
def asked (cancel : Bool) (d0 d1 d2 : Word) : State :=
  { r0 with tb := 100, cal := { r0.cal with reqs := [{ who := .bank 0, cancel := cancel, d0 := d0, d1 := d1, d2 := d2, d3 := 0, d4 := 0, tb := 96 }] } }

/-- A time entry of KIND 4 for group 3, at tb 200, in the state given. -/
def entry (st : CalState) : CalEntry :=
  { id := 9, gen := 1, d0 := 4, d1 := 3, d2 := 200, d3 := 0, d4 := 0, st := st, fire := 3200, armTb := 100, readyTb := 100, waited := false, retimed := none, slot := 0, doomed := 0 }

def holding (e : CalEntry) : State := { r0 with tb := 100, cal := { r0.cal with tab := [e], gens := [(9, 1)] } }

/-- The fix unit asks for the entry of channel 2. -/
def fixAsking : State :=
  { r0 with tb := 100, cal := { r0.cal with reqs := [{ who := .fix 2, cancel := false, d0 := 0x0101, d1 := 0, d2 := 200, d3 := 0, d4 := 0, tb := 96 }] } }

theorem meets_CalendarBanks : r0.rf (Reg.CAL_RES 0) 31 28 ≠ 15 ∧ (regs [(Reg.CAL_RES 0, 0xF0000000)] r0).rf (Reg.CAL_RES 0) 31 28 = 15 ∧
    reachesRegs (.engine 0) = true ∧ ((holding (entry .armed)).cal.tab.map fun e => e.id).Nodup ∧ (entry .armed).id < 147456 ∧
    firesBefore (holding (entry .armed)) (entry .armed) = false := by decide +kernel

theorem test_cal_arm : (after (.calArm hst 0) r0).reg (Reg.CAL_RES 0) = 0xF0000000 ∧ (after (.calArm hst 0) r0).cal.reqs.length = 1 ∧
    (after (.calArm hst 1) r0).rb Reg.CAL_EVT 11 = true := by decide +kernel

theorem test_cal_flush : (after (.calFlush hst 0) (holding (entry .armed))).cal.tab = [] := by decide +kernel

theorem meets_CalendarService : nextTurn (asked false 6 0 0) = some (.req { who := .bank 0, cancel := false, d0 := 6, d1 := 0, d2 := 0, d3 := 0, d4 := 0, tb := 96 }) ∧
    (CalReqer.bank 0).port ≠ 18 ∧ (96 : Nat) + 4 ≤ (asked false 6 0 0).tb - (asked false 6 0 0).tb % 2 ∧ (asked false 6 0 0).cal.opTb = none ∧
    (6 : Word).toNat % 8 ≥ 6 ∧ badDesc (asked false 4 3 200) 4 3 200 0 = false ∧
    (4 : Word).getLsbD 7 = false ∧ ((asked false 4 3 200).cal.tab.filter fun e => decide (e.id < 147456)).length < 16384 ∧
    (asked false 4 3 200).cal.spill = [] ∧ (asked false 4 3 200).cal.next < 147456 ∧ (100 : Nat) ≤ 200 ∧
    (asked true 0x40009 0 0).cal.gen 9 ≠ (0x40009 : Word).toNat / 2 ^ 18 % 2 ^ 10 ∧
    (holding (entry .pending)).cal.gen 9 = (0x40009 : Word).toNat / 2 ^ 18 % 2 ^ 10 ∧
    (holding (entry .pending)).cal.find 9 = some (entry .pending) ∧ (0x40009 : Word).toNat % 2 ^ 18 < 147456 ∧
    firesBefore { holding (entry .armed) with tb := 200 } (entry .armed) = true ∧ nextTurn r0 = none ∧
    nextTurn fixAsking = some (.req { who := .fix 2, cancel := false, d0 := 0x0101, d1 := 0, d2 := 200, d3 := 0, d4 := 0, tb := 96 }) ∧
    ¬(97 : Nat) + 4 ≤ (asked false 6 0 0).tb - (asked false 6 0 0).tb % 2 := by decide +kernel

theorem test_insert : (after .calInsert (asked false 4 3 200)).cal.tab.map (fun e => (e.id, e.fire)) = [(0, 3200)] ∧
    (after .calInsert (asked false 6 0 0)).reg (Reg.CAL_RES 0) = 0x60000000 := by decide +kernel

theorem test_cancel : (after .entryCancel { holding (entry .pending) with cal := { (holding (entry .pending)).cal with reqs := (asked true 0x40009 0 0).cal.reqs } }).cal.tab = [] := by
  decide +kernel

/-- An armed KIND 0 entry for slot A of channel 17, which is usable, and which is not. -/
def load17 : CalEntry :=
  { id := 9, gen := 1, d0 := 0x10, d1 := 17, d2 := 200, d3 := 0, d4 := 0, st := .armed, fire := 3200, armTb := 100, readyTb := 100, waited := false, retimed := none, slot := 0, doomed := 0 }
def loading (ctl : Word) : State := regs [(Reg.CH_CTL 17, ctl), (Reg.CH_SLOT 17 0, 0x801)] (holding load17)

/-- The entry, due at tb `d2`, is the only one of the spill list. -/
def spilled (d2 : Word) : State :=
  let s := holding (entry .pending)
  { regs [(Reg.CAL_SPILL_CTL, 0x101), (Reg.CAL_SPILL_BASE, 0x200000), (Reg.SPL_OWN 2, 1)] s with
    cal := { s.cal with tab := [], spill := [{ entry .pending with d2 := d2 }] } }.modSpl 2 fun p => { p with st := .on }

/-- `s` with every place of the fabric taken in this cc, and with a full table of 16,384 entries. -/
def crammed (s : State) : State := { s with fabric := { s.fabric with used := List.range 32 } }
def tabFull (s : State) : State := { s with cal := { s.cal with tab := List.replicate 16384 (entry .armed) } }

theorem tabFull_filter (s : State) (h : (entry .armed).id < 147456) :
    ((tabFull s).cal.tab.filter fun e => decide (e.id < 147456)).length = 16384 := by
  have : ((tabFull s).cal.tab.filter fun e => decide (e.id < 147456)) = List.replicate 16384 (entry .armed) :=
    List.filter_replicate_of_pos (by decide)
  rw [this, List.length_replicate]

theorem tabFull_used (s : State) (h : (entry .armed).id < 147456) : (tabFull s).cal.used = 16384 := tabFull_filter s h

/-- A time entry far enough for the spill list, whose region lies in spool 2; and the same where the spool is the host's. -/
def spillReq : CalReq := { who := .bank 0, cancel := false, d0 := 4, d1 := 3, d2 := 100000, d3 := 0, d4 := 0, tb := 0 }
def spillable : State := tabFull ({ spilled 200 with cal := { (spilled 200).cal with spill := [], reqs := [spillReq] } })
def spillable0 : State := regs [(Reg.SPL_OWN 2, 0)] spillable

/-- The same with the spill list off, and with a time that is near. -/
theorem meets_CalendarService_full : nextTurn (regs [(Reg.CAL_SPILL_CTL, 0)] spillable) = some (.req spillReq) ∧
    (regs [(Reg.CAL_SPILL_CTL, 0)] spillable).rb Reg.CAL_SPILL_CTL 0 = false ∧ (200 : Nat) < spillable.tb + 50000 := by decide +kernel

/-- The words of a place of the region lie in spool 2, whichever place is free. -/
theorem spillable_words {a : Nat} (h : a ∈ spillWords spillable (spillPlace spillable)) : a / 0x100000 = 2 := by
  have hb : spillBase spillable = 0x200000 := by decide +kernel
  have hs : spillSize spillable = 1024 := by decide +kernel
  have hl : spillable.cal.spill = [] := by decide +kernel
  have ha : spillable.cal.spillAt = none := by decide +kernel
  have : spillPlace spillable < 1024 := by
    simp only [spillPlace, hs, hl, ha, List.map_nil, List.length_nil, freeFrom]
    exact Nat.mod_lt _ (by decide)
  simp only [spillWords, hb, List.mem_map, List.mem_range] at h
  obtain ⟨i, hi, rfl⟩ := h
  omega

theorem meets_CalendarService_spill : nextTurn spillable = some (.req spillReq) ∧ spillReq.who.port ≠ 18 ∧ spillReq.tb + 32 ≤ spillable.cc ∧
    spillable.cal.opTb = none ∧ badDesc spillable 4 3 100000 0 = false ∧ spillable.rb Reg.CAL_SPILL_CTL 0 = true ∧
    spillable.tb + 50000 ≤ 100000 ∧ spillable.cal.spillBad = false ∧ spillable.cal.spill = [] ∧ spillable.rf Reg.CAL_SPILL_CTL 15 8 = 1 ∧
    spillable.cal.spillAt = none ∧ Uncontested spillable ∧ (∀ a ∈ spillWords spillable (spillPlace spillable), GoodWord spillable 1 a) ∧
    (∀ a ∈ spillWords spillable (spillPlace spillable), (crammed spillable).fabric.used.contains (placeOf a) = true) ∧
    ((spillable.cal.tab.filter fun e => decide (e.id < 147456)).length ≥ 16384) ∧ splOwner spillable0 2 ≠ 1 ∧ Uncontested spillable0 := by
  refine ⟨by decide +kernel, by decide +kernel, by decide +kernel, by decide +kernel, by decide +kernel, by decide +kernel, by decide +kernel,
    by decide +kernel, by decide +kernel, by decide +kernel, by decide +kernel, ⟨by decide +kernel, by decide +kernel, by decide +kernel, by decide +kernel⟩, ?_, ?_,
    Nat.le_of_eq (by unfold spillable; rw [tabFull_filter _ (by decide)]), by decide +kernel, ⟨by decide +kernel, by decide +kernel, by decide +kernel, by decide +kernel⟩⟩
  · intro a h
    have h2 := spillable_words h
    refine ⟨by rw [h2]; decide +kernel, by rw [h2]; decide +kernel, rfl, ?_⟩
    simp only [inBorrowed, spoolOf, h2]
    rw [show regionHeld spillable 2 = false by decide +kernel]; rfl
  · intro a h
    have h2 := spillable_words h
    have : a < 0x800000 := by omega
    simp only [crammed, placeOf, spoolOf, h2, this, if_true, List.contains_eq_mem, List.mem_range, decide_eq_true_eq]
    omega

/-- A KIND 4 entry whose time has come. -/
def dispatching : State := { holding (entry .armed) with tb := 200 }

theorem meets_CalendarStages : nextLoad (loading 1) = some (.entry load17) ∧ nextLoad (loading 0) = some (.entry load17) ∧
    load17.d0.toNat % 8 = 0 ∧ load17.st ≠ .loaded ∧ ((loading 1).chAt 17 |>.slotAt 0).armed = false ∧ (loading 1).rb (Reg.CH_SLOT 17 0) 11 = true ∧
    (loading 1).rb (Reg.CH_CTL 17) 0 = true ∧ (loading 1).rf (Reg.CH_CTL 17) 3 1 = 0 ∧
    (loading 1).rf (Reg.CH_SLOT 17 0) 1 0 = 1 ∧ nextLoad r0 = none ∧ serveKind0 (loading 1) load17 = .load 0 ∧
    serveKind0 (loading 0) load17 = .unusable ∧ serveKind0 ((loading 1).modSlot 17 0 fun t => { t with armed := true }) load17 = .wait ∧
    nextDispatch dispatching = some (entry .armed) ∧ nextDispatch r0 = none ∧ r0.rb Reg.CAL_SPILL_CTL 0 = false ∧
    (regs [(Reg.CAL_SPILL_CTL, 0x101)] r0).rb Reg.CAL_SPILL_CTL 0 = true ∧ r0.cal.spill = [] ∧
    (spilled 200).cal.spill = [{ entry .pending with d2 := 200 }] ∧ (spilled 200).cal.used < 16384 ∧ (entry .armed).doomed = 0 ∧
    nextTurn (spilled 200) = some .move ∧ (spilled 200).cal.opTb = none ∧ (spilled 200).cal.spillAt = none ∧
    (∀ a ∈ spillWords (spilled 200) (entry .pending).slot, GoodWord (spilled 200) 1 a ∧ (crammed (spilled 200)).fabric.used.contains (placeOf a) = true) ∧
    Uncontested (spilled 200) ∧ pwrNow ((spilled 200).modSpl 2 fun p => { p with st := .off }) 2 ≠ .on ∧
    splOwner (regs [(Reg.SPL_OWN 2, 0)] (spilled 200)) 2 ≠ 1 ∧
    spillDue (spilled 200) { entry .pending with d2 := 200 } = true ∧ spillDue (spilled 200) { entry .pending with d2 := 0x7FFFFFFF } = false := by
  unfold GoodWord Uncontested
  decide +kernel

/-- With the table full a due entry waits; one that waits, or is not due, stays as it is. -/
theorem meets_CalendarStages_full : (tabFull (spilled 200)).cal.spill = [{ entry .pending with d2 := 200 }] ∧ 16384 ≤ (tabFull (spilled 200)).cal.used ∧
    spillDue (tabFull (spilled 200)) { entry .pending with d2 := 200 } = true ∧
    spillDue (tabFull (spilled 0x7FFFFFFF)) { entry .pending with d2 := 0x7FFFFFFF } = false := by
  refine ⟨rfl, ?_, by decide +kernel, by decide +kernel⟩
  exact Nat.le_of_eq (by rw [tabFull_used _ (by decide)])

theorem test_spill_move : (after .spillMove (spilled 200)).cal.tab.map CalEntry.id = [9] ∧ (after .spillMove (spilled 200)).cal.spill = [] ∧
    (after .spillMove (regs [(Reg.SPL_OWN 2, 0)] (spilled 200))).cal.tab = [] ∧
    (after .spillMove (regs [(Reg.SPL_OWN 2, 0)] (spilled 200))).rb Reg.CAL_EVT 6 = true := by decide +kernel

/-- A region of 1,024 entries in spool 2, which engines own. -/
theorem meets_CalendarStages_region : (regs [(Reg.CAL_SPILL_BASE, 0x200000), (Reg.SPL_OWN 2, 1)] r0).rf Reg.CAL_SPILL_BASE 31 4 * 16 = 0x200000 ∧
    (regs [(Reg.CAL_SPILL_BASE, 0x200000), (Reg.SPL_OWN 2, 1)] r0).rf (Reg.SPL_OWN 2) 2 0 = 1 ∧ (0x101 : Word).toNat / 2 ^ 8 % 2 ^ 8 = 1 := by decide +kernel

theorem test_load : ((after .entryLoad (loading 1)).chAt 17 |>.slotAt 0).cmp = 200 ∧ (after .entryLoad (loading 0)).rb Reg.CAL_EVT 4 = true := by decide +kernel

theorem test_dispatch : (after .entryDispatch dispatching).due = [(203, .exgFix 3)] ∧ (after .entryDispatch dispatching).cal.tab = [] := by decide +kernel

/-- A plane of 1 row byte in spool 2, which the contact engine owns, with a legal step; and the engine on. -/
def plane : State := regs [(Reg.CT_GEOM, 1), (Reg.CT_BASE, 0x200000), (Reg.CT_STEP, 256), (Reg.SPL_OWN 2, 2)] r0
def showing : State := regs [(Reg.CT_CTL, 1)] plane
def fetching : State :=
  { showing with ct := { showing.ct with run := true, rows := 1#1024, conv := [{
    lane := 32, b := { q := 0, c := 0, j := 0, p := 0, col := none, geo := CtGeo.reset }, x := 0, t := 0, got := [], fetched := false }] } }

/-- A column of the plane to be fetched, from the engine's own spool, which is ON, or from another's. -/
def fetchRb (rb : Nat) (own : Word) : State :=
  (({ regs [(Reg.SPL_OWN 2, own)] showing with ct := { showing.ct with run := true, conv := [{
    lane := 32, b := { q := 0, c := 0, j := 0, p := 0, col := some 0, geo := { CtGeo.reset with base := 0x200000, rb := rb } }, x := 0, t := 0,
    got := [], fetched := false }] } }).modSpl 2 fun p => { p with st := .on })
def fetchCol (own : Word) : State := fetchRb 1 own

/-- The contact engine has had its two requests of the bank of the column's first word (R340). -/
def spent : State := { fetchCol 2 with fabric := { (fetchCol 2).fabric with contact := [(8, 0), (8, 0)] } }

theorem meets_ContactPlayback : reachesRegs hst = true ∧ plane.rb Reg.CT_CTL 0 = false ∧ plane.rf Reg.CT_GEOM 3 0 = 1 ∧
    plane.rf Reg.CT_BASE 31 4 * 16 = 0x200000 ∧ (plane.reg Reg.CT_STEP).toNat = 256 ∧ splOwner plane 2 = 2 ∧
    splOwner r0 2 ≠ 2 ∧ showing.rb Reg.CT_CTL 0 = true ∧ (spkPosNow showing 0).2.toNat = 0 ∧ fetching.ct.conv.length = 1 ∧
    fetching.ct.rowQ = [] ∧ (∀ d ∈ r0.ct.conv, d.fetched = true) ∧ columnWords (fetchCol 2) = [0x200000, 0x200004, 0x200008, 0x20000C] ∧
    (∀ a ∈ columnWords (fetchCol 2), GoodWord (fetchCol 2) 2 a ∧ contactSpent (fetchCol 2) (placeOf a) = false ∧
      (crammed (fetchCol 2)).fabric.used.contains (placeOf a) = true) ∧ ((columnWords (fetchCol 2)).map placeOf).Nodup ∧
    ¬((columnWords (fetchRb 2 2)).map placeOf).Nodup ∧ (∀ a ∈ columnWords (fetchRb 2 2), GoodWord (fetchRb 2 2) 2 a) ∧
    Uncontested (fetchCol 2) ∧ Uncontested (fetchRb 2 2) ∧ columnWords spent = [0x200004, 0x200008, 0x20000C] ∧
    pwrNow (fetchCol 2) 2 = .on ∧ splOwner (fetchCol 2) 2 = 2 ∧ (fetchCol 2).ecc = [] ∧ splOwner (fetchCol 1) 2 ≠ 2 := by
  unfold GoodWord Uncontested
  decide +kernel

/-- Of a column with two words from each bank, one of each comes in one cc; the spool's owner goes before its power state. -/
theorem test_column : (after .columnFetch (fetchRb 2 2)).ct.conv.map (fun c => (c.fetched, c.got.length)) = [(false, 4)] ∧
    (after .columnFetch ((fetchCol 1).modSpl 2 fun p => { p with st := .off })).rb Reg.CT_EVT 7 = true := by decide +kernel

theorem test_ct_enable : (after (.ctEnable hst 1) plane).rb Reg.CT_CTL 0 = true ∧ (after (.ctEnable hst 1) r0).rb Reg.CT_EVT 10 = true := by decide +kernel

/-- Link 7 a strip link that is UP, its next window 9; a status frame for window 8. -/
def strip : State := (regs [(Reg.LINK_CTL 7, 1), (Reg.LINK_DRV 7, 100), (Reg.LINK_OWN 7 0, 3)] { r0 with tb := 8920 }).modLink 7 fun l => { l with st := .up, nextW := 9, sentSeq := [8], cells := 3 }
def status (crc : Bool) (seq : BitVec 8) : StatusFrame := { crcOk := crc, seq := seq, dstat := 1, fault := 2, temp := 3, rxerr := 4, codeErrs := 0 }

theorem meets_LinkFrames : strip.rf (Reg.LINK_CTL 7) 1 0 = 1 ∧ (strip.linkAt 7).st = .up ∧
    (strip.linkAt 7).nextW * 1000 - strip.rf (Reg.LINK_LEAD 7) 15 0 - 80 ≤ strip.tb ∧ strip.safe.safe = true ∧
    ({ strip with safe := { strip.safe with safe := false } } : State).safe.safe = false ∧ (strip.linkAt 7).edges = [] ∧ (strip.linkAt 7).queue = [] ∧
    (strip.linkAt 7).ends = [] ∧ (∀ i : Fin 4, strip.reg (Reg.GUARD_RG i.val) = 0) ∧ (∀ i : Fin 16, (strip.mtrAt (128 + 16 * 7 + i.val)).forced = false) ∧
    (status true 8).seq.toNat ∈ (strip.linkAt 7).sentSeq ∧ (status true 9).seq.toNat ∉ (strip.linkAt 7).sentSeq ∧ (status false 8).crcOk = false ∧
    (r0.linkAt 7).st ≠ .up ∧ strip.reg (Reg.LINK_FAULT 7 0) ≠ (status true 8).fault.extractLsb' 0 32 ∧ ({ strip with tb := 8919 } : State).tb < 8920 := by
  decide +kernel

theorem test_frame : ((after (.frameSample 7) { strip with safe := { strip.safe with safe := false } }).linkAt 7).frame.take 3 = [0x80, 0x80, 0] ∧
    (after (.statusFrame 7 (status true 9)) strip).rb (Reg.LINK_EVT 7) 10 = true := by decide +kernel

/-- Link 7 in the state given, in strip mode, with `k` answers of 800 tb collected. -/
def training (st : LinkState) (k : Nat) : State :=
  (regs [(Reg.LINK_CTL 7, 0x11)] { r0 with tb := 20000 }).modLink 7 fun l => { l with st := st, rtts := List.replicate k 800, reqs := k + 1, reqTb := 18000 }

/-- Eight requests have not been answered, in the first exchange and in the fifth. -/
def unanswered (tries : Nat) : State := (training .train 0).modLink 7 fun l => { l with reqs := 8 * (tries + 1), tries := tries }
def answer (v : BitVec 8) : TrainAnswer := { crcOk := true, version := v, cap := 100, turn := 1, drvRef := 560, ident := 7, rtt := 800, codeErrs := 0 }

theorem meets_LinkTraining : r0.rb Reg.CAS_CTL 0 = false ∧ reachesRegs hst = true ∧ (0x11 : Word).toNat % 4 = 1 ∧ (0x12 : Word).toNat % 4 = 2 ∧
    (0x10 : Word).toNat % 4 = 0 ∧ (0x13 : Word).toNat % 4 = 3 ∧ ((training .train 0).linkAt 7).st ≠ .off ∧ (r0.linkAt 7).st = .off ∧
    ((training .align 0).linkAt 7).st = .align ∧ ((training .train 0).linkAt 7).reqTb + 2000 ≤ (training .train 0).tb ∧
    ¬((training .train 0).rf (Reg.LINK_CTL 7) 1 0 = 2 ∧ (7 : Unit3).val ≠ 7) ∧
    ¬(8 : Nat) * (((training .train 0).linkAt 7).tries + 1) ≤ ((training .train 0).linkAt 7).reqs ∧
    8 * (((unanswered 3).linkAt 7).tries + 1) ≤ ((unanswered 3).linkAt 7).reqs ∧ ((unanswered 3).linkAt 7).tries < 4 ∧
    8 * (((unanswered 4).linkAt 7).tries + 1) ≤ ((unanswered 4).linkAt 7).reqs ∧ 4 ≤ ((unanswered 4).linkAt 7).tries ∧
    ((training .train 7).linkAt 7).rtts.length + 8 * ((training .train 7).linkAt 7).tries < ((training .train 7).linkAt 7).reqs ∧
    ((training .train 6).linkAt 7).rtts.length < 7 ∧ ((training .train 7).linkAt 7).rtts = List.replicate 7 (answer 1).rtt ∧
    560 ≤ (answer 1).drvRef.toNat ∧ (0 : Int) ≤ (((answer 1).rtt : Int) - 4 * (answer 1).turn.toNat + 2 * (answer 1).drvRef.toNat + 7) / 8 * 4 ∧
    (((answer 1).rtt : Int) - 4 * (answer 1).turn.toNat + 2 * (answer 1).drvRef.toNat + 7) / 8 * 4 ≤ 16000 ∧ (answer 2).version ≠ 1 ∧
    ((training .up 0).linkAt 7).st = .up ∧ ((training .loss 0).linkAt 7).st = .loss ∧ (training .loss 0).rb (Reg.LINK_CTL 7) 4 = true ∧
    max 1 ((training .up 0).rf (Reg.LINK_PARAM 7) 15 8) ≤ (((training .up 0).modLink 7 fun l => { l with missed := 255 }).linkAt 7).missed ∧
    ((training .up 0).linkAt 7).nextW * 1000 - (training .up 0).rf (Reg.LINK_LEAD 7) 15 0 - 80 ≤ (training .up 0).tb ∧
    ((training .loss 0).linkAt 7).lossTb + 10000 ≤ (training .loss 0).tb := by decide +kernel

theorem test_training : ((after (.trainingAnswer 7 (answer 1)) (training .train 7)).linkAt 7).st = .up ∧
    (after (.trainingAnswer 7 (answer 1)) (training .train 7)).reg (Reg.LINK_LEAD 7) = 960 ∧
    ((after (.trainingAnswer 7 (answer 2)) (training .train 7)).linkAt 7).st = .loss := by decide +kernel

/-! ## Exposure groups -/

/-- Group 2 on, of width 2, with a period of 10 tb that began at tb 90; its phase and its FIX as given. -/
def group (phase : Nat) (fix : Option Nat) : State :=
  (regs [(Reg.EXG_CTL 2, 0x11), (0x00830290, 10), (0x00830294, 1)] { r0 with tb := 100 }).modExg 2 fun x =>
    { x with startTb := 90, phase := phase, fixTb := fix }

theorem meets_ExposureStaging : masterSecure (masterNow (secured (group 0 none)) sec) = true ∧ r0.trip = 0 ∧ (∀ i : Fin 16, (r0.exgAt i.val).mpNext = none) ∧
    (0x10 : Word).toNat / 2 ^ 4 % 8 = (regs [(Reg.EXG_CTL 2, 0x10)] r0).rf (Reg.EXG_CTL 2) 6 4 ∧ r0.rb (Reg.EXG_CTL 2) 0 = false ∧
    startWaits (group 0 none) 2 = false ∧ reloadWaits (group 0 none) 2 = false ∧ (r0.exgAt 2).late = [] ∧
    (r0.reg (Reg.EXG_COMM 2)).toNat % 4 = 0 ∧ ((regs [(Reg.EXG_COMM 2, 0x1001)] r0).reg (Reg.EXG_COMM 2)).toNat % 4 = 1 ∧
    (0x1001 : Nat) / 2 ^ 8 % 2 ^ 7 / 8 = 2 ∧ (group 0 none).rb (Reg.EXG_CTL 2) 0 = true ∧ ((group 0 none).exgAt 2).deferred = false ∧
    ((group 0 none).exgAt 2).reloadTb ≠ some 100 ∧ ((group 0 (some 85)).exgAt 2).fixTb.isSome = true ∧ (group 0 none).reg (Reg.EXG_CMD 2) = 0 ∧
    (regs [(Reg.EXG_CTL 2, 0x8011)] (group 0 none)).rb (Reg.EXG_CTL 2) 15 = true ∧
    (((group 0 none).modExg 2 fun x => { x with wPer := true }).exgAt 2).wPer ≠ ((group 0 none).exgAt 2).wDuty ∧
    ((group 0 none).exgAt 2).startTb + max 2 (((group 0 none).reg 0x00830290).toNat % 2 ^ 28) ≤ (group 0 none).tb ∧
    min 256 (max 1 (((group 1 none).reg 0x00830294).toNat % 2 ^ 9)) ≤ ((group 1 none).exgAt 2).phase ∧
    ((group 1 (some 85)).exgAt 2).fixTb = some 85 ∧ (85 : Nat) < ((group 1 (some 85)).exgAt 2).startTb ∧ ((group 1 (some 85)).exgAt 2).late = [] ∧
    ((group 1 (some 85)).exgAt 2).fixMore ≠ some (90, false) ∧ ((group 1 (some 85)).exgAt 2).fixMore ≠ some (90, true) ∧
    startWaits (group 1 (some 85)) 2 = false ∧ reloadWaits (group 1 (some 85)) 2 = false ∧ ((group 1 (some 90)).exgAt 2).fixTb = some ((group 1 (some 90)).exgAt 2).startTb ∧
    ((group 0 none).exgAt 2).phase < 1 ∧ ({ group 0 none with tb := 99 } : State).tb < 90 + 10 := by decide +kernel

theorem test_exg_write : (after (.exgStagedWrite hst 2 0x10 20) (group 0 none)).reg 0x00830210 = 20 ∧
    (after (.exgStagedWrite hst 2 0x10 20) (group 0 none)).reg 0x00830290 = 10 := by decide +kernel

theorem test_period : ((after (.periodStart 2) (group 0 none)).exgAt 2).startTb = 100 ∧ ((after (.periodStart 2) (group 0 none)).exgAt 2).phase = 1 := by
  decide +kernel

theorem test_reload : (after (.reload 2) (regs [(0x00830210, 20)] (group 1 (some 85)))).reg 0x00830290 = 20 := by decide +kernel

/-- Group 2 with trigger 3 at count 0, in the tb in which its period starts; a trip input 5 that the group maps. -/
def triggering : State := (regs [(Reg.EXG_TRGCFG 2, 0x0F000000)] (group 0 none)).modExg 2 fun x => { x with startTb := 100 }
def tripping : State := regs [(Reg.EXG_TRIPMAP 2, 0x20), (Reg.TRIP_CFG 5, 0x200)] (group 0 none)
def tripped : State := { tripping with trip := 0x20 }

theorem meets_ExposureTrips : triggering.rf (Reg.EXG_TRGCFG 2) 31 24 = 15 ∧ (15 : Nat).testBit 3 = true ∧
    (triggering.reg 0x008302CC).toNat % 2 ^ 28 < exgPer triggering 2 ∧ countBecomes triggering 2 0 = true ∧ vget triggering.trgEnd 7 none = none ∧
    countBecomes (group 0 none) 2 0 = false ∧ (triggering.reg (Reg.EXG_COMM 2)).toNat % 4 = 0 ∧
    ((regs [(Reg.EXG_COMM 2, 0x70003)] turning).reg (Reg.EXG_COMM 2)).toNat % 4 = 3 ∧ (((0x70003 : Nat) / 2 ^ 16 % 8) = 7) ∧
    ((turning.modSpk 7 fun u => { u with pub := some (600, false) }).spkAt 7).pub = some (600, false) ∧
    ((regs [(Reg.EXG_COMM 2, 2)] r0).reg (Reg.EXG_COMM 2)).toNat % 4 = 2 ∧ (r0.pinAt (0 + (1 : Fin 3).val)).accTb = r0.tb ∧
    (∀ j : Fin 3, ((group 0 none).pinAt (0 + j.val)).accTb ≠ (group 0 none).tb) ∧
    true ≠ tripping.rb (Reg.TRIP_CFG 5) 8 ∧ tripping.tb = (1600 + 15) / 16 + tripping.rf (Reg.TRIP_CFG 5) 7 0 ∧ tripsComing tripping = 0 ∧
    tripping.rb (Reg.TRIP_CFG 5) 9 = true ∧ (group 0 none).rb (Reg.TRIP_CFG 5) 9 = false ∧ tripping.rb (Reg.EXG_TRIPMAP 2) 5 = true ∧
    tripping.rb (Reg.EXG_BLANK 2) 8 = false ∧ masterSecure (masterNow (secured tripping) sec) = true ∧
    (secured tripping).trip = tripping.trip ∧ tripsComing (secured tripping) = 0 ∧ masterSecure (masterNow tripping sec) = false ∧
    (tripping.trip ||| tripsComing tripping) &&& ((tripping.reg (Reg.EXG_TRIPMAP 2)).extractLsb' 0 16 ||| (tripping.reg (Reg.EXG_TRIPMAP 2)).extractLsb' 16 16) = 0 ∧
    (tripped.trip ||| tripsComing tripped) &&& ((tripped.reg (Reg.EXG_TRIPMAP 2)).extractLsb' 0 16 ||| (tripped.reg (Reg.EXG_TRIPMAP 2)).extractLsb' 16 16) ≠ 0 ∧
    ((tripping.reg (Reg.EXG_MTAB 2 (tripping.exgAt 2).mp)).getLsbD 16 = false) ∧ masterSecure hst = false ∧ tripping.reg (Reg.EXG_CMD 2) = 0 ∧
    exgBlanked tripping 2 = false ∧ tripped.trip &&& (tripped.reg (Reg.EXG_TRIPMAP 2)).extractLsb' 0 16 ≠ 0 ∧ r0.trip = 0 := by decide +kernel

theorem test_trigger : vget (after (.triggerFire 2 3) triggering).trgEnd 7 none = some 101 := by decide +kernel

theorem test_trip : ((after (.tripAssert { i := 5, lvl := true, edge := { stamp := 1600, back := none } }) tripping).exgAt 2).tripped = true ∧
    (after (.tripAssert { i := 5, lvl := true, edge := { stamp := 1600, back := some 1599 } }) tripping).trip = 0 ∧
    ((after (.tripClr sec 2) (secured (after (.tripDeassert 5) (after (.tripAssert { i := 5, lvl := true, edge := { stamp := 1600, back := none } }) tripping)))).exgAt 2).tripped = false := by
  decide +kernel

/-! ## Shutter sequencers -/

/-- Sequencer 3 RUNNING with a window of 4 balls from TIO 8; compatible with the earlier part or not. -/
def seq3 (compat : Bool) : State :=
  (regs [(Reg.SHQ_CTL 3, if compat then 0x101 else 1), (Reg.SHQ_PINS 3, 0x08040000), (Reg.SHQ_CX 3, 5)] r0).modShq 3 fun q => { q with st := .running }

theorem meets_SeqReady : (seq3 false).rb (Reg.SHQ_CTL 3) 0 = true ∧ ((seq3 false).shqAt 3).st = .running ∧ ((seq3 false).shqAt 3).hold = 0 ∧
    ((seq3 false).shqAt 3).inj = none ∧ (r0.shqAt 3).st ≠ .running := by decide +kernel

/-- Sequencer 3 while a HALT of the edge waits in the queue; with a tick, and with a HALT, that waits for the edge's writes. -/
def waiting3 : State := { seq3 false with pending := [.shqHalt hst 3] }
def owing3 (a : ShqAct) (s : State) : State := s.modShq 3 fun q => { q with owed := [a] }

theorem meets_SeqAlone : SeqAlone (seq3 false) 3 ∧ SeqAlone (seq3 true) 3 ∧ SeqAlone (regs [(Reg.SHQ_CTL 3, 1)] r0) 3 ∧
    shqRivals waiting3 3 = true ∧ ((owing3 .tick (seq3 false)).shqAt 3).owed = [.tick] ∧ shqRivals (owing3 .tick (seq3 false)) 3 = false ∧
    ((owing3 .halt (seq3 false)).shqAt 3).owed = [.halt] ∧ shqRivals (owing3 .halt (seq3 false)) 3 = false ∧
    haltComing waiting3 3 = true ∧ haltComing (seq3 false) 3 = false := by
  unfold SeqAlone
  decide +kernel

theorem meets_ShutterFlow : SeqReady (seq3 false) 3 ∧ SeqReady (seq3 true) 3 ∧ (seq3 false).rb (Reg.SHQ_CTL 3) 0 = true ∧
    ¬SeqReady (regs [(Reg.SHQ_CTL 3, 1)] r0) 3 ∧ (regs [(Reg.SHQ_CTL 3, 1)] r0).rb (Reg.SHQ_CTL 3) 0 = true ∧
    r0.rb (Reg.SHQ_CTL 3) 0 = false ∧
    (seq3 false).rf (Reg.SHQ_PINS 3) 21 16 = 4 ∧ (3 : Fin 32).val < 4 ∧ (4 : Nat) ≤ (4 : Fin 32).val ∧
    (seq3 false).rb (Reg.SHQ_CTL 3) 8 = false ∧ (seq3 true).rb (Reg.SHQ_CTL 3) 8 = true ∧ (14 : Fin 16).val ≤ 14 ∧
    (32 : Nat) ≤ (32 : Fin 128).val := by
  unfold SeqReady
  decide +kernel

theorem test_dec : (after (.dec 3 false 9 2) (seq3 false)).reg (Reg.SHQ_CX 3) = 4 ∧ (after (.dec 3 false 9 2) (seq3 false)).reg (Reg.SHQ_PC 3) = 9 ∧
    ((after (.dec 3 false 9 2) (seq3 false)).shqAt 3).hold = 2 := by decide +kernel

theorem test_br_illegal : ((after (.br 3 15 0 0 0) (seq3 false)).shqAt 3).cause = 3 ∧ (after (.br 3 15 0 0 0) (seq3 false)).rb (Reg.SHQ_EVT 3) 8 = true := by
  decide +kernel

/-- Sequencer 3 with a word in its TX queue; with its RX queue full. -/
def fed : State := (seq3 false).modShq 3 fun q => { q with txq := [7] }
def rxed : State := (seq3 false).modShq 3 fun q => { q with rxq := List.replicate (rxDepth (seq3 false) 3) 1 }

/-- Sequencer 3 with AUTOTAKE and AUTOGIVE. -/
def auto3 : State := regs [(Reg.SHQ_SHIFT 3, 3)] (seq3 false)

theorem meets_ShutterData : SeqReady (seq3 false) 3 ∧ shqAutoTake (seq3 false) 3 = false ∧ shqAutoGive (seq3 false) 3 = false ∧
    SeqReady fed 3 ∧ txEmpty fed 3 = false ∧ txEmpty (seq3 false) 3 = true ∧ SeqReady auto3 3 ∧
    shqAutoTake auto3 3 = true ∧ shqAutoGive auto3 3 = true ∧ shqOthr auto3 3 ≤ (auto3.shqAt 3).ocount ∧
    txEmpty auto3 3 = true ∧ shqIthr auto3 3 ≤ min 32 ((auto3.shqAt 3).icount + 32) ∧
    shqOthr (seq3 false) 3 ≤ ((seq3 false).shqAt 3).ocount ∧
    (((seq3 false).modShq 3 fun q => { q with ocount := 0 }).shqAt 3).ocount < shqOthr (seq3 false) 3 ∧
    ¬shqIthr (seq3 false) 3 ≤ ((seq3 false).shqAt 3).icount ∧ shqIthr (seq3 false) 3 ≤ 32 ∧
    rxFull (seq3 false) 3 = false ∧ SeqReady rxed 3 ∧ rxFull rxed 3 = true ∧
    (7 : BitVec 7).toNat < 2 ^ (3 : Fin 8).val ∧ (1 : Fin 32).val + (3 : Fin 8).val ≤ (seq3 false).rf (Reg.SHQ_PINS 3) 21 16 ∧
    (2 ^ (3 : Fin 8).val ≤ (8 : BitVec 7).toNat) ∧ (seq3 false).rf (Reg.SHQ_PINS 3) 21 16 < (2 : Fin 32).val + (3 : Fin 8).val := by
  unfold SeqReady
  decide +kernel

theorem test_xfer : (after (.xfer 3 3 1 1 0) (seq3 false)).reg (Reg.SHQ_CY 3) = 0xFFFFFFFA := by decide +kernel
theorem test_take : (after (.take 3 true false 0) fed).reg (Reg.SHQ_OSR 3) = 7 ∧ ((after (.take 3 true false 0) (seq3 false)).shqAt 3).stall = true := by
  decide +kernel
theorem test_give : ((after (.give 3 false false 0) rxed).shqAt 3).rxq.length = rxDepth (seq3 false) 3 ∧
    (after (.give 3 false false 0) rxed).rb (Reg.SHQ_EVT 3) 6 = true := by decide +kernel
theorem test_drv : (after (.drv 3 1 3 5 0) (seq3 false)).reg (Reg.SHQ_PINOUT 3) = 10 := by decide +kernel

/-- Sequencer 3 with a legal window that is off, HALTED, in a delay, with an injection waiting, and with a program. -/
def off3 : State := regs [(Reg.SHQ_PINS 3, 0x08040000)] r0
def halt3 : State := (seq3 false).modShq 3 fun q => { q with st := .halted }
def late3 : State := (seq3 true).modShq 3 fun q => { q with hold := 2 }
def inj3 : State := (seq3 false).modShq 3 fun q => { q with inj := some 0 }
def prog3 : State := regs [(Reg.SHQ_PROG 3 0, 0xA00000)] (seq3 false)

/-- With words that a QCLR of this cc cleared. -/
def cleared3 : State := (seq3 false).modShq 3 fun q => { q with rxClr := (0, [6]) }

theorem meets_ShutterControl : reachesRegs hst = true ∧ off3.rb (Reg.SHQ_CTL 3) 0 = false ∧ off3.rf (Reg.SHQ_PINS 3) 21 16 = 4 ∧
    off3.rf (Reg.SHQ_PINS 3) 30 24 = 8 ∧
    r0.rf (Reg.SHQ_PINS 3) 21 16 = 0 ∧ (1 : Word).toNat / 2 ^ 12 % 4 ≠ 3 ∧ (halt3.shqAt 3).st = .halted ∧ (off3.shqAt 3).st = .disabled ∧
    ((seq3 false).shqAt 3).st ≠ .disabled ∧ (late3.shqAt 3).nextTb ≤ late3.tb ∧ 0 < (late3.shqAt 3).hold ∧
    (prog3.shqAt 3).hold = 0 ∧ (prog3.shqAt 3).inj = none ∧ (prog3.shqAt 3).st = .running ∧
    (seqDecode (prog3.reg (Reg.SHQ_PROG 3 0)).toNat).isSome = true ∧ (seqDecode 0xE00000).isSome = false ∧
    (inj3.shqAt 3).inj = some 0 ∧ (inj3.shqAt 3).hold = 0 ∧ ((regs [(Reg.SHQ_CTL 3, 1)] halt3).shqAt 3).st ≠ .running ∧
    ((regs [(Reg.SHQ_CTL 3, 1)] halt3).shqAt 3).inj = none ∧ (seq3 false).tb < (((seq3 false).modShq 3 fun q => { q with nextTb := 2 }).shqAt 3).nextTb ∧
    SeqAlone off3 3 ∧ SeqAlone halt3 3 ∧ SeqAlone late3 3 ∧ SeqAlone prog3 3 ∧ SeqAlone inj3 3 ∧
    txFull (seq3 false) 3 = false ∧
    txFull ((seq3 false).modShq 3 fun q => { q with txq := List.replicate (txDepth (seq3 false) 3) 1 }) 3 = true ∧
    rxEmpty rxed 3 = false ∧ nowL rxed (rxed.shqAt 3).rxClr = [] ∧ rxEmpty cleared3 3 = false ∧ nowL cleared3 (cleared3.shqAt 3).rxClr = [6] ∧
    rxEmpty (seq3 false) 3 = true ∧ ((seq3 false).shqAt 3).inj = none ∧ (inj3.shqAt 3).inj ≠ none := by
  unfold SeqAlone
  decide +kernel

/-- A HALT of a core edge comes before the tick of that edge, whichever row comes first (R286). -/
theorem test_halt_first : ((after (.sequencerTick 3) waiting3).shqAt 3).owed = [.tick] ∧
    ((after (.shqHalt hst 3) (owing3 .tick prog3)).shqAt 3).st = .halted ∧
    (after (.shqHalt hst 3) (owing3 .tick prog3)).reg (Reg.SHQ_PC 3) = 0 := by decide +kernel

/-- A register that software wrote in the cc keeps what was written (R371). -/
theorem test_seq_write : (after (.ldc 3 false 9 0) ((regs [(Reg.SHQ_CX 3, 77)] (seq3 false)).markWr (Reg.SHQ_CX 3))).reg (Reg.SHQ_CX 3) = 77 ∧
    (after (.ldc 3 false 9 0) (seq3 false)).reg (Reg.SHQ_CX 3) = 9 := by decide +kernel

theorem test_shq_enable : ((after (.shqEnable hst 3 0x10001) off3).shqAt 3).st = .running ∧ (after (.shqEnable hst 3 1) r0).rb (Reg.SHQ_EVT 3) 12 = true := by
  decide +kernel

theorem test_inject : ((after (.injection hst 3 0xFFFFFFFF) (seq3 false)).shqAt 3).inj = some 0xFFFFFF ∧ (after (.injection hst 3 0) inj3).rb (Reg.SHQ_EVT 3) 10 = true := by
  decide +kernel

/-! ## Meters, limiter, gates, safe state -/

/-- Meter 9, whose channel has been on for 100 of this window, with a budget of 0; it is a safety meter or not. -/
def metered (safety : Bool) : State :=
  { regs [(Reg.MTR_CFG 9, if safety then 0x200FF else 0xFF), (Reg.MTR_BUD 9, 0), (Reg.SAFE_ESC, 4)] r0 with tb := 1000 }.modMtr 9 fun m =>
    { m with on := 1000, e := 70000 }
def forced9 (e : Nat) : State := (metered false).modMtr 9 fun m => { m with forced := true, e := e }

theorem meets_ProtectOutputs : (metered false).tb % 1000 = 0 ∧ (metered false).safe.mtrTb ≠ some 1000 ∧
    (∀ n : Fin 256, ((metered false).mtrAt n.val).late = []) ∧ (∀ n : Fin 256, ((metered false).reg (Reg.MTR_CFG n.val)).getLsbD 17 = false) ∧
    ((metered true).reg (Reg.MTR_CFG 9)).getLsbD 17 = true ∧ (metered true).rb Reg.SAFE_ESC 2 = true ∧ (metered true).pending = [] ∧
    (∀ n : Fin 256, n.val < 9 → ((metered true).reg (Reg.MTR_CFG n.val)).getLsbD 17 = false) ∧ ((metered false).mtrAt 9).forced = false ∧
    masterSecure (masterNow (secured (forced9 0)) sec) = true ∧ ((forced9 0).mtrAt 9).forced = true ∧ ((forced9 0).mtrAt 9).e / 65536 ≤ min 0 ((forced9 0).reg (Reg.MTR_REL 9)).toNat ∧
    min 0 ((forced9 70000).reg (Reg.MTR_REL 9)).toNat < ((forced9 70000).mtrAt 9).e / 65536 := by decide +kernel

theorem test_release : ((after (.mtrRelease sec 9) (secured (forced9 0))).mtrAt 9).forced = false ∧
    ((after (.mtrRelease sec 9) (forced9 0)).mtrAt 9).forced = true ∧ (after (.mtrRelease sec 9) (secured (forced9 70000))).rb Reg.SAFE_EVT 4 = true := by
  decide +kernel

/-- TIO 40 with a delayed rise due at 1,000 tb, its bank's limit 1 with the place reserved or not. -/
def delayed (places : Nat) : State :=
  ((regs [(Reg.REL_CTL, 0x01010101)] { r0 with tb := 1000 }).modPin 40 fun p => { p with delayed := true, pre := .hi, post := .lo, queue := [(1000, .hi)] }).modLim 1 fun l =>
    { l with reserved := places }

theorem meets_ProtectOutputs_limiter : (delayed 1).tb % 1000 = 0 ∧ (delayed 1).safe.winTb ≠ some 1000 ∧ ((delayed 1).pinAt 40).queue = [(1000, .hi)] ∧
    queuedFrom ((delayed 1).pinAt 40) ≠ .hi ∧ ((delayed 1).limAt 1).admitted < ((delayed 1).limAt 1).reserved ∧
    ¬((delayed 0).limAt 1).admitted < ((delayed 0).limAt 1).reserved ∧ ((delayed 0).reg Reg.REL_CTL).toNat / 2 ^ 8 % 2 ^ 8 ≠ 0 ∧
    (r0.pinAt 40).queue = [] ∧ ({ delayed 1 with tb := 999 } : State).tb < 1000 ∧ gateOpens r0 40 = false ∧ (delayed 1).pending = [] ∧
    Instr.releaseWindowStart ∈ ({ delayed 1 with pending := [.releaseWindowStart] } : State).pending ∧
    (queuedFrom ((delayed 1).pinAt 40) = .lo) := by decide +kernel

/-- A closed gate of TIO 40 whose guard is good, with a level before it that equals the gate's. -/
def gated : State :=
  { regs [(Reg.GUARD_CH 1, 0x100)] r0 with guard := Vector.replicate 8 true, safe := { r0.safe with sover := false } }.modPin 40 fun p =>
    { p with post := .lo }

theorem meets_ProtectOutputs_gate : gateOpens gated 40 = true := by decide +kernel

theorem test_gate : ((after (.guardGateOpen 40) gated).pinAt 40).gateClosed = false ∧ ((after (.guardGateOpen 40) gated).pinAt 40).ball = .lo := by
  decide +kernel

theorem test_delayed : ((after (.delayedEdge 40) (delayed 1)).pinAt 40).post = .hi ∧ ((after (.delayedEdge 40) (delayed 0)).pinAt 40).post = .lo ∧
    (after (.delayedEdge 40) (delayed 0)).rb Reg.REL_EVT 5 = true := by decide +kernel


/-- Out of safe state after boot, with thread 3 of engine 0 as the run-down thread, on; a watchdog of 10,000 tb. -/
def running : State :=
  let f : Format := { reqVer := 0, fly := true, chgSpk := 0, flushTag := 0, flushMask := 0, rdThr := 3, swThr := 64, rdPc := 0x40, swPc := 0 }
  { regs [(Reg.ENL_CTL 0, 1), (Reg.SAFE_CFG, 0x8001), (Reg.HWD_CTL, 0x80000001)] r0 with
    tb := 20000, safe := { r0.safe with safe := false, sover := false, cause := 0 }, boot := { r0.boot with done := true, step := 7, formats := [f], nfmt := 1 } }
def down : State := { running with safe := { running.safe with rundown := some (.stopPin, 0) } }

theorem meets_ProtectSafe : running.safe.safe = false ∧ running.safe.rundown = none ∧ running.boot.phase ≠ 1 ∧ running.boot.phase ≠ 2 ∧
    rundownThread running = some (3, 0x40) ∧ enlOn running 0 = true ∧ rundownThread { running with boot := r0.boot } = none ∧
    running.safe.safePin = false ∧ running.safe.stopPin = false ∧ running.rb Reg.SAFE_CFG 15 = true ∧
    (regs [(Reg.SAFE_CFG, 1)] running).rb Reg.SAFE_CFG 15 = false ∧ running.rb Reg.HWD_CTL 31 = true ∧ running.rb Reg.HWD_CTL 30 = false ∧
    (regs [(Reg.HWD_CTL, 0xC0000001)] running).rb Reg.HWD_CTL 30 = true ∧ running.safe.expired = false ∧
    running.safe.hwdTb + max 1 (running.rf Reg.HWD_CTL 15 0) * 10000 ≤ running.tb ∧ ({ running with tb := 9999 } : State).tb < 10000 ∧
    down.safe.rundown = some (.stopPin, 0) ∧ 0 + max 1 (down.rf Reg.SAFE_CFG 14 0) * 1000000 ≤ ({ down with tb := 1000000 } : State).tb ∧
    running.safe.srcTb ≠ some running.tb ∧ sourceComing running = false ∧ running.otp = false ∧
    max running.safe.safeUp running.boot.startTb + 20 ≤ running.tb ∧ max running.safe.stopUp running.boot.startTb + 20 ≤ running.tb ∧
    masterSecure (masterNow (secured running) sec) = true ∧ sourceComing (secured running) = false ∧
    sourceComing { running with pending := [.safeCmdEnter .safelight] } = true ∧
    ({ running with safe := { running.safe with expired := true } } : State).safe.expired = true ∧ (0 : BitVec 16) ≠ 0xC35A ∧ running.safe.next92 = false := by decide +kernel

theorem test_safe_exit : (after (.safeCmdExit sec 0xC35A) (secured { running with safe := { running.safe with safe := true } })).safe.safe = false ∧
    (after (.safeCmdExit sec 0xC35A) (secured { running with safe := { running.safe with safe := true, safePin := true } })).rb Reg.SAFE_EVT 2 = true := by decide +kernel

theorem test_stop_pin : (after .stopPinAssert running).safe.rundown = some (.stopPin, 20000) ∧
    (after .stopPinAssert running).boot.phase = 3 ∧
    (after .stopPinAssert { running with safe := { running.safe with stopUp := 19981 } }).safe.stopPin = false := by
  decide +kernel

theorem test_kick : (after (.hwdKick hst 0x6D) { running with tb := 9999 }).safe.next92 = true ∧
    (after (.hwdKick hst 0x92) { running with tb := 9999 }).rb Reg.HWD_STAT 1 = true ∧
    (after (.hwdKick hst 0x6D) running).safe.expired = true := by decide +kernel

/-! ## Event records and spools -/

/-- Source 9 pending since tb 0 for bank HA, whose normal ring of 16 records lies in spool 0, enabled; the ring as given. -/
def recording (wptr : Nat) : State :=
  let pend : Pend := { src := 9, kind := 1, detail := .word 5, tb := 0, at_ := 0, rep := 0, safety := false }
  let s := regs [(Reg.EVR_RING_CFG 0 0, 0x104), (Reg.EVR_ROUTE 9, 1), (Reg.EVR_MASK 0 0, 0)] { r0 with tb := 100, evr := { r0.evr with pend := [pend] } }
  (s.modBank 0 fun b => { b with norm := { b.norm with wptr := wptr } }).modSpl 0 fun p => { p with st := .on }

def pend9 : Pend := { src := 9, kind := 1, detail := .word 5, tb := 0, at_ := 0, rep := 0, safety := false }
def open9 : OpenRec := { src := 9, kind := 1, bank := 0, fast := false, ptr := 0, rep := 0, safety := false, at_ := 100 }
def written : State := after .recordDelivery (recording 0)
def delivered : State := after .recordWriteComplete written

/-- The banks given are taken in this cc. -/
def bank2 (l : List Nat) : State := { written with fabric := { written.fabric with used := l } }

theorem meets_RecordFlow : (recording 0).evr.lastTb = none ∧ (recording 0).evr.pend = [pend9] ∧ (recording 0).bankOf 9 false = some 0 ∧
    ringSize (recording 0) 0 false = 16 ∧ ((recording 0).ring 0 false).wptr = 0 ∧ ((recording 16).ring 0 false).wptr = 16 ∧
    doneComing (recording 0) 0 false = false ∧
    written.evr.writes.length = 1 ∧ written.evr.opens = [open9] ∧ written.evr.writes.map RecWrite.done = [[]] ∧
    (written.pending = [] ∧ written.evr.reps = [] ∧ written.slt.ringReads = []) ∧ written.fabric.used = [] ∧
    recordAddr written 0 false 0 = 0 ∧ (∀ i : Fin 4, inBorrowed written (0 + 4 * i.val) = false) ∧ pwrNow written 0 = .on ∧ splOwner written 0 = 0 ∧
    (∀ j : Fin 4, (placeOf (4 * j.val) ∈ (bank2 [0, 1, 3]).fabric.used ∧ j ≠ 2) ∨ (placeOf (4 * j.val) ∉ (bank2 [0, 1, 3]).fabric.used ∧ j = 2)) ∧
    (∀ j : Fin 4, placeOf (4 * j.val) ∈ (bank2 [0, 1, 2, 3]).fabric.used) ∧ splOwner (regs [(Reg.SPL_OWN 0, 1)] written) 0 ≠ 0 ∧
    (written.splAt 0).test.borrowed = false ∧ pwrNow (written.modSpl 0 fun p => { p with st := .off }) 0 ≠ .on ∧ r0.evr.writes = [] ∧
    (delivered.ring 0 false).wptr = 1 ∧ (delivered.bankAt 0).stack = [] ∧ (delivered.ring 0 false).rptr = 0 ∧
    ((delivered.modBank 0 fun b => { b with stack := [false] }).bankAt 0).stack.head? = some false ∧ delivered.rb (Reg.EVR_RING_CFG 0 0) 8 = true ∧
    r0.rb (Reg.EVR_RING_CFG 0 0) 8 = false ∧ splOwner r0 0 = 0 ∧ (335 : Fin 512).val < 336 ∧ (336 : Nat) ≤ (336 : Fin 512).val := by decide +kernel

theorem meets_RecordFlow_deliverable : deliverable (recording 0) pend9 = true ∧ deliverable r0 pend9 = false := by decide +kernel

theorem test_record : memWord delivered.mem 4 = 0 ∧ memWord delivered.mem 12 = 5 ∧ (delivered.ring 0 false).wptr = 1 ∧
    (after .recordDelivery (recording 16)).rb (Reg.EVR_EVT 0) 0 = true ∧
    (after .recordWriteComplete (bank2 [0, 1, 3])).evr.writes.map RecWrite.done = [[2]] := by decide +kernel

theorem test_claim : (after (.evrClaim hst 0 false) delivered).answer.data = 0x80090000 ∧
    ((after (.evrDone hst 0 false 0) (after (.evrClaim hst 0 false) delivered)).ring 0 false).rptr = 1 := by decide +kernel

/-- Spool 0 ON, with bytes; with errors in the word at 0x10; with its initialisation done and a power change in progress. -/
def spool0 (ecc : Nat) : State := { r0 with mem := [(0x10, 1), (0x11, 2), (0x12, 3)], ecc := if ecc = 0 then [] else [(0x10, ecc)] }.modSpl 0 fun p =>
  { p with st := .on, init := false }

/-- The places that a request asks for are taken in this cc. -/
def busyFor (q : Option FabReq) (s : State) : State := { s with fabric := { s.fabric with used := q.elim [] FabReq.places } }
def changing (t : PwrState) : State := (spool0 0).modSpl 0 fun p => { p with st := .changing, target := t, ready := 0 }

/-- Spool 0 with its test on, waiting or with the last region borrowed. -/
def testing (b : Bool) : State := (regs [(Reg.SPL_TSTCTL 0, 3)] (spool0 0)).modSpl 0 fun p => { p with test := { p.test with borrowed := b, region := 4095 } }

theorem meets_SpoolAccess : (0x10 : Nat) / 0x100000 = (0x10 + 4 - 1) / 0x100000 ∧ (0x10 + 4 : Nat) ≤ 0x800000 ∧ pwrNow (spool0 0) 0 = .on ∧
    grantsNow (spool0 0) (spoolReq (spool0 0) hst 0x10 .b4 none) = true ∧ grantsNow (spool0 0) (spoolReq (spool0 0) hst 0x10 .b4 (some 7)) = true ∧
    (busyFor (spoolReq (spool0 0) hst 0x10 .b4 none) (spool0 0) |> fun s => (spoolReq s hst 0x10 .b4 none).map (granted s)) = some false ∧
    (spoolReq (testing true) hst 0xFFF10 .b4 (some 7)).map (fun r => testsHit (testing true) r.words) = some [0] ∧
    (spoolReq (testing true) hst 0xFFF10 .b4 (some 7)).map (granted (testing true)) = some true ∧ ((testing true).splAt 0).test.till = none ∧
    splOwner (spool0 0) 0 ∈ ownClasses (spool0 0) 0x10 hst ∧ splOwner (spool0 0) 0 ∉ ownClasses (spool0 0) 0x10 (.engine 0) ∧
    splOwner (spool0 0) 0 ∈ ownClasses (spool0 0) 0x14 hst ∧ splOwner (spool0 0) 0 ∉ ownClasses (spool0 0) 0x14 (.engine 0) ∧
    madePart (spool0 0) hst 0x10 4 = none ∧ grantsNow (spool0 0) (spoolReq (spool0 0) hst 0xFFFFE .b4 none) = true ∧
    grantsNow (spool0 2) (spoolReq (spool0 2) hst 0x10 .b4 none) = true ∧ grantsNow (spool0 1) (spoolReq (spool0 1) hst 0x10 .b4 none) = true ∧
    ((spool0 0).splAt 0).test.borrowed = false ∧ (∀ i : Fin 2, eccAt (spool0 0) (0x10 + 4 * i.val) = 0) ∧ eccAt (spool0 1) 0x10 = 1 ∧
    2 ≤ eccAt (spool0 2) 0x10 ∧ ¬(0xFFFFE : Nat) / 0x100000 = (0xFFFFE + 4 - 1) / 0x100000 ∧ ¬(0x7FFFFE + 4 : Nat) ≤ 0x800000 ∧
    pwrNow r0 1 ≠ .on ∧ masterSecure (masterNow (secured r0) sec) = true ∧ (0x4 : Word).toNat % 8 ≤ 4 ∧ 4 < (0x5 : Word).toNat % 8 ∧
    ((changing .off).splAt 0).st = .changing ∧ ((changing .off).splAt 0).init = false ∧ ((changing .off).splAt 0).target ≠ .changing ∧
    ((changing .off).splAt 0).ready ≤ (changing .off).tb ∧ (r0.splAt 0).ready ≤ ({ r0 with tb := 200000 } : State).tb ∧
    (((changing .off).modSpl 0 fun p => { p with ready := 2 }).splAt 0).ready = 2 ∧ (changing .off).tb < 2 ∧
    (r0.splAt 0).init = true ∧ (spool0 0).rf (Reg.SPL_PWR 0) 1 0 = 0 := by decide +kernel

/-- An access to the words at 0x10 and 0x14 whose second bank is taken in this cc; the state after its first word, a cc later. -/
def split0 : State := { spool0 0 with fabric := { (spool0 0).fabric with used := [1] } }
def halfway : State := later (after (.spoolAccess hst 0x12 .b4 none) split0)

theorem meets_SpoolAccess_two : (spoolReq split0 hst 0x12 .b4 none).map (fun r => clearNow split0 r && r.two.any fun x =>
      (secondReq x).any fun r2 => !granted (halfMade split0 r x) r2) = some true ∧
    (spoolReq split0 hst 0x12 .b4 (some 7)).map (fun r => clearNow split0 r && r.two.any fun x =>
      (secondReq x).any fun r2 => !granted (halfMade split0 r x) r2) = some true ∧
    madePart halfway hst 0x12 4 = some 3 ∧ grantsNow halfway (spoolReq halfway hst 0x12 .b4 none) = true ∧ 4 < (0x12 : Nat) % 4 + 4 ∧
    (∀ i : Fin 2, eccAt split0 (0x10 + 4 * i.val) = 0 ∧ inBorrowed split0 (0x10 + 4 * i.val) = false) := by decide +kernel

/-- Each word of an access is served in the cc that grants its own bank (R337). -/
theorem test_spool_two : (after (.spoolAccess hst 0x12 .b4 none) split0).answer.status = .held ∧
    (after (.spoolAccess hst 0x12 .b4 none) halfway).answer.data = 3 := by decide +kernel

theorem test_spool : (after (.spoolAccess hst 0x10 .b4 none) (spool0 0)).answer.data = 0x030201 ∧
    (after (.spoolAccess (.engine 0) 0x10 .b4 none) (spool0 0)).rb (Reg.SPL_EVT 0) 2 = true ∧
    (after (.spoolAccess hst 0x10 .b4 none) (spool0 2)).answer.status = .buserr := by decide +kernel

theorem test_spool_write : (after (.spoolAccess hst 0x11 .b2 (some 0xAABB)) (spool0 0)).mem = [(0x10, 1), (0x11, 0xBB), (0x12, 0xAA)] ∧
    (after (.spoolAccess hst 0x11 .b1 (some 0)) (spool0 0)).mem = [(0x10, 1), (0x12, 3)] := by decide +kernel

/-- Copy channel 6 filling 1 word at 0x20; one that the class does not own. -/
def copying (own : Word) : State :=
  (regs [(Reg.CPY_CTL 6, 0x10), (Reg.CPY_LEN 6, 1), (Reg.CPY_DST 6, 0x20), (Reg.CPY_FILL 6, 9), (Reg.SPL_OWN 0, own)] (spool0 0)).modCpy 6 fun _ =>
    { busy := true, cls := 0, remain := 1, cause := 0, stop := false, finish := false, got := none }

/-- Copy channel 6 moving the word at 0x10 to 0x20, which lies in the same bank, or to 0x24. -/
def moving (dst : Word) : State := regs [(Reg.CPY_CTL 6, 0), (Reg.CPY_SRC 6, 0x10), (Reg.CPY_DST 6, dst)] (copying 0)

/-- The test of spool 0 has had its 192 cycles on each bank. -/
def tested : State := (testing true).modSpl 0 fun p => { p with test := { p.test with cyc := Vector.replicate 4 192 } }

theorem meets_SpoolEngines : (testing false).rb (Reg.SPL_TSTCTL 0) 0 = true ∧ ((testing false).splAt 0).st = .on ∧
    ((testing false).splAt 0).test.borrowed = false ∧ ((testing false).splAt 0).test.first = true ∧
    regionHeld (testing false) 0 = false ∧ spoolWanted (testing false) 0 = false ∧ ((testing true).splAt 0).test.till = none ∧
    (∀ b : Fin 4, 192 ≤ vget (tested.splAt 0).test.cyc b.val 0) ∧ (tested.splAt 0).test.till = none ∧ (tested.splAt 0).test.borrowed = true ∧
    grantsNow (copying 0) (copyReq (copying 0) 6) = true ∧ regionHeld (copying 0) 0 = false ∧ regionHeld tested 0 = true ∧
    (let s := busyFor (copyReq (copying 0) 6) (copying 0); (copyReq s 6).map (granted s)) = some false ∧ inBorrowed (copying 0) 0x20 = false ∧
    pwrNow (copying 0) 0 = .on ∧ ((testing true).splAt 0).test.borrowed = true ∧ ((testing true).splAt 0).test.region = 4095 ∧
    r0.rb (Reg.SPL_TSTCTL 0) 0 = false ∧ (testing true).rb (Reg.SPL_TSTCTL 0) 1 = true ∧ (testing true).wroteNow (Reg.SPL_TSTCTL 0) = false ∧
    reachesRegs hst = true ∧ (r0.cpyAt 6).busy = false ∧ (copying 0).rf (Reg.CPY_LEN 6) 18 0 = 1 ∧
    ((copying 0).reg (Reg.CPY_DST 6)).toNat + 4 * 1 ≤ 0x800000 ∧ r0.rf (Reg.CPY_LEN 6) 18 0 = 0 ∧ ((copying 0).cpyAt 6).busy = true ∧
    (0x11 : Word).getLsbD 1 = false ∧ ((copying 0).cpyAt 6).finish = false ∧ 1 ≤ ((copying 0).cpyAt 6).remain ∧
    splOwner (copying 0) 0 = ((copying 0).cpyAt 6).cls ∧ (copying 0).rb (Reg.CPY_CTL 6) 4 = true ∧ splOwner (copying 1) 0 ≠ 4 ∧
    splOwner (copying 1) 0 ≠ ((copying 1).cpyAt 6).cls := by decide +kernel

theorem meets_SpoolEngines_move : grantsNow (moving 0x20) (copyReq (moving 0x20) 6) = true ∧ ((moving 0x20).cpyAt 6).got = none ∧
    (moving 0x20).rb (Reg.CPY_CTL 6) 4 = false ∧ placeOf 0x20 = placeOf 0x10 ∧ placeOf 0x24 ≠ placeOf 0x10 ∧ Uncontested (moving 0x24) ∧
    inBorrowed (moving 0x24) 0x10 = false ∧ inBorrowed (moving 0x24) 0x24 = false ∧ regionHeld (moving 0x24) 0 = false ∧
    pwrNow (moving 0x24) 0 = .on ∧ splOwner (moving 0x24) 0 = ((moving 0x24).cpyAt 6).cls ∧ eccAt (moving 0x24) 0x10 = 0 ∧
    pwrNow ((moving 0x24).modSpl 0 fun p => { p with st := .off }) 0 ≠ .on ∧
    eccAt { moving 0x24 with ecc := [(0x10, 2)] } 0x10 = 2 ∧
    (regionHeld (regs [(Reg.SPL_TSTCTL 0, 1)] ((moving 0x24).modSpl 0 fun p => { p with test := { p.test with borrowed := true } })) 0 = true) := by
  unfold Uncontested
  decide +kernel

/-- A word within one bank is read in one cc and written in another. -/
theorem test_copy_move : (after (.copyWord 6) (moving 0x20)).mem = (spool0 0).mem ∧ ((after (.copyWord 6) (moving 0x20)).cpyAt 6).got = some 0x030201 ∧
    memWord (after (.copyWord 6) (later (after (.copyWord 6) (moving 0x20)))).mem 0x20 = 0x030201 ∧
    memWord (after (.copyWord 6) (moving 0x24)).mem 0x24 = 0x030201 := by decide +kernel

theorem test_copy : memWord (after (.copyWord 6) (copying 0)).mem 0x20 = 9 ∧ ((after (.copyWord 6) (copying 0)).cpyAt 6).finish = true ∧
    ((after (.copyWord 6) (copying 1)).cpyAt 6).cause = 1 := by decide +kernel

/-! ## Host port -/

/-- The host port in QSPI form, open. -/
def open0 : State := { spool0 0 with tb := 20000, host := { r0.host with openIn := 0 } }

/-- The grant of a read or write of 0x10 whose place is taken. -/
def openBusy (wr : Option Word) : Option Bool :=
  let s := busyFor (hostReq open0 0x10 .b4 wr) open0
  (hostReq s 0x10 .b4 wr).map (granted s)

theorem meets_HostTransactions : r0.host.parallel = false ∧ open0.host.openIn = 0 ∧ r0.host.openIn ≠ 0 ∧
    grantsNow open0 (hostReq open0 0x10 .b4 none) = true ∧ grantsNow open0 (hostReq open0 0x10 .b4 (some 7)) = true ∧
    openBusy none = some false ∧ openBusy (some 7) = some false ∧
    grantsNow open0 (hostReq open0 0x800000 .b1 (some 7)) = true ∧ grantsNow open0 (hostReq open0 0x800000 .b2 (some 7)) = true ∧
    grantsNow open0 (hostReq open0 0x800001 .b2 none) = true ∧ grantsNow open0 (hostReq open0 0x800088 .b1 none) = true ∧
    grantsNow open0 (busReq open0 hst Reg.HWD_CTL .b4 (some 1)) = true ∧ reservedAt 0x800FF4 1 = true ∧ reservedAt Reg.CS_AT_LO 1 = false ∧
    reservedAt Reg.CS_AT_LO 2 = false ∧ reservedAt (Reg.CS_AT_LO + 1) 2 = false ∧
    grantsNow open0 (hostReq open0 0x800FF4 .b1 (some 7)) = true ∧ ((0x10 : Fin 16777216).val < 0x800000) ∧
    ¬((0x800000 : Fin 16777216).val < 0x800000) ∧ (0x800088 : Fin 16777216).val = Reg.CS_AT_LO + (0 : Fin 4).val ∧
    (0x800000 : Fin 16777216).val % 2 = 0 ∧ (0x800001 : Fin 16777216).val % 2 = 1 ∧ (Reg.CS_AT_LO = 0x800088) ∧ reachesRegs hst = true ∧
    masterSecure (masterNow open0 sec) = false ∧ (1 : Word) &&& 0xE000FFFF ≠ 0 ∧
    ((secured open0).rb Reg.HP_SEC 0 && (secured open0).host.hsec) = true ∧ (secured open0).host.openIn = 0 := by decide +kernel

/-- The parallel bus, with a half held for 0x10, and with a half kept at 0x12. -/
def bus (half : Option (Nat × BitVec 16 × Bool)) (kept : Option (Nat × BitVec 16)) : State :=
  { spool0 0 with tb := 20000, host := { r0.host with openIn := 0, parallel := true, half := half, kept := kept, halfTb := 19500 } }

theorem meets_HostTransactions_bus : (bus none none).host.parallel = true ∧ (bus none none).host.openIn = 0 ∧
    ({ bus none none with host := { (bus none none).host with openIn := 9 } } : State).host.openIn ≠ 0 ∧
    (0x12 : Fin 16777216).val % 4 = 2 ∧ (bus none none).host.half = none ∧
    (bus (some (0x10, 0xAABB, false)) none).host.half = some ((0x12 : Fin 16777216).val - 2, 0xAABB, false) ∧
    (bus none none).tb < (bus none none).host.halfTb + 1000 ∧ (bus none none).host.halfTb + 1000 ≤ ({ bus none none with tb := 20500 } : State).tb ∧
    (let s := bus (some (0x10, 0xAABB, false)) none
     grantsNow s (parReq s 0x12 true true true) = true ∧ (parReq s 0x12 true true true).map (granted (busyFor (parReq s 0x12 true true true) s)) = some false) ∧
    (let s := bus none none
     grantsNow s (parReq s 0x10 true true false) = true ∧ (parReq s 0x10 true true false).map (granted (busyFor (parReq s 0x10 true true false) s)) = some false) ∧
    (let s : State := { bus (some (0x10, 0xAABB, false)) none with tb := 20500 }
     grantsNow s (parReq s 0 false false true) = true ∧
     (parReq s 0 false false true).map (granted (busyFor (parReq s 0 false false true) s)) = some false) ∧
    (∀ w ∈ [false, true], grantsNow (bus none none) (parReq (bus none none) 0x10 true false w) = true) ∧
    (let s := bus (some (0x10, 0xAABB, false)) none; grantsNow s (parReq s 0x20 true false false) = true) ∧
    (bus none (some (0x12, 5))).host.kept = some ((0x12 : Fin 16777216).val, 5) := by decide +kernel

theorem test_halves : (after (.parallelWriteCycle 0x12 true true 0xCCDD false) (bus (some (0x10, 0xAABB, false)) none)).mem =
    [(0x10, 0xBB), (0x11, 0xAA), (0x12, 0xDD), (0x13, 0xCC)] ∧ (after (.parallelReadCycle 0x12 true true false) (bus none (some (0x12, 5)))).answer.data = 5 := by
  decide +kernel

theorem test_narrow : (after (.write1 0x800088 1 false false) open0).answer.status = .discarded ∧
    (after (.write1 0x800088 1 false false) open0).host.byte = 0xC3 ∧ (after (.read2 0x800089 false false) open0).answer.status = .buserr ∧
    (after (.write1 0x800FF4 1 false false) open0).answer.status = .ok ∧ (after (.read4 0x10 false false) r0).answer.status = .held := by
  decide +kernel

/-! ## Boot and formats -/

/-- Boot about to load, and about to end: with AUTO_EXIT or not, with the START gate or not; waiting for the exit, its retry due at 9. -/
def booting : State := { r0 with tb := 10, boot := { r0.boot with step := 2, powerOn := false } }
def ending (auto gate : Bool) : State := { r0 with tb := 1000000, boot := { r0.boot with step := 6, autoExit := auto, startGate := gate } }
def waiting : State := { ending true false with boot := { r0.boot with exitWait := true, exitDue := some 9 } }
def asking : State := { ending true true with boot := { (ending true true).boot with exitWait := true } }

theorem meets_BootSequence : booting.boot.step = 2 ∧ booting.boot.done = false ∧ booting.boot.powerOn = false ∧
    (discover (otpLoad booting) none).flash.facts.answers = false ∧ (r0.boot.step ≠ 2) ∧ (ending true false).boot.step = 6 ∧
    (ending true false).boot.done = false ∧ (ending false false).boot.autoExit = false ∧ (ending true false).boot.startGate = false ∧
    casMember (ending true false) = false ∧ (ending true false).safe.safe = true ∧ (ending true true).boot.startGate = true ∧
    (ending true true).safe.startPin = false ∧ sourceComing (ending true false) = false ∧ r0.boot.startTb = 0 ∧
    (ending true true).boot.startTb + max 1 ((ending true true).rf Reg.BOOT_CFG 15 8) * 1000000 ≤ (ending true true).tb ∧
    asking.boot.exitWait = true ∧ asking.tb = 1000000 ∧ (ending true false).safe.safePin = false ∧ (ending true false).safe.rundown = none ∧
    ({ ending true false with safe := { r0.safe with stopPin := true } } : State).safe.stopPin = true ∧
    booting.tb < booting.boot.startTb + max 1 (booting.rf Reg.BOOT_CFG 15 8) * 1000000 ∧
    waiting.boot.startTb + max 1 (waiting.rf Reg.BOOT_CFG 15 8) * 1000000 ≤ waiting.tb ∧ waiting.boot.exitDue = some 9 ∧ 9 ≤ waiting.tb ∧
    waiting.boot.exitWait = true ∧ r0.boot.exitDue = none := by decide +kernel

theorem test_boot_done : (after .bootDone (ending true false)).safe.safe = false ∧ (after .bootDone (ending true false)).boot.done = true ∧
    (after .bootDone (ending false false)).safe.safe = true ∧ (after .bootDone (ending true true)).boot.exitWait = true := by decide +kernel

/-- Two formats, of which the second may change on the fly; the first active. -/
def formats (fly : Bool) : State :=
  let f : Format := { reqVer := 0, fly := fly, chgSpk := 0, flushTag := 0, flushMask := 0, rdThr := 64, swThr := 64, rdPc := 0, swPc := 0 }
  { running with boot := { running.boot with formats := [f, f], nfmt := 2 } }
def preparing : State := { formats true with boot := { (formats true).boot with phase := 1, target := 1, now := true, fixCh := 3 } }

/-- Its change set writes word 0 of spool 1, whose region 0 is in test. -/
def retest : State := { preparing with boot := { preparing.boot with sections := [⟨4, 0, 2, 0x100000, 4, 0⟩] } }.modSpl 1 fun p =>
  { p with test := { p.test with borrowed := true } }

theorem meets_FormatChange : reachesRegs hst = true ∧ r0.boot.done = false ∧ (formats true).boot.done = true ∧ (formats true).boot.phase = 0 ∧
    (formats true).safe.rundown = none ∧ preparing.boot.phase ≠ 0 ∧ (0 : Nat) = (formats true).boot.active ∧ (formats true).boot.formats.length = 2 ∧
    1 < (formats true).boot.nfmt ∧ 1 ≠ (formats true).boot.active ∧ ((formats true).fixAt ((formats true).rf Reg.FMT_CTL 1 0)).point = .none ∧
    ((pointed.fixAt 1).point ≠ .none) ∧ nStaged (formats true) ((formats true).rf Reg.FMT_CTL 1 0) = 0 ∧
    (changeSet (formats true) 1).any (sectionBreaks (formats true)) = false ∧ fixChain (formats true) ((formats true).rf Reg.FMT_CTL 1 0) = false ∧
    preparing.boot.prepDone = false ∧ preparing.boot.chained = false ∧ changeSet preparing 1 = [] ∧ preparing.boot.now = true ∧
    (∀ e ∈ preparing.due, e.2 ≠ .fixDone 3) ∧ (preparing.fixAt 3).point = .none ∧ retest.boot.phase = 1 ∧ retest.boot.prepDone = false ∧
    testsHit retest (spoolWords (changeSet retest retest.boot.target)) = [1] := by decide +kernel

theorem test_format : (after (.fmtRequest hst 1) (formats true)).boot.phase = 1 ∧ (after (.fmtRequest hst 1) (formats false)).boot.cause = 4 ∧
    (after (.fmtRequest hst 0) (formats true)).boot.cause = 3 ∧ (after (.fmtRequest hst 1) r0).boot.cause = 1 := by decide +kernel

theorem test_prepared : ((after (.formatPrepDone false) preparing).fixAt 3).point = .at 20001 ∧ (after (.formatPrepDone true) preparing).boot.cause = 7 := by
  decide +kernel

/-! ## Cascade -/

def command (code : BitVec 8) : CasCommand := { code := code, fixCh := 2, kind := 1, spk := 0, cseq := 5, newFmt := 0, lo := 500, hi := 0 }

/-- A member of role 3 whose link 7 is UP, and its down frame of window 1; the master of a chain whose link 6 is UP, its window 1. -/
def member : State :=
  { regs [(Reg.CAS_CTL, 1), (Reg.LINK_CTL 7, 2), (Reg.LINK_CTL 6, 2)] { r0 with tb := 1000 } with cas := { r0.cas with role := 3, st := .link, good := 15 } }.modLink 7
    fun l => { l with st := .up }
def down1 (crc : Bool) (stamp : Nat) : DownFrame :=
  { crcOk := crc, cv := 1, seq := 1, tbW := 1000, dly := 0, units := List.replicate 8 noUnit, cmd := noCommand, stamp := stamp, codeErrs := 0 }
def master : State :=
  { regs [(Reg.CAS_CTL, 1), (Reg.LINK_CTL 6, 2), (Reg.CAS_MSTAT 1, 0x100)] { r0 with tb := 1000 } with cas := { r0.cas with present := 1, cmd := some (command 1) } }.modLink 6
    fun l => { l with st := .up, nextW := 1 }

/-- The master in the tb in which it samples its window 1. -/
def sending : State := { master with tb := 920 }
def record (nack : Bool) : MemberRec :=
  { negVer := 7, pverMax := 2, activeFmt := 0, present := true, tbLock := true, joinWait := false, nack := nack, lateFix := false, mirErr := false, cseq := 5, cause := 0 }
def absent : MemberRec :=
  { negVer := 0, pverMax := 0, activeFmt := 0, present := false, tbLock := false, joinWait := false, nack := false, lateFix := false, mirErr := false, cseq := 0, cause := 0 }
def up1 (nack : Bool) : UpFrame := { crcOk := true, seq := 1, records := record nack :: List.replicate 6 absent, codeErrs := 0 }

/-- Links in TRAIN: link 7 of the member with `k` round trips of 2,048; link 6 of the master. -/
def train7 (k : Nat) : State := member.modLink 7 fun l => { l with st := .train, rtts := List.replicate k 2048, reqs := k + 1 }
def train6 (k : Nat) : State := { master.modLink 6 fun l => { l with st := .train } with cas := { master.cas with answered := k } }

theorem meets_CascadeFrames : masterSecure (masterNow (secured r0) sec) = true ∧ (secured r0).rb Reg.CAS_CTL 0 = false ∧ (regs [(Reg.LINK_CTL 6, 2)] r0).rf (Reg.LINK_CTL 6) 1 0 = 2 ∧
    r0.rf (Reg.LINK_CTL 6) 1 0 ≠ 2 ∧ ((train7 15).linkAt 7).st = .train ∧ ((train7 15).linkAt 7).rtts = List.replicate 15 2048 ∧
    ((train7 14).linkAt 7).rtts.length < 15 ∧ (train7 15).rf (Reg.LINK_CTL 7) 1 0 = 2 ∧
    ((train7 15).linkAt 7).rtts.length + 16 * ((train7 15).linkAt 7).tries < ((train7 15).linkAt 7).reqs ∧ (train6 15).cas.answered = 15 ∧
    (train6 14).cas.answered < 15 ∧ ((train6 15).linkAt 6).st = .train ∧ master.rb Reg.CAS_CTL 0 = true ∧ master.cas.role = 0 ∧
    (master.linkAt 6).st = .up ∧ (sending.tb + 80) % 1000 = 0 ∧ (sending.linkAt 6).nextW ≤ (sending.tb + 80) / 1000 ∧
    (master.tb + 80) % 1000 ≠ 0 ∧ (sending.linkAt 6).st = .up ∧ presentNow sending 0 = true ∧ member.cas.role ≠ 0 ∧
    (member.linkAt 7).st = .up ∧ (∀ j : Unit3, spkMirrors member j.val = false) ∧
    ((down1 true 16000).stamp : Int) - ((down1 true 16000).tbW * 16 + 0 : Nat) = 0 ∧ 64 < (((down1 true 17000).stamp : Int) - 16000).natAbs ∧
    member.safe.safe = true ∧ (up1 false).records.length = 7 ∧ ({ master with cas := { master.cas with cmd := none } } : State).cas.cmd = none ∧
    (record false).present = true ∧ absent.present = false := by decide +kernel

/-- Unit 7 of the member mirrors unit 1 of the master. -/
def mirroring : State := regs [(Reg.CAS_MIR 7, 9), (Reg.SPK_CTL 7, 1), (Reg.SPK_CYCLE 7, 60)] member

theorem meets_CascadeFrames_mirror : spkMirrors mirroring 7 = true ∧ (∀ j : Unit3, j ≠ 7 → spkMirrors mirroring j.val = false) ∧
    mirroring.rf (Reg.CAS_MIR 7) 2 0 < 4 ∧ mirroring.boot.phase = 0 ∧ noUnit.k.toNat ≠ mirroring.rf (Reg.SPK_CYCLE 7) 15 0 ∧
    ({ noUnit with k := 60 } : UnitRec).k.toNat = mirroring.rf (Reg.SPK_CYCLE 7) 15 0 ∧ ({ noUnit with stampLo := 5 } : UnitRec).stampLo ≠ (mirroring.spkAt 7).mirStampLo := by
  decide +kernel

/-- Member 1 was last seen longer ago than the loss time. -/
def late1 : State := { master with tb := 2000000 }

theorem meets_CascadeFrames_lost : late1.cas.present.getLsbD 0 = true ∧ vget late1.cas.seenTb 1 0 + max 1 (late1.rf (Reg.LINK_PARAM 6) 15 8) * 1000 ≤ late1.tb ∧
    ({ member with cas := { member.cas with st := .run } }.modLink 7 fun l => { l with st := .loss } : State).cas.st = .run ∧
    (({ member with cas := { member.cas with st := .run } }.modLink 7 fun l => { l with st := .loss }).linkAt 7).st ≠ .up := by decide +kernel

theorem test_down_frame : (after (.downFrame (down1 true 16000)) member).cas.tbLock = true ∧ (after (.downFrame (down1 true 17000)) member).tb = 937 ∧
    (after (.downFrame (down1 false 16000)) member).cas.frameTb = 0 := by decide +kernel

theorem test_up_frame : (after (.upFrame (up1 false)) { master with cas := { master.cas with cmd := none } }).reg (Reg.CAS_MVER 1) = 7 := by decide +kernel

/-- A member 8 tb after it published a frame with a command. -/
def commanded (code : BitVec 8) : State :=
  { member with tb := 1108, cas := { member.cas with lastDown := some { down1 true 16000 with cmd := command code }, pubTb := 1100 } }

/-- The member that has chain channel 2 prepared; the split time of a master. -/
def prepared : State := { member with cas := { member.cas with await := some 2 } }
def splitting : State := { master with cas := { master.cas with splitT := some 100 } }

theorem meets_CascadeCommands : member.rb Reg.CAS_CTL 0 = true ∧ member.cas.lastCseq ≠ some 5 ∧ (command 1).code = 1 ∧ (commanded 1).cas.lastDown.map DownFrame.cmd = some (command 1) ∧ (commanded 1).tb = (commanded 1).cas.pubTb + 8 ∧
    (member.fixAt 2).point = .none ∧ member.cas.lastDown = none ∧
    member.due = [] ∧ (command 1).kind.val < 2 ∧ 2 ≤ ({ command 1 with kind := 2 } : CasCommand).kind.val ∧ mirroring.rf (Reg.CAS_MIR 7) 2 0 = 1 ∧
    prepared.cas.await = some 2 ∧ member.cas.await ≠ some 2 ∧ fmtCause member 0 2 false true ≠ 0 ∧ member.boot.chained = false ∧
    master.cas.cmd = some (command 1) ∧ master.cas.queue = [] ∧ master.tb < master.cas.cmdTb + 100000 ∧ late1.cas.cmdTb + 100000 ≤ late1.tb ∧
    r0.cas.cmd = none ∧ r0.cas.splitT = none ∧ splitting.cas.splitT = some 100 ∧ splitting.tb < 100 + 10000 ∧
    100 + 10000 ≤ ({ splitting with tb := 10100 } : State).tb ∧ (record false).cseq = (command 1).cseq ∧ (record true).nack = true ∧
    (record true).present = true ∧ (record false).nack = false := by decide +kernel

/-- A format change of the chain that a member accepts, and one under way there. -/
def chained : State :=
  { formats true with regs := member.regs, cas := member.cas, boot := { (formats true).boot with active := 0 } }
def changing5 : State := { chained with boot := { chained.boot with phase := 1, chained := true, fixCh := 2 } }

theorem meets_CascadeCommands_format : fmtCause chained 1 2 false true = 0 ∧ changing5.boot.chained = true ∧ changing5.boot.phase = 1 ∧
    (changing5.fixAt 2).point = .none := by decide +kernel

theorem test_fix_prep : ((after (.fixPrep (command 1)) (commanded 1)).fixAt 2).point = .at 1109 ∧ (after (.fixPrep (command 1)) (commanded 1)).cas.ackCseq = 5 ∧
    (after (.fixPrep (command 1)) { commanded 1 with tb := 1107 }).cas.ackCseq = member.cas.ackCseq := by decide +kernel

theorem test_timeout : (after .commandTimeout late1).rb Reg.CAS_EVT 8 = true ∧ (after .split { splitting with tb := 10100 }).rb Reg.CAS_EVT 9 = true := by
  decide +kernel

/-! ## Safelight -/

/-- Temperatures at 0 and at 127.75 °C; voltages of 0. -/
def hot : Vector (BitVec 16) 4 := Vector.replicate 4 0x1FF
def dead : Vector (BitVec 16) 6 := Vector.replicate 6 0

/-- A warning of sensor 0 since tb 0; REFCLK bad since tb 0; voltage 0 one reading before its alarm. -/
def warm : State :=
  { regs [(Reg.SLT_CFG, 0x101)] running with tb := 1000000000, slt := { running.slt with
    temps := Vector.replicate 4 { Sensor.reset with warn := true } } }
def noClock : State := { running with tb := 100000, slt := { running.slt with clkBad := [.refclk], clkTb := [(.refclk, 0)] } }
def sinking : State :=
  { regs [(Reg.SAFE_ESC, 0x20), (Reg.SNS_VWIN0, 0x034802F8)] running with slt := { running.slt with volts := Vector.replicate 6 { Sensor.reset with alarmN := 2 } } }

theorem meets_SafelightWatch : running.boot.done = true ∧ running.slt.fwTried = false ∧ r0.boot.done = false ∧ running.boot.phase = 0 ∧
    ClockId.refclk ∉ running.slt.clkBad ∧ ClockId.refclk ∈ noClock.slt.clkBad ∧
    noClock.slt.clkTb.find? (fun p => p.1 == .refclk) = some (.refclk, 0) ∧ 0 + 100000 ≤ noClock.tb ∧ noClock.tb - 1 < 100000 ∧
    warm.rb Reg.SLT_CFG 0 = true ∧ warm.safe.rundown = none ∧ warm.safe.safe = false ∧
    (vget warm.slt.temps 0 Sensor.reset).since + max 1 (warm.rf Reg.SLT_CFG 15 8) * 1000000000 ≤ warm.tb ∧ rundownThread warm = some (3, 0x40) ∧
    enlOn warm 0 = true ∧ 0 + 100000 = noClock.tb ∧ noClock.rb Reg.CLK_STAT 2 = false ∧ (running.slt.lifeMin + 1) * 60000000000 ≤ ({ running with tb := 60000000000 } : State).tb ∧ running.tb < 60000000000 ∧
    (vget sinking.slt.volts 0 Sensor.reset).alarm = false ∧ (vget sinking.slt.volts 0 Sensor.reset).alarmN = 2 ∧ sinking.rb Reg.SAFE_ESC 5 = true ∧
    (dead.get 0).toNat < (sinking.reg Reg.SNS_VWIN0).toNat % 2 ^ 16 := by decide +kernel

theorem test_clock_fault : (after (.clockFault .refclk) running).slt.clkBad = [.refclk] ∧ (after (.clockFaultReset .refclk) noClock).boot.step = 1 ∧
    (after (.clockFaultReset .refclk) (regs [(Reg.CLK_STAT, 4)] noClock)).boot.step = 2 ∧
    (after (.clockFaultReset .refclk) { noClock with tb := 99999, tbRun := true }).tb = 99999 := by decide +kernel

theorem test_warn_rundown : (after .warnRundown warm).safe.rundown = some (.slt, 1000000000) := by decide +kernel

/-- The host holds the mailbox; a command of `code` in progress, its master secure or not, with firmware or in ROM mode. -/
def held : State := { r0 with slt := { r0.slt with claim := some (.host false) } }
def asks (code arg : Word) (secure fw : Bool) : State :=
  { regs [(Reg.MBX_REQ 0, code), (Reg.MBX_REQ 1, arg), (Reg.VCAL_STAT, 31)] running with
    slt := { running.slt with claim := some (.host false), busy := true, goSec := secure, goMaster := some (.host secure), fwRun := fw } }

theorem meets_SafelightMailbox : reachesRegs hst = true ∧ r0.slt.claim = none ∧ held.slt.claim = some (.host false) ∧ held.slt.busy = false ∧
    ((regs [(Reg.MBX_REQ 0, 1)] held).reg (Reg.MBX_REQ 0)).toNat % 2 ^ 8 ∈ [0x01, 0x02, 0x03, 0x04, 0x05, 0x10, 0x11, 0x12, 0x20, 0x21, 0x22, 0x23, 0x24, 0x30] ∧
    ((regs [(Reg.MBX_REQ 0, 6)] held).reg (Reg.MBX_REQ 0)).toNat % 2 ^ 8 ∉ [0x01, 0x02, 0x03, 0x04, 0x05, 0x10, 0x11, 0x12, 0x20, 0x21, 0x22, 0x23, 0x24, 0x30] ∧
    held.slt.claimTb + 100000000 ≤ ({ held with tb := 100000000 } : State).tb ∧ held.tb < 100000000 ∧ (asks 1 0 false false).slt.busy = true ∧
    ((asks 1 0 false false).reg (Reg.MBX_REQ 0)).toNat % 2 ^ 8 = 1 ∧ (asks 3 0x240 false true).slt.fwRun = true ∧
    ((asks 3 0x240 false true).reg (Reg.MBX_REQ 1)).toNat = 0x240 ∧ ((asks 3 0x23C false true).reg (Reg.MBX_REQ 1)).toNat < 0x240 ∧
    (asks 0x10 0 true true).slt.goSec = true ∧ (asks 0x10 0 true true).rf Reg.VCAL_STAT 4 0 = 31 ∧ (asks 0x10 0 true true).safe.safe = false ∧
    (asks 0x11 0 true true).boot.done = true ∧ rundownThread (asks 0x11 0 true true) = some (3, 0x40) ∧
    ((asks 0x12 2 true false).reg (Reg.MBX_REQ 1)).toNat = 2 ∧ (asks 2 0 false false).slt.fwRun = false ∧ (asks 0x12 1 false false).slt.goSec = false ∧
    r0.slt.busy = false := by decide +kernel

theorem test_mbx_claim : (after (.mbxClaim (.engine 5)) r0).answer.data = 0xC5010000 ∧ (after (.mbxClaim hst) held).answer.data = 0x40000000 := by decide +kernel

theorem test_life_read : (after .lifeRead (asks 3 0x23C false true)).slt.status = 3 ∧ (after .lifeRead (asks 3 0x240 false true)).slt.status = 0 ∧
    (after .lifeRead (asks 3 0x240 false false)).slt.status = 10 := by decide +kernel

/-- A flash of 16 Mbyte that answers and whose programming can be suspended. -/
def flashed (code arg : Word) (secure : Bool) : State :=
  { asks code arg secure true with flash := { facts := {
      answers := true, sfdp := true, log2 := 24, addr4 := false, addr4Table := false, readInstr := 3, suspend := true }, bytes := [] } }

/-- The flash with a directory whose regions are 0x2000, 0x3000, 0x4000 and 0x5000 (negatives and firmware, 4 Kbyte each), 0x6000 (the
log, 8 Kbyte) and 0x8000 (the certificate); the command that writes 4 bytes of the spool 3 into slot 1, the spool Safelight's. -/
def directory : List Host.Cell :=
  let hex := 0x535146440100000000200000001000000030000000100000004000000010000000500000001000000060000000200000008000000010000000000000231bb5ad
  (List.range 64).map fun i => (i, BitVec.ofNat 8 (hex / 256 ^ (63 - i)))
def writing : State :=
  let s := regs [(Reg.MBX_REQ 2, 0x100), (Reg.MBX_REQ 3, 0x300000), (Reg.MBX_REQ 4, 4), (Reg.SPL_OWN 3, 3)] (flashed 0x21 1 true)
  { s with flash := { s.flash with bytes := directory }, slt := { s.slt with goOwn := [3] } }.modSpl 3 fun p => { p with st := .on, init := false }

theorem meets_SafelightUpdates_write : region writing 1 = (0x3000, 0x1000) ∧ region writing 3 = (0x5000, 0x1000) ∧ writing.slt.busy = true ∧
    writing.slt.goSec = true ∧ (writing.reg (Reg.MBX_REQ 0)).toNat = 0x21 ∧ writing.boot.phase ≠ 1 ∧ writing.boot.image ≠ 2 ∧
    writing.flash.facts.suspend = true ∧ (0x300000 + 4 - 1 : Nat) / 0x100000 = 3 ∧ 3 ∈ writing.slt.goOwn ∧ splOwner writing 3 = 3 ∧
    pwrNow writing 3 = .on ∧ regionHeld writing 3 = false ∧ writing.ecc = [] ∧ 3 ∉ (flashed 0x21 1 true).slt.goOwn := by decide +kernel

theorem meets_SafelightUpdates : (asks 0x20 4 true true).slt.busy = true ∧ (4 : Nat) ≤ ((asks 0x20 4 true true).reg (Reg.MBX_REQ 1)).toNat ∧
    ((asks 0x20 1 true true).reg (Reg.MBX_REQ 1)).toNat < 4 ∧ (asks 0x20 1 true true).boot.phase ≠ 1 ∧ (asks 0x20 1 true true).boot.image ≠ 2 ∧
    (flashed 0x20 1 true).flash.facts.suspend = true ∧ (asks 0x23 0 true true).slt.goSec = true ∧ (asks 0x24 0 true true).slt.armNeg = 0 ∧
    ({ asks 0x24 0 true true with slt := { (asks 0x24 0 true true).slt with armNeg := 1 } } : State).slt.armNeg ≠ 0 ∧
    (asks 0x30 0 true true).ownerKey = none ∧ ({ asks 0x30 0 true true with ownerKey := some [] } : State).ownerKey ≠ none ∧
    (asks 0x20 0 false true).slt.goSec = false ∧ ({ preparing with slt := (asks 0x20 1 true true).slt } : State).boot.phase = 1 ∧
    vget (asks 0x23 0 true true).slt.verified 0 false = false ∧ (vget (Vector.replicate 4 true) 0 false = true) := by decide +kernel

theorem test_key_owner : (after .keyOwner (asks 0x30 0 true true)).slt.status = 0 ∧ (after .keyOwner { asks 0x30 0 true true with ownerKey := some [] }).slt.status = 8 := by
  decide +kernel

theorem test_upd_bars : (after (.updErase true) (asks 0x20 4 true true)).slt.status = 3 ∧ (after .updArm (asks 0x23 1 true true)).slt.status = 7 ∧
    (after .updActivate (asks 0x24 0 true true)).slt.status = 5 ∧ (after (.updErase true) (asks 0x20 0 false true)).slt.status = 2 := by decide +kernel

end Sys2Proof.Tests
end

section
/-! PROOFS. Reads of the first register of a latch group (R367): what the register shows, what goes to the reader's shadow, and what
the read of a phase entry takes from its FIFO (R81). -/

namespace Sys2Proof.Machine

/-! The first register of a group. -/

/-- A readable register below the TB domain that is neither a shadow nor cleared by its read: the place of the first register of a
latch group. -/
def leadsGroup (a : Nat) : Bool :=
  plainReg a && decide (a < 0x00820000) && !isLatched a && !reservedAt a 4 && (regDesc a).rc == 0

/-- Such a register is read for what it shows, and its read latches its group. -/
theorem regRead_leader {s : State} {m : Master} {a : Nat} (ha : leadsGroup a = true) :
    regRead s m a 0xFFFFFFFF = (regShow s m a,
      if 0x00810000 ≤ a ∧ a < 0x00812000 ∧ a % 0x400 = 0x90 then
        phasePop (latch s m a) ((a - 0x00810000) / 0x400) else latch s m a) := by
  simp only [leadsGroup, Bool.and_eq_true, decide_eq_true_eq, Bool.not_eq_true', beq_iff_eq] at ha
  obtain ⟨⟨⟨⟨hp, hlt⟩, hl⟩, -⟩, hrc⟩ := ha
  have hm : a ≠ Reg.MBX_CLAIM := by unfold Reg.MBX_CLAIM; omega
  have hc : claimReg a = none := by unfold claimReg; rw [if_neg (by omega)]
  exact regRead_shown hp hl hm (by omega) (by omega) hc hrc

theorem readReg_leader {s : State} {m : Master} {a : Nat} (hm : reachesRegs m = true) (ha : leadsGroup a = true) :
    readReg s m a = answered .ok (regShow s (masterNow s m) a)
      (if 0x00810000 ≤ a ∧ a < 0x00812000 ∧ a % 0x400 = 0x90 then
        phasePop (latch s (masterNow s m) a) ((a - 0x00810000) / 0x400) else latch s (masterNow s m) a) := by
  have hr := regRead_leader (s := s) (m := masterNow s m) ha
  simp only [leadsGroup, Bool.and_eq_true, Bool.not_eq_true'] at ha
  obtain ⟨⟨⟨⟨hp, -⟩, -⟩, hres⟩, -⟩ := ha
  obtain ⟨hlo, hhi, hal, -⟩ := plainReg_parts hp
  unfold readReg
  rw [readReg_bus (masterNow_reaches s m ▸ hm) hlo hhi hal hres, hr]

/-- A first register that pops nothing. -/
theorem readReg_latches {s : State} {m : Master} {a : Nat} (hm : reachesRegs m = true) (ha : leadsGroup a = true)
    (ho : a % 0x400 ≠ 0x90) :
    readReg s m a = answered .ok (regShow s (masterNow s m) a) (latch s (masterNow s m) a) := by
  rw [readReg_leader hm ha, if_neg fun h => ho h.2.2]

theorem leadsGroup_TB_LO : leadsGroup Reg.TB_LO = true := by decide +kernel
theorem leadsGroup_ID_SERIAL_LO : leadsGroup Reg.ID_SERIAL_LO = true := by decide +kernel
theorem leadsGroup_SPK_POS (n : Fin 8) : leadsGroup (Reg.SPK_POS n.val) = true := by revert n; decide +kernel
theorem leadsGroup_SPK_TS_LO (n : Fin 8) : leadsGroup (Reg.SPK_TS_LO n.val) = true := by revert n; decide +kernel
theorem leadsGroup_SPK_PH_POS (n : Fin 8) : leadsGroup (Reg.SPK_PH_POS n.val) = true := by revert n; decide +kernel

/-! The registers behind it (Table 12-4). -/

theorem latchGroup_TB_LO : latchGroup Reg.TB_LO = [Reg.TB_HI] := by decide
theorem latchGroup_ID_SERIAL_LO : latchGroup Reg.ID_SERIAL_LO = [Reg.ID_SERIAL_HI] := by decide
theorem latchGroup_SPK_POS (n : Fin 8) : latchGroup (Reg.SPK_POS n.val) = [Reg.SPK_CYC n.val] := by revert n; decide +kernel
theorem latchGroup_SPK_TS_LO (n : Fin 8) : latchGroup (Reg.SPK_TS_LO n.val) = [Reg.SPK_TS_HI n.val, Reg.SPK_TS_FR n.val] := by
  revert n; decide +kernel
theorem latchGroup_SPK_PH_POS (n : Fin 8) : latchGroup (Reg.SPK_PH_POS n.val) = [Reg.SPK_PH_CYC n.val, Reg.SPK_PH_ERR n.val] := by
  revert n; decide +kernel

theorem latch_one {s : State} {m : Master} {a b : Nat} (h : latchGroup a = [b]) : latch s m a = s.putShadow m b (regShow s m b) := by
  unfold latch
  rw [h]
  rfl

theorem latch_two {s : State} {m : Master} {a b c : Nat} (h : latchGroup a = [b, c]) :
    latch s m a = (s.putShadow m b (regShow s m b)).putShadow m c (regShow s m c) := by
  unfold latch
  rw [h]
  rfl

/-- The host's shadows are the same whatever its security, so a master's are those of its transaction (R367). -/
@[simp] theorem State.putShadow_masterNow (s t : State) (m : Master) (a : Nat) (w : Word) :
    s.putShadow (masterNow t m) a w = s.putShadow m a w := by cases m <;> rfl

/-! What the registers show. -/

/-- A register below the TB domain whose bits are all read-only shows the word that typed state gives. -/
theorem regShow_timed {s : State} {m : Master} {a : Nat} {w : Word} (hd : regDesc a = ⟨0, 0, 0, 0, 0xffffffff, 0, 0, 0, 0⟩)
    (ht : tbDomain a = false) (hw : readTimed s a = some w) : regShow s m a = w := by
  rw [regShow_all (by rw [hd]) (by rw [hd]) (.inr (by rw [hd])) ht, hw]
  rfl

@[simp] theorem regShow_TB_LO (s : State) (m : Master) : regShow s m Reg.TB_LO = lo32 s.tb :=
  regShow_timed (by decide) rfl rfl

@[simp] theorem regShow_TB_HI (s : State) (m : Master) : regShow s m Reg.TB_HI = hi32 s.tb :=
  regShow_timed (by decide) rfl rfl

@[simp] theorem regShow_ID_SERIAL_LO (s : State) (m : Master) :
    regShow s m Reg.ID_SERIAL_LO = if s.otp then Config.serial.setWidth 32 else 0 :=
  regShow_timed (by decide) rfl rfl

@[simp] theorem regShow_ID_SERIAL_HI (s : State) (m : Master) :
    regShow s m Reg.ID_SERIAL_HI = if s.otp then (Config.serial >>> 32).setWidth 32 else 0 :=
  regShow_timed (by decide) rfl rfl

theorem regDesc_spk {n o : Nat} (hn : n < 8) (ho : o < 0x400) : regDesc (0x00810000 + 0x400 * n + o) = spkDesc o := by
  unfold regDesc
  rw [if_neg (by omega), if_pos (by omega), show (0x00810000 + 0x400 * n + o - 0x00810000) % 0x400 = o by omega]

theorem readTimed_spk (s : State) {n o : Nat} (hn : n < 8) (ho : o < 0x400) :
    readTimed s (0x00810000 + 0x400 * n + o) = readSpk s n o (0x00810000 + 0x400 * n + o) := by
  unfold readTimed
  rw [if_neg (by omega), if_pos (by omega), show (0x00810000 + 0x400 * n + o - 0x00810000) / 0x400 = n by omega,
    show (0x00810000 + 0x400 * n + o - 0x00810000) % 0x400 = o by omega]

/-- The registers of a sprocket unit's latch groups show the word that the unit gives. -/
theorem regShow_spk {s : State} {m : Master} {n : Fin 8} {a o : Nat} {w : Word} (ha : a = 0x00810000 + 0x400 * n.val + o)
    (ho : o ∈ [0x40, 0x44, 0x60, 0x64, 0x68, 0x90, 0x94, 0x98]) (hw : readSpk s n.val o a = some w) : regShow s m a = w := by
  subst ha
  have hlt : o < 0x400 := (by decide : ∀ o ∈ [0x40, 0x44, 0x60, 0x64, 0x68, 0x90, 0x94, 0x98], o < 0x400) o ho
  have hd : spkDesc o = ⟨0, 0, 0, 0, 0xffffffff, 0, 0, 0, 0⟩ :=
    (by decide : ∀ o ∈ [0x40, 0x44, 0x60, 0x64, 0x68, 0x90, 0x94, 0x98], spkDesc o = ⟨0, 0, 0, 0, 0xffffffff, 0, 0, 0, 0⟩) o ho
  have ht : tbDomain (0x00810000 + 0x400 * n.val + o) = false := by
    simp only [tbDomain, Bool.and_eq_false_iff, decide_eq_false_iff_not]
    omega
  exact regShow_timed ((regDesc_spk n.isLt hlt).trans hd) ht ((readTimed_spk s n.isLt hlt).trans hw)

@[simp] theorem regShow_SPK_POS (s : State) (m : Master) (n : Fin 8) : regShow s m (Reg.SPK_POS n.val) = (spkPosNow s n.val).1 :=
  regShow_spk (o := 0x40) (by unfold Reg.SPK_POS; omega) (by decide) rfl

@[simp] theorem regShow_SPK_CYC (s : State) (m : Master) (n : Fin 8) : regShow s m (Reg.SPK_CYC n.val) = (spkPosNow s n.val).2 :=
  regShow_spk (o := 0x44) (by unfold Reg.SPK_CYC; omega) (by decide) rfl

@[simp] theorem regShow_SPK_TS_LO (s : State) (m : Master) (n : Fin 8) :
    regShow s m (Reg.SPK_TS_LO n.val) = lo32 ((s.spkAt n.val).vis.stamp / 16) :=
  regShow_spk (o := 0x60) (by unfold Reg.SPK_TS_LO; omega) (by decide) rfl

@[simp] theorem regShow_SPK_TS_HI (s : State) (m : Master) (n : Fin 8) :
    regShow s m (Reg.SPK_TS_HI n.val) = hi32 ((s.spkAt n.val).vis.stamp / 16) :=
  regShow_spk (o := 0x64) (by unfold Reg.SPK_TS_HI; omega) (by decide) rfl

@[simp] theorem regShow_SPK_TS_FR (s : State) (m : Master) (n : Fin 8) :
    regShow s m (Reg.SPK_TS_FR n.val) = wordN ((s.spkAt n.val).vis.stamp % 16) :=
  regShow_spk (o := 0x68) (by unfold Reg.SPK_TS_FR; omega) (by decide) rfl

/-- The entry at the head of unit `n`'s phase FIFO as a read of this tb finds it; zeros where there is none (R81). -/
def phHead (s : State) (n : Nat) : PhEntry := ((s.spkAt n).phOld s.tb).headD { pos := 0, cyc := 0, err := 0 }

theorem readSpk_phase (s : State) (n a : Nat) : readSpk s n 0x90 a = some (phHead s n).pos ∧
    readSpk s n 0x94 a = some (phHead s n).cyc ∧ readSpk s n 0x98 a = some (phHead s n).err := by
  unfold readSpk phHead
  dsimp only
  cases (s.spkAt n).phOld s.tb <;> exact ⟨rfl, rfl, rfl⟩

@[simp] theorem regShow_SPK_PH_POS (s : State) (m : Master) (n : Fin 8) : regShow s m (Reg.SPK_PH_POS n.val) = (phHead s n.val).pos :=
  regShow_spk (n := n) (o := 0x90) (by unfold Reg.SPK_PH_POS; omega) (by decide) (readSpk_phase s n.val _).1

@[simp] theorem regShow_SPK_PH_CYC (s : State) (m : Master) (n : Fin 8) : regShow s m (Reg.SPK_PH_CYC n.val) = (phHead s n.val).cyc :=
  regShow_spk (n := n) (o := 0x94) (by unfold Reg.SPK_PH_CYC; omega) (by decide) (readSpk_phase s n.val _).2.1

@[simp] theorem regShow_SPK_PH_ERR (s : State) (m : Master) (n : Fin 8) : regShow s m (Reg.SPK_PH_ERR n.val) = (phHead s n.val).err :=
  regShow_spk (n := n) (o := 0x98) (by unfold Reg.SPK_PH_ERR; omega) (by decide) (readSpk_phase s n.val _).2.2

/-! The reads. -/

theorem readReg_TB_LO (s : State) {m : Master} (hm : reachesRegs m = true) :
    readReg s m Reg.TB_LO = answered .ok (lo32 s.tb) (s.putShadow m Reg.TB_HI (hi32 s.tb)) := by
  rw [readReg_latches hm leadsGroup_TB_LO (by decide), latch_one latchGroup_TB_LO]
  simp

theorem readReg_ID_SERIAL_LO (s : State) {m : Master} (hm : reachesRegs m = true) :
    readReg s m Reg.ID_SERIAL_LO = answered .ok (if s.otp then Config.serial.setWidth 32 else 0)
      (s.putShadow m Reg.ID_SERIAL_HI (if s.otp then (Config.serial >>> 32).setWidth 32 else 0)) := by
  rw [readReg_latches hm leadsGroup_ID_SERIAL_LO (by decide), latch_one latchGroup_ID_SERIAL_LO]
  simp

theorem readReg_SPK_POS (s : State) {m : Master} (n : Fin 8) (hm : reachesRegs m = true) :
    readReg s m (Reg.SPK_POS n.val) = answered .ok (spkPosNow s n.val).1 (s.putShadow m (Reg.SPK_CYC n.val) (spkPosNow s n.val).2) := by
  rw [readReg_latches hm (leadsGroup_SPK_POS n) (by unfold Reg.SPK_POS; omega), latch_one (latchGroup_SPK_POS n)]
  simp

theorem readReg_SPK_TS_LO (s : State) {m : Master} (n : Fin 8) (hm : reachesRegs m = true) :
    readReg s m (Reg.SPK_TS_LO n.val) = answered .ok (lo32 ((s.spkAt n.val).vis.stamp / 16))
      ((s.putShadow m (Reg.SPK_TS_HI n.val) (hi32 ((s.spkAt n.val).vis.stamp / 16))).putShadow m (Reg.SPK_TS_FR n.val)
        (wordN ((s.spkAt n.val).vis.stamp % 16))) := by
  rw [readReg_latches hm (leadsGroup_SPK_TS_LO n) (by unfold Reg.SPK_TS_LO; omega), latch_two (latchGroup_SPK_TS_LO n)]
  simp

/-- `s` with the entry `e` of unit `n` latched for master `m`. -/
def phLatched (s : State) (m : Master) (n : Nat) (e : PhEntry) : State :=
  (s.putShadow m (Reg.SPK_PH_CYC n) e.cyc).putShadow m (Reg.SPK_PH_ERR n) e.err

/-- The read of a phase entry latches it and takes it from the FIFO (R81). -/
theorem readReg_SPK_PH_POS (s : State) {m : Master} (n : Fin 8) (hm : reachesRegs m = true) :
    readReg s m (Reg.SPK_PH_POS n.val) =
      answered .ok (phHead s n.val).pos (phasePop (phLatched s m n.val (phHead s n.val)) n.val) := by
  have hp : 0x00810000 ≤ Reg.SPK_PH_POS n.val ∧ Reg.SPK_PH_POS n.val < 0x00812000 ∧ Reg.SPK_PH_POS n.val % 0x400 = 0x90 := by
    unfold Reg.SPK_PH_POS; omega
  have hn : (Reg.SPK_PH_POS n.val - 0x00810000) / 0x400 = n.val := by unfold Reg.SPK_PH_POS; omega
  rw [readReg_leader hm (leadsGroup_SPK_PH_POS n), if_pos hp, hn, latch_two (latchGroup_SPK_PH_POS n)]
  simp [phLatched]

/-! The phase FIFO. -/

theorem phHead_of_cons {s : State} {n : Nat} {e : PhEntry} {r : List PhEntry} (h : (s.spkAt n).phOld s.tb = e :: r) :
    phHead s n = e := by rw [phHead, h]; rfl

theorem phHead_of_nil {s : State} {n : Nat} (h : (s.spkAt n).phOld s.tb = []) : phHead s n = { pos := 0, cyc := 0, err := 0 } := by
  rw [phHead, h]; rfl

/-- `s` with the head of unit `n`'s phase FIFO taken. -/
def phTaken (s : State) (n : Nat) : State := s.modSpk n fun u => { u with fifo := u.fifo.tail }

/-- A FIFO with no entry from before this tb gives none (R81). -/
theorem phasePop_of_nil {s : State} {n : Nat} (h : (s.spkAt n).phOld s.tb = []) : phasePop s n = s := by
  unfold phasePop
  dsimp only
  rw [h]
  rfl

/-- A FIFO with an older entry gives its head, and no mark waits to enter (R81). -/
theorem phasePop_of_none_lost {s : State} {n : Nat} {e : PhEntry} {r : List PhEntry} (h : (s.spkAt n).phOld s.tb = e :: r)
    (hl : (s.spkAt n).phLost = none) : phasePop s n = phTaken s n := by
  unfold phasePop phTaken
  simp only [h, hl, List.isEmpty_cons, Bool.false_eq_true, if_false, List.drop_one]

/-- `s` with the mark `e`, which had found unit `n`'s phase FIFO full, in the FIFO after all. -/
def phEntered (s : State) (n : Nat) (e : PhEntry) : State :=
  s.modSpk n fun u => { u with fifo := u.fifo ++ [e], phNew := noteNew s.tb u.phNew, phLost := none }

/-- A mark that had found the FIFO full enters if it is of this tb, and the overflow is taken back where that mark had set it (R81). -/
theorem phasePop_of_lost {s : State} {n : Nat} {e : PhEntry} {r : List PhEntry} {x : Nat × PhEntry × Bool}
    (h : (s.spkAt n).phOld s.tb = e :: r) (hl : (s.spkAt n).phLost = some x) :
    phasePop s n = if x.1 ≠ s.tb then phTaken s n else if x.2.2 then phEntered (phTaken s n) n x.2.1
      else (phEntered (phTaken s n) n x.2.1).hwUnset (Reg.SPK_PH_STAT n) 4 := by
  unfold phasePop phTaken phEntered
  simp only [h, hl, List.isEmpty_cons, Bool.false_eq_true, if_false, List.drop_one]
  rfl

end Sys2Proof.Machine

open Sys2Proof Sys2Proof.Machine

/-- Settles O8: each first register is read by `readReg_leader`; the pop of the phase FIFO has a case for each of its clauses. -/
theorem latchedReads : Obligations.LatchedReads := by
  unfold Obligations.LatchedReads
  intro s m n u p serial phase took again hm
  have serialRead : exec (.idSerialLoRead m) s = .next (answered .ok (if s.otp then Config.serial.setWidth 32 else 0)
      (s.putShadow m Reg.ID_SERIAL_HI (if s.otp then (Config.serial >>> 32).setWidth 32 else 0))) :=
    congrArg Host.Outcome.next (readReg_ID_SERIAL_LO s hm)
  have phaseRead : exec (.phPosRead m n) s =
      .next (answered .ok (phHead s n.val).pos (phasePop (phLatched s m n.val (phHead s n.val)) n.val)) :=
    congrArg Host.Outcome.next (readReg_SPK_PH_POS s n hm)
  refine ⟨congrArg Host.Outcome.next (readReg_TB_LO s hm), fun ho => ?_, fun ho => ?_, congrArg Host.Outcome.next (readReg_SPK_POS s n hm),
    congrArg Host.Outcome.next (readReg_SPK_TS_LO s n hm), fun e r hu hl => ?_, fun e r x hu hl => ?_, fun hu => ?_⟩
  · rw [serialRead, ho]; rfl
  · rw [serialRead, ho]; rfl
  · rw [phaseRead, phHead_of_cons hu, phasePop_of_none_lost (s := phLatched s m n.val e) hu hl]; rfl
  · rw [phaseRead, phHead_of_cons hu, phasePop_of_lost (s := phLatched s m n.val e) hu hl]; rfl
  · rw [phaseRead, phHead_of_nil hu, phasePop_of_nil (s := phLatched s m n.val _) hu]; rfl

end

section
/-! PROOFS. Enabling and disabling a sprocket unit (R65, R84, R85): what the operations beside the units leave of them, what an enable
and a disable make of a unit, and how a write of SPKn_CTL lands. -/

namespace Sys2Proof.Machine

/-- From `s` to `t` every sprocket unit and the time are as they were. -/
structure SameUnits (s t : State) : Prop where
  spk : t.spk = s.spk
  tb : t.tb = s.tb

theorem SameUnits.refl (s : State) : SameUnits s s := ⟨rfl, rfl⟩

theorem SameUnits.trans {s t u : State} (h : SameUnits s t) (h' : SameUnits t u) : SameUnits s u :=
  ⟨h'.spk.trans h.spk, h'.tb.trans h.tb⟩

theorem SameUnits.ite {s t u : State} {c : Prop} [Decidable c] (ht : SameUnits s t) (hu : SameUnits s u) :
    SameUnits s (if c then t else u) := by split <;> assumption

theorem SameUnits.forEach {α : Type} {s t : State} {xs : List α} {f : State → α → State} (h : SameUnits s t)
    (hf : ∀ t x, SameUnits t (f t x)) : SameUnits s (forEach xs t f) :=
  forEach_inv (SameUnits s) xs t f h fun t x ht => ht.trans (hf t x)

theorem SameUnits.put {s t : State} (h : SameUnits s t) (ct : Ct) (link : Vector Link 8) (cal : Cal) :
    SameUnits s { t with ct := ct, link := link, cal := cal } := ⟨h.spk, h.tb⟩

theorem SameUnits.spkAt {s t : State} (h : SameUnits s t) (n : Nat) : t.spkAt n = s.spkAt n := congrArg (vget · n Spk.reset) h.spk

theorem State.modSpk_id (s : State) (n : Nat) : s.modSpk n id = s := by
  have hv : vmodN s.spk n id = s.spk := by
    unfold vmodN
    split
    · exact Vector.set_getElem_self _
    · rfl
  rw [State.modSpk, hv]

/-- What a change of unit `n` leaves alone, and what it makes of the unit. -/
theorem SameUnits.spkAt_eq {s t : State} {n : Nat} {f : Spk → Spk} (h : SameUnits (s.modSpk n f) t) (hn : n < 8) :
    t.spkAt n = f (s.spkAt n) := by
  unfold State.spkAt
  rw [h.spk]
  exact State.spkAt_modSpk_eq s n f hn

theorem SameUnits.spkAt_ne {s t : State} {n : Nat} {f : Spk → Spk} (h : SameUnits (s.modSpk n f) t) (j : Nat) (hj : j ≠ n) :
    t.spkAt j = s.spkAt j := by
  unfold State.spkAt
  rw [h.spk]
  exact State.spkAt_modSpk_ne s n f j hj

theorem sameUnits_hwSetBit (s : State) (a i : Nat) : SameUnits s (s.hwSetBit a i) := ⟨by simp, by simp⟩

/-! The calendar's flush. -/

theorem sameUnits_calUnload (s : State) (e : CalEntry) : SameUnits s (calUnload s e) := by
  unfold calUnload
  refine .ite (.refl s) ?_
  split <;> exact ⟨rfl, rfl⟩

theorem sameUnits_modCal (s : State) (f : Cal → Cal) : SameUnits s (s.modCal f) := ⟨rfl, rfl⟩

theorem sameUnits_calFlush (s : State) (tag mask : Nat) (unit : Option Nat) : SameUnits s (calFlush s tag mask unit) := by
  unfold calFlush
  refine .trans (.forEach (.forEach (.refl s) fun t e => ?_) fun t e => ?_) (sameUnits_modCal _ _)
  · exact (sameUnits_calUnload t e).trans (sameUnits_modCal _ _)
  · exact sameUnits_modCal t _

theorem sameUnits_calEvent (s : State) (bit tag id : Nat) : SameUnits s (calEvent s bit tag id) :=
  .ite ((sameUnits_hwSetBit s _ _).trans ⟨rfl, rfl⟩) (sameUnits_hwSetBit s _ _)

theorem sameUnits_calOnLost (s : State) (n : Nat) : SameUnits s (calOnLost s n) :=
  .ite ((sameUnits_calFlush s _ _ _).trans (sameUnits_calEvent _ _ _ _)) (.refl s)

/-! The contact engine's loss and return of its unit. -/

theorem sameUnits_modCt (s : State) (f : Ct → Ct) : SameUnits s (s.modCt f) := ⟨rfl, rfl⟩

theorem sameUnits_ctEvent (s : State) (b : Nat) : SameUnits s (ctEvent s b) :=
  .ite (sameUnits_hwSetBit s _ _) ((sameUnits_hwSetBit s _ _).trans ⟨rfl, rfl⟩)

theorem sameUnits_linkSettle (s : State) (n : Nat) : SameUnits s (linkSettle s n) := .ite (.refl s) ⟨rfl, rfl⟩

theorem sameUnits_ctWithdraw (s : State) : SameUnits s (ctWithdraw s) := by
  unfold ctWithdraw
  have settled : SameUnits s (forEach (List.range 8) s linkSettle) := .forEach (.refl s) sameUnits_linkSettle
  exact .forEach (settled.put _ _ _) fun _ _ => ⟨rfl, rfl⟩

theorem sameUnits_rowEdge (s : State) (r : Nat) (lvl : Bool) (t lane q : Nat) : SameUnits s (rowEdge s r lvl t lane q) := by
  have settled (f : Ct → Ct) (n : Nat) : SameUnits s (linkSettle (s.modCt f) n) :=
    (sameUnits_modCt s f).trans (sameUnits_linkSettle _ n)
  unfold rowEdge
  have queued (f : Ct → Ct) (n : Nat) (c : Bool) (g : Link → Link) :
      SameUnits s (if c then (linkSettle (s.modCt f) n).modLink n g else linkSettle (s.modCt f) n) :=
    .ite ((settled f n).trans ⟨rfl, rfl⟩) (settled f n)
  exact .ite (queued _ _ _ _) ⟨(queued _ _ _ _).spk, (queued _ _ _ _).tb⟩

theorem sameUnits_ctDiscard (s : State) : SameUnits s (ctDiscard s) := (sameUnits_ctWithdraw s).trans (sameUnits_modCt _ _)

theorem sameUnits_ctBlankRows (s : State) : SameUnits s (ctBlankRows s) :=
  .forEach (sameUnits_ctWithdraw s) fun t _ => sameUnits_rowEdge t _ _ _ _ _

theorem sameUnits_ctLost (s : State) (n : Nat) : SameUnits s (ctLost s n) := by
  have told := (sameUnits_modCt s fun c => { c with held := true }).trans (sameUnits_ctEvent _ 11)
  exact .ite (.refl s) (.ite (told.trans ((sameUnits_ctDiscard _).trans (sameUnits_ctBlankRows _))) told)

theorem sameUnits_ctBack (s : State) (n : Nat) : SameUnits s (ctBack s n) := by
  have back := sameUnits_modCt s fun c => { c with held := false }
  unfold ctBack ctFromCycle
  exact .ite (.refl s) (.ite back (.ite (.ite (back.trans ((sameUnits_modCt _ _).trans (sameUnits_ctEvent _ _))) back)
    (.ite (back.trans (sameUnits_modCt _ _)) back)))

/-! What a unit reports. -/

theorem sameUnits_spkEvent (s : State) (n b : Nat) : SameUnits s (spkEvent s n b) := by
  unfold spkEvent
  split
  · exact (sameUnits_hwSetBit s _ _).trans ⟨rfl, rfl⟩
  · exact sameUnits_hwSetBit s _ _

theorem sameUnits_spkChanged (s : State) (n : Nat) (lost : Bool) : SameUnits s (spkChanged s n lost) :=
  (sameUnits_hwSetBit s _ _).trans (.ite ⟨raiseSafety_spk _ _ _ _ _, raiseSafety_tb _ _ _ _ _⟩ ⟨rfl, rfl⟩)

theorem sameUnits_spkGuardNote (b s : State) (n : Nat) : SameUnits s (spkGuardNote b s n) := .ite ⟨rfl, rfl⟩ (.refl s)

/-! What an enable, a disable and an entry to ACQUIRE make of the unit. -/

/-- Unit `n` as a write of EN = 1 starts it, before it takes a state (R84, Table 2-5). -/
def startedUnit (s : State) (n : Nat) : Spk :=
  let u := s.spkAt n
  { Spk.reset with
    pos := u.pos, cyc := u.cyc, phys := u.phys, stamp := u.stamp, heldCyc := u.cyc, enTb := s.tb, fifo := u.fifo,
    tPrev := u.tPrev, tLast := u.tLast, tPrior := u.tPrior, lvlA := u.lvlA, lvlB := u.lvlB, lvlZ := u.lvlZ,
    phNew := u.phNew, phLost := u.phLost, cfg := spkCfgNow s n,
    vis := { u.vis with tValid := false, hold := none } }

/-- The same at SPKn_PRESET, as a unit without a reference starts (R65). -/
def presetUnit (s : State) (n : Nat) : Spk :=
  Spk.showSet { startedUnit s n with
    pos := s.reg (Reg.SPK_PRESET n), cyc := s.reg (Reg.SPK_CYC_INIT n), phys := presetPhys s n, everSync := true }

/-- A unit as it enters ACQUIRE in tb `tb` (R55). -/
def Spk.acquiring (u : Spk) (tb : Nat) : Spk :=
  { u.clearT.enter tb .acquire with
    fwd := 0, heldCyc := u.cyc, measured := 0, index := false, recover := 0, revHold := none, virtq := [], ev := none,
    vis := { u.clearT.vis with hold := none } }

/-- A unit as EN = 0 leaves it in tb `tb` (Table 2-5). -/
def Spk.disabled (u : Spk) (tb : Nat) : Spk :=
  { u.clearT.enter tb .off with
    resync := false, fwd := 0, missn := 0, dirRev := false, stopped := false, lastSyn := false, revHold := none,
    virtq := [], ev := none, mirInGap := false, mirGuard := false,
    vis := { u.clearT.vis with hold := none } }

/-- Of the units, a change of state of unit `n` alters that one alone. -/
theorem spkTo_units {s : State} {n : Nat} {st : SyncState} (h : (s.spkAt n).st ≠ st) :
    SameUnits (s.modSpk n fun u => u.enter s.tb st) (spkTo s n st) := by
  have told := sameUnits_spkChanged (s.modSpk n fun u => u.enter s.tb st) n false
  unfold spkTo
  rw [if_neg h]
  exact .ite told (told.trans (sameUnits_ctBack _ n))

theorem spkAcquire_units (s : State) (n : Nat) : SameUnits (s.modSpk n fun u => u.acquiring s.tb) (spkAcquire s n) :=
  .ite (.refl _) ((sameUnits_spkChanged _ n false).trans (sameUnits_ctLost _ n))

theorem spkDisableOp_units {s : State} {n : Nat} (h : (s.spkAt n).st ≠ .off) :
    SameUnits (s.modSpk n fun u => u.disabled s.tb) (spkDisableOp s n) := by
  have dropped : SameUnits (s.modSpk n fun u => u.disabled s.tb) (dropTeeth (s.modSpk n fun u => u.disabled s.tb) n) := ⟨rfl, rfl⟩
  unfold spkDisableOp
  rw [if_neg h]
  exact dropped.trans ((sameUnits_spkChanged _ n false).trans ((sameUnits_calOnLost _ n).trans (sameUnits_ctLost _ n)))

theorem spkDisableOp_off {s : State} {n : Nat} (h : (s.spkAt n).st = .off) : spkDisableOp s n = s := if_pos h

/-- `s` with unit `n` begun anew as `v`, its teeth on their way dropped. -/
def begun (s : State) (n : Nat) (v : Spk) : State := (dropTeeth s n).modSpk n fun _ => v

theorem SameUnits.of_begun {s t : State} {n : Nat} {v : Spk} {f : Spk → Spk} (h : SameUnits ((begun s n v).modSpk n f) t) :
    SameUnits (s.modSpk n fun _ => f v) t :=
  ⟨h.spk.trans (vmodN_vmodN s.spk n (fun _ => v) f), h.tb⟩

/-- Without a reference the unit is SYNCED at SPKn_PRESET (R65). -/
theorem spkEnableOp_preset {s : State} {n : Nat} (hn : n < 8) (h : spkRef s n = 0) :
    SameUnits (s.modSpk n fun _ => (presetUnit s n).enter s.tb .synced) (spkEnableOp s n) := by
  have he : spkEnableOp s n = spkTo (begun s n (presetUnit s n)) n .synced := if_pos h
  have hoff : ((begun s n (presetUnit s n)).spkAt n).st = .off := congrArg Spk.st (State.spkAt_modSpk_eq _ _ _ hn)
  rw [he]
  exact .of_begun (spkTo_units (by rw [hoff]; decide))

/-- With a reference and no quick start asked for, the unit enters ACQUIRE (R65). -/
theorem spkEnableOp_acquire {s : State} {n : Nat} (h : spkRef s n ≠ 0) (hq : s.rb (Reg.SPK_CTL n) 11 = false) :
    SameUnits (s.modSpk n fun _ => (startedUnit s n).acquiring s.tb) (spkEnableOp s n) := by
  have hr : ¬spkRef (dropTeeth s n) n = 0 := h
  have hq' : (dropTeeth s n).rb (Reg.SPK_CTL n) 11 = false := hq
  have he : spkEnableOp s n = spkAcquire (begun s n (startedUnit s n)) n := by
    unfold spkEnableOp
    dsimp only
    rw [if_neg hr, hq']
    rfl
  rw [he]
  exact .of_begun (spkAcquire_units _ n)

/-! SPKn_CTL: the word that lands, and its fields. -/

theorem setBit_zero_ctl (w : Word) : setBit w 0 &&& 0x1FCD = (w &&& 0x1FCD) ||| 1 := by
  have hm : mkw 1 0 &&& 0x1FCD = 1 := by decide
  rw [setBit, BitVec.and_or_distrib_right, hm]

theorem clearBit_zero_ctl (w : Word) : clearBit w 0 &&& 0x1FCD = w &&& 0x1FCC := by
  have hm : ~~~mkw 1 0 &&& 0x1FCD = 0x1FCC := by decide
  rw [clearBit, BitVec.and_assoc, hm]

/-- An enable's word holds no bit but those that SPKn_CTL stores. -/
theorem ctl_enable_stored (w : Word) : (w &&& 0x1FCD ||| 1) &&& 0x1FCD = w &&& 0x1FCD ||| 1 := by
  have hen : (1 : Word) &&& 0x1FCD = 1 := by decide
  rw [BitVec.and_or_distrib_right, BitVec.and_assoc, BitVec.and_self, hen]

theorem ctl_disable_stored (w : Word) : w &&& 0x1FCC &&& 0x1FCD = w &&& 0x1FCC := by
  have hm : (0x1FCC : Word) &&& 0x1FCD = 0x1FCC := by decide
  rw [BitVec.and_assoc, hm]

theorem ctl_enable_en (w : Word) : bitAt (w &&& 0x1FCD ||| 1) 0 = true := by
  rw [bitAt, BitVec.getLsbD_or]
  exact Bool.or_true _

theorem ctl_disable_en (w : Word) : bitAt (w &&& 0x1FCC) 0 = false := by
  rw [bitAt, BitVec.getLsbD_and]
  exact Bool.and_false _

theorem ctl_enable_quick {w : Word} (h : w.getLsbD 11 = false) : bitAt (w &&& 0x1FCD ||| 1) 11 = false := by
  rw [bitAt, BitVec.getLsbD_or, BitVec.getLsbD_and, h]
  rfl

theorem clearBit_ctl_disable (w : Word) : clearBit (w &&& 0x1FCC) 0 = w &&& 0x1FCC := by
  have hm : (0x1FCC : Word) &&& ~~~mkw 1 0 = 0x1FCC := by decide
  rw [clearBit, BitVec.and_assoc, hm]

/-- Words with the same bits hold the same field. -/
theorem fld_congr {v w : Word} {hi lo : Nat} (h : ∀ i < hi - lo + 1, v.getLsbD (lo + i) = w.getLsbD (lo + i)) :
    fld v hi lo = fld w hi lo := by
  apply Nat.eq_of_testBit_eq
  intro i
  simp only [fld, Nat.testBit_mod_two_pow, Nat.testBit_shiftRight]
  by_cases hi : i < hi - lo + 1
  · rw [decide_eq_true hi, Bool.true_and, Bool.true_and]
    exact h i hi
  · rw [decide_eq_false hi, Bool.false_and, Bool.false_and]

theorem fld_and {m : Word} {hi lo : Nat} (w : Word) (h : ∀ i < hi - lo + 1, m.getLsbD (lo + i) = true) :
    fld (w &&& m) hi lo = fld w hi lo :=
  fld_congr fun i hi => by rw [BitVec.getLsbD_and, h i hi, Bool.and_true]

theorem fld_or {m : Word} {hi lo : Nat} (w : Word) (h : ∀ i < hi - lo + 1, m.getLsbD (lo + i) = false) :
    fld (w ||| m) hi lo = fld w hi lo :=
  fld_congr fun i hi => by rw [BitVec.getLsbD_or, h i hi, Bool.or_false]

/-- REF is stored as written. -/
theorem fld_ctl_ref (w : Word) : fld (w &&& 0x1FCD ||| 1) 7 6 = w.toNat / 64 % 4 := by
  rw [fld_or _ (by decide), fld_and _ (by decide)]
  exact congrArg (· % 4) (Nat.shiftRight_eq_div_pow _ _)

/-- ALPHA is stored as written. -/
theorem fld_ctl_alpha (w : Word) : fld (w &&& 0x1FCD ||| 1) 10 9 = w.toNat / 512 % 4 := by
  rw [fld_or _ (by decide), fld_and _ (by decide)]
  exact congrArg (· % 4) (Nat.shiftRight_eq_div_pow _ _)

theorem fld_clearEn {hi lo : Nat} (w : Word) (h : ∀ i < hi - lo + 1, (~~~mkw 1 0).getLsbD (lo + i) = true) :
    fld (clearBit w 0) hi lo = fld w hi lo := fld_and w h

theorem mergeBits_same {v w m : Word} (h : (v ^^^ w) &&& ~~~m = 0) : mergeBits w v m = v := by
  apply BitVec.eq_of_getLsbD_eq
  intro i hi
  have hbit : ((v ^^^ w) &&& ~~~m).getLsbD i = false := by rw [h]; exact BitVec.getLsbD_zero
  simp only [mergeBits, BitVec.getLsbD_or, BitVec.getLsbD_and, BitVec.getLsbD_xor, BitVec.getLsbD_not, decide_eq_true hi,
    Bool.true_and] at hbit ⊢
  revert hbit
  cases v.getLsbD i <;> cases w.getLsbD i <;> cases m.getLsbD i <;> decide

theorem State.setReg_rf_eq (s : State) (a : Nat) (w : Word) (hi lo : Nat) : (s.setReg a w).rf a hi lo = fld w hi lo := by
  rw [State.rf, State.reg_setReg_eq]

theorem State.setReg_rb_eq (s : State) (a : Nat) (w : Word) (i : Nat) : (s.setReg a w).rb a i = bitAt w i := by
  rw [State.rb, State.reg_setReg_eq]

theorem State.setReg_rf_ne (s : State) {a b : Nat} (w : Word) (hi lo : Nat) (h : b ≠ a) : (s.setReg a w).rf b hi lo = s.rf b hi lo := by
  rw [State.rf, State.reg_setReg_ne _ _ _ _ h, State.rf]

/-! The other registers that an enable looks at. -/

theorem SPK_WHEEL_ne_CTL (n : Nat) : Reg.SPK_WHEEL n ≠ Reg.SPK_CTL n := by simp only [Reg.SPK_WHEEL, Reg.SPK_CTL]; omega
theorem SPK_CYCLE_ne_CTL (n : Nat) : Reg.SPK_CYCLE n ≠ Reg.SPK_CTL n := by simp only [Reg.SPK_CYCLE, Reg.SPK_CTL]; omega
theorem SPK_GAPWIN_ne_CTL (n : Nat) : Reg.SPK_GAPWIN n ≠ Reg.SPK_CTL n := by simp only [Reg.SPK_GAPWIN, Reg.SPK_CTL]; omega
theorem SPK_PRESET_ne_CTL (n : Nat) : Reg.SPK_PRESET n ≠ Reg.SPK_CTL n := by simp only [Reg.SPK_PRESET, Reg.SPK_CTL]; omega
theorem SPK_CYC_INIT_ne_CTL (n : Nat) : Reg.SPK_CYC_INIT n ≠ Reg.SPK_CTL n := by simp only [Reg.SPK_CYC_INIT, Reg.SPK_CTL]; omega

/-- R85, for the word `v` in SPKn_CTL. -/
theorem spkRefused_setCtl (s : State) (n : Nat) (v : Word) : spkRefused (s.setReg (Reg.SPK_CTL n) v) n = true ↔
    s.rf (Reg.SPK_WHEEL n) 15 0 = 0 ∨ s.rf (Reg.SPK_CYCLE n) 15 0 = 0 ∨ s.rf (Reg.SPK_WHEEL n) 15 0 ≤ s.rf (Reg.SPK_CYCLE n) 31 16 ∨
      fld v 10 9 = 3 ∨ fld v 7 6 = 3 ∨ (fld v 7 6 = 1 ∧ (s.rf (Reg.SPK_WHEEL n) 18 16 = 0 ∨
        s.rf (Reg.SPK_WHEEL n) 15 0 < s.rf (Reg.SPK_WHEEL n) 18 16 + 3 ∨ s.rf (Reg.SPK_GAPWIN n) 7 0 < 0x19 ∨
        s.rf (Reg.SPK_GAPWIN n) 23 16 ≤ s.rf (Reg.SPK_GAPWIN n) 7 0)) := by
  simp only [spkRefused, spkRef, State.setReg_rf_eq, State.setReg_rf_ne, SPK_WHEEL_ne_CTL, SPK_CYCLE_ne_CTL, SPK_GAPWIN_ne_CTL, ne_eq,
    not_false_eq_true, Bool.or_eq_true, Bool.and_eq_true, beq_iff_eq, decide_eq_true_eq, ge_iff_le, or_assoc]

/-! GUARD_OK looks at no bit of SPKn_CTL but EN. -/

theorem spkGuardOk_congr {s t : State} {n : Nat} (hu : SameUnits s t) (hc : t.cas = s.cas)
    (hr : ∀ a ∈ [Reg.CAS_CTL, Reg.CAS_MIR n, Reg.SPK_GUARD n], t.reg a = s.reg a) (he : spkEn t n = spkEn s n) :
    spkGuardOk t n = spkGuardOk s n := by
  simp only [List.mem_cons, List.not_mem_nil, or_false, forall_eq_or_imp, forall_eq] at hr
  obtain ⟨hctl, hmir, hguard⟩ := hr
  have hmirrors : spkMirrors t n = spkMirrors s n := by simp only [spkMirrors, State.rb, hc, hctl, hmir, he]
  have hconf : fwdConf t n = fwdConf s n := by simp only [fwdConf, State.rf, hguard]
  simp only [spkGuardOk, hu.spkAt n, hmirrors, hconf]

theorem spkGuardNote_same {s t : State} {n : Nat} (h : spkGuardOk t n = spkGuardOk s n) : spkGuardNote s t n = t := by
  rw [spkGuardNote, h, bne_self_eq_false, if_neg Bool.false_ne_true]

/-- The registers that GUARD_OK looks at are neither SPKn_CTL nor SPKn_EVT. -/
theorem guardReg_ne {n a : Nat} (hn : n < 8) (ha : a ∈ [Reg.CAS_CTL, Reg.CAS_MIR n, Reg.SPK_GUARD n]) :
    a ≠ Reg.SPK_CTL n ∧ a ≠ Reg.SPK_EVT n := by
  simp only [List.mem_cons, List.not_mem_nil, or_false, Reg.CAS_CTL, Reg.CAS_MIR, Reg.SPK_GUARD] at ha
  simp only [Reg.SPK_CTL, Reg.SPK_EVT]
  omega

theorem spkGuardOk_setCtl {s : State} {n : Nat} {v : Word} (hn : n < 8) (hv : bitAt v 0 = s.rb (Reg.SPK_CTL n) 0) :
    spkGuardOk (s.setReg (Reg.SPK_CTL n) v) n = spkGuardOk s n :=
  spkGuardOk_congr ⟨rfl, rfl⟩ rfl (fun _ ha => State.reg_setReg_ne _ _ _ _ (guardReg_ne hn ha).1) ((State.setReg_rb_eq _ _ _ _).trans hv)

theorem spkEvent_cas (s : State) (n b : Nat) : (spkEvent s n b).cas = s.cas := by
  unfold spkEvent
  split <;> simp

theorem spkEvent_reg_ne (s : State) {n a : Nat} (b : Nat) (h : a ≠ Reg.SPK_EVT n) : (spkEvent s n b).reg a = s.reg a := by
  have hset : (s.hwSetBit (Reg.SPK_EVT n) b).reg a = s.reg a := State.hwSet_reg_ne _ _ _ _ h
  unfold spkEvent
  split <;> exact hset

theorem spkGuardOk_spkEvent {s : State} {n : Nat} (hn : n < 8) (b : Nat) : spkGuardOk (spkEvent s n b) n = spkGuardOk s n := by
  have hctl : Reg.SPK_CTL n ≠ Reg.SPK_EVT n := by simp only [Reg.SPK_CTL, Reg.SPK_EVT]; omega
  exact spkGuardOk_congr (sameUnits_spkEvent s n b) (spkEvent_cas s n b)
    (fun _ ha => spkEvent_reg_ne s b (guardReg_ne hn ha).2) (congrArg (bitAt · 0) (spkEvent_reg_ne s b hctl))

/-! SPKn_CTL lands: `c` is a word that holds no bit but those that the register stores. -/

theorem bitAt_clearBit_zero (w : Word) : bitAt (clearBit w 0) 0 = false := by
  rw [bitAt, clearBit, BitVec.getLsbD_and]
  exact Bool.and_false _

/-- `s` with SPKn_CTL at `c` but for EN: what R85 judges, and what a refused write leaves (R84, R85). -/
def ctlShut (s : State) (n : Nat) (c : Word) : State := s.setReg (Reg.SPK_CTL n) (clearBit c 0)

theorem spkGuardOk_ctlShut {s : State} {n : Nat} (hn : n < 8) (hen : s.rb (Reg.SPK_CTL n) 0 = false) (c : Word) :
    spkGuardOk (ctlShut s n c) n = spkGuardOk s n :=
  spkGuardOk_setCtl hn ((bitAt_clearBit_zero c).trans hen.symm)

/-- What a write of SPKn_CTL makes of a unit with EN at 0, but for the note to the gates. -/
theorem spkWriteCtl_shut {s : State} {n : Fin 8} {c : Word} (hen : s.rb (Reg.SPK_CTL n.val) 0 = false) (hc : c &&& 0x1FCD = c) :
    spkWriteCtl s n.val c = spkGuardNote s (if !bitAt c 0 then ctlShut s n.val c
      else if spkRefused (ctlShut s n.val c) n.val then spkEvent (ctlShut s n.val c) n.val seCfgErr
      else spkEnableOp ((ctlShut s n.val c).setReg (Reg.SPK_CTL n.val) c) n.val) n.val := by
  have hold : bitAt (s.reg (Reg.SPK_CTL n.val)) 0 = false := hen
  unfold spkWriteCtl
  dsimp only
  rw [desc_SPK_CTL, hc, hold, if_neg Bool.false_ne_true]
  rfl

theorem spkWriteCtl_disabled {s : State} {n : Fin 8} {c : Word} (hen : s.rb (Reg.SPK_CTL n.val) 0 = false) (hc : c &&& 0x1FCD = c)
    (h0 : bitAt c 0 = false) : spkWriteCtl s n.val c = ctlShut s n.val c := by
  rw [spkWriteCtl_shut hen hc, h0, if_pos (by decide), spkGuardNote_same (spkGuardOk_ctlShut n.isLt hen c)]

theorem spkWriteCtl_refused {s : State} {n : Fin 8} {c : Word} (hen : s.rb (Reg.SPK_CTL n.val) 0 = false) (hc : c &&& 0x1FCD = c)
    (h1 : bitAt c 0 = true) (hr : spkRefused (ctlShut s n.val c) n.val = true) :
    spkWriteCtl s n.val c = spkEvent (ctlShut s n.val c) n.val seCfgErr := by
  rw [spkWriteCtl_shut hen hc, h1, if_neg (by decide), if_pos hr,
    spkGuardNote_same ((spkGuardOk_spkEvent n.isLt _).trans (spkGuardOk_ctlShut n.isLt hen c))]

theorem spkWriteCtl_enables {s : State} {n : Fin 8} {c : Word} (hen : s.rb (Reg.SPK_CTL n.val) 0 = false) (hc : c &&& 0x1FCD = c)
    (h1 : bitAt c 0 = true) (hr : ¬spkRefused (ctlShut s n.val c) n.val = true) :
    SameUnits (spkEnableOp ((ctlShut s n.val c).setReg (Reg.SPK_CTL n.val) c) n.val) (spkWriteCtl s n.val c) := by
  rw [spkWriteCtl_shut hen hc, h1, if_neg (by decide), if_neg hr]
  exact sameUnits_spkGuardNote _ _ _

/-- While EN is 1, a write of EN = 1 that changes no locked field and gives ALPHA no reserved code lands (R84). -/
theorem spkWriteCtl_live {s : State} {n : Fin 8} {c : Word} (hen : s.rb (Reg.SPK_CTL n.val) 0 = true) (hc : c &&& 0x1FCD = c)
    (h1 : bitAt c 0 = true) (hlock : (c ^^^ s.reg (Reg.SPK_CTL n.val)) &&& 0xFFFFE1FE = 0) (halpha : fld c 10 9 ≠ 3) :
    spkWriteCtl s n.val c = s.setReg (Reg.SPK_CTL n.val) c := by
  have hold : bitAt (s.reg (Reg.SPK_CTL n.val)) 0 = true := hen
  have hlock' : (c ^^^ s.reg (Reg.SPK_CTL n.val)) &&& ~~~(0x1E01 : Word) = 0 := hlock
  have hfld : (fld c 10 9 == 3) = false := beq_false_of_ne halpha
  unfold spkWriteCtl
  dsimp only
  rw [desc_SPK_CTL, hc, hold, h1, hlock', hfld, mergeBits_same hlock']
  exact spkGuardNote_same (spkGuardOk_setCtl n.isLt (h1.trans hen.symm))

/-- With EN 1, a write of EN = 0 disables the unit, whatever else it reports of the write (R84). -/
theorem spkWriteCtl_disables {s : State} {n : Fin 8} {c : Word} (hen : s.rb (Reg.SPK_CTL n.val) 0 = true) (hc : c &&& 0x1FCD = c)
    (h0 : bitAt c 0 = false) : ∃ s1, SameUnits s s1 ∧ SameUnits (spkDisableOp s1 n.val) (spkWriteCtl s n.val c) := by
  have hold : bitAt (s.reg (Reg.SPK_CTL n.val)) 0 = true := hen
  unfold spkWriteCtl
  dsimp only
  rw [desc_SPK_CTL, hc, hold, h0, if_pos rfl, if_neg Bool.false_ne_true]
  refine ⟨_, ?_, sameUnits_spkGuardNote _ _ _⟩
  have stored (w : Word) : SameUnits s (s.setReg (Reg.SPK_CTL n.val) w) := ⟨rfl, rfl⟩
  have locked (w : Word) (b : Bool) : SameUnits s (if b then spkEvent (s.setReg (Reg.SPK_CTL n.val) w) n.val seCfgLocked
      else s.setReg (Reg.SPK_CTL n.val) w) := .ite ((stored w).trans (sameUnits_spkEvent _ _ _)) (stored w)
  exact .ite ((locked _ _).trans (sameUnits_spkEvent _ _ _)) (locked _ _)

/-! What SPK_ENABLE and SPK_DISABLE do. -/

theorem spkEvent_cfgErr (s : State) (n : Nat) : spkEvent s n seCfgErr =
    (s.hwSetBit (Reg.SPK_EVT n) 12).raise0 (146 + 4 * n) 1 (.reg (Reg.SPK_EVT n) 0xFFFF) := by
  rw [show 146 + 4 * n = srcSpk n 2 by unfold srcSpk; omega]
  rfl

/-- `s` with SPKn_CTL at `c`, as an enable finds it. -/
def ctlOpen (s : State) (n : Nat) (c : Word) : State := (ctlShut s n c).setReg (Reg.SPK_CTL n) c

theorem ctlOpen_reg_ne (s : State) {n a : Nat} (c : Word) (h : a ≠ Reg.SPK_CTL n) : (ctlOpen s n c).reg a = s.reg a := by
  rw [ctlOpen, ctlShut, State.reg_setReg_ne _ _ _ _ h, State.reg_setReg_ne _ _ _ _ h]

/-- PHYS at SPKn_PRESET, for a wheel with teeth (R48). -/
theorem presetPhys_ctlOpen {s : State} {n : Nat} (c : Word) (ht : s.rf (Reg.SPK_WHEEL n) 15 0 ≠ 0) : presetPhys (ctlOpen s n c) n =
    (s.rf (Reg.SPK_PRESET n) 31 16 + s.rf (Reg.SPK_CYCLE n) 31 16) % s.rf (Reg.SPK_WHEEL n) 15 0 := by
  have hteeth : spkTeeth (ctlOpen s n c) n = s.rf (Reg.SPK_WHEEL n) 15 0 := by
    rw [spkTeeth, State.rf, ctlOpen_reg_ne s c (SPK_WHEEL_ne_CTL n)]
    exact Nat.max_eq_right (Nat.pos_of_ne_zero ht)
  rw [presetPhys, hteeth, State.rf, State.rf, ctlOpen_reg_ne s c (SPK_PRESET_ne_CTL n), ctlOpen_reg_ne s c (SPK_CYCLE_ne_CTL n)]
  rfl

theorem spkWriteCtl_preset {s : State} {n : Fin 8} {c : Word} (hen : s.rb (Reg.SPK_CTL n.val) 0 = false) (hc : c &&& 0x1FCD = c)
    (h1 : bitAt c 0 = true) (hr : ¬spkRefused (ctlShut s n.val c) n.val = true) (href : fld c 7 6 = 0) :
    SameUnits (s.modSpk n.val fun _ => (presetUnit (ctlOpen s n.val c) n.val).enter s.tb .synced) (spkWriteCtl s n.val c) :=
  have h := (spkEnableOp_preset n.isLt ((State.setReg_rf_eq _ _ _ _ _).trans href)).trans (spkWriteCtl_enables hen hc h1 hr)
  ⟨h.spk, h.tb⟩

theorem spkWriteCtl_acquire {s : State} {n : Fin 8} {c : Word} (hen : s.rb (Reg.SPK_CTL n.val) 0 = false) (hc : c &&& 0x1FCD = c)
    (h1 : bitAt c 0 = true) (hr : ¬spkRefused (ctlShut s n.val c) n.val = true) (href : fld c 7 6 ≠ 0) (hq : bitAt c 11 = false) :
    SameUnits (s.modSpk n.val fun _ => (startedUnit (ctlOpen s n.val c) n.val).acquiring s.tb) (spkWriteCtl s n.val c) :=
  have h := (spkEnableOp_acquire (fun e => href ((State.setReg_rf_eq _ _ _ _ _).symm.trans e))
    ((State.setReg_rb_eq _ _ _ _).trans hq)).trans (spkWriteCtl_enables hen hc h1 hr)
  ⟨h.spk, h.tb⟩

/-- A unit that is already OFF stays as it is (Table 2-5). -/
theorem spkWriteCtl_disable_off {s : State} {n : Fin 8} {c : Word} (hen : s.rb (Reg.SPK_CTL n.val) 0 = true) (hc : c &&& 0x1FCD = c)
    (h0 : bitAt c 0 = false) (hoff : (s.spkAt n.val).st = .off) : SameUnits (s.modSpk n.val id) (spkWriteCtl s n.val c) := by
  obtain ⟨s1, hs1, ht⟩ := spkWriteCtl_disables hen hc h0
  have hoff1 : (s1.spkAt n.val).st = .off := by rw [hs1.spkAt n.val, hoff]
  rw [spkDisableOp_off hoff1] at ht
  rw [State.modSpk_id]
  exact hs1.trans ht

theorem spkWriteCtl_disable {s : State} {n : Fin 8} {c : Word} (hen : s.rb (Reg.SPK_CTL n.val) 0 = true) (hc : c &&& 0x1FCD = c)
    (h0 : bitAt c 0 = false) (hon : (s.spkAt n.val).st ≠ .off) :
    SameUnits (s.modSpk n.val fun u => u.disabled s.tb) (spkWriteCtl s n.val c) := by
  obtain ⟨s1, hs1, ht⟩ := spkWriteCtl_disables hen hc h0
  have hon1 : (s1.spkAt n.val).st ≠ .off := by rwa [hs1.spkAt n.val]
  have hspk : (s1.modSpk n.val fun u => u.disabled s1.tb).spk = (s.modSpk n.val fun u => u.disabled s.tb).spk := by
    rw [State.modSpk, State.modSpk, hs1.spk, hs1.tb]
  exact .trans ⟨hspk, hs1.tb⟩ ((spkDisableOp_units hon1).trans ht)

/-- The word that SPK_ENABLE puts in SPKn_CTL. -/
theorem exec_spkEnable (s : State) {m : Master} (n : Unit3) (w : Word) (hm : reachesRegs m = true) :
    exec (.spkEnable m n w) s = .next (answered .ok 0 (spkWriteCtl s n.val (w &&& 0x1FCD ||| 1))) :=
  congrArg Host.Outcome.next ((write_SPK_CTL hm n _).trans (by rw [setBit_zero_ctl]))

theorem exec_spkDisable (s : State) {m : Master} (n : Unit3) (w : Word) (hm : reachesRegs m = true) :
    exec (.spkDisable m n w) s = .next (answered .ok 0 (spkWriteCtl s n.val (w &&& 0x1FCC))) :=
  congrArg Host.Outcome.next ((write_SPK_CTL hm n _).trans (by rw [clearBit_zero_ctl]))

/-- No sprocket unit but `n`, nor the time, nor the keep store, changes from `s` to `t`. -/
def OnlyUnit (n : Unit3) (s t : State) : Prop :=
  (∀ j : Unit3, j ≠ n → t.spkAt j.val = s.spkAt j.val) ∧ t.tb = s.tb ∧ t.keep = s.keep

/-- A write of SPKn_CTL that makes unit `n` another leaves the others, the time and the keep store. -/
theorem spkWriteCtl_onlyUnit {s : State} {n : Unit3} {c : Word} {f : Spk → Spk}
    (h : SameUnits (s.modSpk n.val f) (spkWriteCtl s n.val c)) : OnlyUnit n s (answered .ok 0 (spkWriteCtl s n.val c)) :=
  ⟨fun j hj => h.spkAt_ne j.val fun e => hj (Fin.ext e), h.tb, congrArg Store.keep (spkWriteCtl_store s n.val c)⟩

/-- What such a write makes of unit `n`. -/
theorem spkWriteCtl_spkAt {s : State} {n : Unit3} {c : Word} {f : Spk → Spk}
    (h : SameUnits (s.modSpk n.val f) (spkWriteCtl s n.val c)) :
    (answered .ok 0 (spkWriteCtl s n.val c)).spkAt n.val = f (s.spkAt n.val) := h.spkAt_eq n.isLt

end Sys2Proof.Machine

open Sys2Proof Sys2Proof.Machine

/-- Settles O29: R85 is `spkRefused_setCtl`; an enable is, by REF, `spkWriteCtl_preset` or `spkWriteCtl_acquire`; a disable is
`spkWriteCtl_disable`, or `spkWriteCtl_disable_off` in OFF. -/
theorem sprocketEnable : Obligations.SprocketEnable := by
  unfold Obligations.SprocketEnable
  intro s m n w ctl c teeth g org lo ref illegal others hm
  have hc : c &&& 0x1FCD = c := ctl_enable_stored w
  have h1 : bitAt c 0 = true := ctl_enable_en w
  have hd := ctl_disable_stored w
  have h0 := ctl_disable_en w
  have hrefused : spkRefused (ctlShut s n.val c) n.val = true ↔ illegal := by
    rw [ctlShut, spkRefused_setCtl, fld_clearEn c (by decide), fld_clearEn c (by decide), fld_ctl_ref, fld_ctl_alpha]
  refine ⟨fun hen hill => ?refused, fun hen hok href => ?preset, fun hen hok href hq => ?acquire, fun hen hlock halpha => ?live,
    fun hen => ?disable, fun hen => ?disabled⟩
  case refused =>
    rw [exec_spkEnable s n w hm, spkWriteCtl_refused hen hc h1 (hrefused.2 hill), spkEvent_cfgErr]
    rfl
  case preset =>
    have h := spkWriteCtl_preset hen hc h1 (mt hrefused.1 hok) ((fld_ctl_ref w).trans href)
    refine ⟨_, exec_spkEnable s n w hm, spkWriteCtl_onlyUnit h, ?_⟩
    rw [spkWriteCtl_spkAt h]
    exact ⟨rfl, ctlOpen_reg_ne s c (SPK_PRESET_ne_CTL n.val), ctlOpen_reg_ne s c (SPK_CYC_INIT_ne_CTL n.val),
      presetPhys_ctlOpen c fun e => hok (.inl e), rfl, rfl, rfl, rfl⟩
  case acquire =>
    have h := spkWriteCtl_acquire hen hc h1 (mt hrefused.1 hok) (fun e => href ((fld_ctl_ref w).symm.trans e)) (ctl_enable_quick hq)
    refine ⟨_, exec_spkEnable s n w hm, spkWriteCtl_onlyUnit h, ?_⟩
    rw [spkWriteCtl_spkAt h]
    exact ⟨rfl, rfl, rfl⟩
  case live =>
    rw [exec_spkEnable s n w hm, spkWriteCtl_live hen hc h1 hlock (fun e => halpha ((fld_ctl_alpha w).symm.trans e))]
  case disable =>
    by_cases hoff : (s.spkAt n.val).st = .off
    · have h := spkWriteCtl_disable_off hen hd h0 hoff
      refine ⟨_, exec_spkDisable s n w hm, spkWriteCtl_onlyUnit h, ?_⟩
      rw [spkWriteCtl_spkAt h]
      exact ⟨hoff, fun hon => absurd hoff hon⟩
    · have h := spkWriteCtl_disable hen hd h0 hoff
      refine ⟨_, exec_spkDisable s n w hm, spkWriteCtl_onlyUnit h, ?_⟩
      rw [spkWriteCtl_spkAt h]
      exact ⟨rfl, fun _ => ⟨rfl, rfl⟩⟩
  case disabled =>
    rw [exec_spkDisable s n w hm, spkWriteCtl_disabled hen hd h0, ctlShut, clearBit_ctl_disable]

end

section
/-! PROOFS. Engine instructions that end in their issue: what a completion (R164) and an ILLEGAL fault (R201) make of the thread. -/

namespace Sys2Proof.Machine

/-- Two answers with equal states are equal. -/
theorem next_congr {s u : State} (h : s = u) : (.next s : Host.Outcome State Fault Refusal) = .next u := congrArg _ h

/-- An instruction that issues and leaves nothing outstanding ends with its effect. -/
theorem engIssue_done {s s1 : State} {t : Fin 64} {i : EngIns} (h : Issues s t i) (hu : usesTray i = false)
    (hi : leavesOpen i = none) (hr : engRun (issuing s t) t i = .done s1) :
    engIssue s t i = s1.modThr t.val fun g => g.stepOver s.tb := by
  rw [engIssue_issues h hu, hr]
  simp only [Thr.issued, hi]

/-- An instruction that only sets registers of its thread and its PC: the effect may be written with the thread as it issues. -/
theorem engIssue_sets {s : State} {t : Fin 64} {i : EngIns} (h : Issues s t i) (hu : usesTray i = false) (hi : leavesOpen i = none)
    (f g : Thr → Thr) (hr : engRun (issuing s t) t i = .done ((issuing s t).modThr t.val g))
    (hg : g ((issuing s t).thrAt t.val) = f ((issuing s t).thrAt t.val)) :
    engIssue s t i = (issuing s t).modThr t.val fun h => (f h).stepOver s.tb := by
  rw [engIssue_done h hu hi hr, State.modThr_congr _ _ g f hg, State.modThr_modThr]

/-- An instruction that is ILLEGAL faults with code 1 and its word, and keeps its PC and its registers (R201). -/
theorem engIssue_illegal {s : State} {t : Fin 64} {i : EngIns} (h : Issues s t i) (hu : usesTray i = false)
    (hr : engRun (issuing s t) t i = faultIllegal i) :
    ((engIssue s t i).thrAt t.val).st = .fault ∧ ((engIssue s t i).thrAt t.val).fault = 1 ∧
      ((engIssue s t i).thrAt t.val).fltW = engEncode i ∧ ((engIssue s t i).thrAt t.val).pc = (s.thrAt t.val).pc ∧
      ((engIssue s t i).thrAt t.val).w = (s.thrAt t.val).w := by
  have hf : engIssue s t i = thrFault (issuing s t) t.val 1 (engEncode i) := by
    rw [engIssue_issues h hu, hr]
    rfl
  rw [hf, thrFault_thr, issuing_thr]
  exact ⟨rfl, rfl, rfl, rfl, rfl⟩

end Sys2Proof.Machine

end

section
/-! PROOFS. The divides and their special results, and the engine's one divider (R183). -/

namespace Sys2Proof.Machine

/-- `s` once thread `t` has issued a divide: its engine's divider is taken from the core edge of this tb. -/
def divideIssuing (s : State) (t : Fin 64) : State := (issuing s t).modEng (t.val / 4) fun g => { g with divTb := s.tb - s.tb % 2 + 36 }

/-- Z and N of a result, C kept, V as given. -/
theorem Thr.setFlags_zn_setV (h : Thr) (rd : Reg5) (q : Word) (v : Bool) :
    (h.setW rd.val q).setFlags { h.flags.zn q with v := v } = { h.takeZN rd q with v := v } := by
  simp only [Thr.setFlags, Thr.takeZN, Thr.flags, Flags.zn, isZero, isNeg, bitAt, BitVec.msb_eq_getLsbD_last, Thr.setW_c]

/-- A divide that issues takes the divider, and ends with its value and V. -/
theorem engIssue_divide {s : State} {t : Fin 64} {op : DivOp} {rd ra rb : Reg5} {q : Word} {v : Bool}
    (h : Issues s t (.divide op rd ra rb)) (hq : divValue op (wreg s t ra) (wreg s t rb) = (q, v)) :
    engIssue s t (.divide op rd ra rb) = Ended (divideIssuing s t) t fun h => { h.takeZN rd q with v := v } := by
  have hr : engRun (issuing s t) t (.divide op rd ra rb) = putThr (divideIssuing s t) t.val fun h =>
      (h.setW rd.val q).setFlags { h.flags.zn q with v := v } := by
    unfold wreg at hq
    simp only [engRun, getW_issuing, hq, divideIssuing, State.cc, issuing_tb, divTime]
  rw [engIssue_done h rfl rfl hr, State.modThr_modThr, Ended]
  simp only [Thr.setFlags_zn_setV, divideIssuing, State.modEng_tb, issuing_tb]

/-- A divide that finds the divider occupied stalls, and will be tried again. -/
theorem engIssue_divide_stalls {s : State} {t : Fin 64} {op : DivOp} {rd ra rb : Reg5} (h : Fetches s t (.divide op rd ra rb))
    (hb : s.tb < (s.engAt (t.val / 4)).divTb) : engIssue s t (.divide op rd ra rb) = (issuing s t).modThr t.val fun g =>
      { g with st := .stall, stall := .retry (.divide op rd ra rb), wdCount := g.wdNow s.tb, wdTb := s.tb } :=
  engIssue_stalls ⟨h, decide_eq_true hb⟩

theorem divValue_div (a b : Word) : divValue .div a b =
    (if b = 0 then 0xFFFFFFFF else if a = 0x80000000 ∧ b = 0xFFFFFFFF then 0x80000000 else BitVec.ofInt 32 (a.toInt.tdiv b.toInt),
      decide (b = 0 ∨ a = 0x80000000 ∧ b = 0xFFFFFFFF)) := by
  by_cases hb : b = 0
  · subst hb; rfl
  · by_cases hw : a = 0x80000000 ∧ b = 0xFFFFFFFF
    · obtain ⟨rfl, rfl⟩ := hw; rfl
    · simp only [divValue, hb, hw, if_false, or_self, decide_false, word]

theorem divValue_divu (a b : Word) : divValue .divu a b =
    (if b = 0 then 0xFFFFFFFF else BitVec.ofNat 32 (a.toNat / b.toNat), decide (b = 0)) := by
  by_cases hb : b = 0 <;> simp only [divValue, hb, if_true, if_false, decide_true, decide_false, wordN]

theorem divValue_rem (a b : Word) : divValue .rem a b =
    (if b = 0 then a else if a = 0x80000000 ∧ b = 0xFFFFFFFF then 0 else BitVec.ofInt 32 (a.toInt.tmod b.toInt),
      decide (b = 0 ∨ a = 0x80000000 ∧ b = 0xFFFFFFFF)) := by
  by_cases hb : b = 0
  · subst hb; rfl
  · by_cases hw : a = 0x80000000 ∧ b = 0xFFFFFFFF
    · obtain ⟨rfl, rfl⟩ := hw; rfl
    · simp only [divValue, hb, hw, if_false, or_self, decide_false, word, Int.tmod_def, Int.mul_comm]

theorem divValue_remu (a b : Word) : divValue .remu a b =
    (if b = 0 then a else BitVec.ofNat 32 (a.toNat % b.toNat), decide (b = 0)) := by
  by_cases hb : b = 0 <;> simp only [divValue, hb, if_true, if_false, decide_true, decide_false, wordN]

/-- A walk whose every step leaves `s` leaves `s`. -/
theorem forEach_fixed {σ α : Type} {xs : List α} {s : σ} {f : σ → α → σ} (h : ∀ x ∈ xs, f s x = s) : forEach xs s f = s := by
  induction xs with
  | nil => rfl
  | cons x xs ih =>
    rw [forEach, List.foldl_cons, h x List.mem_cons_self]
    exact ih fun y hy => h y (List.mem_cons_of_mem x hy)

/-- An engine without a stalled thread tries none again. -/
theorem retryStalls_of_no_stall {s : State} {e : Fin 16} (h : ∀ j : Fin 4, (s.thrAt (4 * e.val + j.val)).st ≠ .stall) :
    retryStalls s e = s := by
  unfold retryStalls
  refine forEach_fixed fun j hj => ?_
  have hj4 : j < 4 := (by decide : ∀ j ∈ [0, 1, 2, 3], j < 4) j hj
  have ht : (Fin.ofNat 64 (4 * e.val + j)).val = 4 * e.val + j := Nat.mod_eq_of_lt (by omega)
  have hst := h ⟨j, hj4⟩
  dsimp only
  rw [ht]
  split
  · next hs _ => exact absurd hs hst
  · rfl

end Sys2Proof.Machine

open Sys2Proof Sys2Proof.Machine

/-- Settles O13: the four divides end by `engIssue_divide` with the values of `divValue_div` and its like, and stall by
`engIssue_divide_stalls`; DIVIDER_FREE is `dividerFreeOp`, which waits for the divider's time. -/
theorem engineDivide : Obligations.EngineDivide := by
  unfold Obligations.EngineDivide
  intro s t rd ra rb e a b busy wraps res stalls
  refine ⟨fun h => next_congr (engIssue_divide h (divValue_div a b)), fun h => next_congr (engIssue_divide h (divValue_divu a b)),
    fun h => next_congr (engIssue_divide h (divValue_rem a b)), fun h => next_congr (engIssue_divide h (divValue_remu a b)),
    fun h hb => next_congr (engIssue_divide_stalls h hb), fun h hb => next_congr (engIssue_divide_stalls h hb),
    fun h hb => next_congr (engIssue_divide_stalls h hb), fun h hb => next_congr (engIssue_divide_stalls h hb),
    fun hb => next_congr (if_pos hb), fun hb => next_congr (if_neg (Nat.not_lt.2 hb)), fun hb hn => next_congr ?_⟩
  exact (if_neg (Nat.not_lt.2 hb)).trans (retryStalls_of_no_stall hn)

end

section
/-! PROOFS. Branches by the conditions of Table 5-6, and the jumps that link (R177, R180, R186). -/

namespace Sys2Proof.Machine

/-- The target of a branch, modulo 4,096. -/
theorem branch_target (pc : BitVec 12) (off : BitVec 16) :
    pc + 1 + off.setWidth 12 = BitVec.ofInt 12 ((pc.toNat : Int) + 1 + off.toInt) := by
  have hoff : BitVec.ofInt 12 off.toInt = off.setWidth 12 := BitVec.signExtend_eq_setWidth_of_le off (by decide)
  rw [BitVec.ofInt_add, BitVec.ofInt_add, hoff, BitVec.ofInt_natCast, BitVec.ofNat_toNat, BitVec.setWidth_eq]
  rfl

/-- A branch on a condition of Table 5-6 goes to its target if the condition holds, and on to the next instruction if not. -/
theorem engIssue_bcond {s : State} {t : Fin 64} {cond : Fin 16} {off : BitVec 16} {yes : Bool} (h : Issues s t (.bcond cond off))
    (hc : condHolds cond.val (s.thrAt t.val).flags = some yes) :
    engIssue s t (.bcond cond off) = (issuing s t).modThr t.val fun g => ({ g with
      pc := if yes then BitVec.ofInt 12 (((s.thrAt t.val).pc.toNat : Int) + 1 + off.toInt)
        else (s.thrAt t.val).pc + 1 } : Thr).stepOver s.tb := by
  have hf : ((issuing s t).thrAt t.val).flags = (s.thrAt t.val).flags := by rw [issuing_thr]; rfl
  refine engIssue_sets h rfl rfl _ (fun g => { g with pc := if yes then g.pc + 1 + off.setWidth 12 else g.pc + 1 }) ?_ ?_
  · simp only [engRun, hf, hc]
  · simp only [issuing_thr, branch_target]

/-- A branch on COND 15 is ILLEGAL (R177). -/
theorem engRun_bcond_illegal {s : State} {t : Fin 64} {cond : Fin 16} {off : BitVec 16} (hc : cond.val = 15) :
    engRun s t (.bcond cond off) = faultIllegal (.bcond cond off) := by
  simp only [engRun, hc, condHolds]

theorem engIssue_jal {s : State} {t : Fin 64} {rd : Reg5} {tgt : BitVec 12} (h : Issues s t (.jal rd tgt)) :
    engIssue s t (.jal rd tgt) = (issuing s t).modThr t.val fun g =>
      ({ g.setW rd.val (((s.thrAt t.val).pc + 1).setWidth 32) with pc := tgt } : Thr).stepOver s.tb :=
  engIssue_sets h rfl rfl _ _ rfl (by simp only [issuing_thr])

theorem engIssue_jalr {s : State} {t : Fin 64} {rd ra : Reg5} (h : Issues s t (.jalr rd ra)) :
    engIssue s t (.jalr rd ra) = (issuing s t).modThr t.val fun g =>
      ({ g.setW rd.val (((s.thrAt t.val).pc + 1).setWidth 32) with pc := BitVec.ofNat 12 (wreg s t ra).toNat } : Thr).stepOver s.tb :=
  engIssue_sets h rfl rfl _ _ rfl (by simp only [issuing_thr]; rfl)

end Sys2Proof.Machine

open Sys2Proof Sys2Proof.Machine

/-- Settles O17: a branch by `engIssue_bcond`, whose conditions are those of Table 5-6 one by one, or the fault of COND 15; jal and jalr
by their own lemmas. -/
theorem engineFlow : Obligations.EngineFlow := by
  unfold Obligations.EngineFlow
  intro s t rd ra cond off tgt h0 link went holds
  refine ⟨fun h hlt => ?branch, fun h h15 => ?illegal, fun h => next_congr (engIssue_jal h), fun h => next_congr (engIssue_jalr h)⟩
  case branch =>
    have heq : ∀ n v : Bool, (n == v) = !(n ^^ v) := by decide
    have hc : condHolds cond.val h0.flags = some holds := by
      dsimp only [holds]
      match cond, hlt with
      | 0, _ | 1, _ | 2, _ | 3, _ | 5, _ | 7, _ | 8, _ | 9, _ | 10, _ | 11, _ | 12, _ | 13, _ | 14, _ => rfl
      | 4, _ => exact congrArg some (heq h0.n h0.v)
      | 6, _ => exact congrArg (fun ge => some (!h0.z && ge)) (heq h0.n h0.v)
    exact next_congr (engIssue_bcond h hc)
  case illegal =>
    obtain ⟨hst, hcode, -, hpc, -⟩ := engIssue_illegal h rfl (engRun_bcond_illegal h15)
    exact ⟨_, rfl, hst, hcode, hpc⟩

end

section
/-! PROOFS. The special registers of a thread: mfs, mts and fixsel (R196, R199, Table 5-12). -/

namespace Sys2Proof.Machine

/-- The selectors of mfs above those of Table 5-12 name no register. -/
theorem mfsValue_of_unlisted (s : State) (t : Nat) {sel : Nat} (h : 8 ≤ sel) : mfsValue s t sel = none := by
  obtain ⟨k, rfl⟩ := Nat.exists_eq_add_of_le' h
  rfl

theorem engRun_mfs_illegal {s : State} {t : Fin 64} {rd : Reg5} {sel : Fin 16} (h : 8 ≤ sel.val) :
    engRun s t (.mfs rd sel) = faultIllegal (.mfs rd sel) := by
  simp only [engRun, mfsValue_of_unlisted s t.val h]

/-- The read-only registers and the unlisted selectors admit no mts. -/
theorem engRun_mts_illegal {s : State} {t : Fin 64} {ra : Reg5} {sel : Fin 16} (h0 : sel ≠ 0) (h5 : sel ≠ 5) :
    engRun s t (.mts sel ra) = faultIllegal (.mts sel ra) := by
  simp only [engRun]
  split
  · next h => exact absurd (Fin.ext h) h0
  · next h => exact absurd (Fin.ext h) h5
  · rfl

/-- An mfs of any register but TB_LO brings its value. -/
theorem engIssue_mfs {s : State} {t : Fin 64} {rd : Reg5} {sel : Fin 16} {v : Word} (h : Issues s t (.mfs rd sel)) (h2 : sel.val ≠ 2)
    (hv : mfsValue (issuing s t) t.val sel.val = some v) : engIssue s t (.mfs rd sel) = Took s t fun h => h.setW rd.val v :=
  engIssue_took h rfl _ rfl (by simp only [engRun, hv, if_neg h2])

/-- An mfs of TB_LO brings TB at the core edge and latches TB_HI (R199). -/
theorem engIssue_mfs_tb {s : State} {t : Fin 64} {rd : Reg5} (h : Issues s t (.mfs rd 2)) :
    engIssue s t (.mfs rd 2) = Took s t fun h => ({ h with tbHi := hi32 s.cc } : Thr).setW rd.val (lo32 s.cc) := by
  have hcc : (issuing s t).cc = s.cc := by simp only [State.cc, issuing_tb]
  exact engIssue_took h rfl _ rfl (by simp only [engRun, mfsValue, hcc]; rfl)

/-- An mts of FLAGS sets the flags from the low bits. -/
theorem engIssue_mts_flags {s : State} {t : Fin 64} {ra : Reg5} (h : Issues s t (.mts 0 ra)) :
    engIssue s t (.mts 0 ra) = Took s t fun h => { h with
      z := (wreg s t ra).getLsbD 0, n := (wreg s t ra).getLsbD 1, c := (wreg s t ra).getLsbD 2, v := (wreg s t ra).getLsbD 3 } :=
  engIssue_took h rfl _ rfl (by simp only [engRun, getW_issuing]; rfl)

/-- An mts of FIXSEL sets k from the two low bits and s from bit 4. -/
theorem engIssue_mts_fix {s : State} {t : Fin 64} {ra : Reg5} (h : Issues s t (.mts 5 ra)) :
    engIssue s t (.mts 5 ra) = Took s t fun h =>
      { h with fk := Fin.ofNat 4 (wreg s t ra).toNat, fs := (wreg s t ra).getLsbD 4 } := by
  have hk : Fin.ofNat 4 (fld (wreg s t ra) 1 0) = Fin.ofNat 4 (wreg s t ra).toNat := Fin.ext (Nat.mod_mod _ _)
  refine engIssue_took h rfl _ rfl ?_
  rw [← hk]
  simp only [engRun, getW_issuing]
  rfl

end Sys2Proof.Machine

open Sys2Proof Sys2Proof.Machine

/-- Settles O20: a selector that Table 5-12 lists is read by `engIssue_mfs` or `engIssue_mfs_tb`; the others, and a write of a read-only
register, fault by `engIssue_illegal`. -/
theorem engineSpecial : Obligations.EngineSpecial := by
  unfold Obligations.EngineSpecial
  intro s t rd ra k st sel h0 bit reads v edge illegal
  have faults {c : Instr} {i : EngIns} (hc : exec c s = .next (engIssue s t i)) (hu : usesTray i = false)
      (hr : engRun (issuing s t) t i = faultIllegal i) : illegal c i :=
    fun h => ⟨_, hc, engIssue_illegal h hu hr⟩
  refine ⟨fun hs => faults rfl rfl (engRun_mfs_illegal hs), fun hs0 hs5 => faults rfl rfl (engRun_mts_illegal hs0 hs5),
    fun h => next_congr (engIssue_mfs h (by decide) ?flags), fun h => next_congr (engIssue_mfs h (by decide) ?tid),
    fun h => next_congr (engIssue_mfs_tb h), fun h => next_congr (engIssue_mfs h (by decide) ?tbHi),
    fun h => next_congr (engIssue_mfs h (by decide) ?evp), fun h => next_congr (engIssue_mfs h (by decide) ?fix),
    fun h => next_congr (engIssue_mfs h (by decide) ?icnt), fun h => next_congr (engIssue_mfs h (by decide) ?queues),
    fun h => next_congr (engIssue_mts_flags h), fun h => next_congr (engIssue_mts_fix h),
    fun h => next_congr (engIssue_took h rfl _ rfl rfl)⟩
  case queues =>
    have hmq : mkw h0.mq.length 8 = BitVec.ofNat 32 (h0.mq.length * 2 ^ 8) := by rw [mkw, Nat.shiftLeft_eq]
    rw [← hmq]
    simp only [mfsValue, issuing_thr]
    rfl
  all_goals
    simp only [mfsValue, issuing_thr]
    rfl

end
